-- ==== Sys2Proof/Word.lean ====
section
/-! DEFINITION. The plain types of the model: bytes, words, sparse tables and heat numbers. -/

namespace Sys2Proof

/-- One byte (R9: every multi-byte field is little-endian). -/
abbrev Byte := BitVec 8

/-- A 64-bit register word. -/
abbrev Word := BitVec 64

/-- A 32-bit word: a scalar lane, an FP32 number, a mesh word. -/
abbrev Half := BitVec 32

/-- A sparse table: pairs of an index and what the table holds there, by rising index. -/
abbrev Tab (α : Type) := List (Nat × α)

end Sys2Proof
end

