-- ==== Sys2Proof/Syntax.lean ====
section
/-! DEFINITION. The commands of the model: the types a command carries, and the one inductive of the commands, a
constructor for every row of spec/opcode_table.json, in the table's order. -/

namespace Sys2Proof

namespace Machine

/-- A cell: the header fields of Table — Cell header and a payload of 32 bytes (R322). -/
structure Cell where
  typ : Nat
  cls : Nat
  dst : Nat
  src : Nat
  part : Nat
  tag : Nat
  seq : Nat
  payload : List Byte
  deriving DecidableEq, Repr

/-- A train: the header fields its cells share and their payloads, cell 0 first (R323). -/
structure Train where
  typ : Nat
  cls : Nat
  dst : Nat
  src : Nat
  part : Nat
  tag : Nat
  cells : List (List Byte)
  deriving DecidableEq, Repr

/-- The channels that carry ICS messages (R424). -/
inductive Chan where
  | primary (head : Nat)
  | secondary (head : Nat)
  | page (p : Nat)
  | sideband (requester : Nat)
  deriving DecidableEq, Repr

/-- An ICS request: the header fields of Table — ICS header and the payload of this message (R419). `reserved`
is the reserved header bytes 10–11 and 14–15 taken together. -/
structure IcsMsg where
  opcode : Nat
  flags : Nat
  status : Nat
  tag : Nat
  partition : Nat
  partNo : Nat
  reserved : Nat
  payload : List Byte
  deriving DecidableEq, Repr

/-- An entry of a member list (Table — Member entry); `unresponsive` is the home's mark of R304. -/
structure Member where
  ep : Nat
  caching : Bool
  unresponsive : Bool
  deriving DecidableEq, Repr

/-- The extent states of R87, coded as the STATE field. -/
inductive ExtState where | free | filling | active | releasing | scrubbing
  deriving DecidableEq, Repr

/-- An entry of the extent table (Table — Extent table entry) and its running fill, drain or scrub. -/
structure Extent where
  dpaBlk : Nat
  psaBlk : Nat
  part : Nat
  state : ExtState
  /-- TIER 0 stack, 1 bulk. -/
  tier : Nat
  /-- PLACE 0 PINNED, 1 CACHED, 2 BULK. -/
  place : Nat
  /-- MIRROR 0 NONE, 1 SYNC, 2 EPOCH. -/
  mirror : Nat
  /-- COH 1: SHARED_COHERENT. -/
  coh : Nat
  mapped : Bool
  ro : Bool
  capture : Bool
  dcValid : Bool
  dcRegion : Nat
  dcTag : Nat
  sealId : Nat
  /-- 64 KiB units of the running fill or scrub that have completed, by forge (R34, R90, R94). -/
  unitsDone : Tab Nat
  /-- Boundaries since the release point, while the drain runs (R92). -/
  drain : Option Nat
  /-- The fill or scrub has completed and takes effect at the next boundary (R90, R94). -/
  endNext : Bool
  /-- The extent is unmapped only (seal-unmap): its drain removes the mapping and no scrub follows (R104). -/
  unmapOnly : Bool
  /-- Cache-region frames, by 16 × set + way, that are scrubbed with its block (R94). -/
  frames : List Nat
  deriving DecidableEq, Repr

/-- A gate list entry (Table — Gate list entry). -/
structure GateEntry where
  mask : Nat
  duration : Nat
  deriving DecidableEq, Repr

/-- A gate control list with its lap and start heat (R363, R364). -/
structure GateList where
  lap : Nat
  start : Nat
  entries : List GateEntry
  deriving DecidableEq, Repr

/-- A contributor entry (Table — Contributor entry) and its disabled mark (R161). -/
structure Contributor where
  ep : Nat
  pushEn : Bool
  hint : Nat
  pushBase : Nat
  disabled : Bool
  deriving DecidableEq, Repr

/-- The roster (R233): LAP, start heat and the entries by 64 × position + anvil. -/
structure Roster where
  lap : Nat
  start : Nat
  entries : Tab Nat
  deriving DecidableEq, Repr

/-- A phase's preferred point (R482). -/
structure PhasePoint where
  step : Nat
  cls : Nat
  mask : Nat
  deriving DecidableEq, Repr

/-- An access of 4 bytes of a host to BAR2 of a head's function, by the number of its word (R450). -/
inductive Bar2 where
  | read (word : Nat)
  | write (word value : Nat)
  deriving DecidableEq, Repr

/-- The operations of LANE_CMD (R332). -/
inductive LaneOp where | width | rate | retrain
  deriving DecidableEq, Repr

/-- The coherent requests of R293. -/
inductive CohReq where | rdShared | rdOwn | upgrade | rdCur | wrBack | wrLine | wrPartial | wrPlace
  deriving DecidableEq, Repr

/-- The snoops of R293. -/
inductive Snoop where | share | fwd | inv | cur | place
  deriving DecidableEq, Repr

/-- The role heat-sync-set gives a chip (R40): no parent, the reference, or a child of a parent port. -/
inductive SyncRole where | free | reference | child (port : Nat)
  deriving DecidableEq, Repr

/-- The expected neighbour of a port (R345). -/
inductive Neighbour where | none | leaf | chip (x y : Nat)
  deriving DecidableEq, Repr

/-- Who accesses a register of the device: the BAR0 of a CXL head (R402, R403), or a fabric endpoint through the
register bridge with the PART of its cell (R417). -/
inductive Accessor where
  | head (h : Nat)
  | fabric (src part : Nat)
  deriving DecidableEq, Repr

/-- How a message reaches an ICS row: with its channel and its bytes, on the sideband with its requester and the enterprise number before
it (R425), or from the page of a partition, where the message is the one submitted there (R424). -/
inductive IcsArg where
  | direct (chan : Chan) (msg : IcsMsg)
  | sideband (requester vendor : Nat) (msg : IcsMsg)
  | page (p : Nat)
  deriving DecidableEq, Repr

/-- What both members of a pair must have in common (M7). -/
structure PairValues where
  stackSpares : Nat
  cacheRegion : Nat
  bulkSpare : Nat
  twinUndo : Nat
  confWays : Nat
  orderCode : Nat
  bulkBytes : Nat
  deriving DecidableEq, Repr

/-- A control-plane change that an accepted command has staged (R32, R423). It is data: what is set, to what. -/
inductive Change where
  | partitionCreate (p : Nat) (confidential : Bool) (psaBase span quota : Nat)
  | partitionDestroy (p : Nat)
  | spanSet (p psaBase span : Nat)
  | memberSet (p : Nat) (members : List Member)
  | coherenceSet (p grip timeout : Nat)
  | contextRange (p first count : Nat)
  | starterBind (t binding : Nat)
  | extentAdd (n : Nat) (e : Extent)
  | extentRelease (n : Nat)
  | regionSet (r base len : Nat)
  | cxlOffer (heads : Nat) (extents : List Nat)
  | cxlWithdraw (heads : Nat) (extents : List Nat)
  | dcTagSet (i : Nat) (tag : List Byte)
  | sealQuota (p blocks : Nat)
  | sealCreate (sid p : Nat) (extents psaBlks : List Nat)
  | sealMap (n blk : Nat)
  | sealUnmap (n : Nat)
  | sealRelease (sid : Nat)
  | hintSet (p base len hint : Nat)
  | budgetSet (n : Nat)
  | coordinate (x y : Nat)
  | neighbour (port : Nat) (nb : Neighbour)
  | routeSet (first : Nat) (entries : List Nat)
  | portSet (port : Nat) (enable hold : Bool) (rate enc : Nat)
  | portRetrain (port : Nat)
  | transitMask (port mask : Nat)
  | heatSync (role : SyncRole)
  | queueSet (port guard qcap overhead : Nat)
  | groupSet (p group : Nat)
  | gateSet (port : Nat) (list : Option GateList)
  | weightSet (ports cls p weight : Nat)
  | shaperSet (ports p : Nat) (full : Bool) (rate burst : Nat)
  | splitSet (port mode interval : Nat) (watched : List Nat)
  | ageLimits (l1 l2 l3 l4 : Nat)
  | meltOpen (m p : Nat) (desc : List Byte)
  | meltContributors (m : Nat) (table : List Contributor)
  | meltArm (m : Nat) (minFmt : Nat)
  | meltClose (m : Nat)
  | meltAbort (m : Nat)
  | ringSet (p ring base entries : Nat)
  | rosterSet (r : Roster)
  | storeSet (p n : Nat)
  | storeRelease (p n blk : Nat)
  | programStart (p prog mask : Nat) (args : List Nat)
  | programStop (p prog mask : Nat)
  | ctxSet (c p asid sub cpl entries forge : Nat)
  | ctxReset (c : Nat)
  | ctxResume (c : Nat) (skip : Bool)
  | spaceSet (asid p root : Nat)
  | spaceFree (asid : Nat)
  | invalidate (asid base len : Nat) (fence : Bool)
  | placeSet (c : Nat) (member : Option Nat)
  | faultQueue (p base entries : Nat)
  | powerLimit (w : Nat)
  | phaseDeclare (p phase : Nat)
  | phaseSet (phase : Nat) (point : PhasePoint)
  | dramPower (pd sr : Nat)
  | debugUnlock
  | debugLock
  | scrubFloor (n : Nat)
  | unitReturn (n : Nat)
  | hearthReturn (core : Nat)
  | twinSet (role : Nat) (partner : List Byte)
  | twinEpoch (p : Nat)
  /-- What the first table copy of SYNCING carries of the primary: fields of its configuration record and its bulk capacity (M7). -/
  | pairValues (v : PairValues)
  deriving DecidableEq, Repr

/-- The fields of an anvil instruction in format A (R219): D, A, B, C, MSK, MS and the modifier. -/
structure OpA where
  anvil : Nat
  d : Nat
  a : Nat
  b : Nat
  c : Nat
  msk : Nat
  ms : Bool
  modifier : Nat
  deriving DecidableEq, Repr

/-- The fields of an anvil instruction in format I (R219). -/
structure OpI where
  anvil : Nat
  d : Nat
  a : Nat
  imm : BitVec 32
  deriving DecidableEq, Repr

/-- The fields of an anvil instruction in format M (R219). -/
structure OpM where
  anvil : Nat
  d : Nat
  a : Nat
  b : Nat
  c : Nat
  imm : BitVec 32
  deriving DecidableEq, Repr

/-- The fields of an anvil instruction in format B (R219). -/
structure OpB where
  anvil : Nat
  a : Nat
  b : Nat
  imm : BitVec 32
  deriving DecidableEq, Repr

/-- What Bellows and the DRAM controllers sample for a boundary (R31, R488, R490): temperatures in °C, the
estimates of the heat just ended in W, and the levels of the input pins. -/
structure Sample where
  dieTemp : Nat
  /-- Hottest die of stacks 0–7, and hottest DIMM of channels 0–15. -/
  stackTemps : List Nat
  dimmTemps : List Nat
  estimate : Nat
  railEstimate : Nat
  pwrBrakeN : Bool
  batonIn : Bool
  /-- Service units whose refresh still runs at the boundary (R35, R39). -/
  refreshing : List Nat := []
  deriving DecidableEq, Repr

/-- One location of a memory pass that reads with errors: DPA div 64 and the symbols of its codeword that are in error
(R112, R113). -/
abbrev Finding := Nat × List Nat

/-- An epoch copy unit that completes at a forge, with what its reads found wrong (R115, R507). -/
structure TwinCopy where
  forge : Nat
  found : List Finding := []
  deriving DecidableEq, Repr

/-- What training found in one stack (R531, R125): populated, trained, physical channels that failed. -/
structure StackFound where
  populated : Bool
  trained : Bool
  failed : Nat
  deriving DecidableEq, Repr

/-- What training found in one DDR5 channel (R49, R121): population mode, DIMMs, GiB of each rank, failed ranks. -/
structure BulkFound where
  mode : Nat
  dimms : Nat
  rankGiB : List Nat
  failed : Nat
  deriving DecidableEq, Repr

/-- The body of a link key exchange message (R466): nonce, encapsulation key or ciphertext, public key, signature. -/
structure KeyMsg where
  nonce : List Byte
  kem : List Byte
  pk : List Byte
  sig : List Byte
  deriving DecidableEq, Repr

/-- What FEC says of an arriving link unit (R322): no uncorrectable codeword overlaps it, or one does, `fresh` of them being
codewords that no earlier unit overlapped. -/
inductive UnitFec where | clean | uncorrectable (fresh : Nat)
  deriving DecidableEq, Repr

/-- The access a host makes through CXL.mem (R309). -/
inductive HostRead where | shared | own | current
  deriving DecidableEq, Repr

end Machine

open Machine

/-- The commands and events of the block: one constructor per row of spec/opcode_table.json. -/
inductive Instr where
  | heatBoundary (x : Sample)
  | heatStart
  | heatSyncIn (phase : Nat)
  | syncReq (port t1 hop t2 t3 : Nat)
  | syncRsp (port t1 t2 t3 hop t4 : Nat)
  | syncRspLoss
  | decayBoundary
  | doubledRefreshExit (bulk : Bool) (index : Nat)
  | postponedRefreshIssue (unit : Nat)
  | memRd (port : Nat) (t : Train)
  | memWr (port : Nat) (t : Train)
  | forgeCacheFill (forge sector : Nat)
  | dramReadComplete (queue pos : Nat) (rowHit : Bool) (errs : List Nat)
  | caParityError (unit : Nat)
  | ageLimitExpiry (queue : Nat) (write : Bool) (pos : Nat)
  | powerDownEntry (unit : Nat)
  | selfRefreshEntry (unit : Nat)
  | patrolScrubUnitComplete (forge : Nat) (found : List Finding)
  | scrubWindowEnd (walker : Nat)
  | spareMigrationUnitComplete (forge : Nat) (found : List Finding)
  | warmUpTestUnitComplete (forge : Nat) (pass : Bool)
  | placementMigrationUnitComplete (forge : Nat) (found : List Finding)
  | extentFillUnitComplete (forge ext : Nat)
  | quenchScrubUnitComplete (forge ext : Nat)
  | twinEpochCopyUnitComplete (copy : TwinCopy)
  | releaseDrainEnd (ext : Nat)
  | tombstoneExpiry (p : Nat)
  | fenceAck (port : Nat) (cell : Cell)
  | fenceWaitExpiry (p : Nat)
  | quenchZeroingComplete (p : Nat)
  | captureSegmentCopyComplete (sid leaf : Nat) (found : List Finding)
  | pour (port : Nat) (cell : Cell)
  | pourCell (port : Nat) (cell : Cell)
  | stagingTruncation (port : Nat)
  | windowOpen
  | windowSpill
  | spillWriteComplete (melt window : Nat)
  | windowDeadline (melt window : Nat)
  | windowHandOff (melt : Nat)
  | imageReadReport (anvil : Nat) (found : List Finding)
  | windowWritten (anvil : Nat) (found : List Finding)
  | stepEnd (melt : Nat)
  | tileTransferComplete (anvil index : Nat) (found : List Finding)
  | mwaitRelease (anvil : Nat)
  | waithRelease (anvil : Nat)
  | waitwRelease (anvil : Nat)
  | barRelease (p barrier : Nat)
  | waiteRelease (anvil : Nat)
  | contextSaveComplete (anvil : Nat)
  | anvilZeroingComplete (anvil : Nat)
  | contextRestoreComplete (anvil : Nat)
  | fault (o : OpI)
  | yield (o : OpI)
  | phase (o : OpI)
  | srd (o : OpI)
  | swr (o : OpI)
  | live (o : OpI)
  | halt (o : OpI)
  | add (o : OpA)
  | sub (o : OpA)
  | mul (o : OpA)
  | and (o : OpA)
  | or (o : OpA)
  | xor (o : OpA)
  | shl (o : OpA)
  | shr (o : OpA)
  | sar (o : OpA)
  | slt (o : OpA)
  | sltu (o : OpA)
  | min (o : OpA)
  | max (o : OpA)
  | addImmediate (o : OpI)
  | subImmediate (o : OpI)
  | mulImmediate (o : OpI)
  | andImmediate (o : OpI)
  | orImmediate (o : OpI)
  | xorImmediate (o : OpI)
  | shlImmediate (o : OpI)
  | shrImmediate (o : OpI)
  | sarImmediate (o : OpI)
  | sltImmediate (o : OpI)
  | sltuImmediate (o : OpI)
  | minImmediate (o : OpI)
  | maxImmediate (o : OpI)
  | lui (o : OpI)
  | beq (o : OpB)
  | bne (o : OpB)
  | blt (o : OpB)
  | bge (o : OpB)
  | bltu (o : OpB)
  | bgeu (o : OpB)
  | jal (o : OpB)
  | jr (o : OpB)
  | tld (o : OpM)
  | tst (o : OpM)
  | tld2 (o : OpM)
  | tst2 (o : OpM)
  | lds (o : OpM)
  | sts (o : OpM)
  | mwait (o : OpM)
  | vld (o : OpM)
  | vst (o : OpM)
  | vbc (o : OpM)
  | vadd (o : OpA)
  | vsub (o : OpA)
  | vmul (o : OpA)
  | vfma (o : OpA)
  | vmin (o : OpA)
  | vmax (o : OpA)
  | vabs (o : OpA)
  | vneg (o : OpA)
  | vsign (o : OpA)
  | vsqrt (o : OpA)
  | vrcp (o : OpA)
  | vrsqrt (o : OpA)
  | vexp2 (o : OpA)
  | vredsum (o : OpA)
  | vredmax (o : OpA)
  | vcmplt (o : OpA)
  | vsel (o : OpA)
  | vsplat (o : OpA)
  | vlane (o : OpA)
  | vacr (o : OpA)
  | vacw (o : OpA)
  | vaddInt (o : OpA)
  | vsubInt (o : OpA)
  | vmulInt (o : OpA)
  | vfmaInt (o : OpA)
  | vminInt (o : OpA)
  | vmaxInt (o : OpA)
  | vabsInt (o : OpA)
  | vnegInt (o : OpA)
  | vsignInt (o : OpA)
  | vsqrtInt (o : OpA)
  | vrcpInt (o : OpA)
  | vrsqrtInt (o : OpA)
  | vexp2Int (o : OpA)
  | vredsumInt (o : OpA)
  | vredmaxInt (o : OpA)
  | vcmpltInt (o : OpA)
  | vcvtTo (o : OpA)
  | vcvtFrom (o : OpA)
  | pack (o : OpA)
  | unpack (o : OpA)
  | sgnv (o : OpA)
  | mma (o : OpA)
  | azero (o : OpA)
  | fwhs (o : OpA)
  | fwhf (o : OpA)
  | fwhd (o : OpA)
  | treq (o : OpA)
  | waith (o : OpI)
  | waitw (o : OpI)
  | bar (o : OpI)
  | sete (o : OpI)
  | waite (o : OpI)
  | sig (o : OpI)
  | doorbell (acc : Accessor) (ctx size value : Nat)
  | copy (ctx : Nat)
  | tile (ctx : Nat)
  | gather (ctx : Nat)
  | scatter (ctx : Nat)
  | fill (ctx : Nat)
  | cast (ctx : Nat)
  | seal (ctx : Nat)
  | push (ctx : Nat)
  | loop (ctx : Nat)
  | wait (ctx : Nat)
  | signal (ctx : Nat)
  | waitMet (ctx : Nat)
  | translationWalkComplete (ctx : Nat) (tva : Nat)
  | strokeCommit (ctx idx stroke : Nat) (found : List Finding)
  | wrCmp (port : Nat) (t : Train)
  | pushTimeout (ctx idx : Nat)
  | invalidationFenceComplete (asid : Nat)
  | contextResetComplete (ctx : Nat)
  | rdShared (port : Nat) (t : Train)
  | rdOwn (port : Nat) (t : Train)
  | upgrade (port : Nat) (t : Train)
  | rdCur (port : Nat) (t : Train)
  | wrBack (port : Nat) (t : Train)
  | wrLine (port : Nat) (t : Train)
  | wrPartial (port : Nat) (t : Train)
  | wrPlace (port : Nat) (t : Train)
  | ack (port : Nat) (t : Train)
  | placeTake (port : Nat) (t : Train)
  | placeDecline (port : Nat) (t : Train)
  | snoopTimeout (tracker member : Nat)
  | gripTimeExpiry (line member : Nat)
  | homeRequestDequeue (forge : Nat)
  | unresponsiveSweepComplete (p : Nat)
  | signalDetect (port : Nat)
  | trainingComplete (port txLanes rxLanes rate : Nat)
  | trainingTimeout (port : Nat)
  | ident (port : Nat) (payload : List Byte)
  | identResend (port : Nat)
  | linkUnitReceive (port : Nat) (raw : List Byte) (fec : UnitFec)
  | linkCtl (port : Nat) (payload : List Byte)
  | linkCtlTimer (port : Nat)
  | replayTimerExpiry (port lseq : Nat)
  | laneCmd (port : Nat) (payload : List Byte)
  | laneAck (port : Nat) (payload : List Byte)
  | laneGo (port : Nat) (payload : List Byte)
  | laneSwitch (port : Nat) (receive : Bool)
  | rateChangeRelock (port : Nat)
  | laneCmdTimeout (port : Nat)
  | laneGoTimeout (port : Nat)
  | retrainComplete (port txLanes rxLanes rate : Nat)
  | retrainTimeout (port : Nat)
  | partnerIdle (port : Nat)
  | laneLockLoss (port lane : Nat)
  | frameLockLoss (port : Nat)
  | laneErrorWindowEnd (port : Nat) (corrected symbols : List Nat)
  | laneWarmUpEnd (port lane : Nat) (pass : Bool)
  | laneWarmUpRetry (port lane : Nat)
  | tagUnit (port : Nat)
  | groupCloseTimer (port : Nat)
  | rekeyTrigger (port : Nat)
  | linkKeyExchange1 (port : Nat) (m : KeyMsg)
  | linkKeyExchange2 (port : Nat) (m : KeyMsg)
  | linkKeyExchange3 (port : Nat) (m : KeyMsg)
  | rekeyExchange1 (port : Nat) (m : KeyMsg)
  | rekeyExchange2 (port : Nat) (m : KeyMsg)
  | keyingTimeout (port : Nat)
  | transitCell (port vc nowNs : Nat)
  | trainTruncation (port vc : Nat)
  | egressTrainStart (port granule unitTimes : Nat)
  | regRd (port : Nat) (t : Train)
  | regWr (port : Nat) (t : Train)
  | cxlMemRead (head hpa : Nat) (kind : HostRead) (tag : Nat)
  | cxlMemWrite (head hpa : Nat) (back : Bool) (mask : Nat) (data : List Byte)
  | birsp (head line state : Nat)
  | hdmDecoderCommit (head index base size ways granularity position dpaBase : Nat)
  | functionLevelReset (head : Nat)
  | perstAssert (head : Nat)
  | perstRelease (head : Nat)
  | cxlLinkDown (head : Nat)
  | identify (head : Nat) (primary : Bool) (input : List Byte)
  | backgroundOperationStatus (head : Nat) (primary : Bool) (input : List Byte)
  | getSupportedLogs (head : Nat) (primary : Bool) (input : List Byte)
  | getLog (head : Nat) (primary : Bool) (input : List Byte)
  | getTimestamp (head : Nat) (primary : Bool) (input : List Byte)
  | setTimestamp (head : Nat) (primary : Bool) (input : List Byte)
  | getEventRecords (head : Nat) (primary : Bool) (input : List Byte)
  | clearEventRecords (head : Nat) (primary : Bool) (input : List Byte)
  | getEventInterruptPolicy (head : Nat) (primary : Bool) (input : List Byte)
  | setEventInterruptPolicy (head : Nat) (primary : Bool) (input : List Byte)
  | identifyMemoryDevice (head : Nat) (primary : Bool) (input : List Byte)
  | getPartitionInfo (head : Nat) (primary : Bool) (input : List Byte)
  | getPoisonList (head : Nat) (primary : Bool) (input : List Byte)
  | injectPoison (head : Nat) (primary : Bool) (input : List Byte)
  | clearPoison (head : Nat) (primary : Bool) (input : List Byte)
  | getDynamicCapacityConfiguration (head : Nat) (primary : Bool) (input : List Byte)
  | getDynamicCapacityExtentList (head : Nat) (primary : Bool) (input : List Byte)
  | addDynamicCapacityResponse (head : Nat) (primary : Bool) (input : List Byte)
  | releaseDynamicCapacity (head : Nat) (primary : Bool) (input : List Byte)
  | unsupportedCxlCommand (head : Nat) (primary : Bool) (opcode : Nat)
  | hearthFailureDetected
  | hearthSwitchComplete
  | hearthLost
  | hearthWarmUpEnd (core : Nat) (pass : Bool)
  | hearthSyncComplete (core : Nat)
  | mbxSubmit (acc : Accessor) (p : Nat)
  | mbxSubmitIndirect (acc : Accessor) (p : Nat)
  | mailboxTimeout (p : Nat)
  | selUnit (head size value : Nat)
  | rcRegisterRead (acc : Accessor) (offset size : Nat)
  | registerWrite (acc : Accessor) (offset size value : Nat)
  | icsRequestPart (arg : IcsArg)
  | icsContinue (arg : IcsArg)
  | icsHeldPartsExpiry (chan : Chan)
  | fmChallengeExpiry (chan : Chan)
  | i3cBusReset
  | deviceInformation (arg : IcsArg)
  | configRecordRead (arg : IcsArg)
  | certificateChainRead (arg : IcsArg)
  | partitionCreate (arg : IcsArg)
  | partitionDestroy (arg : IcsArg)
  | partitionInformation (arg : IcsArg)
  | partitionSpanSet (arg : IcsArg)
  | memberSet (arg : IcsArg)
  | coherenceSet (arg : IcsArg)
  | contextRangeSet (arg : IcsArg)
  | starterBind (arg : IcsArg)
  | extentAdd (arg : IcsArg)
  | extentRelease (arg : IcsArg)
  | extentInformation (arg : IcsArg)
  | cxlRegionSet (arg : IcsArg)
  | cxlOffer (arg : IcsArg)
  | cxlWithdraw (arg : IcsArg)
  | dcTagSet (arg : IcsArg)
  | sealQuotaSet (arg : IcsArg)
  | sealCreate (arg : IcsArg)
  | sealInformation (arg : IcsArg)
  | sealMap (arg : IcsArg)
  | sealUnmap (arg : IcsArg)
  | sealRelease (arg : IcsArg)
  | hintSet (arg : IcsArg)
  | hintList (arg : IcsArg)
  | migrationBudgetSet (arg : IcsArg)
  | coordinateSet (arg : IcsArg)
  | portNeighbourSet (arg : IcsArg)
  | routeSet (arg : IcsArg)
  | routeRead (arg : IcsArg)
  | portSet (arg : IcsArg)
  | portRetrain (arg : IcsArg)
  | transitMaskSet (arg : IcsArg)
  | heatSyncSet (arg : IcsArg)
  | queueSet (arg : IcsArg)
  | groupSet (arg : IcsArg)
  | gateSet (arg : IcsArg)
  | weightSet (arg : IcsArg)
  | shaperSet (arg : IcsArg)
  | splitSet (arg : IcsArg)
  | splitRead (arg : IcsArg)
  | ageLimitSet (arg : IcsArg)
  | meltOpen (arg : IcsArg)
  | meltContributors (arg : IcsArg)
  | meltArm (arg : IcsArg)
  | meltClose (arg : IcsArg)
  | meltAbortStep (arg : IcsArg)
  | meltInformation (arg : IcsArg)
  | statusRingSet (arg : IcsArg)
  | rosterSet (arg : IcsArg)
  | rosterRead (arg : IcsArg)
  | anvilStoreSet (arg : IcsArg)
  | anvilStoreRelease (arg : IcsArg)
  | programLoad (arg : IcsArg)
  | programStart (arg : IcsArg)
  | programStop (arg : IcsArg)
  | tongsContextSet (arg : IcsArg)
  | tongsContextReset (arg : IcsArg)
  | tongsContextStatus (arg : IcsArg)
  | tongsResume (arg : IcsArg)
  | tongsSpaceSet (arg : IcsArg)
  | tongsSpaceFree (arg : IcsArg)
  | tongsInvalidate (arg : IcsArg)
  | tongsPlaceSet (arg : IcsArg)
  | faultQueueSet (arg : IcsArg)
  | powerLimitSet (arg : IcsArg)
  | phaseDeclare (arg : IcsArg)
  | phaseSet (arg : IcsArg)
  | dramPowerSet (arg : IcsArg)
  | powerStatus (arg : IcsArg)
  | attestationReport (arg : IcsArg)
  | attestationRead (arg : IcsArg)
  | fmChallenge (arg : IcsArg)
  | fmBind (arg : IcsArg)
  | fmUnbind (arg : IcsArg)
  | debugUnlock (arg : IcsArg)
  | debugLock (arg : IcsArg)
  | memoryHealth (arg : IcsArg)
  | scrubFloorSet (arg : IcsArg)
  | unitReturn (arg : IcsArg)
  | hearthReturn (arg : IcsArg)
  | hearthSwitch (arg : IcsArg)
  | twinSet (arg : IcsArg)
  | twinEpoch (arg : IcsArg)
  | twinStatus (arg : IcsArg)
  | unitRead (arg : IcsArg)
  | coherenceStatistics (arg : IcsArg)
  | queueStatistics (arg : IcsArg)
  | firmwareInfo (arg : IcsArg)
  | firmwareWrite (arg : IcsArg)
  | firmwareActivate (arg : IcsArg)
  | sourceFire (source : Nat) (raiser : Nat)
  | claim (acc : Accessor) (target : Nat)
  | complete (acc : Accessor) (target value : Nat)
  | srcCfg (acc : Accessor) (target value : Nat)
  | sourceRelease (acc : Accessor) (target : Nat)
  | tgtCtrl (acc : Accessor) (target value : Nat)
  | delivery (target : Nat)
  | redeliver (target : Nat)
  | msiXUnmask (head : Nat) (access : Bar2)
  | droopDetect
  | droopStretchEnd (ns : Nat)
  | avsReading (coreMv coreAmps stkWatts estimate : Nat)
  | avsReadingMissing
  | sustainedBlockEnd
  | voltageAdjust (up down : Nat)
  | regulatorVoltageReport (mv : Nat)
  | throttleHoldExpiry
  | loadStepSlot
  | pwrBrakeNLow
  | coolantOkLow
  | coolantStopCclkStep
  | coolantStopLinkIdle
  | coolantStopSelfRefresh
  | thermtrip
  | drbgReseed
  | drbgHealthFailure
  | scrubKeyReplace
  | pwrokRise (sysRstN coolantOk : Bool)
  | pwrokFall
  | sysRstNLow
  | warmResetFlushComplete
  | sysRstNRise (coolantOk : Bool)
  | romStart (sram : List Byte)
  | floorRecord (vendor kind firmware config : Nat)
  | floorWaitExpiry
  | romChecksComplete
  | sramSelfTestComplete (core0 core1 : Bool)
  | memoryTrainingComplete (hbm : List StackFound) (ddr : List BulkFound)
  | memoryInitialisationComplete (anvils crucibles engines : Nat)
  | bootResume
  | heartbeat (port : Nat) (cell : Cell)
  | lostHeats
  | takeoverEnd
  | undoRestoreUnitComplete (forge : Nat)
  | twinMemWr (port : Nat) (t : Train)
  | epochBegin (port : Nat) (cell : Cell)
  | epochDone (port : Nat) (cell : Cell)
  | resyncComplete
  | unitBoundary (port nowNs : Nat)
  | outputVcRelease (port vc : Nat)
  | tableStream (c : Change)
  | standbyFailureDetected
  | cxlLinkTrainingComplete (head width rate : Nat)
  | reservedInstruction (anvil : Nat) (word : Nat)
  | reservedIcsOpcode (arg : IcsArg)
  | reservedDescriptorType (ctx : Nat)
  | flashProgrammed
  | activationVerified
  | reportSigned (chan : Chan)
  | measurementAppended (p slot : Nat)
  | failedUnitRetrainComplete (unit : Nat) (pass : Bool)
  | batonOutRelease
  deriving DecidableEq, Repr

end Sys2Proof
end

