-- ==== Sys2Proof/Config.lean ====
section
/-! DEFINITION. What the spec leaves to an implementation or leaves open, as constants without a body: nothing can
evaluate them, so a claim about them holds for every value. -/

namespace Sys2Proof.Config

/-- The fraction bits of a NaN that the device makes in FP32 where the spec states none, by draw (log entry 10). -/
opaque nanFraction : Nat → Nat

/-- The sign of the NaN that an element of a non-finite block decodes to, by the block's header or, in MX, the element's code (R136,
R144, log entry 10). -/
opaque blockSign : Nat → Bool

/-- How far, in units of the last place, an approximate anvil function (VRCP, VRSQRT, VEXP2) lies from the exact
result rounded down, by function, operand and draw: the spec gives a bound and no value (R225, log entry 11). -/
opaque approx : Nat → Nat → Nat

/-- A value the spec leaves open, by draw: the draw's number is `State.free` (log entry 2). -/
opaque freeValue : Nat → Nat

/-- A byte the spec leaves open, by draw and position (log entry 2). -/
opaque freeByte : Nat → Nat → Byte

/-- The DRBG's output, by draw and length (R463): 32-byte keys, nonces and secrets. -/
opaque drbg : Nat → Nat → List Byte

/-- AES-256-XTS: the ciphertext and the plaintext of a 64-byte unit, by key pair, tweak and unit (R465, log entry 6). -/
opaque xtsEncrypt : List Byte → List Byte → List Byte → List Byte
opaque xtsDecrypt : List Byte → List Byte → List Byte → List Byte

/-- AES-256-GCM: byte `i` of the key stream of a key and an IV (R339, log entry 12). -/
opaque gcmStream : List Byte → List Byte → Nat → Byte

/-- AES-256-GCM: the tag of key, IV, additional data and ciphertext (R339, log entry 12). -/
opaque gcmTag : List Byte → List Byte → List Byte → List Byte → List Byte

/-- SLH-DSA: the public key of a seed, a signature of a message under a seed, and its check (R454, R458, log entry 12). -/
opaque slhPublic : List Byte → List Byte
opaque slhSign : List Byte → List Byte → List Byte
opaque slhVerify : List Byte → List Byte → List Byte → Bool

/-- The 256-bit secret that the ROM reconstructs from the start-up state of the PUF's SRAM and the helper data (R458, log entry 12). -/
opaque pufSecret : List Byte → List Byte → List Byte

/-- The messages of the HMAC-SHA-256 that derives the identity seed from the secret, by block (R458, log entry 12). -/
opaque seedMessage : Nat → List Byte

/-- ML-KEM-768: the encapsulation key of a seed, a ciphertext with its secret, and the secret that a seed
recovers (R466, log entry 12). -/
opaque kemPublic : List Byte → List Byte
opaque kemEncaps : List Byte → List Byte → List Byte × List Byte
opaque kemDecaps : List Byte → List Byte → List Byte

/-- The SHA-256 of the Emsenyx firmware public key and the version that the boot ROM holds (R454, R457). -/
opaque romKeyHash : List Byte
opaque romVersion : Nat

/-- The version of a firmware image, and whether the key it carries hashes to the ROM value and its signature verifies
(R454): the spec gives an image no layout (log entry 12). -/
opaque imageVersion : List (Nat × Byte) → Nat
opaque imageChecks : List (Nat × Byte) → Bool

/-- The public key in the device certificate of the identity certificate chain (R459, log entry 12). -/
opaque certificateKey : List (Nat × Byte) → List Byte

/-- The DDR5 subchannel and the rank of a bulk address (log entry 13): the spec gives no bit assignment. -/
opaque bulkSubchannel : Nat → Nat
opaque bulkRank : Nat → Nat

/-- An HBM4 codeword with errors in three or more symbols decodes as uncorrectable (R112: the spec states one and two symbols;
log entry 71). -/
opaque eccDetects : List Nat → Bool

/-- The silicon stepping that DEV_REV[7:0] shows: an implementation fixes it (R404). -/
opaque stepping : Nat

end Sys2Proof.Config
end

