-- ==== Sys2Proof/Machine/Bits.lean ====
section
/-! DEFINITION. Bit fields, byte order and sparse tables: the helpers every meaning uses. -/

namespace Sys2Proof.Machine

/-! ### Bit fields of natural numbers -/

/-- Bits [lo + len - 1 : lo] of `v`. -/
def bits (v lo len : Nat) : Nat := (v / 2 ^ lo) % 2 ^ len

/-- Bit `i` of `v`. -/
def bit (v i : Nat) : Bool := (v / 2 ^ i) % 2 == 1

/-- 1 for true, 0 for false. -/
def ofBool (b : Bool) : Nat := if b then 1 else 0

/-- `v` with bit `i` set to `b`. -/
def setBit (v i : Nat) (b : Bool) : Nat :=
  if bit v i then (if b then v else v - 2 ^ i) else (if b then v + 2 ^ i else v)

/-- How many of the low `n` bits of `v` are set. -/
def popCount : Nat → Nat → Nat
  | 0, _ => 0
  | n + 1, v => v % 2 + popCount n (v / 2)

/-- The numbers of the set bits among the low `n` bits of `v`, rising. -/
def bitList (n v : Nat) : List Nat := (List.range n).filter (bit v)

/-- The mask that has exactly the bits of a list of bit numbers set. -/
def maskOf (l : List Nat) : Nat := l.foldl (fun m i => setBit m i true) 0

/-- Inserts an element before the first one that it does not come after. -/
def placeBy {α : Type} (before : α → α → Bool) (x : α) : List α → List α
  | [] => [x]
  | y :: r => if before x y then x :: y :: r else y :: placeBy before x r

/-- A list in order; equal elements keep theirs. -/
def sortBy {α : Type} (before : α → α → Bool) (l : List α) : List α := l.foldr (placeBy before) []

/-- Rounds up the quotient of `a` by `b`. -/
def ceilDiv (a b : Nat) : Nat := (a + b - 1) / b

/-- A counter of `w` bits that saturates at its maximum (R404, R343, R76). -/
def satAdd (w a b : Nat) : Nat := min (2 ^ w - 1) (a + b)

/-- The value of `x` as a two's complement number of `w` bits. -/
def toSigned (w x : Nat) : Int := if x % 2 ^ w < 2 ^ (w - 1) then (x % 2 ^ w : Nat) else (x % 2 ^ w : Nat) - (2 ^ w : Nat)

/-- The `w`-bit two's complement pattern of `x`. -/
def ofSigned (w : Nat) (x : Int) : Nat := (x % (2 ^ w : Nat)).toNat

/-! ### Little-endian fields of byte lists (R9) -/

/-- Byte `i` of a byte list; 0 past its end. -/
def byteAt (l : List Byte) (i : Nat) : Byte := (l[i]?).getD 0

/-- The little-endian number that a list of bytes spells. -/
def leVal : List Byte → Nat
  | [] => 0
  | b :: r => b.toNat + 256 * leVal r

/-- The little-endian field of `n` bytes at offset `off`. -/
def le (l : List Byte) (off n : Nat) : Nat := leVal ((l.drop off).take n)

/-- The `n` bytes of a number, little-endian. -/
def leBytes : Nat → Nat → List Byte
  | 0, _ => []
  | n + 1, v => BitVec.ofNat 8 v :: leBytes n (v / 256)

/-- A list of `n` zero bytes. -/
def zeros (n : Nat) : List Byte := List.replicate n 0

/-- A byte list cut or zero-filled to exactly `n` bytes. -/
def fit (n : Nat) (l : List Byte) : List Byte := (l ++ zeros n).take n

/-- A byte list with the bytes from `off` on replaced by `d`. -/
def putAt (l : List Byte) (off : Nat) (d : List Byte) : List Byte :=
  l.take off ++ d ++ l.drop (off + d.length)

/-- Every byte of the field of `n` bytes at `off` is zero (R10). -/
def zeroField (l : List Byte) (off n : Nat) : Bool := le l off n == 0

/-- A byte list cut into consecutive pieces of `n` bytes; `k` bounds the number of pieces. -/
def chunksN (n : Nat) : Nat → List Byte → List (List Byte)
  | 0, _ => []
  | _, [] => []
  | k + 1, l => l.take n :: chunksN n k (l.drop n)

/-- A byte list cut into 32-byte cell payloads, the last filled with zeros. -/
def cells32 (l : List Byte) : List (List Byte) := (chunksN 32 (l.length / 32 + 1) l).map (fit 32)

/-- A byte list read as `k` little-endian fields of `n` bytes. -/
def leList (n k : Nat) (l : List Byte) : List Nat := (List.range k).map (fun i => le l (n * i) n)

/-! ### Sparse tables -/

/-- The entry of a table at an index, if it has one. -/
def tfind {α : Type} : Tab α → Nat → Option α
  | [], _ => none
  | (i, v) :: r, k => if i = k then some v else tfind r k

/-- Puts an entry into a table, in index order, in place of an earlier one. -/
def tins {α : Type} : Tab α → Nat → α → Tab α
  | [], k, v => [(k, v)]
  | (i, w) :: r, k, v =>
    if k < i then (k, v) :: (i, w) :: r
    else if k = i then (k, v) :: r
    else (i, w) :: tins r k v

/-- Takes the entry at an index out of a table. -/
def tdel {α : Type} (t : Tab α) (k : Nat) : Tab α := t.filter (fun p => p.1 != k)

/-- The entry at an index, `d` where the table has none. -/
def tget {α : Type} (d : α) (t : Tab α) (k : Nat) : α := (tfind t k).getD d

/-- Sets the entry at an index; the default is held by holding nothing. -/
def tset {α : Type} [DecidableEq α] (d : α) (t : Tab α) (k : Nat) (v : α) : Tab α :=
  if v = d then tdel t k else tins t k v

/-- Changes the entry at an index. -/
def tmod {α : Type} (d : α) (t : Tab α) (k : Nat) (f : α → α) : Tab α := tins t k (f (tget d t k))

/-- Changes every entry that a table holds. -/
def tmap {α : Type} (t : Tab α) (f : Nat → α → α) : Tab α := t.map (fun p => (p.1, f p.1 p.2))

/-- Adds `n` to counter `k` of a counter table, saturating at `w` bits. -/
def tcount (w : Nat) (t : Tab Nat) (k n : Nat) : Tab Nat := tins t k (satAdd w (tget 0 t k) n)

/-- The smallest of `n` numbers from `i` on that satisfies `p`. -/
def firstFrom : Nat → Nat → (Nat → Bool) → Option Nat
  | 0, _, _ => none
  | n + 1, i, p => if p i then some i else firstFrom n (i + 1) p

/-- The smallest number below `n` that satisfies `p`. -/
def firstBelow (n : Nat) (p : Nat → Bool) : Option Nat := firstFrom n 0 p

/-- The entry of an association list under a key. -/
def lookupBy {κ α : Type} [DecidableEq κ] (l : List (κ × α)) (k : κ) : Option α :=
  (l.find? (fun p => p.1 = k)).map (·.2)

/-- Puts an entry under a key of an association list, in place of an earlier one. -/
def insertBy {κ α : Type} [DecidableEq κ] (l : List (κ × α)) (k : κ) (v : α) : List (κ × α) :=
  if l.any (fun p => p.1 = k) then l.map (fun p => if p.1 = k then (k, v) else p) else l ++ [(k, v)]

/-! ### Byte stores: canonical lists of (address, byte) that list no zero -/

/-- A byte of a store; an address not listed reads 0. -/
def bget (m : Tab Byte) (a : Nat) : Byte := tget 0 m a

/-- Writes a byte; writing 0 removes the entry, so equal stores are equal lists. -/
def bset (m : Tab Byte) (a : Nat) (b : Byte) : Tab Byte := tset 0 m a b

/-- `n` bytes of a store from address `a`. -/
def bread (m : Tab Byte) (a n : Nat) : List Byte := (List.range n).map (fun i => bget m (a + i))

/-- Writes a list of bytes from address `a`. -/
def bwrite : Tab Byte → Nat → List Byte → Tab Byte
  | m, _, [] => m
  | m, a, b :: r => bwrite (bset m a b) (a + 1) r

/-- Clears the `n` bytes from `a`. -/
def bclear (m : Tab Byte) (a n : Nat) : Tab Byte := m.filter (fun p => decide (p.1 < a) || decide (a + n ≤ p.1))

/-- The canonical form of a byte store: addresses strictly rising, no entry 0. -/
def bwf : Tab Byte → Bool
  | [] => true
  | [(_, b)] => b != 0
  | (a, b) :: (c, d) :: r => b != 0 && decide (a < c) && bwf ((c, d) :: r)

/-! ### Heat numbers (R29) -/

/-- A heat number modulo 2^48. -/
def heatMod (h : Nat) : Nat := h % 2 ^ 48

/-- The difference of two heat numbers modulo 2^48. -/
def heatDiff (a b : Nat) : Nat := (a % 2 ^ 48 + 2 ^ 48 - b % 2 ^ 48) % 2 ^ 48

/-- Heat `a` has reached heat `b`: the difference modulo 2^48 is below 2^47. -/
def heatReached (a b : Nat) : Bool := heatDiff a b < 2 ^ 47

end Sys2Proof.Machine
end

