-- ==== Sys2Proof/Machine/State.lean ====
section
/-! DEFINITION. The state of the block: every register, table, buffer, counter, mode and pin the spec gives it, as
plain data, the queue of the commands that wait, the reasons a step may stop, and the state after a cold reset. -/

namespace Sys2Proof.Machine

/-! ### Cells and trains (13_byhiuz_links.md) -/

/-! ### Heat generator and heat-sync (02_heat.md) -/

/-- The sync states of Table — Sync states (R42), coded as DEV_STATUS[17:16]. -/
inductive SyncState where | free | acquire | locked | holdover
  deriving DecidableEq, Repr

/-- The heat generator (R27–R45) and the duties that fall due with the count. -/
structure Heat where
  /-- HEAT_COUNT, 48 bits (R28). -/
  count : Nat
  /-- The heat has started and is not held (R30, R538). -/
  running : Bool
  /-- Length of the heat now running in steps of 125 ps; 16,384 nominal (R27, R42, R43). -/
  length : Nat
  sync : SyncState
  role : SyncRole
  /-- Hop depth of this chip in the sync tree (R41). -/
  hop : Nat
  /-- Consecutive heats with an offset within 8 ns (R42). -/
  goodRun : Nat
  /-- Consecutive boundaries without a SYNC_RSP (R42). -/
  noRsp : Nat
  /-- t1 of the SYNC_REQ outstanding (R40). -/
  t1 : Option Nat
  /-- The offset, in steps of 125 ps, that duty 1 of the next boundary applies (R40, R42). -/
  offset : Option Int
  /-- Steps of 125 ps from power-on to the last boundary, which no jump of the count changes (R44). -/
  time : Nat
  /-- CYCLE as last read in this heat (R217). -/
  cycle : Nat
  /-- A HEAT_PULSE_OUT pulse was started at the last boundary (R45). -/
  pulse : Bool
  /-- The decay of the coming boundary has been run by its own event (R68). -/
  decayDone : Bool
  deriving DecidableEq, Repr

def Heat.reset : Heat :=
  { count := 0, running := false, length := 16384, sync := .free, role := .free, hop := 0, goodRun := 0,
    noRsp := 0, t1 := none, offset := none, time := 0, cycle := 0, pulse := false, decayDone := false }

/-! ### Device memory, forge caches and placement (03_memory_tiers.md) -/

/-- 64-byte locations one after another that are encrypted under one XTS key pair: the first, as DPA div 64, and their number
(R465). -/
structure KeyRun where
  first : Nat
  count : Nat
  key : List Byte
  deriving DecidableEq, Repr

/-- Device memory by DPA: what AES-256-XTS has encrypted at each location, the key pair it is encrypted under where that is not the
device memory key, and the 64-byte locations stored as poison (R50, R114, R465, log entry 6). -/
structure Mem where
  bytes : Tab Byte
  /-- DPA div 64 of every poisoned location, rising. -/
  poison : List Nat
  /-- Runs of locations by rising address, which do not overlap. -/
  keys : List KeyRun
  deriving DecidableEq, Repr

def Mem.reset : Mem := { bytes := [], poison := [], keys := [] }

/-- A forge-cache line (R53): its ways are kept by forge, set and way. -/
structure Line where
  /-- DPA div 256. -/
  addr : Nat
  part : Nat
  valid : Nat
  dirty : Nat
  rrv : Nat
  prefetched : Bool
  /-- The class in which its dirty sectors are written back: the highest of the writes since it was clean (log entry 72). -/
  wcls : Nat
  /-- Sectors with a fill pending (R54, R57) and sectors poisoned (R114). -/
  pending : Nat
  poison : Nat
  /-- Bytes of the poisoned sectors that have been overwritten since, as a mask of 256 bits (R114). -/
  covered : Nat
  data : Tab Byte
  /-- Partial writes waiting for a fill: byte offset in the line, data, and whether it is poisoned (R54). -/
  merges : List (Nat × List Byte × Bool)
  deriving DecidableEq, Repr

/-- A stream tracker (R58, R59); trackers of a forge stand in order of use, most recent first. -/
structure Tracker where
  part : Nat
  block : Nat
  last : Nat
  stride : Int
  confirms : Nat
  depth : Nat
  issued : Nat
  useful : Nat
  deriving DecidableEq, Repr

/-- The states of a segment tag (Table — Segment tag entry). -/
inductive TagState where | invalid | filling | valid | evicting
  deriving DecidableEq, Repr

/-- A segment tag (R64), by 16 × set + way. -/
structure SegTag where
  seg : Nat
  part : Nat
  state : TagState
  pin : Bool
  dirty : Nat
  age : Nat
  deriving DecidableEq, Repr

def SegTag.reset : SegTag := { seg := 0, part := 0, state := .invalid, pin := false, dirty := 0, age := 0 }

/-- An entry of a segment activity table (R68). -/
structure Activity where
  seg : Nat
  part : Nat
  count : Nat
  /-- Counted in this heat under STREAM. -/
  now : Bool
  deriving DecidableEq, Repr

/-- A running placement migration unit (R67): way index of the tag, whether it fills, and its granule in copy: the granules
below it have been copied (R66). -/
structure PlaceUnit where
  way : Nat
  fill : Bool
  current : Nat
  deriving DecidableEq, Repr

/-- A hint range of a partition (R72). -/
structure HintRange where
  base : Nat
  len : Nat
  hint : Nat
  order : Nat
  /-- Segments of a PIN range, as PSA div 64 KiB, that found their set full and are not pinned (R74). -/
  skip : List Nat
  deriving DecidableEq, Repr

/-- A fabric or CXL access waiting for forge-cache fills (R54, R57). -/
structure Waiter where
  head : Train
  port : Nat
  /-- 0 fabric; 1 + h: CXL head h. -/
  origin : Nat
  dpa : Nat
  len : Nat
  /-- Its own number, which the home transactions made for it carry (R289). -/
  id : Nat
  /-- Sectors (DPA div 64) whose fill it waits for, and lines whose home transaction it waits for. -/
  need : List Nat
  trans : List Nat
  deriving DecidableEq, Repr

/-- A read of one of the device's own engines on its way: partition, range, and the sectors whose fill it waits for (R54, R57). -/
structure Fetch where
  part : Nat
  dpa : Nat
  len : Nat
  need : List Nat
  deriving DecidableEq, Repr

/-- Data that a DRAM read has returned and the forge cache has not yet taken (R54). -/
structure Returned where
  sector : Nat
  /-- The partition it was read for. -/
  part : Nat
  data : List Byte
  poison : Bool
  deriving DecidableEq, Repr

/-- One forge: cache slice, trackers, placement and its select-window counters. -/
structure Forge where
  /-- Lines by 16 × set + way. -/
  lines : Tab Line
  trackers : List Tracker
  returned : List Returned
  activity : Tab Activity
  candidates : List (Nat × Nat)
  pinQueue : List (Nat × Nat)
  placeUnit : Option PlaceUnit
  /-- The promotion whose victim has been written back: its fill is the next unit (R67). -/
  follow : Option (Nat × Nat)
  threshold : Nat
  /-- Measurements of the 256 heats: units issued, units allowed, candidates refused (R71). -/
  issuedU : Nat
  allowedU : Nat
  refusedQ : Nat
  /-- Tag-cache sets held, most recent first (R65). -/
  tagCache : List Nat
  counters : Tab Nat
  deriving DecidableEq, Repr

def Forge.reset : Forge :=
  { lines := [], trackers := [], returned := [], activity := [], candidates := [], pinQueue := [], placeUnit := none,
    follow := none, threshold := 16, issuedU := 0, allowedU := 0, refusedQ := 0, tagCache := [], counters := [] }

/-- The memory tiers: memory, forges, waiting accesses, segment tags, hints and the migration budget. -/
structure Tiers where
  mem : Mem
  forges : Tab Forge
  waiters : List Waiter
  nextWaiter : Nat
  fetches : List Fetch
  /-- The segment tags, by 16 × set + way; those of a set that no tag cache holds stand in the tag store as well (R64, R65). -/
  tags : Tab SegTag
  hints : Tab (List HintRange)
  hintOrder : Nat
  /-- Heats per placement migration unit; 0 off (R70), and heats since the last unit was allowed. -/
  budget : Nat
  budgetAge : Nat
  deriving DecidableEq, Repr

def Tiers.reset : Tiers :=
  { mem := Mem.reset, forges := [], waiters := [], nextWaiter := 0, fetches := [], tags := [], hints := [], hintOrder := 0, budget := 1, budgetAge := 0 }

/-! ### Partitions, extents and seals (04_partitions_extents.md) -/

/-- The partition states of R80. -/
inductive PartState where | free | active | quenching | tombstone
  deriving DecidableEq, Repr

/-- The quench sequencer's record of one partition (R96). -/
structure Quench where
  /-- Boundaries since Bq. -/
  age : Nat
  /-- Members that have answered FENCE_ACK, as indices of the member list. -/
  acked : List Nat
  drained : Bool
  keyGone : Bool
  deriving DecidableEq, Repr

/-- One partition (Table — Partition record and what the other chapters hold for a partition). -/
structure Partition where
  state : PartState
  confidential : Bool
  keyPresent : Bool
  fenceComplete : Bool
  zeroingComplete : Bool
  psaBase : Nat
  span : Nat
  dirOff : Nat
  sealQuota : Nat
  createHeat : Nat
  stateHeat : Nat
  members : List Member
  /-- The boundary count of TOMBSTONE (R80). -/
  tombAge : Nat
  quench : Option Quench
  /-- The endpoints that the device event of R96 step 5 names. -/
  silent : List Nat
  /-- Gate group (R362). -/
  group : Option Nat
  /-- Grip time in CCLK and snoop timeout in heats (R302, R303, R310). -/
  grip : Nat
  snoopTimeout : Nat
  /-- Tongs context range: first and count (R254). -/
  ctxFirst : Nat
  ctxCount : Nat
  /-- The phase its runtime has declared (R483). -/
  phase : Nat
  /-- Confidential mode reserves forge-cache ways (R472). -/
  ways : Nat
  deriving DecidableEq, Repr

def Partition.reset : Partition :=
  { state := .free, confidential := false, keyPresent := false, fenceComplete := false, zeroingComplete := false,
    psaBase := 0, span := 0, dirOff := 0, sealQuota := 0, createHeat := 0, stateHeat := 0, members := [], tombAge := 0,
    quench := none, silent := [], group := none, grip := 256, snoopTimeout := 8, ctxFirst := 0, ctxCount := 0, phase := 0, ways := 0 }

def Extent.reset : Extent :=
  { dpaBlk := 0, psaBlk := 0, part := 0, state := .free, tier := 0, place := 0, mirror := 0, coh := 0, mapped := false,
    ro := false, capture := false, dcValid := false, dcRegion := 0, dcTag := 0, sealId := 0, unitsDone := [],
    drain := none, endNext := false, unmapOnly := false, frames := [] }

/-- The seal states of Table — Seal record. -/
inductive SealState where | free | capturing | sealed | aborted | releasing
  deriving DecidableEq, Repr

/-- A seal record and its running capture (R99–R105). -/
structure Seal where
  part : Nat
  state : SealState
  rootValid : Bool
  abortFault : Bool
  abortReset : Bool
  hasPoison : Bool
  /-- The extents in command order: extent numbers and the PSA blocks named (R103). -/
  extents : List Nat
  psaBlks : List Nat
  /-- Extent numbers of its data blocks, in order, then of its hash blocks. -/
  blocks : List Nat
  hashBlocks : Nat
  sealHeat : Nat
  /-- Leaf hashes by leaf number; a leaf is copied when it has one. -/
  leaves : Tab (List Byte)
  root : List Byte
  /-- Leaves that writes wait for, copied ahead of leaf order (R101). -/
  urgent : List Nat
  deriving DecidableEq, Repr

def Seal.reset : Seal :=
  { part := 0, state := .free, rootValid := false, abortFault := false, abortReset := false, hasPoison := false,
    extents := [], psaBlks := [], blocks := [], hashBlocks := 0, sealHeat := 0, leaves := [], root := [], urgent := [] }

/-- The partition, directory, extent and seal tables. -/
structure Parts where
  parts : Tab Partition
  /-- PSA directory: entries whose VALID bit is set, by index, giving an extent number (R84). -/
  dir : Tab Nat
  extents : Tab Extent
  seals : Tab Seal
  /-- What the last drain of each extent completed at once: reads answered poisoned, writes dropped (R92). -/
  drained : Tab (Nat × Nat)
  /-- Segments that captures have copied in this heat, up to 16 (R101). -/
  copied : Nat
  deriving DecidableEq, Repr

def Parts.reset : Parts := { parts := [], dir := [], extents := [], seals := [], drained := [], copied := 0 }

/-! ### DRAM control (05_dram_control.md) -/

/-- The states of a service unit, coded as RANK_STATE (R129). -/
inductive UnitState where | absent | inService | retiring | retired | warmUp | spare | failed
  deriving DecidableEq, Repr

/-- The power states of a service unit (R127, R128). -/
inductive UnitPower where | active | powerDown | selfRefresh
  deriving DecidableEq, Repr

/-- One service unit: a physical HBM4 channel (32 × stack + channel) or a DDR5 rank (256 + 4 × channel + rank). -/
structure ServiceUnit where
  state : UnitState
  power : UnitPower
  idle : Nat
  /-- It received a request that resets its idle count in this heat (R127). -/
  touched : Bool
  /-- A refresh of it has been issued and has not ended (R35, R39). -/
  inRefresh : Bool
  postponed : Nat
  /-- It issues no other command until its postponed slots have been issued: a fifth arose (R39). -/
  refreshing : Bool
  /-- One refresh is owed before any other command (R128). -/
  exitRefresh : Bool
  /-- Command/address parity failures in this heat (R119). -/
  parity : Nat
  /-- A failure event awaits the next boundary (R119). -/
  failing : Bool
  /-- The power state that a running scrub unit has taken it out of (R128). -/
  scrubbed : Option UnitPower
  /-- The failure was a command/address error, and its retraining is under way (R120). -/
  caError : Bool
  retraining : Bool
  /-- Reads return poison and writes are dropped and counted (R120). -/
  dead : Bool
  dropped : Nat
  /-- Order of its retirement, and 64 KiB migration pieces copied (R123, R124). -/
  order : Nat
  pieces : Nat
  /-- The last granule has switched; the map changes at the next boundary (R124). -/
  switchNext : Bool
  /-- Warm-up test units completed, the state to return to, and admission at the next boundary (R126). -/
  testUnits : Nat
  before : UnitState
  admitNext : Bool
  /-- It was marked failed while it held data, and keeps serving the data through its warm-up, untested (R126). -/
  serving : Bool
  temperature : Nat
  deriving DecidableEq, Repr

def ServiceUnit.reset : ServiceUnit :=
  { state := .absent, power := .active, idle := 0, touched := false, inRefresh := false, postponed := 0, refreshing := false,
    exitRefresh := false, parity := 0, failing := false, scrubbed := none, caError := false, retraining := false, dead := false,
    dropped := 0, order := 0, pieces := 0, switchNext := false, testUnits := 0, before := .retired,
    admitNext := false, serving := false, temperature := 0 }

/-- A request in a channel's read queue (R106–R111): the 64-byte sector it reads. -/
structure DramRead where
  sector : Nat
  /-- Where the sector is stored: its own DPA, or its frame in the cache region. -/
  place : Nat
  cls : Nat
  age : Nat
  promoted : Bool
  prefetch : Bool
  passed : Nat
  part : Nat
  /-- Order of its entry among all requests (R111). -/
  seq : Nat
  /-- Its data goes to the forge cache; not that of a tag-store read, nor of a bulk-home read that its tag makes useless (R65, R66). -/
  kept : Bool
  deriving DecidableEq, Repr

/-- A request in a channel's write queue. -/
structure DramWrite where
  place : Nat
  cls : Nat
  age : Nat
  promoted : Bool
  data : List Byte
  poison : Bool
  part : Nat
  seq : Nat
  deriving DecidableEq, Repr

/-- The queues of one channel: HBM4 channel 32 × stack + channel, or DDR5 subchannel 256 + 2 × channel + subchannel. -/
structure DramQueue where
  reads : List DramRead
  heldReads : List DramRead
  writes : List DramWrite
  heldWrites : List DramWrite
  deriving DecidableEq, Repr

def DramQueue.reset : DramQueue := { reads := [], heldReads := [], writes := [], heldWrites := [] }

/-- A patrol scrub walker (R116–R118); walker 3 × forge + 0 (stack), 1, 2 (its DDR5 channels). -/
structure Walker where
  step : Nat
  level : Nat
  /-- Heats to its due heat, and heats since it (R117). -/
  due : Nat
  late : Nat
  /-- Its unit is running. -/
  running : Bool
  window : Nat
  corrected : Nat
  clean : Nat
  skipped : Nat
  /-- The end of its window at the coming boundary has been run by its own event (R118). -/
  windowEnd : Bool
  deriving DecidableEq, Repr

def Walker.reset : Walker :=
  { step := 0, level := 0, due := 0, late := 0, running := false, window := 0, corrected := 0, clean := 0, skipped := 0, windowEnd := false }

/-- A run of spare pieces in a remap record: channel, first piece, pieces (R122). -/
structure PieceRun where
  channel : Nat
  first : Nat
  count : Nat
  deriving DecidableEq, Repr

/-- A remap record of a retired DDR5 rank (R122). -/
structure Remap where
  unit : Nat
  runs : List PieceRun
  /-- Its migration has ended: it is in force for every chunk (R124). -/
  complete : Bool
  deriving DecidableEq, Repr

/-- What a stack controller holds (R48, R77, R38). -/
structure Stack where
  populated : Bool
  trained : Bool
  spareHeld : Bool
  spareCh : Nat
  retired : Nat
  /-- Logical-to-physical map where it differs from the identity. -/
  map : Tab Nat
  refreshP : Nat
  doubled : Bool
  temperature : Nat
  /-- Heats for which the temperature has stayed below 82 °C, up to 40 (R38). -/
  cool : Nat
  counters : Tab Nat
  deriving DecidableEq, Repr

def Stack.reset : Stack :=
  { populated := false, trained := false, spareHeld := false, spareCh := 31, retired := 0, map := [], refreshP := 0,
    doubled := false, temperature := 0, cool := 0, counters := [] }

/-- What a DDR5 channel controller holds (R129). -/
structure BulkChannel where
  populated : Bool
  trained : Bool
  broke : Bool
  mode : Nat
  dimms : Nat
  ranks : Nat
  capacity : Nat
  /-- Capacity in GiB of each rank (R121). -/
  rankGiB : List Nat
  refreshP : Nat
  doubled : Bool
  temperature : Nat
  cool : Nat
  counters : Tab Nat
  deriving DecidableEq, Repr

def BulkChannel.reset : BulkChannel :=
  { populated := false, trained := false, broke := false, mode := 0, dimms := 0, ranks := 0, capacity := 0,
    rankGiB := [], refreshP := 0, doubled := false, temperature := 0, cool := 0, counters := [] }

/-- The background units running in a forge (R34, R35), by the kinds of Table — Background work units. -/
structure Background where
  /-- Quench scrub or zero-fill units running: extent numbers. -/
  scrub : List Nat
  /-- Patrol scrub: the walker; spare migration: the unit; warm-up test: the unit. -/
  patrol : Option Nat
  spare : Option Nat
  test : Option Nat
  /-- Twin epoch copy: the segment (DPA div 64 KiB). -/
  twin : Option Nat
  /-- Heats that the requests of each running unit have waited, by the order of these kinds: scrub and fill 0, patrol 1, spare 2, test 3,
  twin 4, placement 5 (R110). -/
  ages : Tab Nat
  deriving DecidableEq, Repr

def Background.reset : Background := { scrub := [], patrol := none, spare := none, test := none, twin := none, ages := [] }

/-- The DRAM controllers. -/
structure Dram where
  stackTab : Tab Stack
  bulk : Tab BulkChannel
  units : Tab ServiceUnit
  queues : Tab DramQueue
  /-- The order of the next request. -/
  nextSeq : Nat
  /-- Writes to a granule in copy: they wait until it is written (R66); their place is the sector's home. -/
  copyWaits : List DramWrite
  walkers : Tab Walker
  background : Tab Background
  remaps : List Remap
  /-- Free pieces of the spare pool: runs in the order of R122. -/
  spareFree : List PieceRun
  spareDrawn : Bool
  rankFailed : Bool
  retireOrder : Nat
  /-- Size of the bulk spare region in GiB, fixed at the cold boot (R121). -/
  spareGiB : Nat
  scrubFloor : Nat
  pdIdle : Nat
  srIdle : Nat
  /-- Age limits: class 1 in ns, classes 2–4 in heats (R110). -/
  limit1 : Nat
  limit2 : Nat
  limit3 : Nat
  limit4 : Nat
  deriving DecidableEq, Repr

def Dram.reset : Dram :=
  { stackTab := [], bulk := [], units := [], queues := [], nextSeq := 0, copyWaits := [], walkers := [], background := [], remaps := [], spareFree := [],
    spareDrawn := false, rankFailed := false, retireOrder := 0, spareGiB := 0, scrubFloor := 0, pdIdle := 16, srIdle := 8192,
    limit1 := 256, limit2 := 1, limit3 := 2, limit4 := 8 }

/-! ### Crucibles and melts (07_crucibles.md, 08_narrow_safeguards.md) -/

/-- The melt states of R162. -/
inductive MeltState where | free | idle | armed | final
  deriving DecidableEq, Repr

/-- Where a window of the running step is (R165–R188). -/
inductive WindowPlace where
  /-- In slot `slot` of crucible `cru`, accumulating. -/
  | accum (cru slot : Nat)
  | closed (cru slot : Nat)
  | spilling (cru slot : Nat)
  | spilled (cru : Nat)
  /-- Queued at an anvil; the source is a slot or the spill range. -/
  | handed (anvil : Nat) (slot : Option (Nat × Nat)) (cru : Nat)
  /-- Taken by the recipe runner of an anvil; its slot until the image is read. -/
  | started (anvil : Nat) (slot : Option (Nat × Nat)) (cru : Nat)
  | finalised
  | faulted
  deriving DecidableEq, Repr

/-- The five window counters of R196, which are also the step totals of R198. -/
structure EventCounts where
  decoded : Nat
  escapes : Nat
  saturated : Nat
  malformed : Nat
  nonfinite : Nat
  deriving DecidableEq, Repr

def EventCounts.zero : EventCounts := { decoded := 0, escapes := 0, saturated := 0, malformed := 0, nonfinite := 0 }

/-- One window of the running step, with what its slot holds (R164, R180–R182, R196). -/
structure Window where
  place : WindowPlace
  /-- Boundaries left to its deadline boundary (R180). -/
  left : Nat
  /-- FP32 accumulators by element; +0 where nothing is listed. -/
  acc : Tab Half
  /-- Arrival bitmap: 128 × contributor + chunk. -/
  bitmap : List Nat
  /-- Contributors accumulated by chunk. -/
  counts : Tab Nat
  events : EventCounts
  marked : Bool
  partialClose : Bool
  missing : Nat
  closeHeat : Nat
  /-- Order of its close in the device (R166). -/
  closeOrder : Nat
  wasSpilled : Bool
  deriving DecidableEq, Repr

/-- A melt (R157–R163) and its running step (R198, R209). -/
structure Melt where
  state : MeltState
  part : Nat
  /-- The 128 bytes of Table — Melt descriptor. -/
  desc : List Byte
  contributors : List Contributor
  tableSet : Bool
  minFmt : Nat
  step : Nat
  armHeat : Nat
  clean : Nat
  /-- Order of the arm boundaries (R165). -/
  armOrder : Nat
  /-- The next window to open, and the windows opened in the step. -/
  nextWindow : Nat
  windows : Tab Window
  closedCount : Nat
  finalised : Nat
  spilledCount : Nat
  totals : EventCounts
  worst : Option (Nat × Nat)
  /-- Some closed window met the window rule of R199. -/
  windowRule : Bool
  nfWindow : Option Nat
  nfCidx : Option Nat
  missingAny : Nat
  partialWindows : Nat
  castSat : Nat
  pushes : Nat
  pushFail : Bool
  faultWindow : Option Nat
  /-- The step has ended and its record is being written: DONE and IDLE follow (R190, R213). -/
  ending : Bool := false
  deriving DecidableEq, Repr

def Melt.reset : Melt :=
  { state := .free, part := 0, desc := [], contributors := [], tableSet := false, minFmt := 0, step := 0, armHeat := 0,
    clean := 0, armOrder := 0, nextWindow := 0, windows := [], closedCount := 0, finalised := 0, spilledCount := 0,
    totals := EventCounts.zero, worst := none, windowRule := false, nfWindow := none, nfCidx := none, missingAny := 0,
    partialWindows := 0, castSat := 0, pushes := 0, pushFail := false, faultWindow := none }

/-- The states of a slot that holds no window (R167); a window's own place says the rest. -/
inductive SlotUse where | free | lent | held (melt window : Nat)
  deriving DecidableEq, Repr

/-- A staging buffer (R173, R174): the accepted pour of one arriving port. -/
structure Staging where
  melt : Nat
  window : Nat
  step : Nat
  cidx : Nat
  fmt : Nat
  offset : Nat
  count : Nat
  cru : Nat
  /-- Data cells expected and taken. -/
  cells : Nat
  taken : Nat
  /-- Cells of the unfinished staging unit, and units added. -/
  held : List (List Byte)
  units : Nat
  /-- Boundaries since its last cell was taken (R174). -/
  heats : Nat := 0
  deriving DecidableEq, Repr

/-- A train whose remaining cells are discarded and how they count (R172). -/
structure Refused where
  melt : Nat
  cru : Nat
  /-- 0 counted nowhere, 1 LATE_CELLS, 2 POURS_NO_GRANT, 3 PART_DROPPED of the port, 4 LATE_CELLS while the melt is open (R172). -/
  count : Nat
  /-- The partition whose melt it was for, and that it was confidential (R195). -/
  part : Nat := 0
  hidden : Bool := false
  deriving DecidableEq, Repr

/-- A tensor status ring (R211). -/
structure Ring where
  base : Nat
  entries : Nat
  writeIdx : Nat
  dropped : Nat
  deriving DecidableEq, Repr

/-- The crucible complex. -/
structure Crucibles where
  melts : Tab Melt
  slots : Tab SlotUse
  staging : Tab Staging
  refused : Tab Refused
  /-- Rings by 16 × partition + ring. -/
  rings : Tab Ring
  /-- Melt IDs held by a quench until TOMBSTONE, with the partition (R193). -/
  heldIds : List (Nat × Nat)
  passed : Nat
  armOrder : Nat
  closeOrder : Nat
  /-- Counters by 32 × crucible + counter. -/
  counters : Tab Nat
  peaks : Tab Nat
  /-- Boundaries for which a slot has been FREE, up to 256, by slot (SLOT_LEND, R523). -/
  freeHeats : Tab Nat
  deriving DecidableEq, Repr

def Crucibles.reset : Crucibles :=
  { melts := [], slots := [], staging := [], refused := [], rings := [], heldIds := [], passed := 0, armOrder := 0,
    closeOrder := 0, counters := [], peaks := [], freeHeats := [] }

/-! ### Anvils (09_anvils.md) -/

/-- The programmer-visible registers of an anvil (R217). -/
structure AnvilRegs where
  s : Tab Word
  v : Tab (BitVec 2048)
  m : Tab Word
  /-- Accumulator words by 1,024 × tile + 64 × row + column. -/
  acc : Tab Half
  pc : Nat
  evtEsc : Nat
  evtSat : Nat
  evtMal : Nat
  evtNf : Nat
  streamKey : Word
  streamCtr : Word
  liveBase : Nat
  liveLen : Nat
  deriving DecidableEq, Repr

def AnvilRegs.reset : AnvilRegs :=
  { s := [], v := [], m := [], acc := [], pc := 0, evtEsc := 0, evtSat := 0, evtMal := 0, evtNf := 0, streamKey := 0,
    streamCtr := 0, liveBase := 0, liveLen := 0 }

/-- What an anvil waits for before its next instruction (R218, R230–R232, R243). -/
inductive AnvilWait where
  | none
  | mwait (n : Nat)
  /-- WAITH with s_A = 0: the next boundary. -/
  | nextHeat
  | heat (h : Nat)
  | waitw (d : Nat)
  | bar (b : Nat) (count : Nat)
  | flag (f : Nat)
  | yield
  deriving DecidableEq, Repr

/-- What an anvil is doing (ANVIL_INFO[18:16], R237). -/
inductive AnvilMode where | idle | program | runner | saving | zeroing | restoring | held
  deriving DecidableEq, Repr

/-- An asynchronous tile transfer (R218, R228). -/
structure TileXfer where
  load : Bool
  psa : Nat
  sram : Nat
  len : Nat
  rows : Nat
  stride : Nat
  pc : Nat
  deriving DecidableEq, Repr

/-- The states of an instance bound to an anvil (R237, R243). -/
inductive InstState where | bound | running | ended | faulted | saved
  deriving DecidableEq, Repr

/-- One instance: a program of a partition bound to an anvil, by 64 × anvil + partition. -/
structure Instance where
  prog : Nat
  state : InstState
  /-- The register image in its context block. -/
  regs : AnvilRegs
  /-- What it was waiting for when it was saved. -/
  wait : AnvilWait
  deriving DecidableEq, Repr

/-- The window the recipe runner has taken (R247). -/
structure RunnerJob where
  melt : Nat
  window : Nat
  step : Nat
  slot : Option (Nat × Nat)
  imageRead : Bool
  image : Tab Half
  counts : Tab Nat
  full : Bool
  deriving DecidableEq, Repr

/-- A hand-off queue entry (R188). -/
structure HandOff where
  melt : Nat
  window : Nat
  step : Nat
  slot : Option (Nat × Nat)
  deriving DecidableEq, Repr

/-- One anvil. -/
structure Anvil where
  passed : Bool
  enabled : Bool
  part : Nat
  /-- The partition whose state it holds (held in place, or being saved). -/
  holder : Nat
  mode : AnvilMode
  regs : AnvilRegs
  wait : AnvilWait
  sram : Tab Byte
  /-- Instruction memory by index. -/
  imem : Tab Word
  xfers : List TileXfer
  queue : List HandOff
  job : Option RunnerJob
  /-- A window of the last WAITW, for MS = 1 (R226): melt, window, step. -/
  lastWindow : Option (Nat × Nat × Nat)
  /-- Boundaries since the partition change began, and the restore may start (R237, R238). -/
  change : Option Nat
  /-- The zeroing follows a quench (R239). -/
  halted : Bool
  lastFault : Nat
  counters : Tab Nat
  deriving DecidableEq, Repr

def Anvil.reset : Anvil :=
  { passed := false, enabled := false, part := 0, holder := 0, mode := .idle, regs := AnvilRegs.reset, wait := .none,
    sram := [], imem := [], xfers := [], queue := [], job := none, lastWindow := none, change := none, halted := false,
    lastFault := 0, counters := [] }

def Roster.reset : Roster := { lap := 1, start := 0, entries := [] }

/-- A loaded program slot (R242), by 16 × partition + slot. -/
structure Program where
  length : Nat
  liveMax : Nat
  digest : List Byte
  deriving DecidableEq, Repr

/-- The anvils, the roster, barriers and flags, anvil stores and program slots. -/
structure Anvils where
  anvils : Tab Anvil
  instances : Tab Instance
  roster : Roster
  /-- Arrivals by 16 × partition + barrier; flags by 64 × partition + flag. -/
  barriers : Tab Nat
  flags : Tab Bool
  /-- Anvil store extent by partition. -/
  stores : Tab Nat
  programs : Tab Program
  deriving DecidableEq, Repr

def Anvils.reset : Anvils :=
  { anvils := [], instances := [], roster := Roster.reset, barriers := [], flags := [],
    stores := [], programs := [] }

/-! ### Tongs and translation (11_tongs_translation.md) -/

/-- The context states of R256, coded as tongs-context-status returns them. -/
inductive CtxState where | free | idle | ready | active | waiting | faulted
  deriving DecidableEq, Repr

/-- A cached leaf translation (R277). -/
structure Leaf where
  asid : Nat
  /-- TVA of the leaf and its size. -/
  tva : Nat
  size : Nat
  psa : Nat
  r : Bool
  w : Bool
  deriving DecidableEq, Repr

/-- A cached non-leaf entry: the table that a TVA prefix of a level reaches (R277). -/
structure WalkEntry where
  asid : Nat
  level : Nat
  pre : Nat
  table : Nat
  deriving DecidableEq, Repr

/-- A stroke of a descriptor in flight (R253): its pieces of source and destination as translated, PSA and length; the
TAG of a PUSH train and the heats since its last cell left (R272); issued before a fenced invalidation of its
translations (R284). -/
structure Stroke where
  index : Nat
  src : List (Nat × Nat)
  dst : List (Nat × Nat)
  tag : Nat
  age : Option Nat
  fenced : Bool
  /-- The engine that issued it (R253). -/
  engine : Nat := 0
  deriving DecidableEq, Repr

/-- A push that the tongs complex has queued: its melt, and the step that counts it, none once the melt is closed (R189). -/
structure QueuedPush where
  melt : Nat
  step : Option Nat
  deriving DecidableEq, Repr

/-- A fetched descriptor, started or not (R260, R261). -/
structure Desc where
  /-- Its own number: the ring index, or for a queued push 2^32 and up in the order of queueing. -/
  serial : Nat
  /-- Ring index; 0xFFFFFFFF for a queued push (R189). -/
  idx : Nat
  /-- Its fetch failed, so its words are unknown (R558). -/
  unread : Bool
  words : List Byte
  /-- LOOP state: repetition and body index; `words` holds the LOOP's own words and its body's (R270). -/
  rep : Nat
  body : Nat
  /-- Strokes issued and not committed; strokes committed; strokes in all. -/
  inFlight : List Stroke
  issued : Nat
  committed : Nat
  total : Nat
  /-- Bytes committed (DONE). -/
  done : Nat
  /-- Poison seen, and seen by the body descriptor under way (R281). -/
  poison : Bool
  soiled : Bool
  escapes : Nat
  saturated : Nat
  malformed : Nat
  nonfinite : Nat
  /-- Status it ends with, once known; finished when nothing is in flight. -/
  status : Option Nat
  push : Option QueuedPush
  /-- The indices of a GATHER or SCATTER, as read (R276). -/
  indices : List Nat
  /-- Its tickets, by 16 × repetition + body index: one leaf per leaf touched; and the batch that the current one is for (R276). -/
  tickets : Tab (List Leaf)
  batch : Nat
  /-- The checks of a WAIT have passed (R264, R271). -/
  checked : Bool
  /-- The locations of a SEAL's leaves that have been copied and are not hashed yet, by stroke (R268). -/
  pieces : Tab (List (List Byte × Bool))
  deriving DecidableEq, Repr

/-- One tongs context. -/
structure Ctx where
  state : CtxState
  part : Nat
  asid : Nat
  subBase : Nat
  cplBase : Nat
  entries : Nat
  forge : Nat
  engine : Nat
  subTail : Nat
  subHead : Nat
  /-- The next descriptor to start, and completion records written. -/
  nextIdx : Nat
  writeIdx : Nat
  /-- READ_IDX as last read (R260). -/
  readIdx : Nat
  held : Bool
  started : List Desc
  /-- Descriptors fetched ahead of their start, at most 8, in ring order from `nextIdx` (R276). -/
  ahead : List Desc
  fault : Option (List Byte)
  /-- The serial number of the descriptor that faulted. -/
  faultSerial : Nat
  /-- Member index of its placement writes (R308). -/
  place : Option Nat
  /-- A reset is completing (R286). -/
  resetting : Bool
  /-- Pushes queued by the tongs complex, oldest first (R189). -/
  pushes : List Desc
  deriving DecidableEq, Repr

def Ctx.reset : Ctx :=
  { state := .free, part := 0, asid := 0, subBase := 0, cplBase := 0, entries := 0, forge := 0xFF, engine := 0,
    subTail := 0, subHead := 0, nextIdx := 0, writeIdx := 0, readIdx := 0, held := false, started := [], ahead := [],
    fault := none, faultSerial := 0, place := none, resetting := false, pushes := [] }

/-- An address space (R275). -/
structure Space where
  part : Nat
  root : Option Nat
  deriving DecidableEq, Repr

/-- A running table walk (R277). -/
structure Walk where
  ctx : Nat
  forge : Nat
  tva : Nat
  write : Bool
  /-- The descriptor that it serves: serial number, repetition and body index. -/
  serial : Nat
  rep : Nat
  body : Nat
  deriving DecidableEq, Repr

/-- The tongs complex. -/
structure Tongs where
  ctxs : Tab Ctx
  spaces : Tab Space
  passed : Nat
  /-- Translation caches by engine and by forge, walk caches by forge, most recent first. -/
  engineCache : Tab (List Leaf)
  sharedCache : Tab (List Leaf)
  walkCache : Tab (List WalkEntry)
  walks : List Walk
  /-- Fault queue by partition (R282). -/
  faultQueues : Tab Ring
  /-- Counters by 32 × engine + counter. -/
  counters : Tab Nat
  peaks : Tab Nat
  nextTag : Nat
  /-- The context whose stroke each engine issued last (R253). -/
  turn : Tab Nat
  /-- Pushes queued since reset (R189). -/
  pushCount : Nat
  /-- Spaces whose fenced invalidation a boundary has found without strokes in flight (R284). -/
  cleared : List Nat
  deriving DecidableEq, Repr

def Tongs.reset : Tongs :=
  { ctxs := [], spaces := [], passed := 0, engineCache := [], sharedCache := [], walkCache := [], walks := [],
    faultQueues := [], counters := [], peaks := [], nextTag := 0, turn := [], pushCount := 0, cleared := [] }

/-! ### Coherence (12_coherence.md) -/

/-- Directory states (R298). -/
inductive DirState where | invalid | excl | shared
  deriving DecidableEq, Repr

/-- A directory entry (Table — Directory entry), by set × 16 + way in its forge. -/
structure DirEntry where
  tag : Nat
  tier : Nat
  state : DirState
  part : Nat
  ovf : Bool
  fvalid : Bool
  fidx : Nat
  pvalid : Nat
  ptrs : Tab Nat
  age : Nat
  deriving DecidableEq, Repr

def DirEntry.reset : DirEntry :=
  { tag := 0, tier := 0, state := .invalid, part := 0, ovf := false, fvalid := false, fidx := 0, pvalid := 0, ptrs := [], age := 0 }

/-- A request as the home holds it. -/
structure CohMsg where
  req : CohReq
  src : Nat
  /-- Member index of the requester; 0xFFFF for a non-member engine. -/
  member : Nat
  part : Nat
  tag : Nat
  psa : Nat
  line : Nat
  data : List Byte
  poison : Bool
  mask : Nat
  peer : Nat
  /-- Arrival port, CXL head + 256, or 0xFFFF for an access of the device's own. -/
  port : Nat
  /-- The ordinary access that the transaction serves (R289). -/
  waiter : Nat
  deriving DecidableEq, Repr

/-- A snoop outstanding at a tracker (R303). -/
structure SnoopOut where
  snoop : Snoop
  member : Nat
  left : Nat
  deriving DecidableEq, Repr

/-- A home tracker (R296), by 4,096 × forge + tracker. -/
structure Tracker2 where
  msg : CohMsg
  /-- It is the eviction of a victim line (R301), for the request waiting in this tracker. -/
  evict : Option Nat
  snoops : List SnoopOut
  /-- Snoops held for the grip time (R302). -/
  held : List (Snoop × Nat)
  /-- The offer of R307 is out; the member that took it while its entry waits for a way. -/
  offered : Bool
  taken : Option Nat
  /-- Waits for a directory way: the victim's eviction (R301). -/
  waiting : Bool
  /-- The F holder had dropped the line (R295). -/
  missed : Bool
  /-- The line was poisoned by an expired snoop of this transaction. -/
  poisoned : Bool
  /-- The write at home has been made; the completion awaits the twin's WR_CMP (R505). -/
  written : Bool
  /-- Its snoops are answered, and the home's read of the line is on its way (R294). -/
  reading : Bool
  deriving DecidableEq, Repr

/-- A write that has passed its admission and waits at the home for a copy or a way (R86, R101): a fabric store with its port and DPA,
a coherent write, or a host's write of bytes of one line. -/
inductive HeldWrite where
  | store (port : Nat) (train : Train) (dpa : Nat)
  | coherent (msg : CohMsg)
  | host (head dpa mask : Nat) (data : List Byte)
  deriving DecidableEq, Repr

/-- The rings with a control block in partition memory that the device writes records to: a tensor status ring by 16 × partition + ring,
and a fault queue by partition (R211, R282). -/
inductive RingName where | status (key : Nat) | faults (p : Nat)
  deriving DecidableEq, Repr

/-- Stores that an engine makes for a partition one after another, each complete before the next, and what follows the last: a record
and the indices of its ring, a close record, a control block (R182, R190, R213, R260, R282). -/
structure Post where
  part : Nat
  cls : Nat
  /-- The record of a ring, while the ring has not been looked at. -/
  ring : Option (RingName × List Byte) := none
  /-- The stores still to be made: PSA and data. -/
  stores : List (Nat × List Byte) := []
  /-- The DPA ranges of the last store made, which may still await the partner's WR_CMP (R505). -/
  begun : List (Nat × Nat) := []
  /-- The tongs context whose engine makes them (R288). -/
  ctx : Option Nat := none
  /-- What follows: a Starter source; a melt whose step has ended, with the status of its DONE. -/
  source : Option Nat := none
  melt : Option (Nat × Nat) := none
  deriving DecidableEq, Repr

/-- The coherence home of every forge. -/
structure Coh where
  /-- Directory by 2^18 × forge + 16 × set + way. -/
  dir : Tab DirEntry
  trackers : Tab Tracker2
  /-- Requests waiting for their line, and requests waiting for a tracker by forge, in order of arrival. -/
  lineWait : List CohMsg
  ingress : Tab (List CohMsg)
  /-- Grip timers running: line and member. -/
  grips : List (Nat × Nat)
  /-- Sweeps running: partition, boundaries since it began, and the new member list (R305). -/
  sweeps : List (Nat × Nat × List Member × Bool)
  /-- Lines whose current value the home has fetched for an access of one of the device's own engines (R289). -/
  fresh : List Nat
  /-- Admitted writes that wait for a copy or a way, in order of arrival (R86, R101). -/
  heldWrites : List HeldWrite
  /-- Lines that had an open transaction at a warm reset and that no request has reached since (R312). -/
  stale : List Nat
  /-- Stores of the device's own engines under way (R213), in order for each partition and class. -/
  posts : List Post
  counters : Tab Nat
  deriving DecidableEq, Repr

def Coh.reset : Coh :=
  { dir := [], trackers := [], lineWait := [], ingress := [], grips := [], sweeps := [], fresh := [], heldWrites := [], stale := [],
    posts := [], counters := [] }

/-! ### Fabric links (13_byhiuz_links.md) -/

/-- The link states of R320, coded as PORT_INFO[2:0]. -/
inductive LinkState where | disabled | down | train | ident | keying | active | retrain
  deriving DecidableEq, Repr

/-- What a port holds of its partner's IDENT (Table — Link-control payloads). -/
structure Ident where
  port : Nat
  caps : Nat
  chip : Nat
  linkId : Nat
  credits : List Nat
  deriving DecidableEq, Repr

/-- How far a lane command has come at this end. -/
inductive LanePhase where
  /-- LANE_CMD sent, no LANE_ACK yet. -/
  | sent
  /-- LANE_GO sent; the partner's LANE_GO awaited. -/
  | goSent
  /-- The partner's command is acknowledged; its LANE_GO awaited. -/
  | acked
  /-- The partner's LANE_GO has come; this end's receiver is to switch. -/
  | switching
  deriving DecidableEq, Repr

/-- A lane command under way at this end of the hop (R332–R335). -/
structure LaneCmd where
  id : Nat
  op : LaneOp
  lanes : Nat
  rate : Nat
  /-- This end initiated it. -/
  own : Bool
  phase : LanePhase
  /-- This end's transmitter, and its receiver, have switched. -/
  txDone : Bool
  rxDone : Bool
  resends : Nat
  /-- Boundaries since it, or its LANE_GO, was last sent (R335). -/
  heats : Nat
  deriving DecidableEq, Repr

/-- The service state of one lane (R317, R318). -/
structure Lane where
  out : Bool
  /-- In warm-up: the lane has been retrained on its own and its PRBS31 pattern is checked. -/
  warm : Bool
  /-- Heats of the warm-up test, or to its retry, that have passed. -/
  heats : Nat
  /-- Waits for the retry 65,536 heats after a failed warm-up. -/
  retry : Bool
  /-- Passed its warm-up; admitted at the next boundary. -/
  admitted : Bool
  /-- Consecutive windows above the limit, and the corrected symbols of the last window. -/
  badWindows : Nat
  lastErrors : Nat
  deriving DecidableEq, Repr

def Lane.reset : Lane :=
  { out := false, warm := false, heats := 0, retry := false, admitted := false, badWindows := 0, lastErrors := 0 }

/-- A sequenced unit as the link layer handles it: LSEQ, VC, and the 40-byte cell as it travels. -/
structure LinkUnit where
  lseq : Nat
  vc : Nat
  rpl : Bool
  body : List Byte
  deriving DecidableEq, Repr

/-- A unit in the replay buffer (R328, R331). -/
structure ReplayUnit where
  unit : LinkUnit
  replays : Nat
  /-- Its replay is due (NAK or timer). -/
  due : Bool
  deriving DecidableEq, Repr

/-- The train open on a receive VC (R323). -/
structure OpenTrain where
  head : Cell
  next : Nat
  length : Nat
  /-- Boundaries since its last cell arrived (R354). -/
  heats : Nat
  /-- The link went DOWN while it was open: no cell of it can come any more; and whether its cell 0 had been sent on by then (R354). -/
  lost : Bool := false
  sentOn : Bool := false
  deriving DecidableEq, Repr

/-- One direction of link encryption: key, epoch bit, salt and group counter (R339, R342). -/
structure LinkKey where
  key : List Byte
  epoch : Bool
  salt : Nat
  counter : Nat
  deriving DecidableEq, Repr

/-- The steps of link key establishment (R466–R469). -/
structure Keying where
  /-- Messages of the exchange seen so far: 1, 2, 3, or rekey 1, 2. -/
  step : Nat
  rekey : Bool
  /-- This end sent step 1. -/
  initiator : Bool
  /-- The seed of the encapsulation key, or the shared secret, and the nonce of this end. -/
  secret : List Byte
  nonce : List Byte
  /-- The body of step 1, then T2 (R466), and the partner's public key. -/
  transcript : List Byte
  peerKey : List Byte
  heats : Nat
  deriving DecidableEq, Repr

/-- One fabric port: link layer, lanes, encryption and its select window. -/
structure Port where
  state : LinkState
  enabled : Bool
  maxRate : Nat
  holdWidth : Bool
  /-- Encryption setting: 0 off, 1 permitted, 2 required (R336). -/
  encSetting : Nat
  encOn : Bool
  txLanes : Nat
  rxLanes : Nat
  rate : Nat
  lanes : Tab Lane
  linkId : Nat
  partner : Option Ident
  /-- Heats since the state was entered (TRAIN, RETRAIN), and heats of the present error window (R317). -/
  stateHeats : Nat
  errorHeats : Nat
  /-- Receive side: E, held units by LSEQ, VC buffers by VC, open trains by VC. -/
  rxE : Nat
  reorder : Tab LinkUnit
  vcBuf : Tab (List Cell)
  openTrain : Tab OpenTrain
  /-- A LINK_CTL is due (R327), sequenced units received since the last one, totals of credits returned by VC. -/
  ctlDue : Bool
  sinceCtl : Nat
  creditRet : Tab Nat
  lastGaps : List Nat
  /-- Transmit side: next LSEQ, replay buffer by LSEQ, credits held by VC, last CREDIT_RET seen by VC. -/
  nextLseq : Nat
  /-- LSEQ has wrapped since the link was initialised: every LSEQ has been sent once. -/
  wrapped : Bool
  replay : Tab ReplayUnit
  credits : Tab Nat
  lastCredit : Tab Nat
  /-- LINK units waiting to be sent, oldest first, and the last unit sent. -/
  linkOut : List (List Byte)
  lastUnit : List Byte
  laneCmd : Option LaneCmd
  nextCmdId : Nat
  /-- A width change wanted once lanes have been admitted or taken out (R317, R318). -/
  wantWidth : Bool
  /-- A retrain that Hearth has asked for and that waits for the lane command under way (R336). -/
  wantRetrain : Bool
  /-- Relocking after a rate change: units wait and replay timers stop (R332). -/
  quiet : Bool
  keying : Option Keying
  txKey : Option LinkKey
  rxKey : Option LinkKey
  /-- The key of the next epoch (R342), and rekey wanted. -/
  txNext : Option LinkKey
  rxNext : Option LinkKey
  rekeyWanted : Bool
  /-- The chaining secret of the last exchange (R468). -/
  chain : List Byte
  /-- Units of the open transmit group in plaintext, its close wanted, and failures by receive group (R339, R341). -/
  txGroup : List LinkUnit
  groupClose : Bool
  groupFails : Tab Nat
  /-- The cells of held units whose group has verified, by LSEQ (R340). -/
  opened : Tab (List Byte)
  /-- The partner's last key exchange step has come in whole: what follows it is encrypted and held (R468). -/
  keysDue : Bool
  /-- The first LINK_CTL after a retrain is awaited (R333). -/
  resync : Bool
  /-- RC counters of Table — Port select window, by counter number. -/
  counters : Tab Nat
  peakReplay : Nat
  peakReorder : Nat
  epochs : Nat
  deriving DecidableEq, Repr

/-- The initial credits of Table — Virtual channel buffers (R325). -/
def initialCredits : Tab Nat := [(0, 32), (1, 384), (2, 128), (3, 384), (4, 384)]

def Port.reset : Port :=
  { state := .disabled, enabled := false, maxRate := 1, holdWidth := false, encSetting := 0, encOn := false, txLanes := 0,
    rxLanes := 0, rate := 0, lanes := [], linkId := 0, partner := none, stateHeats := 0, errorHeats := 0, rxE := 0, reorder := [],
    vcBuf := [], openTrain := [], ctlDue := false, sinceCtl := 0, creditRet := [], lastGaps := [], nextLseq := 0, wrapped := false,
    replay := [], credits := [], lastCredit := [], linkOut := [], lastUnit := [], laneCmd := none,
    nextCmdId := 0, wantWidth := false, wantRetrain := false, quiet := false, keying := none, txKey := none, rxKey := none, txNext := none,
    rxNext := none, rekeyWanted := false, chain := [], txGroup := [], groupClose := false, groupFails := [], opened := [], keysDue := false, resync := false, counters := [],
    peakReplay := 0, peakReorder := 0, epochs := 0 }

/-! ### Routing and egress scheduling (14_routing_scheduling.md) -/

/-- A train in an egress queue (R359–R361): what has arrived of it and what has been sent. -/
structure QTrain where
  head : Cell
  length : Nat
  /-- Payloads that have arrived, from cell 0. -/
  arrived : List (List Byte)
  sent : Nat
  /-- Arrival port of a transit train. -/
  via : Option Nat
  /-- The arrival port went DOWN: the train stops where it stands (R354). -/
  stopped : Bool
  /-- Finish tag once it is the head of its queue (R367). -/
  tag : Option Nat
  /-- It has been started by the scheduler (R361). -/
  started : Bool
  /-- It ran past a close of its queue, and has been counted (R365). -/
  ranPast : Bool
  /-- Cells timestamped for a latency split: cell index and entry time in ns (R373). -/
  stamps : List (Nat × Nat)
  deriving DecidableEq, Repr

/-- A shaper (R368–R371). -/
structure Shaper where
  rate : Nat
  burst : Nat
  tokens : Int
  /-- A shaper-set takes the place of the next refill (R370). -/
  pendingReset : Option Bool
  deriving DecidableEq, Repr

def Shaper.reset : Shaper := { rate := 0xFFFFFFFF, burst := 0, tokens := 0, pendingReset := none }

/-- A sampled split record (Table — Sampled split record). -/
structure SplitRec where
  heat : Nat
  cls : Nat
  part : Nat
  depth : Nat
  samples : Nat
  maxDelay : Nat
  meanDelay : Nat
  deriving DecidableEq, Repr

/-- The split state of a port (R372–R374). Queues are keyed by 64 × class + partition. -/
structure Split where
  /-- 0 off, 1 SAMPLED, 2 HIGH_WATER. -/
  mode : Nat
  interval : Nat
  watched : List Nat
  entered : Tab Nat
  samples : Tab Nat
  maxDelay : Tab Nat
  sumDelay : Tab Nat
  ring : List SplitRec
  lost : Nat
  highDepth : Tab Nat
  highDelay : Tab Nat
  /-- CTL cells that were timestamped and have not left, with their entry times. -/
  ctlIn : List (Cell × Nat)
  deriving DecidableEq, Repr

def Split.reset : Split :=
  { mode := 0, interval := 1, watched := [], entered := [], samples := [], maxDelay := [], sumDelay := [], ring := [],
    lost := 0, highDepth := [], highDelay := [], ctlIn := [] }

/-- The routing and egress side of a port. -/
structure Egress where
  expected : Neighbour
  miswired : Bool
  twin : Bool
  transitMask : Nat
  admitMask : Nat
  /-- Output chosen for the train open on each receive VC: the output port (R348). -/
  route : Tab Nat
  /-- CTL cells in first-in first-out order (R360). -/
  ctl : List Cell
  /-- Queues of classes 1–4, keyed by 64 × class + partition. -/
  queues : Tab (List QTrain)
  /-- The CTL train that holds VC 0, by its cell 0, with the SEQ that comes next and its length (R325, R352). -/
  ctlOpen : Option (Cell × Nat × Nat)
  /-- The queues whose trains the scheduler has committed to, the oldest first: those before the last wait for their next cell (R361). -/
  committed : List Nat
  /-- Output VCs held by a stopped train, released one heat later, with the boundaries that have passed (R354). -/
  heldVc : Tab Nat
  /-- By class: cells that found no room, each with its input (an arrival port, or 24 for this chip's own units), and the
  input served last (R359). -/
  waiting : Tab (List (Nat × Cell))
  turn : Tab Nat
  qcap : Nat
  guard : Nat
  overhead : Nat
  gates : Option GateList
  /-- The granule of the lap at which the heat began (R364). -/
  lapPos : Nat
  weights : Tab Nat
  vtime : Nat
  ftags : Tab Nat
  shapers : Tab Shaper
  split : Split
  /-- Counters of Table — Queue statistics: 0–4 SENT by class, then DISCARD_DOWN … GATE_OVERRUN. -/
  stats : Tab Nat
  deriving DecidableEq, Repr

def Egress.reset : Egress :=
  { expected := .none, miswired := false, twin := false, transitMask := 0, admitMask := 0, route := [], ctl := [],
    queues := [], ctlOpen := none, committed := [], heldVc := [], waiting := [], turn := [], qcap := 1024, guard := 128, overhead := 0, gates := none, lapPos := 0,
    weights := [], vtime := 0, ftags := [], shapers := [], split := Split.reset, stats := [] }

/-- The chip's coordinate, its route table and the egress side of its ports. -/
structure Routing where
  x : Nat
  y : Nat
  /-- Chip entries 0–1,023 and local entries 1,024–1,087 (R346, R347). -/
  table : Tab Nat
  ports : Tab Egress
  /-- UNREACHABLE answers to trains that this chip's own units had queued (R357), oldest first. -/
  loop : List Train
  /-- The latest time in ns that a command has told, from which on this chip's own cells enter their queues (R372, log entry 42). -/
  clockNs : Nat
  deriving DecidableEq, Repr

def Routing.reset : Routing := { x := 0, y := 0, table := [], ports := [], loop := [], clockNs := 0 }

/-! ### CXL heads (15_cxl_ports.md) -/

/-- The link states of CXL_INFO[2:0]. -/
inductive CxlLink where | down | training | active | perst
  deriving DecidableEq, Repr

/-- An HDM decoder (R381). -/
structure HdmDecoder where
  committed : Bool
  error : Bool
  base : Nat
  size : Nat
  ways : Nat
  granularity : Nat
  position : Nat
  dpaBase : Nat
  deriving DecidableEq, Repr

def HdmDecoder.reset : HdmDecoder :=
  { committed := false, error := false, base := 0, size := 0, ways := 1, granularity := 256, position := 0, dpaBase := 0 }

/-- The kinds of event record (R387). -/
inductive EventKind where
  | refusedRead | refusedWrite | uncorrectable | poisonRead | retirement | replace | thermal | coolant
  | addCapacity | releaseCapacity | offerCancelled | twinSwitch | quenched
  deriving DecidableEq, Repr

/-- An extent of a Dynamic Capacity record: its first block, its blocks, its region and its tag (R382). -/
structure DcExtent where
  first : Nat
  count : Nat
  region : Nat
  tag : Nat
  deriving DecidableEq, Repr

/-- An event record: kind, handle, the DPA it names, its length, the failed check, the extents it lists, and its heat. -/
structure EventRec where
  kind : EventKind
  handle : Nat
  dpa : Nat
  len : Nat
  info : Nat
  extents : List DcExtent
  heat : Nat
  deriving DecidableEq, Repr

/-- One of the five logs of R387. -/
structure EventLog where
  recs : List EventRec
  overflow : Bool
  lost : Nat
  deriving DecidableEq, Repr

def EventLog.reset : EventLog := { recs := [], overflow := false, lost := 0 }

/-- The reply of a CXL mailbox command: the return code and its payload. -/
structure CxlReply where
  opcode : Nat
  code : Nat
  payload : List Byte
  deriving DecidableEq, Repr

/-- One CXL head. -/
structure Head where
  link : CxlLink
  perst : Bool
  width : Nat
  rate : Nat
  flit : Bool
  decoders : Tab HdmDecoder
  /-- Offered and pending, accepted, and accepted from the next boundary: extent numbers (R382, R383). -/
  offered : List Nat
  accepted : List Nat
  accepting : List Nat
  releasing : List Nat
  /-- Accepted extents of a partition in quench, until they are freed: their requests fail check 4 (R385). -/
  removed : List Nat
  /-- The five logs: 0 Informational, 1 Warning, 2 Failure, 3 Fatal, 4 Dynamic Capacity. -/
  logs : Tab EventLog
  nextHandle : Nat
  policy : List Byte
  refusedThisHeat : Bool
  poisonList : List Nat
  poisonOverflow : Bool
  overflowTime : Nat
  timestamp : Nat
  /-- Last replies of the primary and the secondary mailbox. -/
  primary : Option CxlReply
  secondary : Option CxlReply
  /-- A function-level reset takes effect at the next boundary (R391). -/
  flr : Bool
  /-- Back-invalidate snoops outstanding: line and snoop, oldest first. -/
  bisnp : List (Nat × Snoop)
  /-- The last read data that left the head and whether it was poisoned. -/
  lastRead : Option (List Byte × Bool)
  /-- The values that the last reads of BAR0 and of BAR2 by this head's host returned (R402, R450). -/
  bar0 : Nat
  bar2 : Nat
  counters : Tab Nat
  deriving DecidableEq, Repr

def Head.reset : Head :=
  { link := .down, perst := false, width := 0, rate := 0, flit := false, decoders := [], offered := [], accepted := [],
    accepting := [], releasing := [], removed := [], logs := [], nextHandle := 1, policy := [], refusedThisHeat := false,
    poisonList := [], poisonOverflow := false, overflowTime := 0, timestamp := 0, primary := none, secondary := none,
    flr := false, bisnp := [], lastRead := none, bar0 := 0, bar2 := 0, counters := [] }

/-- The two heads, the region table and the DC tag table. -/
structure Cxl where
  heads : Tab Head
  /-- Regions 0–7: base and length in 256 MiB blocks (R379). -/
  regions : Tab (Nat × Nat)
  tags : Tab (List Byte)
  deriving DecidableEq, Repr

def Cxl.reset : Cxl := { heads := [], regions := [], tags := [] }

/-! ### Hearth, its mailboxes and the command set (16_hearth_registers.md, 17_command_set.md) -/

/-- The states of a Hearth core (Table — Hearth core states). -/
inductive CoreState where | active | standby | failed | warmUp | syncing
  deriving DecidableEq, Repr

/-- The roles of R427. -/
inductive Role where | fm | bmc | mon | pr | any
  deriving DecidableEq, Repr

/-- An ICS reply as it leaves Hearth (R420). -/
structure IcsReply where
  opcode : Nat
  flags : Nat
  status : Nat
  tag : Nat
  partition : Nat
  partNo : Nat
  payload : List Byte
  deriving DecidableEq, Repr

/-- The objects of R423: what an accepted command changes, and a later one conflicts with. -/
inductive Obj where
  | partition (p : Nat) | memberList (p : Nat) | coherence (p : Nat) | contextRange (p : Nat) | sealQuota (p : Nat)
  | gateGroup (p : Nat) | extent (n : Nat) | psaBlock (p blk : Nat) | sealObj (n : Nat) | melt (n : Nat)
  | context (n : Nat) | port (n : Nat) | target (n : Nat) | table (name : String) | programSlot (p n : Nat)
  | space (n : Nat) | core
  /-- What else is held for one partition, by name: hint ranges, a ring, the anvil store, the fault queue. -/
  | item (p : Nat) (name : String)
  deriving DecidableEq, Repr

/-- What is held of a request that comes in parts (R421). -/
structure HeldParts where
  opcode : Nat
  tag : Nat
  got : List Byte
  next : Nat
  heatsLeft : Nat
  deriving DecidableEq, Repr

/-- What is held of a result that goes out in parts (R421). -/
structure HeldResult where
  opcode : Nat
  tag : Nat
  partition : Nat
  status : Nat
  accepted : Bool
  rest : List Byte
  next : Nat
  heatsLeft : Nat
  deriving DecidableEq, Repr

/-- One channel as Hearth keeps it: the command whose reply it awaits, its last reply, held parts and results,
the fm-bind steps (R428) and the attestation report held for it (R433). -/
structure ChanState where
  awaiting : Option Nat
  reply : Option IcsReply
  parts : Option HeldParts
  result : Option HeldResult
  nonce : Option (List Byte × Nat)
  bindPart : Option (List Byte)
  report : Option (List Byte)
  /-- The request of the report being signed. -/
  unsigned : Option (List Byte)
  deriving DecidableEq, Repr

def ChanState.reset : ChanState :=
  { awaiting := none, reply := none, parts := none, result := none, nonce := none, bindPart := none, report := none, unsigned := none }

/-- The events that end a command after its boundary (R431). -/
inductive EventKey where
  | extentActive (n : Nat) | extentFree (n : Nat) | sweep (p : Nat) | unmapDrain (n : Nat) | sealFree (n : Nat)
  | contextReset (c : Nat)
  /-- A fence of an address space, and the result that the reply then carries. -/
  | fence (asid : Nat) (result : List Byte)
  | digest (p slot psa len live : Nat) | report | programmed
  | verified (target : Nat) | unitReturn (unit : Nat) | hearthReturn (core : Nat) | hearthSwitch
  | twinEpoch (p : Nat)
  deriving DecidableEq, Repr

/-- Where an accepted command stands: its change is staged for a boundary `left` boundaries ahead (R32), or it
waits for an event (R431), or has ended. -/
inductive Wait where
  | boundary (left : Nat) (c : Change)
  | event (k : EventKey)
  /-- It has ended while no core could reply: the status and the result of the reply still to be written (R397, R400). -/
  | ended (status : Nat) (payload : List Byte)
  deriving DecidableEq, Repr

/-- An accepted command that has not ended: the journal of R396. -/
structure Running where
  id : Nat
  chan : Chan
  opcode : Nat
  tag : Nat
  partition : Nat
  /-- Its reply is still to be written (false once an async command has replied, or the reply is discarded). -/
  owed : Bool
  objs : List Obj
  wait : Wait
  deriving DecidableEq, Repr

/-- A partition mailbox page (Table — Mailbox page). -/
structure Page where
  /-- MBX_STATUS.STATE: 0 IDLE, 1 PENDING, 2 RUNNING, 3 DONE. -/
  state : Nat
  accepted : Bool
  timedOut : Bool
  status : Nat
  replyLen : Nat
  /-- SEQ, modulo 2^32. -/
  seq : Nat
  timeout : Nat
  psa : Nat
  stray : Nat
  buf : Tab Byte
  /-- The message taken at the submission and whether it was indirect (R408). -/
  message : List Byte
  indirect : Bool
  bufPsa : Nat
  /-- Boundaries to the mailbox timeout of the submission (R411, R412). -/
  left : Option Nat
  /-- A status and the bytes of a reply that waits for the lines of its indirect buffer (R289, R408). -/
  due : Option (Nat × List Byte)
  /-- The message of an indirect submission is still to be read from its buffer (R289, R408). -/
  fetch : Bool
  deriving DecidableEq, Repr

def Page.reset : Page :=
  { state := 0, accepted := false, timedOut := false, status := 0, replyLen := 0, seq := 0, timeout := 0, psa := 0,
    stray := 0, buf := [], message := [], indirect := false, bufPsa := 0, left := none, due := none, fetch := false }

/-- The Hearth pair, the DEV and SEL blocks, the mailboxes and the command channels. -/
structure Hearth where
  core0 : CoreState
  core1 : CoreState
  /-- DEV_STATUS[1]: the active core. -/
  active : Nat
  /-- DEV_STATUS[4] SWITCHING and the boundaries left to boundary n + 2 (R397). -/
  switching : Bool
  switchLeft : Nat
  /-- The switch-over under way was requested by hearth-switch (R399). -/
  planned : Bool
  /-- DEV_STATUS[5] HEARTH_LOST (R400). -/
  lost : Bool
  /-- The counters of ACCESS_REFUSED: BAR0 accesses refused, fabric accesses denied, requests discarded (R402, R417, R418). -/
  accessRefused : Nat
  denied : Nat
  discarded : Nat
  /-- What DEV_ID, DEV_REV, DEV_STATUS and REPLACE_STATUS hold of the values that Hearth writes, while no core writes them
  (R398, R400). -/
  heldRegs : Option (Nat × Nat × Nat × Nat)
  selUnit : Nat
  selClass : Nat
  selGen : Nat
  pages : Tab Page
  /-- The journal: accepted commands that have not ended, in order of acceptance (R396, R423). -/
  running : List Running
  /-- Staged changes that no command awaits: boundaries left and the change (R483). -/
  staged : List (Nat × Change)
  nextId : Nat
  chans : List (Chan × ChanState)
  /-- The channel that holds the fabric-manager binding (R429). -/
  binding : Option Chan
  /-- Cores whose table copy is complete: STANDBY at the next boundary (R399). -/
  synced : List Nat
  /-- The channel that Hearth served last, by its place in the rotation (R410). -/
  turn : Nat
  /-- Requests that the register bridge holds until their replies can be queued, with their arrival ports, oldest first
  (R355, R418). -/
  bridge : List (Nat × Train)
  deriving DecidableEq, Repr

def Hearth.reset : Hearth :=
  { core0 := .active, core1 := .standby, active := 0, switching := false, switchLeft := 0, planned := false,
    lost := false, accessRefused := 0, denied := 0, discarded := 0, heldRegs := none, selUnit := 0, selClass := 0,
    selGen := 0, pages := [], running := [], staged := [], nextId := 0, chans := [], binding := none, synced := [], turn := 67, bridge := [] }

/-! ### Starter (18_starter_interrupts.md) -/

/-- One interrupt source (R443, R442). -/
structure Source where
  enable : Bool
  priority : Nat
  target : Option Nat
  count : Nat
  /-- The target it is ACTIVE under. -/
  active : Option Nat
  /-- The partition that claimed a melt or anvil source, and the target page it was configured through. -/
  owner : Option Nat
  via : Nat
  deriving DecidableEq, Repr

def Source.reset : Source :=
  { enable := false, priority := 0, target := none, count := 0, active := none, owner := none, via := 0 }

/-- One interrupt target: the fields of Table — Starter target page. -/
structure Target where
  threshold : Nat
  enable : Bool
  idle : Bool
  delivery : Nat
  modHeats : Nat
  modCount : Nat
  dest : Nat
  /-- TGT_BIND[7:0]: 0 unbound, 1–63 partition, 0x40 and 0x41 head. -/
  binding : Nat
  armed : Bool
  firings : Nat
  srcSel : Nat
  completeStray : Nat
  strayRaise : Nat
  redeliver : Nat
  lost : Nat
  lastHeat : Nat
  /-- Boundaries since the last delivery; none before the first (R449). -/
  since : Option Nat
  /-- Bound to a quenching partition: sends no further deliveries (R452). -/
  stopped : Bool
  deriving DecidableEq, Repr

def Target.reset : Target :=
  { threshold := 0, enable := false, idle := false, delivery := 0, modHeats := 0, modCount := 0, dest := 0, binding := 0,
    armed := true, firings := 0, srcSel := 0, completeStray := 0, strayRaise := 0, redeliver := 0, lost := 0,
    lastHeat := 0, since := none, stopped := false }

/-- An MSI-X message: its head and vector, and the address and data that the host has put into the vector's entry. -/
structure MsixMsg where
  head : Nat
  vector : Nat
  address : Nat
  data : Nat
  deriving DecidableEq, Repr

/-- Starter: sources, targets, the MSI-X tables of the two heads, the messages they sent and the device events
signalled to Hearth. -/
structure Starter where
  sources : Tab Source
  targets : Tab Target
  /-- The words of each head's MSI-X table, keyed by 1024 × head + word: address low, address high, data and vector control of each
  vector; and the pending bits, keyed by 256 × head + vector (R450). -/
  msixTable : Tab Nat
  msixPend : Tab Bool
  /-- MSI-X messages sent, newest first. -/
  msixSent : List MsixMsg
  /-- Firings of each device source on Hearth's internal line (R444). -/
  hearthLine : Tab Nat
  deriving DecidableEq, Repr

def Starter.reset : Starter :=
  { sources := [], targets := [], msixTable := [], msixPend := [], msixSent := [], hearthLine := [] }

/-! ### The security block and the boot flash (19_security.md, 23_bringup.md) -/

/-- The fields of the configuration record in force (Table — Configuration record). -/
structure CfgRecord where
  version : Nat
  orderCode : Nat
  stackSpares : Nat
  bulkSpare : Nat
  confWays : Nat
  cacheRegion : Nat
  twinUndo : Nat
  slotLend : Nat
  gpio0Fn : Nat
  sbVendorId : Nat
  fmKeyHash : List Byte
  portBoot : Tab Nat
  deriving DecidableEq, Repr

/-- The defaults of Emsenyx records, and 0 for the fields without a default. -/
def CfgRecord.default : CfgRecord :=
  { version := 0, orderCode := 0, stackSpares := 1, bulkSpare := 1, confWays := 2, cacheRegion := 0, twinUndo := 16,
    slotLend := 0, gpio0Fn := 0, sbVendorId := 0, fmKeyHash := [], portBoot := [] }

/-- The boot flash (R528, R529): signed objects by what is stored in them. -/
structure Flash where
  activeImage : Nat
  cfgPending : Bool
  /-- Bytes of image A (0), image B (1), the staging copy (2) and the record in force (3). -/
  objects : Tab (Tab Byte)
  /-- Length programmed of each object. -/
  lengths : Tab Nat
  chain : Tab Byte
  helper : Tab Byte
  deriving DecidableEq, Repr

def Flash.reset : Flash := { activeImage := 0, cfgPending := false, objects := [], lengths := [], chain := [], helper := [] }

/-- A partition's attestation log (R460): entries in order and LOG_DIGEST. -/
structure AttLog where
  entries : List (List Byte)
  digest : List Byte
  deriving DecidableEq, Repr

/-- The security block. -/
structure Sec where
  config : CfgRecord
  flash : Flash
  romVersion : Nat
  cfgDigest : List Byte
  cfgVersion : Nat
  fwDigest : List Byte
  fwVersion : Nat
  image : Nat
  fwFloor : Nat
  cfgFloor : Nat
  floorAbsent : Bool
  /-- Floors as received by the ROM before step 3 ends. -/
  floorSeen : Bool
  /-- The secret the ROM reconstructed (R458), the H of its public key, the key. -/
  identitySecret : List Byte
  identityHash : List Byte
  publicKey : List Byte
  identityFailed : Bool
  logs : Tab AttLog
  drbgStopped : Bool
  reseedDue : Bool
  /-- Boundaries since the last reseed that fell due (R463). -/
  reseedHeats : Nat
  reseeds : Nat
  /-- Draws taken from the DRBG: the index of the next free value. -/
  draws : Nat
  /-- The XTS key pairs of the key slots: 0 the device's, 1-63 the partitions', 64 the scrub key (R464); scrub keys made so far. -/
  memKeys : Tab (List Byte)
  scrubKeys : Nat
  scrubKeyDue : Bool
  debugUnlocked : Bool
  recovery : Bool
  /-- Firmware write or activate accepted and not yet done: target, offset, data. -/
  programming : Option (Nat × Nat × List Byte)
  activating : Option Nat
  deriving DecidableEq, Repr

def Sec.reset : Sec :=
  { config := CfgRecord.default, flash := Flash.reset, romVersion := 0, cfgDigest := [], cfgVersion := 0, fwDigest := [],
    fwVersion := 0, image := 0, fwFloor := 0, cfgFloor := 0, floorAbsent := false, floorSeen := false, identitySecret := [], identityHash := [],
    publicKey := [], identityFailed := false, logs := [], drbgStopped := false, reseedDue := false, reseedHeats := 0, reseeds := 0,
    draws := 0, memKeys := [], scrubKeys := 0, scrubKeyDue := false, debugUnlocked := false, recovery := false,
    programming := none, activating := none }

/-! ### Bellows (20_bellows_power.md) -/

/-- The preferred points at boot (R482). -/
def PhasePoint.boot (p : Nat) : PhasePoint :=
  if p = 7 then { step := 5, cls := 3, mask := 0 } else { step := 0, cls := 0, mask := 2 ^ 64 - 1 }

/-- A throttle reason (R488, R496): its hold, and its µs counter (in ns), onsets and last onset. -/
structure Reason where
  /-- It has triggered and its hold time has not passed. -/
  live : Bool
  /-- Heats in which its release condition has held. -/
  quiet : Nat
  ns : Nat
  onsets : Nat
  lastOnset : Nat
  deriving DecidableEq, Repr

def Reason.reset : Reason := { live := false, quiet := 0, ns := 0, onsets := 0, lastOnset := 0 }

/-- A start or stop of an anvil that the load-step governor holds back (R491). -/
structure HeldChange where
  start : Bool
  anvil : Nat
  deriving DecidableEq, Repr

/-- Bellows: limits, phases, the point in force, throttle reasons, estimates, readings and energy. -/
structure Bellows where
  limit : Nat
  phases : Tab PhasePoint
  step : Nat
  /-- The class in force and the thermal class of each stack. -/
  classes : Tab Nat
  thermal : Tab Nat
  enable : Nat
  /-- S and T as of the last duty 4 (R371, R485). -/
  scale : Nat
  rung : Nat
  reasons : Tab Reason
  stackReason : Tab Reason
  /-- Voltage of each step in mV, voltage set, and the faster step that awaits the regulator (R487). -/
  stepMv : Tab Nat
  setMv : Nat
  reportedMv : Nat
  wanted : Option Nat
  adjustDue : Bool
  /-- Boundaries of the running 256-heat cycle (R44, R487). -/
  cycle : Nat
  stretched : Bool
  stretchNs : Nat
  /-- Estimates and readings, in W and A: the heat's device estimate, the measured rails. -/
  estimate : Nat
  railEstimate : Nat
  reading : Nat
  coreAmps : Nat
  /-- Boundaries since the last reading, up to 29 (R490). -/
  readAge : Nat
  divergence : Bool
  overRun : Nat
  underRun : Nat
  missing : Bool
  missingCount : Nat
  /-- Power of the last 64 heats, newest first; of the blocks, newest first; sum and heats of the open block. -/
  last64 : List Nat
  blocks : List Nat
  blockSum : Nat
  blockHeats : Nat
  blockDue : Bool
  mean64 : Nat
  meanSustained : Nat
  held : List HeldChange
  dieTemp : Nat
  /-- Coolant stop: boundaries since C. -/
  coolant : Option Nat
  /-- The stop begins at the next boundary. -/
  coolantNext : Bool
  /-- In a coolant stop: CCLK has still to fall in this heat (R493). -/
  cclkFalls : Bool
  energy : Nat
  energyNj : Nat
  energyHeld : Nat
  deriving DecidableEq, Repr

def Bellows.reset : Bellows :=
  { limit := 700, phases := [], step := 0, classes := [], thermal := [], enable := 0, scale := 256, rung := 0,
    reasons := [], stackReason := [], stepMv := [], setMv := 750, reportedMv := 750, wanted := none, adjustDue := false, cycle := 0,
    stretched := false, stretchNs := 0, estimate := 0, railEstimate := 0, reading := 0, coreAmps := 0, readAge := 0,
    divergence := false, overRun := 0, underRun := 0, missing := false, missingCount := 0, last64 := [], blocks := [],
    blockSum := 0, blockHeats := 0, blockDue := false, mean64 := 0, meanSustained := 0, held := [], dieTemp := 0,
    coolant := none, coolantNext := false, cclkFalls := false, energy := 0, energyNj := 0, energyHeld := 0 }

/-! ### Twin pair, replacement status, pins and boot (21, 23, 24) -/

/-- The twin member states, in the order of Table — Twin member states. -/
inductive TwinState where | unpaired | solo | primary | syncing | standby | stale | takeover
  deriving DecidableEq, Repr

/-- A segment saved in the undo area: its old content and the locations of it that were poison, 0 to 1,023 (R507). -/
structure Saved where
  seg : Nat
  bytes : List Byte
  poison : List Nat
  deriving DecidableEq, Repr

/-- An epoch of a partition (R507): number, segments frozen, copied and waited for, at this member. -/
structure Epoch where
  number : Nat
  committed : Nat
  dirty : List Nat
  /-- Primary: frozen segments not yet copied, with those that writes wait for first. Standby: segments written whole. -/
  frozen : List Nat
  copying : Bool
  /-- Standby: segments reserved, and segments saved in the undo area with their old content. -/
  reserved : Nat
  undo : List Saved
  deriving DecidableEq, Repr

def Epoch.reset : Epoch :=
  { number := 0, committed := 0, dirty := [], frozen := [], copying := false, reserved := 0, undo := [] }

/-- A mirrored write that awaits WR_CMP (R505). -/
structure Mirrored where
  tag : Nat
  dpa : Nat
  len : Nat
  /-- The completion it holds back: the requester's train, none for the device's own. -/
  answer : Option Train
  /-- It is an epoch or resync copy (M6). -/
  copy : Bool
  deriving DecidableEq, Repr

/-- The twin monitor. -/
structure Twin where
  state : TwinState
  role : Nat
  partnerH : List Byte
  partnerState : Nat
  heardThisHeat : Bool
  lost : Nat
  lastHeard : Nat
  heatD : Nat
  /-- Boundaries since D (R509). -/
  sinceD : Nat
  batonIn : Bool
  mirrored : List Mirrored
  resync : List Nat
  /-- The member kept its memory: only the resync set is copied (R512). -/
  kept : Bool
  epochs : Tab Epoch
  /-- Segments still to restore after a takeover. -/
  restore : List Nat
  resyncDone : Bool
  nextTag : Nat
  /-- Table changes of the stream staged for their boundary (R502). -/
  stream : List Change
  deriving DecidableEq, Repr

def Twin.reset : Twin :=
  { state := .unpaired, role := 0, partnerH := [], partnerState := 0, heardThisHeat := false, lost := 0, lastHeard := 0,
    heatD := 0, sinceD := 0, batonIn := false, mirrored := [], resync := [], kept := false, epochs := [], restore := [],
    resyncDone := false, nextTag := 0, stream := [] }

/-- The input pins as last sampled and the output pins as driven (R527, R541). BATON_OUT: none is high impedance. -/
structure Pins where
  pwrok : Bool
  sysRstN : Bool
  coolantOk : Bool
  pwrBrakeN : Bool
  /-- THERMTRIP has been latched (R495). -/
  tripped : Bool
  ready : Bool
  replaceN : Bool
  thermtripN : Bool
  batonOut : Option Bool
  /-- Steps of 125 ps from the boundary of this heat for which HEAT_PULSE_OUT is high: 512, that is 64 ns, or 0 (R45). -/
  heatPulse : Nat
  /-- TRACE_CLK and TRACE_D0–TRACE_D3 are driven (R546). -/
  trace : Bool
  deriving DecidableEq, Repr

def Pins.reset : Pins :=
  { pwrok := false, sysRstN := false, coolantOk := true, pwrBrakeN := true, tripped := false, ready := false,
    replaceN := true, thermtripN := true, batonOut := none, heatPulse := 0, trace := false }

/-- The boot sequencer (R532–R540). -/
structure Boot where
  /-- Step of Table — Boot sequence; 0 in reset, 7 READY. -/
  step : Nat
  cold : Bool
  /-- The first READY after a cold boot has been reached (R540). -/
  wasReady : Bool
  /-- The entry flush of R536 is running. -/
  flushing : Bool
  /-- Held before step 4 for coolant (R540). -/
  held : Bool
  /-- BATON_OUT still driven low after a reset entry (R536). -/
  batonLow : Bool
  /-- The first boundary after step 6 has still to come (R80, R537). -/
  first : Bool
  /-- REPLACE_STATUS as last evaluated (R515). -/
  replaceStatus : Nat
  deriving DecidableEq, Repr

def Boot.reset : Boot :=
  { step := 0, cold := true, wasReady := false, flushing := false, held := false, batonLow := false, first := false, replaceStatus := 0 }

/-! ### The block -/

/-- The reasons a step may stop with a fault. No meaning of this model raises one: every error the spec describes
is a status, a counter, an event or a poison mark of the next state (INVENTORY.md, Faults). -/
inductive Fault where
  /-- Raised by no command. It would be safe: the model would stop where the block goes on. -/
  | none
  deriving DecidableEq, Repr

/-- The reasons a step may be refused. -/
inductive Refusal where
  /-- Raised by an arm of exec that has no meaning yet; safe: nothing is claimed of the command. -/
  | notModelled (mnemonic : String)
  deriving DecidableEq, Repr

/-- The state of the block and the queue of the commands that wait, first in, first out. -/
structure State where
  pending : List Instr
  pins : Pins
  boot : Boot
  heat : Heat
  hearth : Hearth
  starter : Starter
  parts : Parts
  tiers : Tiers
  dram : Dram
  crucibles : Crucibles
  anvils : Anvils
  tongs : Tongs
  coh : Coh
  ports : Tab Port
  routing : Routing
  cxl : Cxl
  sec : Sec
  bellows : Bellows
  twin : Twin
  /-- The model's own counter of free values drawn: what an operation takes where the spec leaves a value open. -/
  free : Nat
  deriving DecidableEq, Repr

/-- The block after a cold reset: PWROK low, nothing booted, every register at its reset value. -/
def State.reset : State :=
  { pending := [], pins := Pins.reset, boot := Boot.reset, heat := Heat.reset, hearth := Hearth.reset,
    starter := Starter.reset, parts := Parts.reset, tiers := Tiers.reset, dram := Dram.reset,
    crucibles := Crucibles.reset, anvils := Anvils.reset, tongs := Tongs.reset, coh := Coh.reset, ports := [],
    routing := Routing.reset, cxl := Cxl.reset, sec := Sec.reset, bellows := Bellows.reset, twin := Twin.reset,
    free := 0 }

end Sys2Proof.Machine
end

