-- ==== Sys2Proof/Machine/Ops.lean ====
section
/-! DEFINITION. The named operations over the state: one reader and one writer for every table of the block, the
counters, the free values and the output pins. -/

namespace Sys2Proof.Machine

/-- What a meaning answers. -/
abbrev Out := Host.Outcome State Fault Refusal

/-! ### Partitions, extents and seals -/

def State.part (s : State) (p : Nat) : Partition := tget Partition.reset s.parts.parts p

def State.modPart (s : State) (p : Nat) (f : Partition → Partition) : State :=
  { s with parts := { s.parts with parts := tmod Partition.reset s.parts.parts p f } }

def State.ext (s : State) (n : Nat) : Extent := tget Extent.reset s.parts.extents n

def State.modExt (s : State) (n : Nat) (f : Extent → Extent) : State :=
  { s with parts := { s.parts with extents := tmod Extent.reset s.parts.extents n f } }

def State.seal (s : State) (n : Nat) : Seal := tget Seal.reset s.parts.seals n

def State.modSeal (s : State) (n : Nat) (f : Seal → Seal) : State :=
  { s with parts := { s.parts with seals := tmod Seal.reset s.parts.seals n f } }

/-! ### Forges and memory -/

def State.forge (s : State) (f : Nat) : Forge := tget Forge.reset s.tiers.forges f

def State.modForge (s : State) (f : Nat) (g : Forge → Forge) : State :=
  { s with tiers := { s.tiers with forges := tmod Forge.reset s.tiers.forges f g } }

/-- Adds to a counter of a forge select window; it is held to its width when it is read (R36, R76). -/
def State.countForge (s : State) (f k n : Nat) : State :=
  s.modForge f (fun g => { g with counters := tcount 64 g.counters k n })

def State.tag (s : State) (way : Nat) : SegTag := tget SegTag.reset s.tiers.tags way

def State.modTag (s : State) (way : Nat) (f : SegTag → SegTag) : State :=
  { s with tiers := { s.tiers with tags := tmod SegTag.reset s.tiers.tags way f } }

/-- A memory key is destroyed: its key slot holds none (R464). -/
def State.dropKey (s : State) (p : Nat) : State := { s with sec := { s.sec with memKeys := tdel s.sec.memKeys p } }

def State.modMem (s : State) (f : Mem → Mem) : State := { s with tiers := { s.tiers with mem := f s.tiers.mem } }

/-! ### DRAM -/

def State.stack (s : State) (k : Nat) : Stack := tget Stack.reset s.dram.stackTab k

def State.modStack (s : State) (k : Nat) (f : Stack → Stack) : State :=
  { s with dram := { s.dram with stackTab := tmod Stack.reset s.dram.stackTab k f } }

def State.bulkCh (s : State) (k : Nat) : BulkChannel := tget BulkChannel.reset s.dram.bulk k

def State.modBulk (s : State) (k : Nat) (f : BulkChannel → BulkChannel) : State :=
  { s with dram := { s.dram with bulk := tmod BulkChannel.reset s.dram.bulk k f } }

def State.unit (s : State) (u : Nat) : ServiceUnit := tget ServiceUnit.reset s.dram.units u

def State.modUnit (s : State) (u : Nat) (f : ServiceUnit → ServiceUnit) : State :=
  { s with dram := { s.dram with units := tmod ServiceUnit.reset s.dram.units u f } }

def State.queue (s : State) (q : Nat) : DramQueue := tget DramQueue.reset s.dram.queues q

def State.modQueue (s : State) (q : Nat) (f : DramQueue → DramQueue) : State :=
  { s with dram := { s.dram with queues := tmod DramQueue.reset s.dram.queues q f } }

def State.walker (s : State) (w : Nat) : Walker := tget Walker.reset s.dram.walkers w

def State.modWalker (s : State) (w : Nat) (f : Walker → Walker) : State :=
  { s with dram := { s.dram with walkers := tmod Walker.reset s.dram.walkers w f } }

def State.background (s : State) (f : Nat) : Background := tget Background.reset s.dram.background f

def State.modBackground (s : State) (f : Nat) (g : Background → Background) : State :=
  { s with dram := { s.dram with background := tmod Background.reset s.dram.background f g } }

/-! ### Crucibles, anvils and tongs -/

def State.melt (s : State) (m : Nat) : Melt := tget Melt.reset s.crucibles.melts m

def State.modMelt (s : State) (m : Nat) (f : Melt → Melt) : State :=
  { s with crucibles := { s.crucibles with melts := tmod Melt.reset s.crucibles.melts m f } }

/-- Adds to a counter of a crucible select window (R195); they are 64 bits wide. -/
def State.countCru (s : State) (c k n : Nat) : State :=
  { s with crucibles := { s.crucibles with counters := tcount 64 s.crucibles.counters (32 * c + k) n } }

def State.anvil (s : State) (a : Nat) : Anvil := tget Anvil.reset s.anvils.anvils a

def State.modAnvil (s : State) (a : Nat) (f : Anvil → Anvil) : State :=
  { s with anvils := { s.anvils with anvils := tmod Anvil.reset s.anvils.anvils a f } }

/-- Adds to a counter of an anvil select window (R248). -/
def State.countAnvil (s : State) (a k n : Nat) : State :=
  s.modAnvil a (fun v => { v with counters := tcount 64 v.counters k n })

def State.ctx (s : State) (c : Nat) : Ctx := tget Ctx.reset s.tongs.ctxs c

def State.modCtx (s : State) (c : Nat) (f : Ctx → Ctx) : State :=
  { s with tongs := { s.tongs with ctxs := tmod Ctx.reset s.tongs.ctxs c f } }

/-- Adds to a counter of a tongs select window (R288). -/
def State.countTongs (s : State) (e k n : Nat) : State :=
  { s with tongs := { s.tongs with counters := tcount 64 s.tongs.counters (32 * e + k) n } }

/-! ### Links, routing and CXL heads -/

def State.port (s : State) (i : Nat) : Port := tget Port.reset s.ports i

def State.modPort (s : State) (i : Nat) (f : Port → Port) : State :=
  { s with ports := tmod Port.reset s.ports i f }

/-- Adds to a counter of a port select window (R343). -/
def State.countPort (s : State) (i k n : Nat) : State :=
  s.modPort i (fun p => { p with counters := tcount 64 p.counters k n })

def State.egress (s : State) (i : Nat) : Egress := tget Egress.reset s.routing.ports i

def State.modEgress (s : State) (i : Nat) (f : Egress → Egress) : State :=
  { s with routing := { s.routing with ports := tmod Egress.reset s.routing.ports i f } }

/-- Adds to a counter of Table — Queue statistics. -/
def State.countQueue (s : State) (i k n : Nat) : State :=
  s.modEgress i (fun e => { e with stats := tcount 64 e.stats k n })

def State.head (s : State) (h : Nat) : Head := tget Head.reset s.cxl.heads h

def State.modHead (s : State) (h : Nat) (f : Head → Head) : State :=
  { s with cxl := { s.cxl with heads := tmod Head.reset s.cxl.heads h f } }

/-- Adds to a counter of a head select window (R394). -/
def State.countHead (s : State) (h k n : Nat) : State :=
  s.modHead h (fun x => { x with counters := tcount 64 x.counters k n })

/-! ### Hearth, Starter, Bellows, twin -/

def State.page (s : State) (p : Nat) : Page := tget Page.reset s.hearth.pages p

def State.modPage (s : State) (p : Nat) (f : Page → Page) : State :=
  { s with hearth := { s.hearth with pages := tmod Page.reset s.hearth.pages p f } }

def State.chan (s : State) (c : Chan) : ChanState := (lookupBy s.hearth.chans c).getD ChanState.reset

def State.modChan (s : State) (c : Chan) (f : ChanState → ChanState) : State :=
  { s with hearth := { s.hearth with chans := insertBy s.hearth.chans c (f (s.chan c)) } }

def State.source (s : State) (k : Nat) : Source := tget Source.reset s.starter.sources k

def State.modSource (s : State) (k : Nat) (f : Source → Source) : State :=
  { s with starter := { s.starter with sources := tmod Source.reset s.starter.sources k f } }

def State.target (s : State) (t : Nat) : Target := tget Target.reset s.starter.targets t

def State.modTarget (s : State) (t : Nat) (f : Target → Target) : State :=
  { s with starter := { s.starter with targets := tmod Target.reset s.starter.targets t f } }

def State.reason (s : State) (r : Nat) : Reason := tget Reason.reset s.bellows.reasons r

def State.modReason (s : State) (r : Nat) (f : Reason → Reason) : State :=
  { s with bellows := { s.bellows with reasons := tmod Reason.reset s.bellows.reasons r f } }

def State.phasePoint (s : State) (p : Nat) : PhasePoint := tget (PhasePoint.boot p) s.bellows.phases p

def State.epoch (s : State) (p : Nat) : Epoch := tget Epoch.reset s.twin.epochs p

def State.modEpoch (s : State) (p : Nat) (f : Epoch → Epoch) : State :=
  { s with twin := { s.twin with epochs := tmod Epoch.reset s.twin.epochs p f } }

/-! ### Free values -/

/-- The state after a free value has been drawn: the next draw has another number. -/
def State.drawn (s : State) : State := { s with free := s.free + 1 }

/-! ### Times and conditions every unit asks for -/

/-- The time in ns, counted from power-on, of a moment `nowNs` after the last boundary. Delays are differences of it, so neither a wrap
nor a jump of the heat count touches them (R29, R44, R372). -/
def State.nsNow (s : State) (nowNs : Nat) : Nat := s.heat.time / 8 + nowNs

/-- A command tells the time. -/
def State.atNs (s : State) (nowNs : Nat) : State := { s with routing := { s.routing with clockNs := max s.routing.clockNs (s.nsNow nowNs) } }

/-- The device is READY: boot step 7 has completed and no reset is under way (R535). -/
def State.isReady (s : State) : Bool := s.boot.step == 7 && s.pins.pwrok && s.pins.sysRstN

/-- The state a twin member has while it is primary (DEV_STATUS[13], R503). -/
def TwinState.isPrimary : TwinState → Bool
  | .solo => true
  | .primary => true
  | .takeover => true
  | _ => false

/-- A member state in which REQ is admitted: the device is no twin member, or it is in SOLO or PRIMARY. A member in TAKEOVER drives
BATON_OUT high and still answers BUSY up to D + 2 (R503, R509). -/
def TwinState.serves : TwinState → Bool
  | .unpaired => true
  | .solo => true
  | .primary => true
  | _ => false

/-- The number of a twin state, in the order of Table — Twin member states. -/
def TwinState.code : TwinState → Nat
  | .unpaired => 0 | .solo => 1 | .primary => 2 | .syncing => 3 | .standby => 4 | .stale => 5 | .takeover => 6

/-- A coolant stop is in force (R493). -/
def State.coolantStop (s : State) : Bool := s.bellows.coolant.isSome

/-- Fabric ports and CXL links are electrically idle: from C + 6 of a coolant stop (R493). -/
def State.linksIdle (s : State) : Bool := s.bellows.coolant.any (fun n => decide (6 ≤ n))

/-- The level of BATON_OUT (R503, R504, R541): none is high impedance. -/
def State.baton (s : State) : Option Bool :=
  if !s.pins.pwrok then none
  else if s.boot.batonLow then some false
  else if !s.pins.sysRstN || s.boot.step < 3 || s.sec.recovery then none
  else some (s.twin.state.isPrimary && !s.coolantStop && !s.pins.tripped)

/-- The output pins as the state drives them (R45, R495, R503, R515, R524, R535, R541, R546). -/
def State.outPins (s : State) : Pins :=
  { s.pins with
    ready := s.isReady
    replaceN := s.boot.replaceStatus % 32 == 0 || !s.pins.pwrok || !s.pins.sysRstN || s.sec.recovery
    thermtripN := !s.pins.tripped
    batonOut := s.baton
    heatPulse := if s.heat.pulse && s.sec.config.gpio0Fn == 1 && s.isReady then 512 else 0
    trace := s.sec.debugUnlocked && s.sec.config.gpio0Fn == 2 && s.isReady }

/-- Drives the output pins from the state: what every meaning ends with. -/
def drive (s : State) : State := { s with pins := s.outPins }

/-- The answer of a meaning: the next state, its pins driven. -/
def done (s : State) : Out := .next (drive s)

/-- The length of a heat in steps of 125 ps, and of a nominal one. -/
def heatSteps : Nat := 16384

/-- The number of CCLK cycles in a heat at a clock step (R27). -/
def cclkPerHeat (step : Nat) : Nat :=
  match step with | 0 => 5120 | 1 => 4608 | 2 => 4096 | 3 => 3584 | 4 => 3072 | _ => 2048

/-- The number of set bits of a 64-bit mask. -/
def pop64 (m : Nat) : Nat := popCount 64 m

/-- The indices of the tables' entries that satisfy a predicate, rising. -/
def indicesWhere {α : Type} (d : α) (t : Tab α) (n : Nat) (p : Nat → α → Bool) : List Nat :=
  (List.range n).filter (fun i => p i (tget d t i))

/-- Adds an element to a list of numbers held in rising order without repeats. -/
def addSorted (x : Nat) : List Nat → List Nat
  | [] => [x]
  | y :: r => if x < y then x :: y :: r else if x = y then y :: r else y :: addSorted x r

end Sys2Proof.Machine
end

