-- ==== Sys2Proof/Machine/Starter.lean ====
section
/-! DEFINITION. Starter (18_starter_interrupts.md): owners, firings, winners, claims, completion and the delivery
conditions. -/

namespace Sys2Proof.Machine

/-- The device sources that Table — Device event sources lists. -/
def deviceSources : List Nat :=
  [0x080, 0x081, 0x082, 0x083, 0x084, 0x085, 0x086, 0x087, 0x088, 0x089, 0x090, 0x091, 0x0A0]

/-- The source is one of the melt and SIG sources that a partition claims (R441). -/
def claimable (k : Nat) : Bool := decide (0x500 ≤ k) && decide (k ≤ 0xCFF)

/-- The partition whose context range holds the contexts of completion group `g`; 0 for the device (R441, R254). -/
def State.groupOwner (s : State) (g : Nat) : Nat :=
  if g < 16 then 0
  else ((List.range 64).find? (fun p =>
    p != 0 && decide ((s.part p).ctxFirst ≤ 16 * g) && decide (16 * g < (s.part p).ctxFirst + (s.part p).ctxCount))).getD 0

/-- The owner of a source: 0 the device, a partition, or none (R441, R442). -/
def State.sourceOwner (s : State) (k : Nat) : Option Nat :=
  if k < 0x040 then some k
  else if k < 0x080 then some (k - 0x040)
  else if k < 0x0C0 then some 0
  else if k < 0x100 then some (k - 0x0C0)
  else if k < 0x500 then some (s.groupOwner (k - 0x100))
  else if claimable k then (s.source k).owner
  else none

/-- The source fires at all: it is not reserved (R441). -/
def sourceFires (k : Nat) : Bool :=
  decide (k < 0xD00) && (decide (k < 0x080) || decide (0x0C0 ≤ k) || deviceSources.contains k)

/-- A firing of source `k` raised by `raiser` (0 the device, else a partition): COUNT saturates at 255, the target
counts it, a device event signals Hearth, and a raise of a source that another partition owns is discarded and
counted (R442–R444). -/
def State.fire (s : State) (k raiser : Nat) : State :=
  if !sourceFires k then s
  else if claimable k && (s.source k).owner.any (· != raiser) then
    s.modTarget (s.source k).via (fun t => { t with strayRaise := satAdd 16 t.strayRaise 1 })
  else
    let s1 := s.modSource k (fun x => { x with count := satAdd 8 x.count 1 })
    let s2 := match (s.source k).target with
      | some t => s1.modTarget t (fun x => { x with firings := satAdd 8 x.firings 1 })
      | none => s1
    if deviceSources.contains k then
      { s2 with starter := { s2.starter with hearthLine := tcount 64 s2.starter.hearthLine k 1 } }
    else s2

/-- A device event (Table — Device event sources). -/
def State.deviceEvent (s : State) (k : Nat) : State := s.fire k 0

/-- The source is pending (R443). -/
def Source.pending (x : Source) : Bool := x.enable && x.target.isSome && decide (0 < x.count) && x.active.isNone

/-- Source `k` is a candidate at target `t`: pending there, with a priority above THRESHOLD (R448). -/
def State.candidate (s : State) (t k : Nat) : Bool :=
  (s.source k).pending && (s.source k).target == some t && decide ((s.target t).threshold < (s.source k).priority)

/-- The better of two candidates for winner: higher priority, then lower number. -/
def State.better (s : State) (a b : Nat) : Nat :=
  if (s.source a).priority < (s.source b).priority then b
  else if (s.source b).priority < (s.source a).priority then a
  else min a b

/-- The winner of a target (R448): its pending source with the highest priority above THRESHOLD. -/
def State.winner (s : State) (t : Nat) : Option Nat :=
  match (s.starter.sources.map (·.1)).filter (s.candidate t) with
  | [] => none
  | a :: r => some (r.foldl s.better a)

/-- A read of CLAIM at target `t` (R448): the value read and the state after it. -/
def State.claim (s : State) (t : Nat) : Nat × State :=
  match s.winner t with
  | some k =>
    let v := k + 2 ^ 12 + (s.source k).count * 2 ^ 16
    (v, (s.modSource k (fun x => { x with count := 0, active := some t })).modTarget t (fun x => { x with armed := true }))
  | none => (0, s.modTarget t (fun x => { x with armed := true }))

/-- Counts a stray COMPLETE or SRC_CFG write. -/
def State.strayComplete (s : State) (t : Nat) : State :=
  s.modTarget t (fun x => { x with completeStray := satAdd 16 x.completeStray 1 })

/-- A write of COMPLETE at target `t` (R448). -/
def State.complete (s : State) (t value : Nat) : State :=
  let k := value % 4096
  if (s.source k).active = some t then s.modSource k (fun x => { x with active := none }) else s.strayComplete t

/-- The owner that a target's binding stands for: 0 for a head, the partition else; none when unbound (R445). -/
def Target.ownerKey (t : Target) : Option Nat :=
  if t.binding = 0 then none else if 0x40 ≤ t.binding then some 0 else some t.binding

/-- Target `t` may configure source `k`: it is bound to the source's owner, or it is bound to a partition and the
source can still be claimed (R441, R442, R445). -/
def State.mayConfigure (s : State) (t k : Nat) : Bool :=
  match (s.target t).ownerKey, s.sourceOwner k with
  | some o, some q => o == q
  | some o, none => claimable k && o != 0
  | none, _ => false

/-- A write of SRC_CFG at target `t` (R447): ignored and counted for a source of another owner or one ACTIVE under
another target; it configures the source and assigns it to this target, and with RELEASE it also ends the ownership of a claimed source
that is not ACTIVE (R442). -/
def State.srcCfg (s : State) (t value : Nat) : State :=
  let k := (s.target t).srcSel
  if !s.mayConfigure t k || (s.source k).active.any (· != t) then s.strayComplete t
  else
    s.modSource k (fun x => { x with
      enable := bit value 0, priority := bits value 4 4, target := some t, via := t,
      owner := if !claimable k then x.owner else if bit value 1 && x.active.isNone then none else (s.target t).ownerKey })

/-- The source has an owner, and target `t` is not bound to it (R447). -/
def State.foreign (s : State) (t k : Nat) : Bool := (s.sourceOwner k).any (fun q => (s.target t).ownerKey != some q)

/-- The value that SRC_CFG reads at target `t`: 0 for a source of another owner. -/
def State.srcCfgRead (s : State) (t : Nat) : Nat :=
  let k := (s.target t).srcSel
  let x := s.source k
  if s.foreign t k then 0
  else ofBool x.enable + x.priority * 2 ^ 4 + x.count * 2 ^ 8 + ofBool x.pending * 2 ^ 16 + ofBool x.active.isSome * 2 ^ 17 +
    ofBool x.target.isSome * 2 ^ 18 + (x.target.getD 0) * 2 ^ 24 + ((s.sourceOwner k).getD 0) * 2 ^ 32

/-- The chip's endpoint with a local index (R344). -/
def State.endpoint (s : State) (loc : Nat) : Nat := s.routing.x * 2 ^ 11 + s.routing.y * 2 ^ 6 + loc

/-- The endpoint is in the member list of partition `p` (R83). -/
def State.isMember (s : State) (p ep : Nat) : Bool := (s.part p).members.any (fun m => m.ep == ep)

/-- Head `h` is a member of partition `p` (R403). -/
def State.headMember (s : State) (p h : Nat) : Bool := s.isMember p (s.endpoint (40 + h))

/-- DELIVERY after a write of TGT_CTRL: the reserved encoding leaves the field unchanged (R10). -/
def State.ctrlDelivery (s : State) (t value : Nat) : Nat := if bits value 6 2 = 3 then (s.target t).delivery else bits value 6 2

/-- A write of TGT_CTRL that R447 allows: on a partition target DEST is a member, and the head of a DELIVERY by MSI-X too. -/
def State.tgtCtrlOk (s : State) (t value : Nat) : Bool :=
  let b := (s.target t).binding
  let d := s.ctrlDelivery t value
  (!(decide (0 < b) && decide (b < 64)) ||
    (s.isMember b (bits value 32 16) && (d == 0 || s.headMember b (d - 1))))

/-- The value of TGT_CTRL. -/
def Target.ctrl (t : Target) : Nat :=
  t.threshold + ofBool t.enable * 2 ^ 4 + ofBool t.idle * 2 ^ 5 + t.delivery * 2 ^ 6 + t.modHeats * 2 ^ 8 +
    t.modCount * 2 ^ 16 + t.dest * 2 ^ 32

/-- A write of TGT_CTRL at target `t`; one that breaks a rule of R447 leaves it unchanged (R446). -/
def State.tgtCtrl (s : State) (t value : Nat) : State :=
  if s.tgtCtrlOk t value then
    s.modTarget t (fun x => { x with
      threshold := bits value 0 4, enable := bit value 4, idle := bit value 5, delivery := s.ctrlDelivery t value,
      modHeats := bits value 8 8, modCount := bits value 16 8, dest := bits value 32 16 })
  else s

/-- A delivery of target `t` is due (R449). -/
def State.deliveryDue (s : State) (t : Nat) : Bool :=
  let x := s.target t
  x.armed && x.enable && !x.stopped && (s.winner t).isSome &&
  (x.idle || x.modHeats == 0 || x.since.all (fun n => decide (x.modHeats ≤ n)) ||
    (decide (0 < x.modCount) && decide (x.modCount ≤ x.firings)))

/-- The binding of target `t` changes (R445): its page returns to reset, its sources lose their target and an ACTIVE
source ends as if completed. -/
def State.rebind (s : State) (t binding : Nat) : State :=
  { s with starter := { s.starter with
      targets := tins s.starter.targets t { Target.reset with binding := binding }
      sources := tmap s.starter.sources (fun _ x =>
        let y := if x.active = some t then { x with active := none } else x
        if y.target = some t then { y with target := none } else y) } }

/-- Bq on Starter (R452): sources of `p` are disabled and cleared, targets bound to `p` stop. -/
def State.starterQuench (s : State) (p : Nat) : State :=
  { s with starter := { s.starter with
      sources := tmap s.starter.sources (fun k x =>
        if s.sourceOwner k = some p then { x with enable := false, count := 0, active := none } else x)
      targets := tmap s.starter.targets (fun _ t => if t.binding = p then { t with stopped := true } else t) } }

/-- The partition becomes FREE on Starter (R452): its targets are unbound and reset, its claims released. -/
def State.starterFree (s : State) (p : Nat) : State :=
  let ts := s.starter.targets.filter (fun t => t.2.binding == p)
  let s1 := ts.foldl (fun a t => a.rebind t.1 0) s
  { s1 with starter := { s1.starter with
      sources := tmap s1.starter.sources (fun _ x => if x.owner = some p then { x with owner := none } else x) } }

/-- A word of the MSI-X table of head `h`; the mask bit of a vector is 1 at reset. -/
def State.msixWord (s : State) (h w : Nat) : Nat := tget (if w % 4 = 3 then 1 else 0) s.starter.msixTable (1024 * h + w)

/-- Vector `v` of head `h` is masked. -/
def State.msixMasked (s : State) (h v : Nat) : Bool := bit (s.msixWord h (4 * v + 3)) 0

/-- The message of vector `v` of head `h` leaves. -/
def State.msixSend (s : State) (h v : Nat) : State :=
  { s with starter := { s.starter with msixSent :=
      { head := h, vector := v, address := s.msixWord h (4 * v) + s.msixWord h (4 * v + 1) * 2 ^ 32, data := s.msixWord h (4 * v + 2) } ::
        s.starter.msixSent } }

/-- The pending bit of vector `v` of head `h`. -/
def State.setPending (s : State) (h v : Nat) (b : Bool) : State :=
  { s with starter := { s.starter with msixPend := tset false s.starter.msixPend (256 * h + v) b } }

/-- A message of MSI-X vector `v` of head `h` (R450): sent, or its pending bit set while the vector is masked. -/
def State.msix (s : State) (h v : Nat) : State := if s.msixMasked h v then s.setPending h v true else s.msixSend h v

/-- A read of BAR2: the table, the pending bit array from 0x2000, and 0 elsewhere (R450). -/
def State.bar2Read (s : State) (h w : Nat) : Nat :=
  if w < 1024 then s.msixWord h w
  else if 2048 ≤ w && w < 2056 then maskOf ((List.range 32).filter (fun k => tget false s.starter.msixPend (256 * h + 32 * (w - 2048) + k)))
  else 0

/-- A write of BAR2: a word of the table takes the value, but for its reserved bits; nothing else is written. A message that its vector's
pending bit holds is sent once the vector is unmasked (R450). -/
def State.bar2Write (s : State) (h w v : Nat) : State :=
  if 1024 ≤ w then s
  else
    let x := if w % 4 = 0 then v / 4 * 4 else if w % 4 = 3 then v % 2 else v
    let s1 : State := { s with starter := { s.starter with msixTable := tins s.starter.msixTable (1024 * h + w) (x % 2 ^ 32) } }
    if tget false s.starter.msixPend (256 * h + w / 4) && !s1.msixMasked h (w / 4) then (s1.setPending h (w / 4) false).msixSend h (w / 4) else s1

/-- A firing (R443). -/
def execSourceFire (source raiser : Nat) (s : State) : Out := done (s.fire source raiser)

/-- A target unarmed for 256 heats after a delivery, with a winner present, re-arms itself (R448). -/
def execRedeliver (target : Nat) (s : State) : Out :=
  let x := s.target target
  done (if !x.armed && x.since.any (fun n => decide (256 ≤ n)) && (s.winner target).isSome then
    s.modTarget target (fun y => { y with armed := true, redeliver := satAdd 16 y.redeliver 1 })
  else s)

/-- MSI_X_UNMASK: a host's access to BAR2 of a head's function. A write that unmasks a vector sends the message that its pending bit holds
(R450). -/
def execMsiXUnmask (head : Nat) (access : Bar2) (s : State) : Out :=
  done (match access with
  | .read w => s.modHead head (fun x => { x with bar2 := s.bar2Read head w })
  | .write w v => s.bar2Write head w v)

end Sys2Proof.Machine
end

