-- ==== Sys2Proof/Machine/Route.lean ====
section
/-! DEFINITION. Routing and egress (14_routing_scheduling.md): endpoints, route entries, admission and transit masks,
egress queues, tagging, gates and shapers, and the answers of a train that cannot leave. -/

namespace Sys2Proof.Machine

/-! ### Trains and cells (R322–R324) -/

/-- The cell of a train with payload `pl` and index `i`. -/
def Train.cellOf (t : Train) (i : Nat) (pl : List Byte) : Cell :=
  { typ := t.typ, cls := t.cls, dst := t.dst, src := t.src, part := t.part, tag := t.tag, seq := i, payload := fit 32 pl }

/-- The cells of a train, in order. -/
def Train.toCells (t : Train) : List Cell := t.cells.zipIdx.map (fun p => t.cellOf p.2 p.1)

/-- Payload of cell 0 of a train. -/
def Train.head (t : Train) : List Byte := (t.cells[0]?).getD []

/-- The data that follows cell 0: byte k at byte k mod 32 of cell 1 + k div 32 (R324). -/
def Train.data (t : Train) : List Byte := (t.cells.drop 1).flatMap (fit 32)

/-- A one-cell train. -/
def oneCell (typ cls dst src part tag : Nat) (pl : List Byte) : Train :=
  { typ := typ, cls := cls, dst := dst, src := src, part := part, tag := tag, cells := [fit 32 pl] }

/-- The length of a train that carries `len` data bytes after cell 0. -/
def dataTrainLen (len : Nat) : Nat := 1 + ceilDiv len 32

/-- The data cells that COUNT elements need in a format (R171). -/
def pourCells (f count : Nat) : Nat :=
  if groupBytesOf f = 0 then 0
  else if isGrouped f then ceilDiv count (groupOf f) * (groupBytesOf f / 32) else ceilDiv (count * bitsOf f) 256
where
  isGrouped (f : Nat) : Bool := (decide (0x05 ≤ f) && decide (f ≤ 0x0A)) || (decide (0x10 ≤ f) && decide (f ≤ 0x12))
  groupOf (f : Nat) : Nat := if f = 0x10 then 512 else 1024
  bitsOf (f : Nat) : Nat := match f with | 0x00 => 32 | 0x01 => 16 | 0x02 => 16 | 0x03 => 8 | 0x04 => 8 | _ => 0
  groupBytesOf (f : Nat) : Nat :=
    match f with
    | 0x05 => 1056 | 0x06 => 1056 | 0x07 => 800 | 0x08 => 800 | 0x09 => 544 | 0x0A => 1056
    | 0x10 => 288 | 0x11 => 416 | 0x12 => 288 | f => if bitsOf f = 0 then 0 else 32

/-- The length that cell 0 of a type fixes for its train; 1 where its fields give no allowed length (R323). -/
def trainLength (typ : Nat) (pl : List Byte) : Nat :=
  match typ with
  | 0x2 => let n := le pl 1 1; if n = 0 || n > 128 then 1 else n
  | 0x4 =>
    let op := le pl 0 1; let len := le pl 4 4
    if (op = 0x02 || op = 0x81) && len % 4 = 0 && 4 ≤ len && len ≤ 256 then dataTrainLen len else 1
  | 0x7 =>
    let op := le pl 0 1; let len := le pl 4 4
    if (op = 0x02 || op = 0x81) && 1 ≤ len && len ≤ 4064 then dataTrainLen len else 1
  | 0x8 => if bit (le pl 1 1) 1 then 3 else 1
  | 0x9 => let n := 1 + pourCells (le pl 4 2 % 32) (le pl 12 4); if 2 ≤ n && n ≤ 128 then n else 1
  | _ => 1

/-- TYPE and CLASS go together (Table — Cell types). -/
def typeClassOk (typ cls : Nat) : Bool :=
  match typ with
  | 0x1 => cls == 0 | 0x2 => cls == 0 | 0x3 => cls == 0 | 0x4 => cls == 0 | 0x5 => cls == 0 | 0x6 => cls == 0
  | 0x7 => cls == 1 || cls == 3
  | 0x8 => cls == 1 || cls == 2 || cls == 3
  | 0x9 => cls == 4
  | _ => false

/-! ### Where a train goes (R344–R348) -/

/-- The endpoint carries this chip's coordinate. -/
def State.ownChip (s : State) (ep : Nat) : Bool := ep / 64 == s.endpoint 0 / 64

/-- The endpoint is one of the units inside this chip: local index 32–37. -/
def State.inChip (s : State) (ep : Nat) : Bool := s.ownChip ep && decide (32 ≤ ep % 64) && decide (ep % 64 ≤ 37)

/-- The route entry for a destination; 0 is unrouted. -/
def State.routeEntry (s : State) (dst : Nat) : Nat :=
  if s.ownChip dst then (if dst % 64 < 24 then tget 0 s.routing.table (1024 + dst % 64) else 0)
  else tget 0 s.routing.table (dst / 2 ^ 11 * 32 + bits dst 6 5)

/-- A port is usable: ACTIVE or in RETRAIN, and not MISWIRED (R348). -/
def State.usable (s : State) (i : Nat) : Bool :=
  ((s.port i).state == .active || (s.port i).state == .retrain) && !(s.egress i).miswired

/-- PRIMARY and ALTERNATE of an entry, where valid. -/
def entryPrimary (e : Nat) : Option Nat := if bit e 5 then some (bits e 0 5) else none
def entryAlternate (e : Nat) : Option Nat := if bit e 11 then some (bits e 6 5) else none

/-- The output of a train (R348). -/
def State.chooseOut (s : State) (dst src tag : Nat) : Option Nat :=
  let e := s.routeEntry dst
  let p := (entryPrimary e).filter (s.usable ·)
  let a := (entryAlternate e).filter (s.usable ·)
  match p, a with
  | some x, some y => if bit e 12 && popCount 28 (src * 4096 + tag) % 2 == 1 then some y else some x
  | some x, none => some x
  | none, y => y

/-- The port whose statistics count a train without a usable output: the primary of its entry, else `via`. -/
def State.blamePort (s : State) (dst via : Nat) : Nat := (entryPrimary (s.routeEntry dst)).getD via

/-- The admission masks of every port (R83): bit p of port i when a member of p that is a fabric endpoint is reached
through i by the route table in force. -/
def State.maskOfPort (s : State) (i : Nat) : Nat :=
  maskOf ((List.range 64).filter (fun p => p != 0 && (s.part p).state != .free && !(s.part p).fenceComplete &&
    (s.part p).members.any (fun m =>
      let e := s.routeEntry m.ep
      entryPrimary e == some i || entryAlternate e == some i)))

/-- Hearth recomputes the admission masks (R83, R351). -/
def State.remask (s : State) : State :=
  (List.range 24).foldl (fun a i => a.modEgress i (fun e => { e with admitMask := s.maskOfPort i })) s

/-- Hearth holds a confidential partition's bits at 0 on a port that is not ACTIVE with link encryption on (R470). -/
def State.heldOff (s : State) (i p : Nat) : Bool :=
  (s.part p).confidential && !((s.port i).state == .active && (s.port i).encOn)

/-- The admission mask and the transit mask of a port, as they stand, admit partition `p` (R83, R353, R470). -/
def State.admits (s : State) (i p : Nat) : Bool := bit (s.egress i).admitMask p && !s.heldOff i p
def State.transits (s : State) (i p : Nat) : Bool := bit (s.egress i).transitMask p && !s.heldOff i p

/-! ### Egress queues (R359–R361) -/

/-- Two cells carry the header of one train (R323). -/
def Cell.sameTrain (a b : Cell) : Bool :=
  a.typ == b.typ && a.cls == b.cls && a.dst == b.dst && a.src == b.src && a.part == b.part && a.tag == b.tag

/-- The key of the queue of a class and a partition. -/
def qkey (c p : Nat) : Nat := 64 * c + p

/-- The trains of a queue. -/
def Egress.queue (e : Egress) (k : Nat) : List QTrain := tget [] e.queues k

/-- Units of a train that are queued: arrived and not sent. -/
def QTrain.depth (t : QTrain) : Nat := t.arrived.length - t.sent

/-- Units of a queue, and of all queues of a class. The CTL cells of a partition are the queue of its class 0. -/
def Egress.depth (e : Egress) (k : Nat) : Nat :=
  if k < 64 then (e.ctl.filter (fun c => c.part == k)).length else ((e.queue k).map QTrain.depth).foldl (· + ·) 0

def Egress.classDepth (e : Egress) (c : Nat) : Nat :=
  ((e.queues.filter (fun q => q.1 / 64 == c)).map (fun q => (q.2.map QTrain.depth).foldl (· + ·) 0)).foldl (· + ·) 0

/-- Units of the shared store in use. -/
def Egress.sharedUsed (e : Egress) : Nat := ([1, 2, 3, 4].map (fun c => e.classDepth c - 512)).foldl (· + ·) 0

/-- A cell of a class and partition finds room (R359). -/
def Egress.hasRoom (e : Egress) (c p : Nat) : Bool :=
  if c = 0 then decide (e.ctl.length < 256) && (p == 0 || decide (e.depth p < e.qcap))
  else decide (e.depth (qkey c p) < e.qcap) && (decide (e.classDepth c < 512) || decide (e.sharedUsed < 5888))

/-- The weight of a queue (R367); the PART 0 queue of a class, on a twin port, has weight 255 (M6). -/
def Egress.weight (e : Egress) (k : Nat) : Nat := if k % 64 = 0 then 255 else tget 16 e.weights k

/-- The later of two tags, compared by their difference modulo 2^32. -/
def laterTag (a b : Nat) : Nat := if (a + 2 ^ 32 - b) % 2 ^ 32 < 2 ^ 31 then a else b

/-- The tag that a train of `n` units takes as head of queue `k` (R367). -/
def Egress.newTag (e : Egress) (k n : Nat) : Nat :=
  (laterTag e.vtime (tget 0 e.ftags k) + ceilDiv (n * 65536) (e.weight k)) % 2 ^ 32

/-- The head of queue `k` takes its tag if it has none. -/
def Egress.tagHead (e : Egress) (k : Nat) : Egress :=
  match e.queue k with
  | t :: r =>
    if t.tag.isSome then e
    else
      let f := e.newTag k t.length
      { e with queues := tins e.queues k ({ t with tag := some f } :: r), ftags := tins e.ftags k f }
  | [] => e

/-- A cell enters queue `k` at time `now` (R372–R374): the cell's index in its train when it is timestamped, and the
split state after it. -/
def Egress.stampOn (e : Egress) (k : Nat) : Bool × Egress :=
  match e.split.mode with
  | 1 =>
    if e.split.watched.contains k then
      let n := tget 0 e.split.entered k + 1
      (n % e.split.interval == 0, { e with split := { e.split with entered := tins e.split.entered k n } })
    else (false, e)
  | 2 =>
    (true, { e with split := { e.split with highDepth := tins e.split.highDepth k (max (tget 0 e.split.highDepth k) (e.depth k)) } })
  | _ => (false, e)

/-- Stamps cell `i` of the newest train of queue `k`. -/
def Egress.stamp (e : Egress) (k i now : Nat) : Egress :=
  let r := e.stampOn k
  if r.1 then
    match (r.2.queue k).reverse with
    | t :: q => { r.2 with queues := tins r.2.queues k ({ t with stamps := t.stamps ++ [(i, now)] } :: q).reverse }
    | [] => r.2
  else r.2

/-- Puts a CTL cell at the end of the CTL order (R360), timestamped as its queue is watched. -/
def Egress.pushCtl (e : Egress) (c : Cell) (now : Nat) : Egress :=
  let r := Egress.stampOn { e with ctl := e.ctl ++ [c] } (qkey 0 c.part)
  if r.1 && c.part != 0 then { r.2 with split := { r.2.split with ctlIn := r.2.split.ctlIn ++ [(c, now)] } } else r.2

/-- Puts a train, as far as it has arrived, at the end of its queue. -/
def Egress.push (e : Egress) (t : QTrain) (now : Nat) : Egress :=
  let k := qkey t.head.cls t.head.part
  let e1 : Egress := { e with queues := tins e.queues k (e.queue k ++ [t]) }
  let e2 := e1.tagHead k
  (List.range t.arrived.length).foldl (fun a i => a.stamp k i now) e2

/-- The train waits for this cell from the same input. -/
def QTrain.awaits (t : QTrain) (c : Cell) (via : Option Nat) : Bool :=
  t.via == via && t.head.src == c.src && t.head.dst == c.dst && t.head.tag == c.tag && t.arrived.length == c.seq &&
  decide (c.seq < t.length) && !t.stopped

/-- Adds a later cell to the train that awaits it, timestamped as its queue is watched; the rest of a train that has left or stopped is
discarded. -/
def Egress.extend (e : Egress) (c : Cell) (via : Option Nat) (now : Nat) : Egress :=
  let k := qkey c.cls c.part
  match (e.queue k).findIdx? (fun t => t.awaits c via) with
  | none => e
  | some i =>
    let r := Egress.stampOn { e with queues := tins e.queues k ((e.queue k).modify i (fun t => { t with arrived := t.arrived ++ [c.payload] })) } k
    if r.1 then { r.2 with queues := tins r.2.queues k ((r.2.queue k).modify i (fun t => { t with stamps := t.stamps ++ [(c.seq, now)] })) } else r.2

/-- One cell enters its egress queue at time `now`, from arrival port `via` or from this chip's own units. -/
def Egress.enter (e : Egress) (via : Option Nat) (c : Cell) (now : Nat) : Egress :=
  if c.cls = 0 then e.pushCtl c now
  else if c.seq = 0 then e.push
    { head := c, length := trainLength c.typ c.payload, arrived := [c.payload], sent := 0, via := via,
      stopped := false, tag := none, started := false, ranPast := false, stamps := [] } now
  else e.extend c via now

/-! ### Cells that wait for room (R359) -/

/-- The cell is the next one of the CTL train that holds VC 0: room is kept for it, since every CTL train behind it waits for it. -/
def Egress.holdsFor (e : Egress) (c : Cell) : Bool := e.ctlOpen.any (fun o => o.1.sameTrain c && decide (o.2.1 ≤ c.seq))

/-- The cell of class `c` whose turn it is: the first of each input whose queue has room, the inputs in rotation. -/
def Egress.nextWaiting (e : Egress) (c : Nat) : Option (Nat × Cell) :=
  let w := tget [] e.waiting c
  let firsts := (List.range 25).filterMap (fun i => w.find? (fun x => x.1 == i))
  let fit := firsts.filter (fun x => e.hasRoom c x.2.part || (c == 0 && e.holdsFor x.2))
  let dist (i : Nat) : Nat := (i + 24 - tget 24 e.turn c) % 25
  fit.foldl (fun b x => match b with
    | none => some x
    | some y => if dist x.1 < dist y.1 then some x else some y) none

/-- A waiting cell has gone. -/
def Egress.waited (e : Egress) (c : Nat) (x : Nat × Cell) : Egress :=
  { e with waiting := tins e.waiting c ((tget [] e.waiting c).erase x), turn := tins e.turn c x.1 }

/-! ### Sending trains of this chip -/

/-- Returns `n` credits of VC `v` at port `i` (R326). -/
def State.creditBack (s : State) (i v n : Nat) : State :=
  s.modPort i (fun p => { p with creditRet := tins p.creditRet v ((tget 0 p.creditRet v + n) % 2 ^ 16) })

/-- Takes the cells of a train out of the VC buffer of port `i`, where they stand there, and returns their credits. -/
def State.takeCells (s : State) (i v : Nat) (cs : List Cell) : State :=
  let buf := tget [] (s.port i).vcBuf v
  let rest := cs.foldl (fun b c => b.erase c) buf
  (s.modPort i (fun p => { p with vcBuf := tins p.vcBuf v rest })).creditBack i v (buf.length - rest.length)

/-- As many as `n` waiting cells of class `c` enter the queues of port `out` while there is room, the inputs served
round-robin (R359). A transit cell leaves its VC buffer then. -/
def State.serveWaiting (s : State) (out c now : Nat) : Nat → State
  | 0 => s
  | n + 1 =>
    match (s.egress out).nextWaiting c with
    | none => s
    | some x =>
      let s1 := if x.1 < 24 then s.takeCells x.1 c [x.2] else s
      (s1.modEgress out (fun e => (e.waited c x).enter (if x.1 < 24 then some x.1 else none) x.2 now)).serveWaiting out c now n

/-- A cell comes up to the queues of port `out` from an input, and enters or waits its turn (R359). -/
def State.comeUp (s : State) (out input now : Nat) (c : Cell) : State :=
  (s.modEgress out (fun e => { e with waiting := tmod [] e.waiting c.cls (· ++ [(input, c)]) })).serveWaiting out c.cls now 1

/-- Room has come in the store of port `out`: the cells that wait for it move up (R359). -/
def State.roomCame (s : State) (out now : Nat) : State :=
  [0, 1, 2, 3, 4].foldl (fun a c => a.serveWaiting out c now (tget [] (a.egress out).waiting c).length) s

/-- A whole train of `n` cells finds room at once, and none waits before it. -/
def Egress.takesTrain (e : Egress) (c p n : Nat) : Bool :=
  (tget [] e.waiting c).isEmpty &&
  (if c = 0 then decide (e.ctl.length + n ≤ 256) && (p == 0 || decide (e.depth p + n ≤ e.qcap))
   else decide (e.depth (qkey c p) + n ≤ e.qcap) && (decide (e.classDepth c + n ≤ 512) || decide (e.sharedUsed + n ≤ 5888)))

/-- A train of this chip's own goes to port `out` (R359–R361): it is queued whole where there is room for it, and else its
cells wait on their network-on-chip. Its cells enter at some time after the last one that a command told; how much later is open (a
free value, log entry 42). -/
def State.sendOn (s : State) (out : Nat) (t : Train) : State :=
  let now := s.routing.clockNs + Config.freeValue s.free
  if !(s.egress out).takesTrain t.cls t.part t.cells.length then (t.toCells.foldl (fun a c => a.comeUp out 24 now c) s).drawn
  else if t.cls = 0 then (s.modEgress out (fun e => t.toCells.foldl (fun a c => a.pushCtl c now) e)).drawn
  else
    (s.modEgress out (fun e => e.push
      { head := t.cellOf 0 t.head, length := t.cells.length, arrived := t.cells.map (fit 32), sent := 0, via := none,
        stopped := false, tag := none, started := false, ranPast := false, stamps := [] } now)).drawn

/-- Sends a train, and drops one that has no usable output, counted in UNROUTED (R357). -/
def State.send (s : State) (t : Train) : State :=
  match s.chooseOut t.dst t.src t.tag with
  | some out => s.sendOn out t
  | none => s.countQueue (s.blamePort t.dst 0) 7 1

/-- The one-cell answer UNREACHABLE, or with another status, to a REQ-class train (R324, R357). -/
def errorAnswer (c : Cell) (status : Nat) : Train :=
  let p := c.payload
  let pl := if c.typ = 0x7 then
      [BitVec.ofNat 8 (le p 0 1 + 0x80), 0, 0, BitVec.ofNat 8 status] ++ leBytes 4 0 ++ (p.drop 8).take 8
    else [0x22, 0, 0, BitVec.ofNat 8 status] ++ zeros 4 ++ (p.drop 8).take 8
  oneCell c.typ 3 c.src c.dst c.part c.tag pl

/-- Answers a REQ-class train that cannot leave (R357 step 2): its source is answered UNREACHABLE; a train of this
chip's own unit is answered inside the chip. `i` is the port that counts it. -/
def State.unreachable (s : State) (i : Nat) (c : Cell) : State :=
  let t := errorAnswer c 0x40
  let s1 := s.countQueue i 6 1
  if s.inChip c.src then { s1 with routing := { s1.routing with loop := s1.routing.loop ++ [t] } }
  else s1.send t

/-- A train without a usable output (R348, R357 step 5). -/
def State.noOutput (s : State) (c : Cell) (via : Nat) : State :=
  let i := s.blamePort c.dst via
  if c.cls = 1 then s.unreachable i c else s.countQueue i 7 1

/-! ### Receive VC buffers: a cell leaves, its credit returns (R326) -/

/-- Takes a train that its destination consumes. -/
def State.takeTrain (s : State) (i : Nat) (t : Train) : State := s.takeCells i t.cls t.toCells

/-! ### A port goes DOWN, as the egress side sees it (R354, R357) -/

/-- Trains of every queue of a port. -/
def Egress.allTrains (e : Egress) : List QTrain := e.queues.flatMap (·.2)

/-- A CTL train that arrived in part, with cell 0 `h`, stops on one output: begun, it holds VC 0 where it stands; not begun, it is gone
(R352, R354). -/
def Egress.stopCtl (e : Egress) (h : Cell) : Egress :=
  let after := (e.ctl.reverse.takeWhile (fun c => c != h)).reverse
  let before := e.ctl.take (e.ctl.length - after.length)
  let kept := (if before.isEmpty then [] else before.dropLast) ++ after.filter (fun c => !h.sameTrain c)
  let begun := e.ctlOpen.any (fun o => o.1 == h)
  if begun || e.ctl.contains h then { e with ctl := kept, heldVc := if begun then tins e.heldVc 0 0 else e.heldVc } else e

/-- The trains from port `i` that are cut short on one output, where `cut` says so: one that has begun stops where it stands
and holds its VC, one that has not is gone, and no cell of theirs that `gone` names waits (R354). -/
def Egress.stopTrains (e : Egress) (i : Nat) (cut : Cell → Bool) (gone : Cell → Bool) : Egress :=
  let hit (t : QTrain) : Bool := t.via == some i && decide (t.arrived.length < t.length) && cut t.head
  let begun := (e.allTrains.filter (fun t => t.started && hit t)).map (·.head.cls)
  let e1 : Egress := { e with
    waiting := tmap e.waiting (fun _ w => w.filter (fun x => !(x.1 == i && gone x.2)))
    heldVc := begun.foldl (fun h c => tins h c 0) e.heldVc
    queues := tmap e.queues (fun _ l => (l.filter (fun t => t.started || !hit t)).map (fun t =>
      if hit t then { t with stopped := true } else t)) }
  (e1.queues.map (·.1)).foldl Egress.tagHead e1

/-- Trains that arrive on port `i` end where they stand on every output (R354). -/
def State.stopArrivals (s : State) (i : Nat) (cut gone : Cell → Bool) : State :=
  let ctl := ((s.port i).openTrain.filter (fun o => o.1 == 0 && cut o.2.head)).map (·.2.head)
  { s with routing := { s.routing with ports := tmap s.routing.ports (fun _ x => (ctl.foldl Egress.stopCtl x).stopTrains i cut gone) } }

/-- The egress side of port `i` when it goes DOWN: its queued and waiting cells are discarded and counted, REQ trains whose
cell 0 has not been sent are answered, and cut-through trains that arrive on `i` stop where they stand (R354, R357). -/
def State.egressDown (s : State) (i : Nat) : State :=
  let e := s.egress i
  let waiters := e.waiting.flatMap (·.2)
  let units := (e.allTrains.map QTrain.depth).foldl (· + ·) 0 + e.ctl.length + waiters.length
  let reqs := (e.allTrains.filter (fun t => t.head.cls == 1 && t.sent == 0 && !t.arrived.isEmpty)).map (·.head) ++
    (waiters.map (·.2)).filter (fun c => c.cls == 1 && c.seq == 0)
  let s0 := (waiters.filter (fun x => decide (x.1 < 24))).foldl (fun a x => a.takeCells x.1 x.2.cls [x.2]) s
  let s1 := (s0.modEgress i (fun x => { x with
    ctl := [], ctlOpen := none, queues := [], committed := [], heldVc := [], waiting := [], route := [], split := { x.split with ctlIn := [] } })).countQueue i 5 units
  reqs.foldl (fun a c => a.unreachable i c) (s1.stopArrivals i (fun _ => true) (fun _ => true))

/-! ### Gates, shapers and the choice of a train (R362–R371) -/

/-- The gate mask in force at granule `g` of the lap: the entry that covers it. -/
def gateEntryAt : List GateEntry → Nat → Nat
  | [], _ => 0
  | x :: r, g => if g < x.duration then x.mask else gateEntryAt r (g - x.duration)

/-- The mask bit of a class and a gate group. -/
def gateBit (c g : Nat) : Nat := 16 * (c - 1) + g

/-- The gate groups that an entry opens, in any class. -/
def openGroups (mask : Nat) : List Nat := (List.range 16).filter (fun g => [0, 1, 2, 3].any (fun c => bit mask (16 * c + g)))

/-- The queue of class `c` and partition `p` is open on port `i`, `k` granules after granule `g` of the heat (R362, R363,
R366). A confidential partition is served only in entries that open no other group. -/
def State.queueOpenAfter (s : State) (i c p g k : Nat) : Bool :=
  let e := s.egress i
  if p = 0 then true
  else match e.gates with
    | none => !(s.part p).confidential
    | some l =>
      let m := gateEntryAt l.entries ((e.lapPos + min g 63 + k) % (64 * l.lap))
      (s.part p).group.any (fun gr => bit m (gateBit c gr) && (!(s.part p).confidential || openGroups m == [gr]))

/-- The queue of class `c` and partition `p` is open on port `i` at granule `g` of the heat. -/
def State.queueOpen (s : State) (i c p g : Nat) : Bool := s.queueOpenAfter i c p g 0

/-- A unit time at a port's width and rate, in ps (R316). -/
def Port.unitPs (p : Port) : Nat := 440 * (if p.rate = 0 then 2 else 1) * (4 / max 1 (popCount 4 p.txLanes))

/-- The granules from `g` on after which the queue of class `c` and partition `p` closes, looking `n` ahead. -/
def State.closesIn (s : State) (i c p g : Nat) : Nat → Nat → Option Nat
  | 0, _ => none
  | n + 1, k => if s.queueOpenAfter i c p g k then s.closesIn i c p g n (k + 1) else some k

/-- The unit times that the guard check takes for a train of `n` units: with link encryption on, its TAG units count too (M5 of R519). -/
def Port.guardUnits (p : Port) (n : Nat) : Nat := if p.encOn then n + (n + 15) / 16 else n

/-- The guard lets a train of `n` units start, with `u` unit times left in granule `g` (R365). -/
def State.guardOk (s : State) (i c p n g u : Nat) : Bool :=
  match s.closesIn i c p g 16 0 with
  | none => true
  | some k =>
    let left := u + (k - 1) * 32000 / (s.port i).unitPs
    decide ((s.egress i).guard < left) || decide ((s.port i).guardUnits n ≤ left)

/-- The shaper of partition `p` on port `i` lets a train start (R368, R369). -/
def State.shaperOk (s : State) (i p : Nat) : Bool :=
  let x := tget Shaper.reset (s.egress i).shapers p
  x.rate == 0xFFFFFFFF || decide (0 ≤ x.tokens)

/-- The head train of a queue may start (R361). -/
def State.eligible (s : State) (i k g u : Nat) : Bool :=
  match (s.egress i).queue k with
  | [] => false
  | t :: _ =>
    let c := k / 64
    let p := k % 64
    !t.started && !t.stopped && s.queueOpen i c p g && s.guardOk i c p t.length g u && s.shaperOk i p &&
    decide (t.length ≤ tget 0 (s.port i).credits c) &&
    !((s.egress i).allTrains.any (fun x => x.started && x.head.cls == c)) &&
    (tfind (s.egress i).heldVc c).isNone

/-- The queue that the scheduler picks: the eligible head with the smallest tag, ties to the lower class, then the
lower partition (R367). -/
def State.pickQueue (s : State) (i g u : Nat) : Option Nat :=
  let e := s.egress i
  let c := (e.queues.map (·.1)).filter (fun k => s.eligible i k g u)
  let tagOf (k : Nat) : Nat := (((e.queue k)[0]?).bind (·.tag)).getD 0
  c.foldl (fun b k => match b with
    | none => some k
    | some j => if tagOf j ≠ tagOf k && laterTag (tagOf j) (tagOf k) = tagOf j then some k else some j) none

/-- The effective rate of a shaper while the shaper scale is `sc` (R371). -/
def Shaper.effective (x : Shaper) (sc : Nat) : Nat := x.rate * sc / 256

/-- Duty 3 for one shaper (R369, R370). -/
def Shaper.refill (x : Shaper) (sc : Nat) : Shaper :=
  match x.pendingReset with
  | some full => { x with tokens := if full then x.burst else 0, pendingReset := none }
  | none => { x with tokens := min (x.burst : Int) (x.tokens + (x.effective sc : Nat)) }

/-- A train starts (R361, R367, R369): what EGRESS_TRAIN_START does once the scheduler has picked queue `k`. -/
def State.startTrain (s : State) (i k : Nat) : State :=
  match (s.egress i).queue k with
  | [] => s
  | t :: r => s.modEgress i (fun e => { e with
      queues := tins e.queues k ({ t with started := true } :: r), committed := e.committed ++ [k], vtime := t.tag.getD 0,
      shapers := tmod Shaper.reset e.shapers (k % 64) (fun x =>
        if x.rate = 0xFFFFFFFF then x else { x with tokens := x.tokens - ((t.length * 44 + e.overhead : Nat) : Int) }) })

/-- The queue has a started train whose next cell has come. -/
def Egress.ready (e : Egress) (k : Nat) : Bool :=
  match e.queue k with
  | t :: _ => t.started && !t.stopped && decide (0 < t.depth)
  | [] => false

/-- The scheduler is free for a new train: every train that it has started waits for its next cell (R361). -/
def Egress.free (e : Egress) : Bool := (e.queues.map (·.1)).all (fun k => !e.ready k)

/-- EGRESS_TRAIN_START: the scheduler commits to an eligible train, in granule `granule` of the heat with `unitTimes`
unit times left in it (R361, R365, R367). -/
def execEgressTrainStart (port granule unitTimes : Nat) (s : State) : Out :=
  done (if (s.egress port).free then
    match s.pickQueue port granule unitTimes with
    | some k => s.startTrain port k
    | none => s
  else s)

/-! ### Transit (R352–R354) -/

/-- The chip forwards transit cells: it is no twin member, or it is primary (R503). -/
def State.forwards (s : State) : Bool := s.twin.state == .unpaired || s.twin.state.isPrimary

/-- The mask of R353 of one port, arrival or output, admits a transit cell. -/
def State.transitOk (s : State) (i : Nat) (c : Cell) : Bool :=
  c.cls == 0 || (if s.ownChip c.dst then s.admits i c.part else s.transits i c.part)

/-- The mark of a train whose further cells are dropped, in the route stage of a VC. -/
def dropMark : Nat := 24

/-- TRANSIT_CELL: the cell at the head of a VC buffer, addressed to another chip or to a leaf of this one, passes into
its output's queue, is dropped, or waits for room (R348, R352, R353, R359). `nowNs` is the time since the boundary. A drop
counts at the output port. -/
def execTransitCell (port vc nowNs : Nat) (s : State) : Out :=
  let s := s.atNs nowNs
  done (match tget [] (s.port port).vcBuf vc with
  | [] => s
  | c :: _ =>
    if s.inChip c.dst || (s.egress port).twin then s
    else
      let now := s.nsNow nowNs
      let setRoute (a : State) (o : Nat) : State := a.modEgress port (fun e => { e with route := tins e.route vc o })
      let out : Nat := if c.seq = 0 then
          (if s.forwards then (s.chooseOut c.dst c.src c.tag).getD dropMark else dropMark)
        else tget dropMark (s.egress port).route vc
      if !s.transitOk port c || (out != dropMark && !s.transitOk out c) then
        (setRoute (s.takeCells port vc [c]) out).countQueue (if out = dropMark then s.blamePort c.dst port else out) 8 1
      else if out = dropMark then
        let s1 := setRoute (s.takeCells port vc [c]) dropMark
        if c.seq = 0 then s1.noOutput c port else s1
      else if (tget [] (s.egress out).waiting vc).any (fun x => x.1 == port) then s
      else (setRoute s out).comeUp out port now c)

/-- Cell 0 of a train that arrives on port `i` has already left by an output. -/
def State.headSent (s : State) (i : Nat) (h : Cell) : Bool :=
  s.routing.ports.any (fun x => x.2.allTrains.any (fun t => t.via == some i && t.head == h && t.sent != 0))

/-- An incomplete train on a receive VC is discarded as truncated and counted; a REQ-class train whose cell 0 has not been
sent on is answered (R354, R357). -/
def State.truncateTrain (s : State) (port vc : Nat) : State :=
  match tfind (s.port port).openTrain vc with
  | none => s
  | some o =>
    let buf := tget [] (s.port port).vcBuf vc
    let mine := buf.reverse.takeWhile (fun c => c != o.head) ++ (if buf.contains o.head then [o.head] else [])
    let s1 := (s.takeCells port vc mine).stopArrivals port (fun h => h == o.head) (fun c => mine.contains c)
    let s2 := (s1.modPort port (fun p => { p with openTrain := tdel p.openTrain vc })).countQueue port 9 1
    if o.head.cls = 1 && !o.sentOn && !s.headSent port o.head then s2.unreachable port o.head else s2

/-- TRAIN_TRUNCATION: a train's next cell has not arrived one heat after its last, a boundary having passed (R33, R354). -/
def execTrainTruncation (port vc : Nat) (s : State) : Out :=
  done (if (tfind (s.port port).openTrain vc).any (fun o => decide (1 ≤ o.heats)) then s.truncateTrain port vc else s)

/-- The output VC of a stopped cut-through train, or of a stopped CTL train, is free again and the train's rest is gone (R354). -/
def Egress.released (e : Egress) (vc : Nat) : Egress :=
  let stopped (t : QTrain) : Bool := t.stopped && t.head.cls == vc
  let e1 : Egress := { e with
    heldVc := tdel e.heldVc vc
    ctlOpen := if vc = 0 then none else e.ctlOpen
    queues := tmap e.queues (fun _ l => l.filter (fun t => !stopped t))
    committed := e.committed.filter (fun k => !(e.queue k).any stopped) }
  (e1.queues.map (·.1)).foldl Egress.tagHead e1

/-- OUTPUT_VC_RELEASE: one heat after a cut-through train stopped, its output VC is released and the train's rest is
gone (R354). -/
def execOutputVcRelease (port vc : Nat) (s : State) : Out :=
  done (if (tfind (s.egress port).heldVc vc).any (fun h => decide (1 ≤ h)) then
    (s.modEgress port (fun e => e.released vc)).roomCame port (s.nsNow 0) else s)

end Sys2Proof.Machine
end

