-- ==== Sys2Proof/Machine/Mem.lean ====
section
/-! DEFINITION. Device memory: the DPA map and its decode (R50–R53), the segment tags' routing (R63–R66), the DRAM
channels' queues as memory sees them, event records of the CXL heads, and the admission of an access (R85). -/

namespace Sys2Proof.Machine

/-! ### Status codes (Table — Status codes) -/

abbrev stOk : Nat := 0
abbrev stBusy : Nat := 1
abbrev stInvalid : Nat := 2
abbrev stDenied : Nat := 3
abbrev stNoResource : Nat := 4
abbrev stFaulted : Nat := 5
abbrev stTimeout : Nat := 6
abbrev stPartial : Nat := 7
abbrev stFormatLow : Nat := 8
abbrev stNoExtent : Nat := 9
abbrev stQuenched : Nat := 10

/-! ### The DPA map (R47, R50) -/

def gib : Nat := 2 ^ 30

/-- First address of the bulk tier. -/
def bulkBase : Nat := 0x10000000000

/-- Stacks of the ordering code, and logical channels of each. -/
def State.nStacks (s : State) : Nat := if s.sec.config.orderCode = 0 then 8 else 6
def State.nLogical (s : State) : Nat := if s.sec.config.stackSpares = 0 then 32 else 31

/-- Usable bytes of the stack tier: 2.5 GiB a channel. -/
def State.stackUsable (s : State) : Nat := s.nStacks * s.nLogical * 2684354560

/-- The bulk tier is present (R49): all sixteen channels populated alike. -/
def State.bulkPresent (s : State) : Bool := (List.range 16).all (fun c =>
  (s.bulkCh c).populated && !(s.bulkCh c).broke && (s.bulkCh c).mode == (s.bulkCh 0).mode && (s.bulkCh c).capacity == (s.bulkCh 0).capacity)

/-- Bytes of the bulk tier. -/
def State.bulkBytes (s : State) : Nat := if s.bulkPresent then 16 * (s.bulkCh 0).capacity * gib else 0

/-- The capacity in GiB of the largest rank in service; a rank marked failed stays in service (R120). -/
def State.largestRank (s : State) : Nat := ((List.range 16).flatMap (fun c => (s.bulkCh c).rankGiB.zipIdx.map (fun r =>
  let x := s.unit (256 + 4 * c + r.2)
  if x.state = .inService || x.state = .failed || x.serving then r.1 else 0))).foldl max 0

/-- Bytes of the bulk spare region (R121): its size is fixed at the cold boot. -/
def State.spareBytes (s : State) : Nat := if s.bulkPresent then s.dram.spareGiB * gib else 0

/-- Bytes of the twin undo area below it (R507). -/
def State.undoBytes (s : State) : Nat := if s.bulkPresent then s.sec.config.twinUndo * gib else 0

/-- Bytes of the cache region, and where it starts (R62, R63). -/
def State.regionBytes (s : State) : Nat := s.sec.config.cacheRegion * gib
def State.regionBase (s : State) : Nat := s.stackUsable - s.regionBytes

/-- Sets of the cache region: 8,192 k - 256 for k × 8 GiB. -/
def State.regionSets (s : State) : Nat := 8192 * (s.sec.config.cacheRegion / 8) - 256

def isBulk (d : Nat) : Bool := decide (bulkBase ≤ d)

/-! ### Decode of a DPA (R51–R53) -/

def State.stackOf (s : State) (d : Nat) : Nat := d / 4096 % s.nStacks
def State.stackLocal (s : State) (d : Nat) : Nat := d / 4096 / s.nStacks * 4096 + d % 4096
def State.stackChannel (s : State) (d : Nat) : Nat := s.stackLocal d / 1024 % s.nLogical
def State.stackChanAddr (s : State) (d : Nat) : Nat := s.stackLocal d / 1024 / s.nLogical * 1024 + s.stackLocal d % 1024

def bulkChannelOf (d : Nat) : Nat := (d - bulkBase) / 4096 % 16
def bulkChanAddr (d : Nat) : Nat := (d - bulkBase) / 65536 * 4096 + (d - bulkBase) % 4096

/-- The home forge of an address (R18). -/
def State.homeForge (s : State) (d : Nat) : Nat := if isBulk d then bulkChannelOf d / 2 else s.stackOf d

/-- The forge-local address F (R53). -/
def State.forgeLocal (s : State) (d : Nat) : Nat :=
  if isBulk d then (bulkChanAddr d / 4096 * 2 + bulkChannelOf d % 2) * 4096 + bulkChanAddr d % 4096 else s.stackLocal d

/-- The physical channel that a logical channel of a stack maps to (R48). -/
def State.physical (s : State) (st l : Nat) : Nat := tget l (s.stack st).map l

/-- The rank that holds a channel address: the spec gives no assignment of addresses to ranks (log entry 13). -/
def State.rankOf (s : State) (c a : Nat) : Nat := Config.bulkRank (a / 131072) % max 1 (s.bulkCh c).ranks

/-- The position of a chunk's share among those of its rank (R122). -/
def State.chunkIndex (s : State) (c a : Nat) : Nat :=
  ((List.range (a / 131072)).filter (fun i => s.rankOf c (i * 131072) == s.rankOf c a)).length

/-- The channel of piece `k` of a list of runs. -/
def runChannel : List PieceRun → Nat → Option (Nat × Nat)
  | [], _ => none
  | r :: rs, k => if k < r.count then some (r.channel, (r.first + k) * 131072) else runChannel rs (k - r.count)

/-- The chunks of a retired or retiring rank that its remap record moves so far (R123, R124). -/
def State.switchedChunks (s : State) (r : Remap) : Nat := if r.complete then 2 ^ 40 else (s.unit r.unit).pieces / 2

/-- Where an address of a channel lies under the remap records, oldest first: a record moves a switched chunk of its rank to the
chunk's piece, and a later record may move that piece again (R122–R124). A record made before a rank was admitted again does not
move what a later record places in it. -/
def State.followRemaps (s : State) : List Remap → Nat → Nat → Nat × Nat
  | [], c, a => (c, a)
  | r :: rs, c, a =>
    if r.unit = 256 + 4 * c + s.rankOf c a && decide (s.chunkIndex c a < s.switchedChunks r) then
      match runChannel r.runs (s.chunkIndex c a) with
      | some (c2, a2) => s.followRemaps rs c2 (a2 + a % 131072)
      | none => s.followRemaps rs c a
    else s.followRemaps rs c a

/-- The channel and the channel address that hold a bulk-tier DPA. -/
def State.bulkPlace (s : State) (d : Nat) : Nat × Nat := s.followRemaps s.dram.remaps (bulkChannelOf d) (bulkChanAddr d)

/-- The physical channel that holds a stack-tier DPA before a running migration. -/
def State.stackUnit (s : State) (d : Nat) : Nat := 32 * s.stackOf d + s.physical (s.stackOf d) (s.stackChannel d)

/-- The service unit that a read of an address goes to (R122–R124): what holds its switched granule, else the unit itself. -/
def State.unitOf (s : State) (d : Nat) : Nat :=
  if isBulk d then 256 + 4 * (s.bulkPlace d).1 + s.rankOf (s.bulkPlace d).1 (s.bulkPlace d).2
  else
    let u := s.stackUnit d
    if (s.unit u).state = .retiring && decide (s.stackChanAddr d / 65536 < (s.unit u).pieces / 32 * 32) then
      32 * s.stackOf d + (s.stack (s.stackOf d)).spareCh
    else u

/-- For an address whose granule in a retiring unit has not switched: the unit, the 64 KiB piece of the address in it, and the
unit that the piece goes to (R123). -/
def State.moving (s : State) (d : Nat) : Option (Nat × Nat × Nat) :=
  let u := s.unitOf d
  if (s.unit u).state ≠ .retiring then none
  else if isBulk d then
    let p := s.bulkPlace d
    let k := s.chunkIndex p.1 p.2
    match s.dram.remaps.find? (fun r => r.unit == u && !r.complete) with
    | some r => (runChannel r.runs k).map (fun q => (u, 2 * k + p.2 % 131072 / 65536, 256 + 4 * q.1 + s.rankOf q.1 q.2))
    | none => none
  else some (u, s.stackChanAddr d / 65536, 32 * s.stackOf d + (s.stack (s.stackOf d)).spareCh)

/-- The forge that owns a service unit. -/
def unitForge (u : Nat) : Nat := if u < 256 then u / 32 else (u - 256) / 8

/-- The piece of an address is being copied to the spare (Table — Requests to a retiring unit). -/
def State.pieceInCopy (s : State) (d : Nat) : Bool :=
  (s.moving d).any (fun m => m.2.1 == (s.unit m.1).pieces && (s.background (unitForge m.1)).spare == some m.1)

/-- The unit that a write of an address goes to beside the one that reads go to: the spare, once the piece is copied and until
its granule switches (Table — Requests to a retiring unit). -/
def State.secondUnit (s : State) (d : Nat) : Option Nat :=
  (s.moving d).bind (fun m => if m.2.1 < (s.unit m.1).pieces then some m.2.2 else none)

/-- The channel queue that serves an address: HBM4 channel, or DDR5 subchannel (log entry 13). -/
def State.queueOf (s : State) (d : Nat) : Nat :=
  let u := s.unitOf d
  if u < 256 then u else 256 + 2 * ((u - 256) / 4) + Config.bulkSubchannel d % 2

/-! ### Segment tags (R63–R66) -/

/-- The bulk segment of an address. -/
def segOf (d : Nat) : Nat := (d - bulkBase) / 65536

/-- The set of a segment (R64). -/
def State.tagSet (s : State) (seg : Nat) : Nat := if s.regionSets = 0 then 0 else 8 * ((seg / 8) % (s.regionSets / 8)) + seg % 8

/-- The way that holds a segment, as an index of the tag table. -/
def State.tagOf (s : State) (seg : Nat) : Option Nat :=
  if s.regionSets = 0 then none
  else ((List.range 16).map (16 * s.tagSet seg + ·)).find? (fun i => (s.tag i).state != .invalid && (s.tag i).seg == seg)

/-- The DPA of a frame: the frames stand in the order of set and way (R63, log entry 72). -/
def State.frame (s : State) (i : Nat) : Nat := s.regionBase + 2 ^ 28 + i * 65536

/-- Where a read of an address is served: its home, or the frame of a VALID or EVICTING segment (R66). -/
def State.readPlace (s : State) (d : Nat) : Nat :=
  if isBulk d then
    match s.tagOf (segOf d) with
    | some i => if (s.tag i).state = .filling then d else s.frame i + (d - bulkBase) % 65536
    | none => d
  else d

/-- The granule of an address in its bulk segment. -/
def granuleOf (d : Nat) : Nat := (d - bulkBase) / 4096 % 16

/-- The placement unit that copies the segment of an address now, with its forge and its tag's way. -/
def State.copyUnit (s : State) (d : Nat) : Option (Nat × PlaceUnit) :=
  if !isBulk d then none
  else match s.tagOf (segOf d) with
    | some i => ((s.forge (segOf d % 8)).placeUnit).bind (fun u => if u.way = i then some (segOf d % 8, u) else none)
    | none => none

/-- The granule of an address is being copied, or written back (Table — CACHED request routing). -/
def State.granuleInCopy (s : State) (d : Nat) : Bool :=
  (s.copyUnit d).any (fun x => x.2.current == granuleOf d && (x.2.fill || bit (s.tag x.2.way).dirty (granuleOf d)))

/-- Where a write of an address goes (Table — CACHED request routing): home, frame, or both. -/
def State.writePlaces (s : State) (d : Nat) : List Nat :=
  if isBulk d then
    match s.tagOf (segOf d) with
    | some i =>
      let f := s.frame i + (d - bulkBase) % 65536
      match (s.tag i).state with
      | .valid => [f]
      | .evicting => [f, d]
      | .filling => if (s.copyUnit d).any (fun x => decide (granuleOf d < x.2.current)) then [f, d] else [d]
      | .invalid => [d]
    | none => [d]
  else [d]

/-- Marks the granule of a write DIRTY in a VALID segment's tag (R66). -/
def State.markDirty (s : State) (d : Nat) : State :=
  if isBulk d then
    match s.tagOf (segOf d) with
    | some i => if (s.tag i).state = .valid then s.modTag i (fun t => { t with dirty := setBit t.dirty (granuleOf d) true }) else s
    | none => s
  else s

/-- The state of a tag as its bits [30:29]. -/
def TagState.code : TagState → Nat | .invalid => 0 | .filling => 1 | .valid => 2 | .evicting => 3

/-- A tag as the tag store holds it (Table — Segment tag entry). -/
def SegTag.word (t : SegTag) : Nat :=
  t.seg * 2 ^ 37 + t.part * 2 ^ 31 + t.state.code * 2 ^ 29 + ofBool t.pin * 2 ^ 28 + t.dirty * 2 ^ 12 + t.age * 2 ^ 8

/-- Where the tags of a set stand in the tag store: 128 bytes a set (R63, R64). -/
def State.tagAddress (s : State) (set : Nat) : Nat := s.regionBase + 128 * set

/-! ### Records of the CXL heads (R387) -/

/-- Capacity of the five logs. -/
def logCap (l : Nat) : Nat := match l with | 3 => 16 | 4 => 256 | _ => 64

/-- Posts a record in log `l` of head `h`; a full log sets its overflow flag and counts the loss. An event interrupt is
raised where the policy of the log selects MSI-X and the log held no record (R387). -/
def State.postListing (s : State) (h l : Nat) (kind : EventKind) (dpa len info : Nat) (extents : List DcExtent) : State :=
  let x := tget EventLog.reset (s.head h).logs l
  if x.recs.length < logCap l then
    let r : EventRec := { kind := kind, handle := (s.head h).nextHandle, dpa := dpa, len := len, info := info, extents := extents, heat := s.heat.count }
    let s1 := (s.modHead h (fun y => { y with
      logs := tins y.logs l { x with recs := x.recs ++ [r] }
      nextHandle := if y.nextHandle = 0xFFFF then 1 else y.nextHandle + 1 })).countHead h 24 1
    if (byteAt (s.head h).policy l).toNat % 4 = 1 && x.recs.isEmpty then s1.deviceEvent (0x090 + h) else s1
  else
    (s.modHead h (fun y => { y with logs := tins y.logs l { x with overflow := true, lost := x.lost + 1 } })).countHead h 25 1

/-- Posts a record that lists no extent. -/
def State.post (s : State) (h l : Nat) (kind : EventKind) (dpa len info : Nat) : State := s.postListing h l kind dpa len info []

/-- Posts a record on both heads. -/
def State.postBoth (s : State) (l : Nat) (kind : EventKind) (dpa len info : Nat) : State :=
  (s.post 0 l kind dpa len info).post 1 l kind dpa len info

/-- The extent entry whose block holds an address. -/
def State.extentAt (s : State) (d : Nat) : Option Nat :=
  (s.parts.extents.find? (fun p => p.2.state != .free && p.2.dpaBlk == d / 2 ^ 28)).map (·.1)

/-- The partition that owns an address; 0 where no extent holds it. -/
def State.partAt (s : State) (d : Nat) : Nat := ((s.extentAt d).map (fun n => (s.ext n).part)).getD 0

/-- The block of an address is accepted on head `h`. -/
def State.acceptedAt (s : State) (h d : Nat) : Bool := (s.extentAt d).any (fun n => (s.head h).accepted.contains n)

/-- The address that software knows a location by: that of its segment for a location of a frame of the cache region (R66). -/
def State.shownAt (s : State) (d : Nat) : Nat :=
  let i := (d - s.frame 0) / 65536
  if s.frame 0 ≤ d && d < s.regionBase + s.regionBytes && ((s.tag i).state == .valid || (s.tag i).state == .evicting) then
    bulkBase + (s.tag i).seg * 65536 + (d - s.frame 0) % 65536
  else d

/-- A head records a poisoned location in a block accepted on it (R386): up to 256. A location of a frame is one of its segment. -/
def State.notePoison (s : State) (at_ : Nat) : State :=
  let d := s.shownAt at_
  [0, 1].foldl (fun a h =>
    if a.acceptedAt h d && !(a.head h).poisonList.contains (d / 64) then
      a.modHead h (fun x =>
        if x.poisonList.length < 256 then { x with poisonList := addSorted (d / 64) x.poisonList }
        else { x with poisonOverflow := true, overflowTime := if x.poisonOverflow then x.overflowTime else x.timestamp })
    else a) s

/-! ### The channel queues (R106, R107, R111) -/

/-- A request is ordered as class 0 once its age limit has passed (R110). -/
def DramRead.order (r : DramRead) : Nat := if r.promoted then 0 else r.cls

/-- A queue of 64 entries with 4 kept for each class takes one more of class `c`, given the classes it holds (R106). -/
def queueTakes (c : Nat) (held : List Nat) : Bool :=
  let n (k : Nat) : Nat := (held.filter (· == k)).length
  decide (n c < 4) || decide (([0, 1, 2, 3, 4].map (fun k => n k - 4)).foldl (· + ·) 0 < 44)

/-- Adds `n` bytes to the counters of memory accesses of a unit, for a standard partition (R77, R129): read (6) or written (7). -/
def State.countBytes (s : State) (u part n : Nat) (write : Bool) : State :=
  if (s.part part).confidential then s
  else if u < 256 then s.modStack (u / 32) (fun x => { x with counters := tcount 64 x.counters (4 * (if write then 7 else 6)) n })
  else s.modBulk ((u - 256) / 4) (fun x => { x with counters := tcount 64 x.counters (4 * (if write then 3 else 2)) n })

/-- A read that returned poison is counted (R114): in WIN_06 of its bulk channel, or in the stack's own count, which no window
shows. -/
def State.countPoisonRead (s : State) (u : Nat) : State :=
  if u < 256 then s.modStack (u / 32) (fun x => { x with counters := tcount 64 x.counters 40 1 })
  else s.modBulk ((u - 256) / 4) (fun x => { x with counters := tcount 64 x.counters 26 1 })

/-- A request of classes 0–3 or a background unit other than patrol scrub resets the unit's idle count and wakes it; out of
self-refresh one refresh comes before any other command (R127, R128). -/
def State.touchUnit (s : State) (u : Nat) : State :=
  s.modUnit u (fun x => { x with
    touched := true, idle := 0, power := .active, scrubbed := none
    exitRefresh := x.exitRefresh || x.power == .selfRefresh })

/-- The unit takes no command now: its postponed slots, or the refresh after self-refresh, come first (R39, R128). -/
def State.unitBlocked (s : State) (u : Nat) : Bool := (s.unit u).refreshing || (s.unit u).exitRefresh

/-- Numbers in strictly rising order. -/
def rising : List Nat → Bool
  | [] => true
  | [_] => true
  | a :: b :: r => decide (a < b) && rising (b :: r)

/-! ### Memory encryption (R464, R465) -/

/-- A location lies in a run. -/
def KeyRun.has (r : KeyRun) (loc : Nat) : Bool := decide (r.first ≤ loc) && decide (loc < r.first + r.count)

/-- The key pair under which a location is encrypted; `dflt` where no run holds it. -/
def keyIn (dflt : List Byte) (l : List KeyRun) (loc : Nat) : List Byte := ((l.find? (·.has loc)).map (·.key)).getD dflt

/-- The parts of a run that lie outside `n` locations from `lo` on. -/
def KeyRun.outside (lo n : Nat) (r : KeyRun) : List KeyRun :=
  [{ r with count := min (r.first + r.count) lo - r.first },
   { r with first := max r.first (lo + n), count := r.first + r.count - max r.first (lo + n) }].filter (fun x => decide (0 < x.count))

/-- Runs in the order of their addresses. -/
def insertKeys (r : KeyRun) : List KeyRun → List KeyRun
  | [] => [r]
  | x :: t => if r.first ≤ x.first then r :: x :: t else x :: insertKeys r t

/-- Joins runs of one key that touch. -/
def joinKeys : List KeyRun → List KeyRun
  | [] => []
  | r :: l => match joinKeys l with
    | q :: t => if r.first + r.count = q.first ∧ r.key = q.key then { r with count := r.count + q.count } :: t else r :: q :: t
    | [] => [r]

/-- `n` locations from `lo` on are encrypted under a key pair from now on; those under `dflt` are not listed. -/
def Mem.setKey (m : Mem) (dflt : List Byte) (lo n : Nat) (key : List Byte) : Mem :=
  let rest := m.keys.flatMap (KeyRun.outside lo n)
  { m with keys := joinKeys (if key = dflt ∨ n = 0 then rest else insertKeys { first := lo, count := n, key := key } rest) }

/-- Runs that rise, do not overlap, hold a location each, and do not touch one of the same key. -/
def keysOk : List KeyRun → Bool
  | [] => true
  | [r] => decide (0 < r.count)
  | r :: q :: t => decide (0 < r.count) && decide (r.first + r.count ≤ q.first) && !(decide (r.first + r.count = q.first) && decide (r.key = q.key)) &&
      keysOk (q :: t)

/-- The canonical form of device memory: bytes by strictly rising address with no listed zero, poisoned locations strictly
rising, runs of keys as they are joined. -/
def Mem.wf (m : Mem) : Bool := bwf m.bytes && rising m.poison && keysOk m.keys

/-- The key pair in a key slot; a slot whose key is destroyed holds none (R464). -/
def State.slotKey (s : State) (p : Nat) : List Byte := tget [] s.sec.memKeys p

/-- The key slot of an address (R465): its extent's partition, in a cache-region frame the partition of its segment tag, else 0. -/
def State.keySlot (s : State) (d : Nat) : Nat :=
  let a := d / 64 * 64
  let f := s.regionBase + 2 ^ 28
  if s.regionSets ≠ 0 && decide (f ≤ a) && decide (a < f + 16 * s.regionSets * 65536) then
    (if (s.tag ((a - f) / 65536)).state = .invalid then 0 else (s.tag ((a - f) / 65536)).part)
  else s.partAt a

/-- The tweak of a location: DPA[43:6] as a 128-bit little-endian value (R465). -/
def tweakOf (a : Nat) : List Byte := leBytes 16 (a / 64 % 2 ^ 38)

/-- The key pair under which the location of an address is encrypted. -/
def State.keyAt (s : State) (a : Nat) : List Byte := keyIn (s.slotKey 0) s.tiers.mem.keys (a / 64)

/-- The 64 bytes that DRAM holds at a location, and that its pins show: ciphertext (R465, R477). -/
def State.ciphertext (s : State) (a : Nat) : List Byte :=
  fit 64 (Config.xtsEncrypt (s.keyAt a) (tweakOf a) (bread s.tiers.mem.bytes (a / 64 * 64) 64))

/-- What the controller decrypts with the key of the address's slot: what was written, where it was encrypted under that key. -/
def State.decrypted (s : State) (a : Nat) : List Byte :=
  if s.keyAt a = s.slotKey (s.keySlot a) then bread s.tiers.mem.bytes (a / 64 * 64) 64
  else fit 64 (Config.xtsDecrypt (s.slotKey (s.keySlot a)) (tweakOf a) (s.ciphertext a))

/-- `n` bytes of stored memory at `a` are encrypted under a key slot from now on. -/
def State.encrypt (s : State) (a n slot : Nat) : State :=
  s.modMem (fun m => m.setKey (s.slotKey 0) (a / 64) (n / 64) (s.slotKey slot))

/-- Adds and removes poisoned locations. -/
def Mem.setPoison (m : Mem) (loc : Nat) (p : Bool) : Mem :=
  { m with poison := if p then addSorted loc m.poison else m.poison.filter (· != loc) }

/-- A 64-byte location of memory as it is decrypted, and whether it is poison. -/
def State.location (s : State) (a : Nat) : List Byte × Bool := (s.decrypted a, s.tiers.mem.poison.contains (a / 64))

/-- Stores a 64-byte location, encrypted under its address's key slot (R114, R465). -/
def State.storeLocation (s : State) (a : Nat) (data : List Byte) (poison : Bool) : State :=
  s.modMem (fun m => ({ m with bytes := bwrite m.bytes (a / 64 * 64) (fit 64 data) }.setPoison (a / 64) poison).setKey (s.slotKey 0)
    (a / 64) 1 (s.slotKey (s.keySlot a)))

/-- A line written as poison is counted in WIN_06 of its bulk channel (R129). -/
def State.countPoisonWrite (s : State) (u : Nat) : State :=
  if u < 256 then s else s.modBulk ((u - 256) / 4) (fun x => { x with counters := tcount 64 x.counters 24 1 })

/-- A write of an address is counted at a unit, and wakes it unless it is of class BACKGROUND (R127, R129). -/
def State.writeCounted (s : State) (w : DramWrite) (u : Nat) : State :=
  let s1 := s.countBytes u w.part 64 true
  let s2 := if w.cls < 4 then s1.touchUnit u else s1
  if w.poison then s2.countPoisonWrite u else s2

/-- One queued write reaches its DRAM, and the spare as well once its piece is copied (R123); a dead unit drops it and counts it
(R120). -/
def State.applyWrite (s : State) (w : DramWrite) : State :=
  let a := w.place * 64
  let u := s.unitOf a
  if (s.unit u).dead then s.modUnit u (fun x => { x with dropped := x.dropped + 1 })
  else
    let s1 := (s.storeLocation a w.data w.poison).writeCounted w u
    match s.secondUnit a with
    | some v => s1.writeCounted w v
    | none => s1

/-- A write cannot leave its queue now: its unit takes no command, or its piece is being copied (R39, R123, R128). -/
def State.writeHeld (s : State) (w : DramWrite) : Bool := s.unitBlocked (s.unitOf (w.place * 64)) || s.pieceInCopy (w.place * 64)

/-- A promoted write that no older promoted read precedes (R111). -/
def DramQueue.forces (q : DramQueue) (w : DramWrite) : Bool :=
  w.promoted && q.reads.all (fun r => !r.promoted || decide (w.seq < r.seq))

/-- A write burst is due (R111): 48 entries, a promoted write, or no read. -/
def DramQueue.burstDue (q : DramQueue) : Bool :=
  decide (48 ≤ q.writes.length) || q.writes.any q.forces || q.reads.isEmpty

/-- Drains the burst of a queue that holds `n` writes: all when no read waits, else down to 16 with no promoted write left; what
is held stays. The writes drained and those left. -/
def drainList (held forces : DramWrite → Bool) (readsEmpty : Bool) : Nat → List DramWrite → List DramWrite × List DramWrite
  | _, [] => ([], [])
  | n, w :: r =>
    if !held w && (readsEmpty || decide (16 < n) || (w :: r).any (fun x => forces x && !held x)) then
      let d := drainList held forces readsEmpty (n - 1) r; (w :: d.1, d.2)
    else
      let d := drainList held forces readsEmpty n r; (d.1, w :: d.2)
  termination_by structural _ l => l

/-- Moves held requests into a queue as room allows (R106). -/
def DramQueue.admitHeld (q : DramQueue) : DramQueue :=
  let q1 := q.heldReads.foldl (fun (a : DramQueue) r =>
    if queueTakes r.cls (a.reads.map (·.cls)) then { a with reads := a.reads ++ [r] } else { a with heldReads := a.heldReads ++ [r] })
    { q with heldReads := [] }
  q1.heldWrites.foldl (fun (a : DramQueue) w =>
    if queueTakes w.cls (a.writes.map (·.cls)) then { a with writes := a.writes ++ [w] } else { a with heldWrites := a.heldWrites ++ [w] })
    { q1 with heldWrites := [] }

/-- Runs the write burst of queue `k`, if one is due. -/
def State.drainQueue (s : State) (k : Nat) : State :=
  let q := s.queue k
  if q.burstDue then
    let d := drainList s.writeHeld q.forces q.reads.isEmpty q.writes.length q.writes
    d.1.foldl State.applyWrite (s.modQueue k (fun x => { x with writes := d.2 }.admitHeld))
  else s

/-- Runs the write bursts that have become due in every queue. -/
def State.drainAll (s : State) : State := (s.dram.queues.map (·.1)).foldl State.drainQueue s

/-- The queue that holds a write of a stored location, wherever its requests go now (R107, R123). -/
def State.queueHolding (s : State) (place : Nat) : Option Nat :=
  (s.dram.queues.find? (fun q => q.2.writes.any (·.place == place) || q.2.heldWrites.any (·.place == place))).map (·.1)

/-- The queued write of a stored location. -/
def State.queuedWrite (s : State) (place : Nat) : Option DramWrite :=
  (s.queueHolding place).bind (fun k => ((s.queue k).writes ++ (s.queue k).heldWrites).find? (·.place == place))

/-- Two writes of one sector as one entry: the later data, the higher class and the older age (R107). -/
def DramWrite.merge (x w : DramWrite) : DramWrite :=
  { w with cls := min x.cls w.cls, age := max x.age w.age, promoted := x.promoted || w.promoted, seq := min x.seq w.seq }

/-- A write of one location enters its channel queue, merging with one already there, and wakes its unit (R107, R127, R128). -/
def State.queueWrite (s : State) (w0 : DramWrite) : State :=
  let w := { w0 with seq := s.dram.nextSeq }
  let merged (l : List DramWrite) : List DramWrite := l.map (fun x => if x.place = w.place then x.merge w else x)
  match s.queueHolding w.place with
  | some k =>
    let s1 := s.modQueue k (fun y => { y with writes := merged y.writes, heldWrites := merged y.heldWrites })
    (if w.cls < 4 then s1.touchUnit (s.unitOf (w.place * 64)) else s1).drainQueue k
  | none =>
    let k := s.queueOf (w.place * 64)
    let s0 : State := { s with dram := { s.dram with nextSeq := s.dram.nextSeq + 1 } }
    let s1 := if queueTakes w.cls ((s.queue k).writes.map (·.cls)) then s0.modQueue k (fun y => { y with writes := y.writes ++ [w] })
      else s0.modQueue k (fun y => { y with heldWrites := y.heldWrites ++ [w] })
    (if w.cls < 4 then s1.touchUnit (s.unitOf (w.place * 64)) else s1).drainQueue k

/-- The newest content of a stored location: a queued write's, else the DRAM's, which a dead unit returns as poison (R107, R120). -/
def State.dramLocation (s : State) (a : Nat) : List Byte × Bool :=
  match s.queuedWrite (a / 64) with
  | some w => (fit 64 w.data, w.poison)
  | none => if (s.unit (s.unitOf a)).dead then ((s.location a).1, true) else s.location a

/-- The newest content of a sector below the forge cache: a write that waits for a granule's copy, else what its place holds. -/
def State.sectorBelow (s : State) (sec : Nat) : List Byte × Bool :=
  match s.dram.copyWaits.find? (·.place == sec) with
  | some w => (fit 64 w.data, w.poison)
  | none => s.dramLocation (s.readPlace (sec * 64))

/-- A sector's content below the forge cache is that of a write still on its way (R107). -/
def State.writtenBelow (s : State) (sec : Nat) : Bool :=
  s.dram.copyWaits.any (·.place == sec) || (s.queuedWrite (s.readPlace (sec * 64) / 64)).isSome

/-- One sector is written to every place that its tag routes it to; a VALID segment's granule becomes DIRTY (R66). -/
def State.routeWrite (s : State) (w : DramWrite) : State :=
  ((s.writePlaces (w.place * 64)).foldl (fun a p => a.queueWrite { w with place := p / 64 }) s).markDirty (w.place * 64)

/-- How far the copy of a running placement unit has got when a write meets its segment: open, never back (R66, log entry 16). The
writes that waited for a granule now copied go on. -/
def State.copyAdvance (s : State) (d : Nat) : State :=
  match s.copyUnit d with
  | none => s
  | some (f, u) =>
    let c := min 15 (u.current + Config.freeValue s.free % 17)
    let s1 := (s.modForge f (fun g => { g with placeUnit := some { u with current := c } })).drawn
    let free (w : DramWrite) : Bool := decide (segOf (w.place * 64) = segOf d) && isBulk (w.place * 64) && !s1.granuleInCopy (w.place * 64)
    (s.dram.copyWaits.filter free).foldl State.routeWrite
      { s1 with dram := { s1.dram with copyWaits := s1.dram.copyWaits.filter (fun w => !free w) } }

/-- Writes one 64-byte sector below the forge cache: to every place that its tag routes it to, or, while its granule is in copy,
to the writes that wait for it (R66). -/
def State.dramWrite (s : State) (cls part sector : Nat) (data : List Byte) (poison : Bool) : State :=
  let s1 := s.copyAdvance (sector * 64)
  let w : DramWrite := { place := sector, cls := cls, age := 0, promoted := false, data := fit 64 data, poison := poison, part := part, seq := 0 }
  if s1.granuleInCopy (sector * 64) then
    { s1 with dram := { s1.dram with copyWaits := s1.dram.copyWaits.filter (·.place != sector) ++ [w] } }
  else s1.routeWrite w

/-- A read enters the queue of its channel, and wakes its unit (R106, R127). -/
def State.enterRead (s : State) (r0 : DramRead) : State :=
  let r : DramRead := { r0 with seq := s.dram.nextSeq }
  let k := s.queueOf (r.place * 64)
  let s0 : State := { s with dram := { s.dram with nextSeq := s.dram.nextSeq + 1 } }
  let s1 := if queueTakes r.cls ((s.queue k).reads.map (·.cls)) then s0.modQueue k (fun y => { y with reads := y.reads ++ [r] })
    else s0.modQueue k (fun y => { y with heldReads := y.heldReads ++ [r] })
  if r.cls < 4 then s1.touchUnit (s.unitOf (r.place * 64)) else s1

/-- A read whose data no line takes: of the tag store, or of a bulk home that its tag makes useless (R65, R66). One that a queued write
answers never reaches the DRAM (R107). -/
def State.readAside (s : State) (cls part place : Nat) : State :=
  if (s.queuedWrite place).isSome then s
  else s.enterRead { sector := place, place := place, cls := cls, age := 0, promoted := false, prefetch := false, passed := 0,
                     part := part, seq := 0, kept := false }

/-! ### Admission (R85) -/

/-- The extent of partition `p` that a PSA block is mapped to: window and directory (check 3). -/
def State.directory (s : State) (p blk : Nat) : Option Nat :=
  let r := s.part p
  if r.psaBase ≤ blk ∧ blk < r.psaBase + r.span then tfind s.parts.dir (r.dirOff + (blk - r.psaBase)) else none

/-- Checks 2–5 of Table — Admission checks: a status, and the DPA of an access that passes. -/
def State.lookup (s : State) (p psa : Nat) (write : Bool) : Nat × Nat :=
  if (s.part p).state ≠ .active then (stQuenched, 0)
  else match s.directory p (psa / 2 ^ 28) with
    | none => (stNoExtent, 0)
    | some n =>
      let e := s.ext n
      if e.state ≠ .active then (stNoExtent, 0)
      else if write && e.ro then (stDenied, 0)
      else (stOk, e.dpaBlk * 2 ^ 28 + psa % 2 ^ 28)

/-- Every byte of a range of a partition's memory passes; the range may span PSA blocks. -/
def State.rangeStatus (s : State) (p psa len : Nat) (write : Bool) : Nat :=
  let first := psa / 2 ^ 28
  let n := (psa + len - 1) / 2 ^ 28 + 1 - first
  ((List.range n).map (fun i => (s.lookup p ((first + i) * 2 ^ 28) write).1)).foldl (fun a st => if a = stOk then st else a) stOk

/-- The DPA of one byte of a partition's memory. -/
def State.dpaOf (s : State) (p psa : Nat) : Nat := (s.lookup p psa false).2

end Sys2Proof.Machine
end

