-- ==== Sys2Proof/Machine/Cache.lean ====
section
/-! DEFINITION. The forge cache (R53–R57), the stream trackers (R58–R60), the segment activity tables and the tag
cache (R65, R68, R69), and the plaintext that a read of device memory sees. -/

namespace Sys2Proof.Machine

/-! ### Hints (R72, R73) -/

/-- The hint in force at an address of a partition: the newest range that covers it. -/
def State.hintAt (s : State) (p psa : Nat) : Nat :=
  match (tget [] s.tiers.hints p).filter (fun r => decide (r.base ≤ psa) && decide (psa < r.base + r.len)) with
  | [] => 0
  | r :: rs => (rs.foldl (fun a b => if a.order < b.order then b else a) r).hint

/-- A segment of a partition is pinned (R74): it lies under PIN, and its set had room for it. -/
def State.pinnedAt (s : State) (p psa : Nat) : Bool :=
  s.hintAt p psa == 6 &&
  (tget [] s.tiers.hints p).any (fun r => r.hint == 6 && decide (r.base ≤ psa) && decide (psa < r.base + r.len) && !r.skip.contains (psa / 65536))

/-- The hint of a DPA, by the extent that holds it. -/
def State.hintOf (s : State) (d : Nat) : Nat :=
  match s.extentAt d with
  | some n => s.hintAt (s.ext n).part ((s.ext n).psaBlk * 2 ^ 28 + d % 2 ^ 28)
  | none => 0

/-- The effective promotion threshold under a hint (Table — Runtime hints); none: never counted or promoted. -/
def effectiveThreshold (t hint : Nat) : Option Nat :=
  match hint with
  | 0 => some t | 1 => some (max 1 (t / 4)) | 2 => some (max 1 (t / 2)) | 3 => some (min 255 (2 * t)) | 4 => some t
  | _ => none

/-- RRV of a demand fill and of a prefetch fill under a hint (R56). -/
def demandRrv (hint : Nat) : Nat := match hint with | 1 => 1 | 3 => 3 | 5 => 3 | _ => 2
def prefetchRrv (hint : Nat) : Nat := match hint with | 1 => 2 | 4 => 2 | _ => 3

/-- Prefetch depth at confirmation (R59). -/
def startDepth (hint : Nat) : Nat := match hint with | 1 => 16 | 4 => 64 | _ => 4

/-! ### Lines and ways (R53, R55, R56) -/

/-- Ways of each slice that the tag cache uses: the highest-numbered ones (R65). -/
def State.tagWays (s : State) : Nat := ceilDiv s.sec.config.cacheRegion 96

/-- The set of a line address in its forge. -/
def State.lineSet (s : State) (la : Nat) : Nat := s.forgeLocal (la * 256) / 256 % 6144

/-- The way, by 16 × set + way, that holds a line address, whatever its partition. -/
def State.lineWay (s : State) (la : Nat) : Option Nat :=
  let f := s.homeForge (la * 256)
  ((List.range 16).map (16 * s.lineSet la + ·)).find? (fun i => (tfind (s.forge f).lines i).any (fun l => l.addr == la))

/-- The line held for a line address. -/
def State.line (s : State) (la : Nat) : Option Line :=
  (s.lineWay la).bind (fun i => tfind (s.forge (s.homeForge (la * 256))).lines i)

def State.setLine (s : State) (la i : Nat) (l : Line) : State :=
  s.modForge (s.homeForge (la * 256)) (fun g => { g with lines := tins g.lines i l })

def State.dropLine (s : State) (la i : Nat) : State :=
  s.modForge (s.homeForge (la * 256)) (fun g => { g with lines := tdel g.lines i })

/-- Adds to counter `k` of a forge unless the access is a confidential partition's (R76). -/
def State.countAccess (s : State) (f part k n : Nat) : State :=
  if (s.part part).confidential then s else s.countForge f k n

/-- The ways that a partition may allocate in (R56, R472): its own reserved ones when it is confidential, else those
that no partition has reserved; the tag cache's ways never. -/
def State.wayOpen (s : State) (part w : Nat) : Bool :=
  decide (w < 16 - s.tagWays) &&
  (if (s.part part).confidential then bit (s.part part).ways w
   else !(s.parts.parts.any (fun p => p.2.state != .free && bit p.2.ways w)))

/-- A sector of a line: its 64 bytes. -/
def Line.sector (l : Line) (k : Nat) : List Byte := bread l.data (64 * k) 64

/-- The victim of a set for a partition (R56): an empty way first, else the lowest eligible way without a pending fill whose RRV is
3 once every eligible RRV has risen by the same amount. The state after the rise, and the way. -/
def State.victim (s : State) (part la : Nat) : State × Option Nat :=
  let f := s.homeForge (la * 256)
  let base := 16 * s.lineSet la
  let ws := (List.range 16).filter (s.wayOpen part ·)
  match ws.find? (fun w => (tfind (s.forge f).lines (base + w)).isNone) with
  | some w => (s, some (base + w))
  | none =>
    let el := ws.filter (fun w => (tfind (s.forge f).lines (base + w)).all (fun l => l.pending == 0))
    let rrv (w : Nat) : Nat := ((tfind (s.forge f).lines (base + w)).map (·.rrv)).getD 0
    let top := (el.map rrv).foldl max 0
    let s1 := s.modForge f (fun g => { g with lines := g.lines.map (fun p =>
      if decide (base ≤ p.1) && ws.contains (p.1 - base) then (p.1, { p.2 with rrv := min 3 (p.2.rrv + (3 - top)) }) else p) })
    (s1, (el.find? (fun w => rrv w == top)).map (base + ·))

/-- An empty line. -/
def Line.empty (la part rrv : Nat) (prefetched : Bool) : Line :=
  { addr := la, part := part, valid := 0, dirty := 0, rrv := rrv, prefetched := prefetched, wcls := 4, pending := 0, poison := 0
    covered := 0, data := [], merges := [] }

/-- On an address match with a different partition the line is invalidated without writeback and counted (R55). -/
def State.checkOwner (s : State) (part la : Nat) : State :=
  match s.lineWay la, s.line la with
  | some i, some l => if l.part = part then s else (s.dropLine la i).countAccess (s.homeForge (la * 256)) part 16 1
  | _, _ => s

/-- A line of a partition is held, or a way is free for it: an access for which none is waits (R54, R56). -/
def State.wayFree (s : State) (part la : Nat) : Bool :=
  (s.line la).any (·.part == part) ||
  ((List.range 16).filter (s.wayOpen part ·)).any (fun w =>
    (tfind (s.forge (s.homeForge (la * 256))).lines (16 * s.lineSet la + w)).all (fun l => l.pending == 0 || l.addr == la))

/-! ### The bytes of a line -/

/-- A write of `n` bytes of sector `k` and its poison flag (R114): a poisoned write sets it, and it stays until clean writes have
overwritten all 64 bytes. -/
def Line.cover (l : Line) (k off n : Nat) (poison : Bool) : Line :=
  let old := l.covered / 2 ^ (64 * k) % 2 ^ 64
  let base := l.covered - old * 2 ^ (64 * k)
  if poison then { l with poison := setBit l.poison k true, covered := base }
  else if !bit l.poison k then l
  else
    let new := old ||| ((2 ^ n - 1) * 2 ^ off % 2 ^ 64)
    if new = 2 ^ 64 - 1 then { l with poison := setBit l.poison k false, covered := base }
    else { l with covered := base + new * 2 ^ (64 * k) }

/-- Writes part of a sector: merged, dirty; a whole one ends a pending fill (R54). -/
def Line.put (l : Line) (cls k off : Nat) (data : List Byte) (poison : Bool) : Line :=
  let whole := off = 0 && data.length = 64
  { l with
    data := bwrite l.data (64 * k + off) data
    valid := setBit l.valid k true
    dirty := setBit l.dirty k true
    wcls := min l.wcls cls
    pending := if whole then setBit l.pending k false else l.pending
    merges := if whole then l.merges.filter (fun m => m.1 / 64 != k) else l.merges }.cover k off data.length poison

/-- Data of a DRAM read merges into its line: the sector becomes valid, waiting partial writes go over it (R54). -/
def Line.fill (l : Line) (k : Nat) (data : List Byte) (poison : Bool) : Line :=
  if !bit l.pending k then l
  else
    let mine := l.merges.filter (fun m => m.1 / 64 == k)
    let l1 : Line := { l with
      data := bwrite l.data (64 * k) (fit 64 data)
      valid := setBit l.valid k true
      pending := setBit l.pending k false
      poison := setBit l.poison k poison
      covered := l.covered - l.covered / 2 ^ (64 * k) % 2 ^ 64 * 2 ^ (64 * k)
      merges := l.merges.filter (fun m => m.1 / 64 != k) }
    mine.foldl (fun a m => a.put a.wcls k (m.1 % 64) m.2.1 m.2.2) l1

/-- A partial write waits for the fill of its sector (R54). -/
def Line.defer (l : Line) (cls k off : Nat) (data : List Byte) (poison : Bool) : Line :=
  { l with pending := setBit l.pending k true, wcls := min l.wcls cls, merges := l.merges ++ [(64 * k + off, data, poison)] }

/-! ### The plaintext of memory -/

/-- The 64-byte sector as a read of a partition sees it: the forge cache's where it holds a line of that partition with it, else what is
below with the partial writes that wait for the fill (R55). -/
def State.sectorView (s : State) (part sec : Nat) : List Byte × Bool :=
  let v := s.sectorBelow sec
  match s.line (sec / 4) with
  | some l =>
    let m := l.fill (sec % 4) v.1 v.2
    if l.part = part && bit m.valid (sec % 4) then (m.sector (sec % 4), bit m.poison (sec % 4)) else v
  | none => v

/-- The sectors that a range of addresses touches. -/
def sectorsOf (d len : Nat) : List Nat := (List.range ((d + len - 1) / 64 + 1 - d / 64)).map (d / 64 + ·)

/-- Bytes of device memory as a read of a partition sees them. -/
def State.view (s : State) (part d len : Nat) : List Byte :=
  (((sectorsOf d len).flatMap (fun k => (s.sectorView part k).1)).drop (d % 64)).take len

/-- Some location of a range reads as poison. -/
def State.viewPoison (s : State) (part d len : Nat) : Bool := (sectorsOf d len).any (fun k => (s.sectorView part k).2)

/-! ### DRAM reads on their way to the forge cache (R54, R57, R106, R107) -/

/-- A read of a sector for a partition is on its way: queued, or returned and not yet in the forge cache. -/
def State.readOnWay (s : State) (part sec : Nat) : Bool :=
  s.dram.queues.any (fun q => (q.2.reads ++ q.2.heldReads).any (fun r => r.kept && r.sector == sec && r.part == part)) ||
  (s.forge (s.homeForge (sec * 64))).returned.any (fun r => r.sector == sec && r.part == part)

/-- A sector read enters its channel queue; a write still on its way to the same place answers it at once (R107). One that is on its
way already is not read a second time (R57). -/
def State.queueRead (s : State) (cls part sec : Nat) (prefetch : Bool) : State :=
  if s.readOnWay part sec then s
  else
    let pl := s.readPlace (sec * 64)
    if s.writtenBelow sec then
      let v := s.sectorBelow sec
      let s1 := s.modForge (s.homeForge (sec * 64)) (fun g => { g with
        returned := g.returned ++ [{ sector := sec, part := part, data := v.1, poison := v.2 }] })
      if v.2 then s1.countPoisonRead (s.unitOf pl) else s1
    else s.enterRead { sector := sec, place := pl / 64, cls := cls, age := 0, promoted := false, prefetch := prefetch, passed := 0,
                       part := part, seq := 0, kept := true }

/-- A demand read meets a prefetch of the same sector: the demand's class and order apply to the one fill (R57). -/
def State.demandMeets (s : State) (part sec cls : Nat) : State :=
  let meet (r : DramRead) : DramRead :=
    if r.kept && r.sector = sec && r.part = part && r.prefetch then { r with prefetch := false, cls := min r.cls cls } else r
  { s with dram := { s.dram with queues := tmap s.dram.queues (fun _ q => { q with
      reads := q.reads.map meet, heldReads := q.heldReads.map meet }) } }

/-! ### Tag cache, activity and candidates (R65, R68, R69) -/

/-- The tags of a set are written to the tag store, with AGE 15, by requests of class COHERENT (R64, R65, R109). -/
def State.storeTags (s : State) (set : Nat) : State :=
  let ways := (List.range 16).map (16 * set + ·)
  let s1 := ways.foldl (fun a i => if (a.tag i).state = .invalid then a else a.modTag i (fun t => { t with age := 15 })) s
  let bytes := ways.flatMap (fun i => leBytes 8 (s1.tag i).word)
  [0, 1].foldl (fun a k => a.queueWrite
    { place := s1.tagAddress set / 64 + k, cls := 0, age := 0, promoted := false, data := (bytes.drop (64 * k)).take 64, poison := false, part := 0, seq := 0 }) s1

/-- Brings the tags of a set into its forge's tag cache, which holds whole sets, 12,288 to a way, the least recently used leaving
(R65, log entry 72); a miss reads the tag store in class COHERENT. True when they were held already. -/
def State.loadTags (s : State) (set : Nat) : State × Bool :=
  let held := (s.forge (set % 8)).tagCache
  let keep := set :: held.filter (· != set)
  let s1 := s.modForge (set % 8) (fun g => { g with tagCache := keep.take (s.tagWays * 12288) })
  if held.contains set then (s1, true)
  else
    let s2 := (keep.drop (s.tagWays * 12288)).foldl State.storeTags s1
    ((s2.readAside 0 0 (s2.tagAddress set / 64)).readAside 0 0 (s2.tagAddress set / 64 + 1), false)

/-- The segment of an address belongs to a CACHED extent. -/
def State.isCached (s : State) (d : Nat) : Bool := isBulk d && (s.extentAt d).any (fun n => (s.ext n).place == 1)

/-- An access below the forge cache to a CACHED extent looks its segment up in the tag cache of its tag forge; an access to a resident
segment sets its AGE (R65, R73). True when the bulk home's data, read beside the tag, is discarded (R66). -/
def State.tagLookup (s : State) (part d : Nat) : State × Bool :=
  if !s.isCached d || s.regionSets = 0 then (s, false)
  else
    let seg := segOf d
    let r := s.loadTags (s.tagSet seg)
    let s1 := r.1.countAccess (seg % 8) part (if r.2 then 56 else 60) 1
    match s1.tagOf seg with
    | some i =>
      (s1.modTag i (fun t => { t with age := if s.hintOf d = 3 || s.hintOf d = 5 then 15 else 0 }),
        !r.2 && ((s1.tag i).state == .valid || (s1.tag i).state == .evicting))
    | none => (s1, false)

/-- The routing of an access below the forge cache: its tag is looked up, and where the tag store had to be read and the segment is in
its frame, the bulk home is read beside it for nothing (R65, R66). -/
def State.route (s : State) (part cls la : Nat) (ks : List Nat) : State :=
  let t := s.tagLookup part (la * 256)
  if t.2 then ks.foldl (fun a k => a.readAside cls part (4 * la + k)) t.1 else t.1

/-- An evicted line writes back its dirty sectors only (R54), as poison where flagged (R114), in the class of the writes that made
them dirty (log entry 72); a CACHED extent's are routed by their tag, which is looked up (R65, R66). -/
def State.writeBack (s : State) (la : Nat) (l : Line) : State :=
  let dirty := bitList 4 l.dirty
  if dirty.isEmpty then s
  else
    let s1 := dirty.foldl (fun a k => a.dramWrite l.wcls l.part (4 * la + k) (l.sector k) (bit l.poison k)) (s.tagLookup l.part (la * 256)).1
    s1.countAccess (s.homeForge (la * 256)) l.part 12 dirty.length

/-- Allocates an empty line (R54): the victim is written back; none when every way open to the partition has a fill pending. -/
def State.allocLine (s : State) (part la rrv : Nat) (prefetched : Bool) : State × Option Nat :=
  let v := s.victim part la
  match v.2 with
  | none => v
  | some i =>
    let s1 := match tfind (v.1.forge (s.homeForge (la * 256))).lines i with
      | some l => (v.1.writeBack l.addr l).dropLine la i
      | none => v.1
    (s1.setLine la i (Line.empty la part rrv prefetched), some i)

/-- A frame waits to be scrubbed with the extent whose segment it held (R67, R94): no promotion takes it till then (log entry 72). -/
def State.frameWaits (s : State) (i : Nat) : Bool := s.parts.extents.any (fun e => e.2.frames.contains i)

/-- The way that R67 chooses in a set: the lowest INVALID way, else the unpinned VALID way of highest AGE. -/
def State.placeWay (s : State) (set : Nat) : Option Nat :=
  let ws := (List.range 16).map (16 * set + ·)
  match ws.find? (fun i => (s.tag i).state == .invalid && !s.frameWaits i) with
  | some i => some i
  | none => (ws.filter (fun i => (s.tag i).state == .valid && !(s.tag i).pin)).foldl (fun b i => match b with
      | none => some i
      | some j => if (s.tag j).age < (s.tag i).age then some i else some j) none

/-- The index of a segment's entry in its 4-way set of the activity table: its own, else the one with the lowest count.
The table's set of a segment is its number within the forge modulo 4,096, and of equal counts the first is taken (log entries 17
and 72). -/
def State.activityIndex (s : State) (seg part : Nat) : Nat :=
  let t := (s.forge (seg % 8)).activity
  let ws := (List.range 4).map (4 * (seg / 8 % 4096) + ·)
  match ws.find? (fun i => (tfind t i).any (fun e => e.seg == seg && e.part == part)) with
  | some i => i
  | none => ws.foldl (fun b i => if ((tfind t i).map (·.count)).getD 0 < ((tfind t b).map (·.count)).getD 0 then i else b)
      (4 * (seg / 8 % 4096))

/-- Refuses a promotion candidate (R69). -/
def State.refuseCandidate (s : State) (f part : Nat) : State :=
  (s.countAccess f part 44 1).modForge f (fun g => { g with refusedQ := g.refusedQ + 1 })

/-- Counts a demand miss to an INVALID segment of a CACHED extent, and offers the segment when its count reaches the effective
threshold (R68, R69). Without a cache region a CACHED extent is as a BULK one (R62); a PIN range is not counted (R73). -/
def State.countActivity (s : State) (part d : Nat) : State :=
  let seg := segOf d
  let f := seg % 8
  let hint := s.hintOf d
  if !s.isCached d || s.regionSets = 0 || hint = 6 || (s.tagOf seg).isSome then s
  else
    let i := s.activityIndex seg part
    let e : Activity := match tfind (s.forge f).activity i with
      | some e =>
        if e.seg = seg && e.part = part then
          { e with count := if hint = 4 && e.now then e.count else min 255 (e.count + 1), now := true }
        else { seg := seg, part := part, count := 1, now := true }
      | none => { seg := seg, part := part, count := 1, now := true }
    let s1 := s.modForge f (fun g => { g with activity := tins g.activity i e })
    match effectiveThreshold (s.forge f).threshold hint with
    | none => s1
    | some th =>
      if e.count < th || (s.forge f).candidates.any (·.1 == seg) || (s.forge f).follow.any (·.1 == seg) then s1
      else if 16 ≤ (s.forge f).candidates.length || (s1.placeWay (s.tagSet seg)).isNone then s1.refuseCandidate f part
      else s1.modForge f (fun g => { g with candidates := g.candidates ++ [(seg, part)] })

/-! ### Stream trackers (R58–R60) -/

/-- The line whose forge-local line number lies `n` from another's, if there is one (R58). -/
def State.lineAt (s : State) (la : Nat) (n : Int) : Option Nat :=
  -- In F, the lines of one forge are numbered without gaps: 16 lines to a granule.
  let d := la * 256
  let fl : Int := (s.forgeLocal d / 256 : Nat) + n
  let g := (fl / 16).toNat
  let r := (fl % 16).toNat
  if fl < 0 then none
  else if isBulk d then
    let c := bulkChannelOf d / 2 * 2 + g % 2
    some ((bulkBase + (g / 2) * 65536 + c * 4096) / 256 + r)
  else some ((g * s.nStacks + s.stackOf d) * 16 + r)

/-- Issues one prefetch of a line (R54, R60), inserted under the line's own hint (R56, R73): dropped, and counted, behind more than 32
LATENCY requests. DESIGN CHOICE (log entry 72): those are the queued reads of the channel that are ordered as class 1; its writes, what a
full queue holds back and what has been promoted to class 0 do not count. A line counts once, not by its sectors (log entry 72). True when
it was issued. -/
def State.prefetchLine (s : State) (part la : Nat) : State × Bool :=
  let f := s.homeForge (la * 256)
  let s0 := s.checkOwner part la
  let q := s.queue (s.queueOf (s.readPlace (la * 256)))
  if (s0.line la).isSome then (s0, false)
  else if 32 < (q.reads.filter (fun r => r.order == 1)).length then (s0.countAccess f part 28 1, false)
  else
    let a := s0.allocLine part la (prefetchRrv (s.hintOf (la * 256))) true
    match a.2 with
    | none => (a.1, false)
    | some i =>
      let s1 := match tfind (a.1.forge f).lines i with
        | some l => a.1.setLine la i { l with pending := 15 }
        | none => a.1
      (((List.range 4).foldl (fun b k => b.queueRead 1 part (4 * la + k) true) (s1.route part 1 la [0, 1, 2, 3])).countAccess f part 20 1, true)

/-- A tracker has issued one more prefetch (R59): after every 32 the depth is doubled, halved or kept by how many were useful. -/
def Tracker.issue (t : Tracker) : Tracker :=
  if t.issued + 1 < 32 then { t with issued := t.issued + 1 }
  else { t with
    depth := if 24 ≤ t.useful then min 64 (2 * t.depth) else if t.useful < 8 then max 2 (t.depth / 2) else t.depth
    issued := 0, useful := 0 }

/-- A demand access to a line moves the trackers of its forge (R58): a tracker of the partition in the same block that sees the stride
again gains a confirmation; a miss that matches none allocates one. DESIGN CHOICE (log entry 72): a useful prefetch is credited to the
tracker that matches the hit, and to none where no tracker does, since a line keeps only that it was prefetched. An access to a tracker's own last line has no stride and matches
none; a partition with 16 trackers gives up its least recently used one (log entry 72). -/
def State.track (s : State) (part la : Nat) (miss useful : Bool) : State :=
  let f := s.homeForge (la * 256)
  let n := s.forgeLocal (la * 256) / 256
  let blk := la / 2 ^ 20
  let ts := (s.forge f).trackers
  let close (t : Tracker) : Bool :=
    t.part == part && t.block == blk && decide (t.last ≠ n) && decide (((n : Int) - t.last).natAbs ≤ 64) &&
    (t.confirms == 0 || (n : Int) - t.last == t.stride)
  match ts.find? close with
  | some t =>
    let stride : Int := (n : Int) - t.last
    let c := t.confirms + 1
    let t1 : Tracker := { t with
      last := n, stride := stride, confirms := min 3 c, useful := t.useful + ofBool useful
      depth := if c = 2 then startDepth (s.hintOf (la * 256)) else t.depth }
    -- lines wanted: up to `depth` lines ahead of this access, at the tracker's stride, within the block
    let ahead := if t1.confirms < 2 then [] else
      ((List.range t1.depth).map (fun (k : Nat) => (k : Int) + 1)).filter (fun k => decide ((k * stride).natAbs ≤ t1.depth))
    let lines := (ahead.filterMap (fun k => s.lineAt la (k * stride))).filter (fun l => l / 2 ^ 20 == blk)
    let r := (lines.filter (fun l => (s.line l).isNone)).foldl (fun (a : State × Tracker) l =>
      let p := a.1.prefetchLine part l; (p.1, if p.2 then a.2.issue else a.2)) (s, t1)
    r.1.modForge f (fun g => { g with trackers := r.2 :: g.trackers.erase t })
  | none =>
    if !miss then s
    else
      let t : Tracker := { part := part, block := blk, last := n, stride := 0, confirms := 0, depth := 4, issued := 0,
                           useful := 0 }
      let mine := ts.filter (·.part == part)
      let kept := if 16 ≤ mine.length then (match mine.reverse with | o :: _ => ts.erase o | [] => ts)
        else if 64 ≤ ts.length then ts.take 63 else ts
      s.modForge f (fun g => { g with trackers := t :: kept })

/-! ### Demand accesses (R54–R57) -/

/-- The sectors of a line that a range touches. -/
def lineSectors (la d len : Nat) : List Nat :=
  (List.range 4).filter (fun k => decide (d < 256 * la + 64 * k + 64) && decide (256 * la + 64 * k < d + len))

/-- The lines that a range touches. -/
def linesOf (d len : Nat) : List Nat := (List.range ((d + len - 1) / 256 + 1 - d / 256)).map (d / 256 + ·)

/-- A demand read of some sectors of one line, which queues reads of those that are neither held nor on their way: the sectors it has to
wait for. -/
def State.readLine (s : State) (part cls la : Nat) (ks : List Nat) : State × List Nat :=
  let f := s.homeForge (la * 256)
  let s0 := s.checkOwner part la
  match s0.lineWay la, s0.line la with
  | some i, some l =>
    if ks.all (bit l.valid ·) then
      let s1 := (s0.setLine la i { l with rrv := 0, prefetched := false }).countAccess f part 4 1
      let s2 := if l.prefetched then s1.countAccess f part 24 1 else s1
      (s2.track part la false l.prefetched, [])
    else
      let miss := ks.filter (fun k => !bit l.valid k)
      let fresh := miss.filter (fun k => !bit l.pending k)
      let s1 := (s0.setLine la i { l with pending := fresh.foldl (fun m k => setBit m k true) l.pending, rrv := 0 }).countAccess f part 8 1
      let s3 := fresh.foldl (fun a k => a.queueRead cls part (4 * la + k) false) ((s1.route part cls la fresh).countActivity part (la * 256))
      let s4 := miss.foldl (fun a k => a.demandMeets part (4 * la + k) cls) s3
      (s4.track part la true false, miss.map (4 * la + ·))
  | _, _ =>
    let s1 := (s0.countAccess f part 8 1).route part cls la ks
    let a := (s1.countActivity part (la * 256)).allocLine part la (demandRrv (s.hintOf (la * 256))) false
    let s2 := match a.2 with
      | some i => a.1.setLine la i { Line.empty la part (demandRrv (s.hintOf (la * 256))) false with pending := maskOf ks }
      | none => a.1
    let s3 := ks.foldl (fun b k => b.queueRead cls part (4 * la + k) false) s2
    (s3.track part la true false, ks.map (4 * la + ·))

/-- A demand read of a range from outside: every line it touches, its reads queued, and the sectors it waits for. -/
def State.readRange (s : State) (part cls d len : Nat) : State × List Nat :=
  (linesOf d len).foldl (fun a la =>
    let r := a.1.readLine part cls la (lineSectors la d len); (r.1, a.2 ++ r.2)) (s, [])

/-- Every line that a range touches is held or has a way free (R54, R56). -/
def State.rangeFree (s : State) (part d len : Nat) : Bool := (linesOf d len).all (s.wayFree part)

/-- A whole-line write takes its location off the poison lists of the heads (R386). -/
def State.unlist (s : State) (sec : Nat) : State :=
  [0, 1].foldl (fun a h => if (a.head h).poisonList.contains sec then a.modHead h (fun x => { x with poisonList := x.poisonList.erase sec }) else a) s

/-- A demand write within one sector (R54): a whole sector allocates its line without a read; a partial one first fills the sector.
It is a hit when it needs no fill and its line is held, and only a hit makes a prefetch useful (R59, log entry 72). A caller waits until a
way is free (State.rangeFree). -/
def State.writeSector (s : State) (part cls sec off : Nat) (data : List Byte) (poison : Bool) : State :=
  let la := sec / 4
  let k := sec % 4
  let f := s.homeForge (la * 256)
  let whole := off = 0 && data.length = 64
  let hint := s.hintOf (la * 256)
  let s0 := (if whole && !poison then s.unlist sec else s).checkOwner part la
  match s0.lineWay la, s0.line la with
  | some i, some l =>
    if whole || bit l.valid k then
      let s1 := (s0.countAccess f part 4 1).setLine la i ({ l with rrv := 0, prefetched := false }.put cls k off data poison)
      (if l.prefetched then s1.countAccess f part 24 1 else s1).track part la false l.prefetched
    else
      let s1 := (((s0.countAccess f part 8 1).route part cls la [k]).countActivity part (la * 256)).setLine la i
        ({ l with rrv := 0 }.defer cls k off data poison)
      (if bit l.pending k then s1 else s1.queueRead cls part sec false).track part la true false
  | _, _ =>
    let a := (((s0.countAccess f part 8 1).route part cls la (if whole then [] else [k])).countActivity part (la * 256)).allocLine part la (demandRrv hint) false
    let l := Line.empty la part (demandRrv hint) false
    let s1 := match a.2 with
      | some i =>
        if whole then a.1.setLine la i (l.put cls k off data poison)
        else (a.1.setLine la i (l.defer cls k off data poison)).queueRead cls part sec false
      | none =>
        -- no way is open to the partition: the sector is written below
        let old := a.1.sectorBelow sec
        a.1.dramWrite cls part sec (if whole then data else putAt old.1 off data) (if whole then poison else old.2 || poison)
    s1.track part la true false

/-- The pieces of a write that fall in each sector: sector, offset, data. -/
def sectorPieces (d : Nat) (data : List Byte) : List (Nat × Nat × List Byte) :=
  (sectorsOf d data.length).map (fun k =>
    let lo := max d (64 * k)
    let hi := min (d + data.length) (64 * k + 64)
    (k, lo - 64 * k, (data.drop (lo - d)).take (hi - lo)))

/-- A demand write of a range. -/
def State.writeRange (s : State) (part cls d : Nat) (data : List Byte) (poison : Bool) : State :=
  if data.isEmpty then s
  else (sectorPieces d data).foldl (fun a p => a.writeSector part cls p.1 p.2.1 p.2.2 poison) s

/-! ### Accesses of the device's own engines -/

/-- A sector of a partition is valid in the forge cache. -/
def State.sectorHeld (s : State) (part sec : Nat) : Bool := (s.line (sec / 4)).any (fun l => l.part == part && bit l.valid (sec % 4))

/-- A read of an engine is the one that fetched a range. -/
def Fetch.isOf (f : Fetch) (part d len : Nat) : Bool := f.part == part && f.dpa == d && f.len == len

/-- The data of an engine's read is there: its fills have come since it began, or the forge cache holds every sector (R54, R57). -/
def State.readReady (s : State) (part d len : Nat) : Bool :=
  len == 0 || s.tiers.fetches.any (fun f => f.isOf part d len && f.need.isEmpty) || (sectorsOf d len).all (s.sectorHeld part)

/-- An engine's read of a range begins in its service class: a demand read of each line, whose misses enter their channel queues; one for
whose lines no way is free waits (R54, R56, R109). -/
def State.fetchRead (s : State) (cls part d len : Nat) : State :=
  if s.readReady part d len || s.tiers.fetches.any (·.isOf part d len) || !s.rangeFree part d len then s
  else
    let r := s.readRange part cls d len
    { r.1 with tiers := { r.1.tiers with fetches := r.1.tiers.fetches ++ [{ part := part, dpa := d, len := len, need := r.2 }] } }

/-- An engine takes the data of its read: the fetch is over, or, where the forge cache held all of it, the accesses are hits. -/
def State.engineRead (s : State) (cls part d len : Nat) : State :=
  if len = 0 then s
  else if s.tiers.fetches.any (·.isOf part d len) then
    { s with tiers := { s.tiers with fetches := s.tiers.fetches.filter (fun f => !f.isOf part d len) } }
  else (s.readRange part cls d len).1

/-- A write of an engine inside the device: a demand write in the engine's class. -/
def State.engineStore (s : State) (cls part d : Nat) (data : List Byte) (poison : Bool) : State := s.writeRange part cls d data poison

/-- The tag of a bulk segment becomes INVALID without writeback (R67). -/
def State.forgetTag (s : State) (seg : Nat) : State :=
  match s.tagOf seg with
  | none => s
  | some i => (s.loadTags (s.tagSet seg)).1.modTag i (fun _ => SegTag.reset)

/-- The forge cache forgets the lines of a block of memory without writeback, and what has been read or waits to be written there. -/
def State.dropLinesIn (s : State) (lo hi : Nat) : State :=
  let out (a : Nat) : Bool := decide (a < lo) || decide (hi ≤ a)
  { s with
    tiers := { s.tiers with
      fetches := s.tiers.fetches.filter (fun f => out f.dpa)
      forges := tmap s.tiers.forges (fun _ g =>
        { g with lines := g.lines.filter (fun p => out (p.2.addr * 256)), returned := g.returned.filter (fun r => out (r.sector * 64)) }) }
    dram := { s.dram with copyWaits := s.dram.copyWaits.filter (fun w => out (w.place * 64)) } }

/-- The forge cache forgets every line of a partition without writeback (R96 step 4), and what has been read for it. -/
def State.dropLinesOf (s : State) (part : Nat) : State :=
  { s with
    tiers := { s.tiers with
      fetches := s.tiers.fetches.filter (·.part != part)
      forges := tmap s.tiers.forges (fun _ g =>
      { g with lines := g.lines.filter (fun p => p.2.part != part), trackers := g.trackers.filter (·.part != part)
               returned := g.returned.filter (·.part != part) }) }
    dram := { s.dram with copyWaits := s.dram.copyWaits.filter (·.part != part) } }

end Sys2Proof.Machine
end

