-- ==== Sys2Proof/Machine/Sync.lean ====
section
/-! DEFINITION. Heat-sync (02_heat.md, R40–R44): timestamps in steps of 125 ps, the answers of a parent, the offsets and
sync states of a child, and the correction that duty 1 of a boundary makes. -/

namespace Sys2Proof.Machine

/-- Magnitude limits in steps of 125 ps: 8 ns, 32 ns and 2 ns (Table — Sync states). -/
def lockSteps : Int := 64
def loseSteps : Int := 256
def slewSteps : Int := 16

def State.modHeat (s : State) (f : Heat → Heat) : State := { s with heat := f s.heat }

/-- A SYNC cell to the partner of a port (Table — Heat-sync payload). -/
def State.syncCell (s : State) (port t1 t2 t3 kind hop : Nat) : Train :=
  let dst := (((s.port port).partner).map (fun x => x.chip / 64 * 64 + 32)).getD 0
  oneCell 0x3 0 dst (s.endpoint 32) 0 0 (leBytes 8 (t1 % 2 ^ 62) ++ leBytes 8 (t2 % 2 ^ 62) ++ leBytes 8 (t3 % 2 ^ 62) ++ [BitVec.ofNat 8 kind, BitVec.ofNat 8 hop])

/-- HEAT_SYNC_IN: its rising edge at a phase of the heat is where the reference chip's boundary should lie (R40). The spec gives no rate
at which the chip follows it: the next boundary takes up the whole phase, up to half a heat (DESIGN CHOICE, log entry 75). -/
def execHeatSyncIn (phase : Nat) (s : State) : Out :=
  let p := phase % s.heat.length
  done (if s.heat.role = .reference && s.heat.running then
    s.modHeat (fun h => { h with offset := some (if 2 * p < s.heat.length then -(p : Int) else (s.heat.length : Int) - p) })
  else s)

/-- SYNC_REQ: a parent answers with its receive and send stamps and its own hop depth (R40, R41). -/
def execSyncReq (port t1 hop t2 t3 : Nat) (s : State) : Out :=
  let _ := hop
  done (if s.heat.running then s.sendOn port (s.syncCell port t1 t2 t3 0x02 s.heat.hop) else s)

/-- The difference of two timestamps of 62 bits, modulo 2^62 (R29, R41). -/
def stampDiff (a b : Nat) : Int := toSigned 62 ((((a : Int) - b) % (2 ^ 62 : Nat)).toNat)

/-- The offset of R40 in steps of 125 ps; half of an odd difference is rounded down (DESIGN CHOICE, log entry 75). -/
def syncOffset (t1 t2 t3 t4 : Nat) : Int := (stampDiff t2 t1 - stampDiff t4 t3) / 2

/-- The magnitude of an offset is at most `n` steps. -/
def offsetWithin (o n : Int) : Bool := decide (-n ≤ o) && decide (o ≤ n)

/-- ACQUIRE is entered with a device event (R43). -/
def State.toAcquire (s : State) : State := (s.modHeat (fun h => { h with sync := .acquire, goodRun := 0 })).deviceEvent 0x080

/-- The sync state after an offset (Table — Sync states). -/
def State.syncMove (s : State) (o : Int) : State :=
  match s.heat.sync with
  | .free => s
  | .acquire =>
    if !offsetWithin o lockSteps then s.modHeat (fun h => { h with goodRun := 0 })
    else if 16 ≤ s.heat.goodRun + 1 then s.modHeat (fun h => { h with sync := .locked, goodRun := 0 })
    else s.modHeat (fun h => { h with goodRun := h.goodRun + 1 })
  | .locked => if offsetWithin o loseSteps then s else s.toAcquire
  | .holdover => if offsetWithin o loseSteps then s.modHeat (fun h => { h with sync := .locked }) else s.toAcquire

/-- SYNC_RSP: the answer to the request outstanding on the parent port (R40, R42). One that answers the request of an earlier heat is
discarded, and that heat stays one without an answer (DESIGN CHOICE, log entry 75). -/
def execSyncRsp (port t1 t2 t3 hop t4 : Nat) (s : State) : Out :=
  done (if s.heat.role = .child port && s.heat.t1 = some t1 then
    let o := syncOffset t1 t2 t3 t4
    (s.modHeat (fun h => { h with t1 := none, noRsp := 0, hop := hop + 1, offset := some o })).syncMove o
  else s)

/-- SYNC_RSP_LOSS: no SYNC_RSP for 16 consecutive heats (R42). -/
def execSyncRspLoss (s : State) : Out :=
  done (if decide (16 ≤ s.heat.noRsp) && (s.heat.sync == .acquire || s.heat.sync == .locked) then
    (s.modHeat (fun h => { h with sync := .holdover, goodRun := 0 })).deviceEvent 0x080
  else s)

/-- A number of steps cut to the slew limit. -/
def slewCut (o : Int) : Int := max (-slewSteps) (min slewSteps o)

/-- The count and the length of the heat that starts, after duty 1 (R42–R44). In ACQUIRE an offset of exactly half a heat is taken to the
later count, by a long heat (DESIGN CHOICE, log entry 75). -/
def Heat.corrected (h : Heat) : Nat × Nat :=
  let c := heatMod (h.count + 1)
  match h.offset with
  | none => (c, heatSteps)
  | some o =>
    if h.role = .reference then (c, ((heatSteps : Int) - o).toNat)
    else match h.sync with
      | .locked => (c, ((heatSteps : Int) - slewCut o).toNat)
      | .acquire =>
        let jump : Int := (o + heatSteps / 2) / heatSteps
        (ofSigned 48 (c + jump), ((heatSteps : Int) - (o - jump * heatSteps)).toNat)
      | _ => (c, heatSteps)

/-- Duty 1: the count and the length of the new heat; the decay of this boundary is open again. -/
def State.dutySync (s : State) : State :=
  s.modHeat (fun h => { h with count := h.corrected.1, length := h.corrected.2, offset := none, time := h.time + h.length })

/-- Each non-reference chip with a parent sends SYNC_REQ at the boundary, and counts the boundaries without an answer, which end a run of
good heats (R40, R42). -/
def State.syncRequest (s : State) : State :=
  match s.heat.role with
  | .child port =>
    let t1 := s.heat.count * 2 ^ 14
    (s.modHeat (fun h => { h with
      t1 := some t1, noRsp := if h.t1.isSome then min 16 (h.noRsp + 1) else h.noRsp, goodRun := if h.t1.isSome then 0 else h.goodRun })).sendOn port
      (s.syncCell port t1 0 0 0x01 s.heat.hop)
  | _ => s

end Sys2Proof.Machine
end

