-- ==== Sys2Proof/Machine/Dram.lean ====
section
/-! DEFINITION. DRAM control (05_dram_control.md) and the background work of the forges (R34–R39, R63–R71): what the
controllers' events do, and what the boundary issues. -/

namespace Sys2Proof.Machine

/-! ### Errors and retirement (R112–R115, R119–R124) -/

/-- What the decoder makes of a codeword (R112, R113). -/
inductive Ecc where | ok | corrected | uncorrectable
  /-- An error beyond what the code is said to detect, taken for another codeword. -/
  | missed
  deriving DecidableEq, Repr

/-- The decoding of a codeword with errors in the symbols listed. An HBM4 sector has 68 symbols: one in error is corrected, two are
detected, and what more than two give is open. A DDR5 line has 80 symbols, eight to a device: errors of one device are corrected, any
other is uncorrectable (R112, R113, log entry 71). -/
def eccOf (bulk : Bool) (errs : List Nat) : Ecc :=
  let es := (errs.filter (fun e => decide (e < (if bulk then 80 else 68)))).eraseDups
  match es with
  | [] => .ok
  | e :: r =>
    if bulk then (if r.all (fun x => x / 8 == e / 8) then .corrected else .uncorrectable)
    else if r.length = 0 then .corrected
    else if r.length = 1 || Config.eccDetects es then .uncorrectable
    else .missed

/-- A unit that an error event may send into retirement (R119): not one already retiring, retired or absent, or in a warm-up without
data. -/
def ServiceUnit.mayFail (x : ServiceUnit) : Bool := x.state == .inService || x.state == .spare || x.state == .failed || x.serving

/-- Adds to a counter of the stack or bulk channel of a unit: `a` for a stack, `b` for a bulk channel. -/
def State.countUnit (s : State) (u a b n : Nat) : State :=
  if u < 256 then s.modStack (u / 32) (fun x => { x with counters := tcount 64 x.counters a n })
  else s.modBulk ((u - 256) / 4) (fun x => { x with counters := tcount 64 x.counters b n })

/-- What the ECC check of the location at `d` leads to (R115): a corrected error is counted; an uncorrectable one is stored as poison,
reported, and starts the unit's retirement at the next boundary. -/
def State.found (s : State) (d : Nat) (errs : List Nat) : State :=
  let u := s.unitOf d
  match eccOf (isBulk d) errs with
  | .ok => s
  | .corrected => s.countUnit u 32 16 1
  | .missed => ((s.countUnit u 32 16 1).storeLocation d ((List.range 64).map (Config.freeByte s.free)) false).drawn
  | .uncorrectable =>
    let s1 := (s.modMem (fun m => m.setPoison (d / 64) true)).countUnit u 36 20 1
    let s2 := s1.countPoisonWrite u
    let s3 := (s2.deviceEvent 0x082).notePoison d
    let s4 := [0, 1].foldl (fun a h => if a.acceptedAt h (s.shownAt d) then a.post h 2 .uncorrectable (s.shownAt d / 64 * 64) 64 0 else a) s3
    if (s.unit u).mayFail then s4.modUnit u (fun x => { x with failing := true }) else s4

/-- Handles every finding of a pass. -/
def State.foundAll (s : State) (l : List Finding) : State := l.foldl (fun a f => a.found (f.1 * 64) f.2) s

/-- Some finding of a pass is uncorrectable. -/
def anyUncorrectable (l : List Finding) : Bool := l.any (fun f => eccOf (isBulk (f.1 * 64)) f.2 == .uncorrectable)

/-- Pieces of 128 KiB in a rank of a channel. -/
def State.rankPieces (s : State) (c r : Nat) : Nat := (((s.bulkCh c).rankGiB[r]?).getD 0) * 8192

/-- The 64 KiB migration units of a service unit (R123). -/
def State.unitPieces (s : State) (u : Nat) : Nat := if u < 256 then 40960 else 2 * s.rankPieces ((u - 256) / 4) ((u - 256) % 4)

/-- Takes `n` pieces from runs in order: the runs taken and those left; none when they do not suffice. -/
def takePieces : Nat → List PieceRun → Option (List PieceRun × List PieceRun)
  | 0, l => some ([], l)
  | _ + 1, [] => none
  | n + 1, r :: rs =>
    if n + 1 < r.count then
      some ([{ r with count := n + 1 }], { r with first := r.first + (n + 1), count := r.count - (n + 1) } :: rs)
    else match takePieces (n + 1 - r.count) rs with
      | some (t, l) => some (r :: t, l)
      | none => none
  termination_by structural _ l => l

/-- The pieces of a run that satisfy a predicate, as runs. -/
def PieceRun.usableRuns (r : PieceRun) (ok : Nat → Bool) : List PieceRun :=
  (((List.range r.count).map (r.first + ·)).foldl (fun (l : List PieceRun) k =>
    if !ok k then l
    else match l with
      | x :: t => if x.first + x.count = k then { x with count := x.count + 1 } :: t else { r with first := k, count := 1 } :: l
      | [] => [{ r with first := k, count := 1 }]) []).reverse

/-- Runs in the order of their addresses. -/
def insertRun (r : PieceRun) : List PieceRun → List PieceRun
  | [] => [r]
  | x :: t => if r.first ≤ x.first then r :: x :: t else x :: insertRun r t

/-- The free runs in the order in which a rank of channel `c` takes them (R122): the channels after it, then its own other ranks;
within a channel in increasing address. Pieces in ranks that are retired, retiring or about to retire, or in a warm-up, are left out. A
run lies in one rank (log entry 13). -/
def State.freeRuns (s : State) (u : Nat) : List PieceRun :=
  let c := (u - 256) / 4
  let usable (ch piece : Nat) : Bool :=
    let v := 256 + 4 * ch + s.rankOf ch (piece * 131072)
    v != u && (s.unit v).state != .retiring && (s.unit v).state != .retired && (s.unit v).state != .warmUp && !(s.unit v).failing
  ((List.range 16).map (fun k => (c + 1 + k) % 16)).flatMap (fun ch =>
    ((s.dram.spareFree.filter (fun r => r.channel == ch)).foldl (fun l r => insertRun r l) []).flatMap (fun r => r.usableRuns (usable ch)))

/-- The free pieces without those of a run that has been taken. -/
def cutRun (l : List PieceRun) (g : PieceRun) : List PieceRun :=
  l.flatMap (fun r =>
    if r.channel = g.channel && r.first ≤ g.first && g.first + g.count ≤ r.first + r.count then
      [{ r with count := g.first - r.first },
       { r with first := g.first + g.count, count := r.first + r.count - (g.first + g.count) }].filter (fun z => z.count != 0)
    else [r])

/-- A service unit lies under the block of an extent: it holds some of its locations, at home or in the frame of a segment of it. -/
def State.under (s : State) (u n : Nat) : Bool :=
  let b := (s.ext n).dpaBlk * 2 ^ 28
  (List.range (if isBulk b then 2048 else 4096)).any (fun k =>
    s.unitOf (if isBulk b then b + k % 16 * 4096 + k / 16 * 2 ^ 21 else b + k * 1024) == u) ||
  s.tiers.tags.any (fun t => (t.2.state == .valid || t.2.state == .evicting) && decide ((bulkBase + t.2.seg * 65536) / 2 ^ 28 = (s.ext n).dpaBlk) &&
    (List.range 64).any (fun k => s.unitOf (s.frame t.1 + k * 1024) == u))

/-- A unit begins to retire: its device event is raised, and the heads whose accepted blocks it lies under are warned (R387). -/
def State.startRetire (s : State) (u : Nat) : State :=
  let s1 := s.modUnit u (fun y => { y with state := .retiring, serving := false, failing := false, pieces := 0, order := s.dram.retireOrder })
  let s2 := ({ s1 with dram := { s1.dram with retireOrder := s1.dram.retireOrder + 1 } }).deviceEvent 0x082
  [0, 1].foldl (fun b h =>
    if (b.head h).accepted.any (s.under u) then
      b.post h 1 .retirement 0 0 u
    else b) s2

/-- A unit is marked failed; one that is already stays so (R120). -/
def State.markFailed (s : State) (u : Nat) : State :=
  if (s.unit u).state = .failed then s.modUnit u (fun y => { y with failing := false })
  else (s.modUnit u (fun y => { y with state := .failed, serving := false, failing := false, retraining := y.caError })).deviceEvent 0x082

/-- A unit's retirement begins, or the unit is marked failed (R119–R122). -/
def State.beginRetire (s : State) (u : Nat) : State :=
  if u < 256 then
    if (s.stack (u / 32)).spareHeld && (s.stack (u / 32)).spareCh = u % 32 then
      -- an unused spare holds no data: nothing is to be copied
      ((s.modStack (u / 32) (fun k => { k with spareHeld := false, retired := setBit k.retired (u % 32) true })).modUnit u (fun y =>
        { y with state := .retired, failing := false })).deviceEvent 0x082
    else if (s.stack (u / 32)).spareHeld then (s.modStack (u / 32) (fun k => { k with spareHeld := false })).startRetire u
    else s.markFailed u
  else
    match takePieces (s.rankPieces ((u - 256) / 4) ((u - 256) % 4)) (s.freeRuns u) with
    | some (t, _) =>
      if s.dram.remaps.length < 16 && decide (t.length ≤ 32) && (s.unit u).state != .absent then
        ({ s with dram := { s.dram with
          remaps := s.dram.remaps ++ [{ unit := u, runs := t, complete := false }]
          spareFree := t.foldl cutRun s.dram.spareFree
          spareDrawn := true } } : State).startRetire u
      else ({ s with dram := { s.dram with rankFailed := true } } : State).markFailed u
    | none => ({ s with dram := { s.dram with rankFailed := true } } : State).markFailed u

/-- The last granule of a unit has switched: the map, or the rank's state, changes at the boundary; a rank's remap record stays in
force (R124). -/
def State.finishRetire (s : State) (u : Nat) : State :=
  let s1 := s.modUnit u (fun y => { y with state := .retired, switchNext := false })
  if u < 256 then
    let st := u / 32
    let spare := (s.stack st).spareCh
    let l := ((List.range 32).find? (fun i => s.physical st i == u % 32)).getD (u % 32)
    (s1.modStack st (fun k => { k with map := tins k.map l spare, retired := setBit k.retired (u % 32) true })).modUnit
      (32 * st + spare) (fun y => { y with state := .inService })
  else { s1 with dram := { s1.dram with remaps := s1.dram.remaps.map (fun r => if r.unit = u then { r with complete := true } else r) } }

/-- The pieces of a rank, as runs in increasing address. -/
def State.rankRuns (s : State) (c r : Nat) : List PieceRun :=
  (PieceRun.usableRuns { channel := c, first := 0, count := (s.bulkCh c).capacity * 8192 } (fun k => s.rankOf c (k * 131072) == r))

/-- A unit that passed its warm-up is admitted at the boundary as the stack's spare, or its pieces join the spare pool, those it had
there before once (R121, R126); the outcome is reported (R441). -/
def State.admitUnit (s : State) (u : Nat) : State :=
  let s1 := (s.modUnit u (fun y => { y with state := .spare, admitNext := false })).deviceEvent 0x082
  if u < 256 then
    s1.modStack (u / 32) (fun k => { k with spareHeld := true, spareCh := u % 32, retired := setBit k.retired (u % 32) false })
  else
    let c := (u - 256) / 4
    let others := s1.dram.spareFree.flatMap (fun r =>
      if r.channel = c then r.usableRuns (fun k => s.rankOf c (k * 131072) != (u - 256) % 4) else [r])
    { s1 with dram := { s1.dram with spareFree := others ++ s.rankRuns c ((u - 256) % 4) } }

/-- Some pieces of another rank's data lie in a rank: a remap record has placed them there, and no later one has moved them (R122). -/
def State.hostsPieces (s : State) (u : Nat) : Bool :=
  s.dram.remaps.zipIdx.any (fun r => r.1.unit != u &&
    r.1.runs.any (fun p => 256 + 4 * p.channel + s.rankOf p.channel (p.first * 131072) == u) &&
    !(s.dram.remaps.drop (r.2 + 1)).any (fun q => q.unit == u))

/-- A unit marked failed still holds data: a logical channel maps to it, or no remap record has moved the rank's own data, or it has
taken pieces of another rank (R120, R126). -/
def State.holdsData (s : State) (u : Nat) : Bool :=
  ((s.unit u).state == .failed || (s.unit u).serving) &&
  (if u < 256 then (List.range s.nLogical).any (fun l => s.physical (u / 32) l == u % 32)
   else !s.dram.remaps.any (fun r => r.unit == u) || s.hostsPieces u)

/-! ### Copying and clearing memory below the forge cache -/

/-- The first address of each 1 KiB block of a range of memory: each lies in one service unit (R51, R52). -/
def blocksOf (lo n : Nat) : List Nat := (List.range (ceilDiv n 1024)).map (fun k => lo + 1024 * k)

/-- The service units that a background unit of work reaches with its accesses of some ranges, spares beside retiring units. -/
def State.unitsHit (s : State) (ranges : List (Nat × Nat)) : List Nat :=
  (ranges.flatMap (fun r => (blocksOf r.1 r.2).flatMap (fun b => s.unitOf b :: (s.secondUnit b).toList))).eraseDups

/-- The channel queues of a service unit. -/
def unitQueues (u : Nat) : List Nat := if u < 256 then [u] else [256 + 2 * ((u - 256) / 4), 257 + 2 * ((u - 256) / 4)]

/-- The requests of a background unit of work of a forge, of class BACKGROUND, are next at every controller they reach (R109, R111): no
read of a higher class waits there, unless the unit's own have passed the age limit of the class (R110), and every service unit takes
commands (R39, R128). -/
def State.unitGoes (s : State) (forge kind : Nat) (us : List Nat) : Bool :=
  us.all (fun u => !s.unitBlocked u) &&
  (decide (s.dram.limit4 ≤ tget 0 (s.background forge).ages kind) ||
   us.all (fun u => (unitQueues u).all (fun k => (s.queue k).reads.all (fun r => decide (4 ≤ r.order)))))

/-- The writes of a background unit of work to some ranges have to wait: a piece there is being copied, or a queued write there cannot go
ahead of them (R123). -/
def State.movesWait (s : State) (ranges : List (Nat × Nat)) : Bool :=
  ranges.any (fun r => (blocksOf r.1 r.2).any s.pieceInCopy ||
    s.dram.queues.any (fun q => (q.2.writes ++ q.2.heldWrites).any (fun w =>
      decide (r.1 ≤ w.place * 64) && decide (w.place * 64 < r.1 + r.2) && s.writeHeld w)))

/-- The service units that a background unit of work is going to reach are awake from its issue on (R127, R128). -/
def State.wakeUnits (s : State) (us : List Nat) : State := us.foldl State.touchUnit s

/-- Applies the queued writes of a range of stored addresses. -/
def State.flushRange (s : State) (lo hi : Nat) : State :=
  (s.dram.queues.map (·.1)).foldl (fun a k =>
    let q := a.queue k
    let mine (w : DramWrite) : Bool := decide (lo ≤ w.place * 64) && decide (w.place * 64 < hi)
    ((q.writes ++ q.heldWrites).filter mine).foldl State.applyWrite
      (a.modQueue k (fun y => { y with writes := y.writes.filter (fun w => !mine w), heldWrites := y.heldWrites.filter (fun w => !mine w) }))) s

/-- Copies `n` bytes of stored memory, poison included. -/
def Mem.copy (m : Mem) (src dst n : Nat) : Mem :=
  let cells := m.bytes.filter (fun p => decide (src ≤ p.1) && decide (p.1 < src + n))
  let pois := m.poison.filter (fun l => decide (src / 64 ≤ l) && decide (l < (src + n) / 64))
  { m with
    bytes := cells.foldl (fun b p => bset b (p.1 - src + dst) p.2) (bclear m.bytes dst n)
    poison := pois.foldl (fun l k => addSorted (k - src / 64 + dst / 64) l)
      (m.poison.filter (fun l => decide (l < dst / 64) || decide ((dst + n) / 64 ≤ l))) }

/-- Clears `n` bytes of stored memory: zeros with fresh check symbols. -/
def Mem.clear (m : Mem) (a n : Nat) : Mem :=
  { m with bytes := bclear m.bytes a n, poison := m.poison.filter (fun l => decide (l < a / 64) || decide ((a + n) / 64 ≤ l)) }

/-- A background unit reads or writes a range: its bytes are counted for the partition, at the spare too where a piece is copied
already, and the units it reaches are awake; what it writes to a dead unit is dropped and counted (R77, R120, R123, R127, R129). -/
def State.moveCounted (s : State) (part lo n : Nat) (write : Bool) : State :=
  (blocksOf lo n).foldl (fun a b =>
    let u := a.unitOf b
    let a1 := (a.countBytes u part 1024 write).touchUnit u
    let a2 := match (if write then a.secondUnit b else none) with
      | some v => (a1.countBytes v part 1024 true).touchUnit v
      | none => a1
    if write && (a.unit u).dead then a2.modUnit u (fun x => { x with dropped := x.dropped + 16 }) else a2) s

/-- The locations of a range that read as poison: the stored ones, and every one of a dead unit (R114, R120). -/
def State.poisonIn (s : State) (lo n : Nat) : List Nat :=
  s.tiers.mem.poison.filter (fun l => decide (lo ≤ l * 64) && decide (l * 64 < lo + n) && !(s.unit (s.unitOf (l * 64))).dead) ++
  ((blocksOf lo n).filter (fun b => (s.unit (s.unitOf b)).dead)).flatMap (fun b => (List.range 16).map (b / 64 + ·))

/-- Poison that a copy meets is counted as read and, where it is written, as written (R114, R129). -/
def State.poisonMoved (s : State) (src dst n : Nat) : State :=
  (s.poisonIn src n).foldl (fun a l =>
    let v := a.unitOf (l * 64 - src + dst)
    let a1 := a.countPoisonRead (a.unitOf (l * 64))
    if (a.unit v).dead then a1 else a1.countPoisonWrite v) s

/-- Every location of a range decrypts with the key of its address (R465). -/
def State.readable (s : State) (lo n : Nat) : Bool :=
  (s.tiers.mem.keys.isEmpty && decide (s.slotKey (s.keySlot lo) = s.slotKey 0)) ||
  (List.range (n / 64)).all (fun i => decide (s.keyAt (lo + 64 * i) = s.slotKey (s.keySlot (lo + 64 * i))))

/-- Stored memory is moved, decrypted at one tweak and encrypted under the key slot of its new address at the other (R465). -/
def State.recrypt (s : State) (src dst n : Nat) : State :=
  if s.readable src n then (s.modMem (fun m => m.copy src dst n)).encrypt dst n (s.keySlot dst)
  else (List.range (n / 64)).foldl (fun a i =>
    let v := s.location (src + 64 * i)
    a.storeLocation (dst + 64 * i) v.1 v.2) s

/-- Copies stored memory below the forge cache. A dead unit's blocks are copied as poison, and blocks of a dead unit keep what they
hold (R120). -/
def State.copyMem (s : State) (part src dst n : Nat) : State :=
  let s1 := (s.flushRange src (src + n)).flushRange dst (dst + n)
  let s2 := ((s1.moveCounted part src n false).moveCounted part dst n true).poisonMoved src dst n
  let dead (b : Nat) : Bool := (s1.unit (s1.unitOf b)).dead
  if (blocksOf src n).all (fun b => !dead b) && (blocksOf dst n).all (fun b => !dead b) then s2.recrypt src dst n
  else (blocksOf src n).foldl (fun x b =>
    let d := b - src + dst
    if dead d then x
    else if dead b then (List.range 16).foldl (fun y k => y.modMem (fun m => m.setPoison (d / 64 + k) true)) (x.recrypt b d 1024)
    else x.recrypt b d 1024) s2

/-- Zeros that a scrub or a fill writes take their locations off the poison lists of the heads (R386). -/
def State.unlistIn (s : State) (lo n : Nat) : State :=
  [0, 1].foldl (fun a h => if (a.head h).poisonList.isEmpty then a else a.modHead h (fun x => { x with
    poisonList := x.poisonList.filter (fun l => decide (l * 64 < lo) || decide (lo + n ≤ l * 64)) })) s

/-- Writes zeros over stored memory, encrypted under a key slot (R465, R477): the forge cache forgets it, queued writes go first; blocks of
a dead unit keep what they hold. -/
def State.clearMem (s : State) (part slot a n : Nat) : State :=
  let s1 := (((s.flushRange a (a + n)).dropLinesIn a (a + n))).unlistIn a n
  let dead (b : Nat) : Bool := (s1.unit (s1.unitOf b)).dead
  let s2 := s1.moveCounted part a n true
  if (blocksOf a n).all (fun b => !dead b) then (s2.modMem (fun m => m.clear a n)).encrypt a n slot
  else (blocksOf a n).foldl (fun x b => if dead b then x else (x.modMem (fun m => m.clear b 1024)).encrypt b 1024 slot) s2

/-! ### Refresh (R37–R39) -/

/-- Slots of position q of the pattern: `k` slots in 40 positions. -/
def slotsAt (k q : Nat) : Nat := (q + 1) * k / 40 - q * k / 40

/-- The slots that service unit number `k` of a controller receives in a heat (R37, R38). -/
def refreshSlots (doubled : Bool) (p k : Nat) : Nat := slotsAt (if doubled then 42 else 21) ((p + k) % 40)

/-- A unit takes its slots of the heat (R39). While its last refresh runs they wait; else one slot, a postponed one first, is issued, and
the others wait for it. When more than four would wait, the unit issues no other command until they have been issued, and what exceeds
four is issued in their place (log entry 73). In self-refresh it takes none (R128). -/
def ServiceUnit.takeSlots (u : ServiceUnit) (n : Nat) (running : Bool) : ServiceUnit :=
  if u.power = .selfRefresh then { u with inRefresh := false }
  else
    let go := !running && decide (0 < u.postponed + n)
    let left := u.postponed + n - ofBool go
    { u with
      inRefresh := running || go, exitRefresh := u.exitRefresh && !go
      postponed := min 4 left, refreshing := (u.refreshing && decide (0 < left)) || decide (4 < left) }

/-- A controller reads a DRAM temperature (R38): above 85 °C it enters doubled mode at this boundary. -/
def doubledNext (doubled : Bool) (t : Nat) : Bool := doubled || decide (85 < t)

/-- Heats for which a temperature has stayed below 82 °C, up to the 40 of a cycle (R38). -/
def coolNext (cool t : Nat) : Nat := if t < 82 then min 40 (cool + 1) else 0

/-- Doubled mode at the boundary at which the pattern index leaves `p` (R38): it ends at position 0 after a full cycle below 82 °C. -/
def doubledAt (doubled : Bool) (p cool t : Nat) : Bool := doubledNext doubled t && !(decide (p = 39) && decide (coolNext cool t = 40))

/-- The refresh of a unit still runs at the boundary (R35, R39). -/
def State.refreshRuns (s : State) (running : List Nat) (u : Nat) : Bool := (s.unit u).inRefresh && running.contains u

/-- The refresh part of duty 6 for all controllers, with the temperatures they read and the units whose refresh still runs: a forge
counts a boundary at which one does (R35–R39). -/
def State.refreshDuty (s : State) (stackTemps dimmTemps running : List Nat) : State :=
  let s0 := (List.range 8).foldl (fun a f =>
    if running.any (fun u => unitForge u == f && s.refreshRuns running u) then a.countForge f 64 1 else a) s
  let s1 : State := { s0 with dram := { s0.dram with
    stackTab := tmap s0.dram.stackTab (fun k x =>
      let t := (stackTemps[k]?).getD x.temperature
      { x with refreshP := (x.refreshP + 1) % 40, doubled := doubledAt x.doubled x.refreshP x.cool t, temperature := t, cool := coolNext x.cool t })
    bulk := tmap s0.dram.bulk (fun k x =>
      let t := (dimmTemps[k]?).getD x.temperature
      { x with refreshP := (x.refreshP + 1) % 40, doubled := doubledAt x.doubled x.refreshP x.cool t, temperature := t, cool := coolNext x.cool t }) } }
  { s1 with dram := { s1.dram with units := tmap s1.dram.units (fun u x =>
      x.takeSlots (if u < 256 then refreshSlots (s1.stack (u / 32)).doubled (s1.stack (u / 32)).refreshP (u % 32)
        else refreshSlots (s1.bulkCh ((u - 256) / 4)).doubled (s1.bulkCh ((u - 256) / 4)).refreshP ((u - 256) % 4))
        (s.refreshRuns running u)) } }.drainAll

/-- A refresh that a unit owes is issued, the one before having ended: the one after self-refresh first, then a postponed slot; once none
that stops it is left the unit takes commands again (R39, R128). -/
def ServiceUnit.refreshIssued (u : ServiceUnit) : ServiceUnit :=
  if u.exitRefresh then { u with exitRefresh := false, inRefresh := true }
  else { u with postponed := u.postponed - 1, inRefresh := true, refreshing := u.refreshing && decide (1 < u.postponed) }

/-- POSTPONED_REFRESH_ISSUE: a refresh that a unit owes is issued (R39, R128). -/
def execPostponedRefreshIssue (unit : Nat) (s : State) : Out :=
  done (if 0 < (s.unit unit).postponed || (s.unit unit).exitRefresh then (s.modUnit unit ServiceUnit.refreshIssued).drainAll else s)

/-- DOUBLED_REFRESH_EXIT: after a full cycle below 82 °C, ahead of the boundary at which position 0 begins, whose slots are issued in
normal mode then (R38, log entry 73). The boundary itself ends the mode where no event came. -/
def execDoubledRefreshExit (bulk : Bool) (index : Nat) (s : State) : Out :=
  done (if bulk then
    (if (s.bulkCh index).doubled && (s.bulkCh index).refreshP == 39 && (s.bulkCh index).cool == 40 then
      s.modBulk index (fun x => { x with doubled := false }) else s)
  else if (s.stack index).doubled && (s.stack index).refreshP == 39 && (s.stack index).cool == 40 then
    s.modStack index (fun x => { x with doubled := false })
  else s)

/-! ### Channel queues: completions, ageing, parity, power (R110, R111, R119, R127, R128) -/

/-- The read at a position may be issued next (R111): lowest class, oldest first, demand before prefetch, except a row hit that passes
older ones, none of which has been passed 16 times; a promoted one after the older promoted writes. Reads of a unit that takes no
command now stand aside. -/
def readMayIssue (q : DramQueue) (blocked : DramRead → Bool) (pos : Nat) (rowHit : Bool) : Bool :=
  match q.reads[pos]? with
  | none => false
  | some r =>
    let c := r.order
    let all := q.reads.filter (fun x => !blocked x)
    let older := ((q.reads.take pos).filter (fun x => !blocked x)).filter (fun x => x.order == c)
    !blocked r && all.all (fun x => decide (c ≤ x.order)) &&
    (!r.prefetch || all.all (fun x => x.order != c || x.prefetch)) &&
    (older.all (fun x => x.prefetch && !r.prefetch) || (rowHit && older.all (fun x => decide (x.passed < 16)))) &&
    (!r.promoted || q.writes.all (fun w => !w.promoted || decide (r.seq < w.seq)))

/-- The unit that a read goes to takes no command now. -/
def State.readBlocked (s : State) (r : DramRead) : Bool := s.unitBlocked (s.unitOf (r.place * 64))

/-- The read `r` at a position of a queue returns (R106, R111, R114, R115): it leaves the queue, those that a row hit passed are
counted, its location is checked, and what the sector's place then holds goes to the forge cache of its home; a read that no line takes
ends there. Where the sector's segment has moved meanwhile its data is that of its new place (R24, R66). -/
def State.readReturns (s : State) (queue pos : Nat) (r : DramRead) (rowHit : Bool) (errs : List Nat) : State :=
  let a := if r.kept then s.readPlace (r.sector * 64) else r.place * 64
  let u := s.unitOf a
  let s1 := s.modQueue queue (fun x => { x with
    reads := (x.reads.zipIdx.map (fun (p : DramRead × Nat) =>
      if rowHit && p.2 < pos && p.1.order = r.order && (r.prefetch || !p.1.prefetch) then { p.1 with passed := p.1.passed + 1 } else p.1)).eraseIdx pos }.admitHeld)
  let s2 := (s1.found a errs).countBytes u r.part 64 false
  let v := s2.dramLocation a
  let s3 := if v.2 then s2.countPoisonRead u else s2
  let s4 := if !r.kept then s3 else s3.modForge (s3.homeForge (r.sector * 64)) (fun g => { g with
    returned := g.returned ++ [{ sector := r.sector, part := r.part, data := v.1, poison := v.2 }] })
  s4.drainQueue queue

/-- DRAM_READ_COMPLETE: the read at a position of a queue returns, is checked, and goes to its forge cache (R111, R115). -/
def execDramReadComplete (queue pos : Nat) (rowHit : Bool) (errs : List Nat) (s : State) : Out :=
  let q := s.queue queue
  done (match q.reads[pos]? with
  | none => s
  | some r => if !readMayIssue q s.readBlocked pos rowHit then s else s.readReturns queue pos r rowHit errs)

/-- AGE_LIMIT_EXPIRY: a queued request older than its class's limit is ordered as class 0 from then on (R110). -/
def execAgeLimitExpiry (queue : Nat) (write : Bool) (pos : Nat) (s : State) : Out :=
  let old (cls age : Nat) : Bool :=
    cls == 1 || (cls == 2 && decide (s.dram.limit2 ≤ age)) || (cls == 3 && decide (s.dram.limit3 ≤ age)) || (cls == 4 && decide (s.dram.limit4 ≤ age))
  done (if write then
    (s.modQueue queue (fun q => { q with writes := q.writes.zipIdx.map (fun p =>
      if p.2 = pos && old p.1.cls p.1.age then { p.1 with promoted := true } else p.1) })).drainQueue queue
  else s.modQueue queue (fun q => { q with reads := q.reads.zipIdx.map (fun p =>
      if p.2 = pos && old p.1.cls p.1.age then { p.1 with promoted := true } else p.1) }))

/-- CA_PARITY_ERROR: the command is replayed; a second failure within one heat is a command/address error (R119). -/
def execCaParityError (unit : Nat) (s : State) : Out :=
  done (if (s.unit unit).parity = 0 then s.modUnit unit (fun u => { u with parity := 1 })
  else
    (s.modUnit unit (fun u => { u with
      parity := u.parity + 1, caError := true
      failing := u.failing || u.mayFail })).countUnit unit 37 22 1)

/-- POWER_DOWN_ENTRY: after PD_IDLE idle heats (R127). -/
def execPowerDownEntry (unit : Nat) (s : State) : Out :=
  done (if s.dram.pdIdle ≠ 0 && (s.unit unit).power == .active && decide (s.dram.pdIdle ≤ (s.unit unit).idle) then
    s.modUnit unit (fun u => { u with power := .powerDown })
  else s)

/-- SELF_REFRESH_ENTRY: after SR_IDLE idle heats; every postponed slot is issued first (R127, R128). -/
def execSelfRefreshEntry (unit : Nat) (s : State) : Out :=
  done (if s.dram.srIdle ≠ 0 && (s.unit unit).power != .selfRefresh && decide (s.dram.srIdle ≤ (s.unit unit).idle) then
    s.modUnit unit (fun u => { u with power := .selfRefresh, postponed := 0, refreshing := false, scrubbed := none })
  else s)

/-- FAILED_UNIT_RETRAIN_COMPLETE: a unit failed by a command/address error is retrained once; if that fails, it reads
as poison and drops its writes (R120). -/
def execFailedUnitRetrainComplete (unit : Nat) (pass : Bool) (s : State) : Out :=
  done (if (s.unit unit).retraining then
    s.modUnit unit (fun u => { u with retraining := false, dead := u.dead || !pass }) else s)

/-! ### Patrol scrub (R116–R118) -/

/-- The unit that a walker's step visits: stack walkers step through their 32 channels at each channel address. -/
def State.walkerUnit (s : State) (w step : Nat) : Nat :=
  if w % 3 = 0 then 32 * (w / 3) + step % 32
  else 256 + 4 * (2 * (w / 3) + (w % 3 - 1)) + s.rankOf (2 * (w / 3) + (w % 3 - 1)) (step * 4096)

/-- Steps of a walker before it wraps. -/
def State.walkerSteps (s : State) (w : Nat) : Nat :=
  if w % 3 = 0 then 32 * 655360 else (s.bulkCh (2 * (w / 3) + (w % 3 - 1))).capacity * 262144

/-- The states of a service unit that patrol scrub visits (R116). -/
def UnitState.visited : UnitState → Bool
  | .inService => true | .retiring => true | .spare => true | .failed => true
  | .absent => false | .retired => false | .warmUp => false

/-- A service unit that patrol scrub visits: it holds data or is a spare. -/
def ServiceUnit.visited (x : ServiceUnit) : Bool := x.state.visited || x.serving

/-- The first step from `step` on that visits a unit which patrol scrub visits, after the last comes the first; `k` bounds the
search. -/
def State.seekStep (s : State) (w : Nat) : Nat → Nat → Nat
  | 0, step => step
  | k + 1, step =>
    let n := if s.walkerSteps w ≤ step then 0 else step
    if (s.unit (s.walkerUnit w n)).visited then n else s.seekStep w k (n + 1)

/-- A unit that a scrub takes out of power-down or self-refresh for its access (R128). -/
def ServiceUnit.scrubStarts (u : ServiceUnit) : ServiceUnit :=
  if u.power = .active then u
  else { u with power := .active, scrubbed := some u.power, exitRefresh := u.exitRefresh || u.power == .selfRefresh }

/-- The scrub of a unit is complete: it returns to the state it was taken from, unless a request has woken it since (R128). -/
def ServiceUnit.scrubEnds (u : ServiceUnit) : ServiceUnit :=
  match u.scrubbed with
  | none => u
  | some p =>
    if p = .selfRefresh then { u with power := p, scrubbed := none, postponed := 0, refreshing := false, exitRefresh := false }
    else { u with power := p, scrubbed := none }

/-- Poisoned locations that a walker's step meets: it skips them and counts them. -/
def State.stepPoison (s : State) (w step : Nat) : Nat :=
  (s.tiers.mem.poison.filter (fun l =>
    let d := l * 64
    if w % 3 = 0 then !isBulk d && decide (s.stackOf d = w / 3) && decide (s.stackChanAddr d / 4096 = step / 32) && decide (s.unitOf d % 32 = step % 32)
    else isBulk d && decide ((s.bulkPlace d).1 = 2 * (w / 3) + (w % 3 - 1)) && decide ((s.bulkPlace d).2 / 4096 = step))).length

/-- PATROL_SCRUB_UNIT_COMPLETE: the running patrol unit of a forge, whose requests are next, ends with its findings (R111, R116, R118,
R128). -/
def execPatrolScrubUnitComplete (forge : Nat) (found : List Finding) (s : State) : Out :=
  done (match (s.background forge).patrol with
  | none => s
  | some w =>
    let u := s.walkerUnit w (s.walker w).step
    if !s.unitGoes forge 1 [u] then s else
    let fixed := (found.filter (fun f => eccOf (isBulk (f.1 * 64)) f.2 == .corrected)).length
    let s1 := ((s.foundAll found).countBytes u 0 4096 false).modWalker w (fun x => { x with
      running := false, step := s.seekStep w (s.walkerSteps w) (x.step + 1), corrected := x.corrected + fixed
      skipped := x.skipped + s.stepPoison w x.step })
    (s1.modUnit u ServiceUnit.scrubEnds).modBackground forge (fun b => { b with patrol := none }))

/-- A walker at the end of its 65,536 heats: its level may rise or fall (R118). -/
def Walker.windowEnds (x : Walker) (floor : Nat) : Walker :=
  let clean := if x.corrected = 0 then x.clean + 1 else 0
  let base := { x with window := 0, corrected := 0 }
  if 4 ≤ x.corrected then { base with level := min 3 (x.level + 1), clean := 0 }
  else if 8 ≤ clean then { base with level := max floor (x.level - 1), clean := 0 }
  else { base with clean := clean }

/-- SCRUB_WINDOW_END: the boundary that comes ends the walker's window; its level changes ahead of the memory work of that boundary
(R118, log entry 73). -/
def execScrubWindowEnd (walker : Nat) (s : State) : Out :=
  done (if (s.walker walker).window = 65535 && !(s.walker walker).windowEnd then
    s.modWalker walker (fun x => { x.windowEnds s.dram.scrubFloor with windowEnd := true })
  else s)

/-- A walker at a boundary: its due heat, and its window (R117, R118). -/
def Walker.tick (w : Walker) (floor : Nat) : Walker :=
  let w1 : Walker := { w with due := w.due - 1, late := if w.due = 0 then w.late + 1 else w.late }
  if w.windowEnd then { w1 with windowEnd := false }
  else if 65535 ≤ w.window then w1.windowEnds floor
  else { w1 with window := w.window + 1 }

/-- Heats between two units of a walker at a scrub level (R117). -/
def scrubInterval (level : Nat) : Nat := 16 / 2 ^ level

/-! ### Spare migration and warm-up (R123, R124, R126) -/

/-- The unit that the next piece of a retiring unit goes to. -/
def State.spareTarget (s : State) (u : Nat) : Nat :=
  if u < 256 then 32 * (u / 32) + (s.stack (u / 32)).spareCh
  else match s.dram.remaps.find? (fun r => r.unit == u && !r.complete) with
    | some r => match runChannel r.runs ((s.unit u).pieces / 2) with
      | some q => 256 + 4 * q.1 + s.rankOf q.1 q.2
      | none => u
    | none => u

/-- The chunks of a rank, by their numbers on its channel, in increasing address (R122). -/
def State.rankChunks (s : State) (u : Nat) : List Nat :=
  (List.range ((s.bulkCh ((u - 256) / 4)).capacity * 8192)).filter (fun i => s.rankOf ((u - 256) / 4) (i * 131072) == (u - 256) % 4)

/-- The number of a piece among the pieces of a list of runs. -/
def runIndex (c piece : Nat) : List PieceRun → Option Nat
  | [] => none
  | r :: rs => if r.channel = c && r.first ≤ piece && piece < r.first + r.count then some (piece - r.first)
    else (runIndex c piece rs).map (r.count + ·)

/-- The chunks whose data may lie in a piece of 128 KiB of a channel: its own, and those that remap records have moved there, the newest
record first. -/
def State.chunksIn (s : State) (c piece : Nat) : List (Nat × Nat) :=
  s.dram.remaps.reverse.foldl (fun l r => l ++ l.filterMap (fun q =>
    (runIndex q.1 q.2 r.runs).bind (fun k => ((s.rankChunks r.unit)[k]?).map (fun i => ((r.unit - 256) / 4, i))))) [(c, piece)]

/-- The locations, as DPA div 64, of one 64 KiB piece of a service unit (R51, R52, R122). -/
def State.pieceLocations (s : State) (u k : Nat) : List Nat :=
  if u < 256 then
    let l := ((List.range 32).find? (fun i => s.physical (u / 32) i == u % 32)).getD (u % 32)
    (List.range 1024).map (fun j =>
      let a := 65536 * k + 64 * j
      let x := (a / 1024 * s.nLogical + l) * 1024 + a % 1024
      ((x / 4096 * s.nStacks + u / 32) * 4096 + x % 4096) / 64)
  else
    let c := (u - 256) / 4
    let piece := ((s.rankChunks u)[k / 2]?).getD 0
    (s.chunksIn c piece).flatMap (fun q => ((List.range 16).flatMap (fun g =>
      let a := 131072 * q.2 + 65536 * (k % 2) + 4096 * g
      let d := bulkBase + a / 4096 * 65536 + 4096 * q.1
      if s.bulkPlace d = (c, 131072 * piece + 65536 * (k % 2) + 4096 * g) then (List.range 64).map (d / 64 + ·) else [])))

/-- The poisoned locations of the piece of a retiring unit that is copied next; all of it where the unit is dead (R120, R123). -/
def State.piecePoison (s : State) (u : Nat) : List Nat :=
  if (s.unit u).dead then s.pieceLocations u (s.unit u).pieces
  else s.tiers.mem.poison.filter (fun l => (s.moving (l * 64)).any (fun m => m.1 == u && m.2.1 == (s.unit u).pieces))

/-- SPARE_MIGRATION_UNIT_COMPLETE: one more piece has been copied, as ciphertext, once its requests are next; the last ends the
retirement at the next boundary. What reads as poison is written as poison. The writes that waited for the piece go on (R111, R123). -/
def execSpareMigrationUnitComplete (forge : Nat) (found : List Finding) (s : State) : Out :=
  done (match (s.background forge).spare with
  | none => s
  | some u =>
    let v := s.spareTarget u
    if !s.unitGoes forge 2 [u, v] then s
    else
      let s0 := s.foundAll found
      let s1 := (s0.piecePoison u).foldl (fun a l =>
        (((a.modMem (fun m => m.setPoison l true)).countPoisonRead u).countPoisonWrite v)) s0
      let s2 := ((s1.countBytes u 0 65536 false).touchUnit u).modUnit u (fun x => { x with
        pieces := x.pieces + 1, switchNext := decide (s.unitPieces u ≤ x.pieces + 1) })
      ((((s2.countBytes v 0 65536 true).touchUnit v).countUnit u 30 34 1).modBackground forge (fun b => { b with spare := none })).drainAll)

/-- The write-and-check units of both passes of a warm-up test (R126). -/
def State.testTotal (s : State) (u : Nat) : Nat :=
  if u < 256 then 1310720 else 2 * 262144 * (((s.bulkCh ((u - 256) / 4)).rankGiB[(u - 256) % 4]?).getD 0)

/-- WARM_UP_TEST_UNIT_COMPLETE: a passed unit counts, the last admits the unit at the next boundary; a failed one ends
the warm-up where it began (R126). -/
def execWarmUpTestUnitComplete (forge : Nat) (pass : Bool) (s : State) : Out :=
  done (match (s.background forge).test with
  | none => s
  | some u =>
    if !s.unitGoes forge 3 [u] then s else
    let s1 := (((s.countBytes u 0 4096 true).countBytes u 0 4096 false).touchUnit u).modBackground forge (fun b => { b with test := none })
    if pass then s1.modUnit u (fun x => { x with testUnits := x.testUnits + 1, admitNext := decide (s.testTotal u ≤ x.testUnits + 1) })
    else (s1.modUnit u (fun x => { x with state := x.before, testUnits := 0 })).deviceEvent 0x082)

/-! ### Placement (R66–R71, R74) -/

/-- The writes that waited for a granule of a segment go on to the places that they have now. -/
def State.releaseCopyWaits (s : State) (seg : Nat) : State :=
  let mine (w : DramWrite) : Bool := isBulk (w.place * 64) && segOf (w.place * 64) == seg
  (s.dram.copyWaits.filter mine).foldl State.routeWrite
    { s with dram := { s.dram with copyWaits := s.dram.copyWaits.filter (fun w => !mine w) } }

/-- A placement unit is complete: a promotion's copy makes the tag VALID, with AGE 0 (log entry 72); a dirty eviction's dirty 4-KiB pieces
are written home and the tag is INVALID (R67). Writes that waited for the last granule go where the copy has made frame and home the
same (R66). -/
def State.placementDone (s0 : State) (forge : Nat) (u : PlaceUnit) (t : SegTag) : State :=
  let home := bulkBase + t.seg * 65536
  let past (a : State) : State := (a.modForge forge (fun g => { g with placeUnit := some { u with current := 16 } })).releaseCopyWaits t.seg
  if u.fill then
    (((past (s0.copyMem t.part home (s0.frame u.way) 65536)).modTag u.way (fun x => { x with
      state := .valid, dirty := 0, age := 0 })).countAccess forge t.part 36 1).modForge forge (fun g => { g with placeUnit := none })
  else
    let s1 := (bitList 16 t.dirty).foldl (fun a j => a.copyMem t.part (s0.frame u.way + 4096 * j) (home + 4096 * j) 4096) s0
    (((past s1).modTag u.way (fun _ => SegTag.reset)).countAccess forge t.part 42 1).modForge forge (fun g => { g with placeUnit := none })

/-- The ranges that a placement unit reads and those that it writes (R67). -/
def State.placeRanges (s : State) (u : PlaceUnit) : List (Nat × Nat) × List (Nat × Nat) :=
  let home := bulkBase + (s.tag u.way).seg * 65536
  if u.fill then ([(home, 65536)], [(s.frame u.way, 65536)])
  else ((bitList 16 (s.tag u.way).dirty).map (fun j => (s.frame u.way + 4096 * j, 4096)),
    (bitList 16 (s.tag u.way).dirty).map (fun j => (home + 4096 * j, 4096)))

/-- A placement unit has its turn at the controllers (R111, R123). -/
def State.placeGoes (s : State) (forge : Nat) (u : PlaceUnit) : Bool :=
  let r := s.placeRanges u
  s.unitGoes forge 5 (s.unitsHit (r.1 ++ r.2)) && !s.movesWait r.2

/-- PLACEMENT_MIGRATION_UNIT_COMPLETE: a promotion's copy makes the tag VALID; a dirty eviction's writeback makes it
INVALID, and the promotion that waits for it follows (R67). One whose tag a release has dropped only ends (R94). -/
def execPlacementMigrationUnitComplete (forge : Nat) (found : List Finding) (s : State) : Out :=
  done (match (s.forge forge).placeUnit with
  | none => s
  | some u =>
    if (s.tag u.way).state = .invalid then (s.foundAll found).modForge forge (fun g => { g with placeUnit := none })
    else if !s.placeGoes forge u then s
    else (s.foundAll found).placementDone forge u (s.tag u.way))

/-- A bulk segment is pinned (R74). -/
def State.segPinned (s : State) (seg : Nat) : Bool :=
  let d := bulkBase + seg * 65536
  match s.extentAt d with
  | some n => (s.ext n).mapped && s.pinnedAt (s.ext n).part ((s.ext n).psaBlk * 2 ^ 28 + d % 2 ^ 28)
  | none => false

/-- Starts the promotion of a segment at the boundary (R67, R69): drops a clean victim, or begins with the writeback of a dirty one,
whose fill then follows. -/
def State.startPromotion (s0 : State) (f : Nat) (c : Nat × Nat) : State :=
  let s := (s0.loadTags (s0.tagSet c.1)).1
  match s.placeWay (s.tagSet c.1) with
  | none => s.refuseCandidate f c.2
  | some i =>
    let v := s.tag i
    if v.state = .valid && v.dirty ≠ 0 then
      (s.modTag i (fun t => { t with state := .evicting })).modForge f (fun g => { g with
        issuedU := g.issuedU + 1, placeUnit := some { way := i, fill := false, current := 0 }, follow := some c })
    else
      let s1 := if v.state = .valid then s.countAccess f v.part 40 1 else s
      (s1.modTag i (fun _ => { seg := c.1, part := c.2, state := .filling, pin := s.segPinned c.1, dirty := 0, age := 0 })).modForge f
        (fun g => { g with issuedU := g.issuedU + 1, placeUnit := some { way := i, fill := true, current := 0 } })

/-- A waiting segment is still to be promoted: its extent is CACHED and there, it is not resident, and its range is not under
NOREUSE, or under PIN without being pinned (R72, R73). -/
def State.promotable (s : State) (c : Nat × Nat) : Bool :=
  let d := bulkBase + c.1 * 65536
  s.isCached d && (s.tagOf c.1).isNone && (s.extentAt d).any (fun n => (s.ext n).part == c.2) && s.hintOf d != 5 &&
  (s.hintOf d != 6 || s.segPinned c.1)

/-- Pinned segments of a forge's sets, in the order of R74: ranges in the order of their hints, segments rising. -/
def State.pinnedSegs (s : State) (f : Nat) : List (Nat × Nat) :=
  let rs := s.tiers.hints.flatMap (fun p => (p.2.filter (fun r => r.hint == 6)).map (fun r => (p.1, r)))
  let sorted := sortBy (fun a b => decide (a.2.order ≤ b.2.order)) rs
  sorted.flatMap (fun x => ((List.range (x.2.len / 65536)).filterMap (fun k =>
    let q := s.lookup x.1 (x.2.base + 65536 * k) false
    if q.1 = stOk && s.isCached q.2 && decide (segOf q.2 % 8 = f) && s.pinnedAt x.1 (x.2.base + 65536 * k) then some (segOf q.2, x.1)
    else none)))

/-- The forge clears its PIN queue of what is resident or no longer pinned, and fills it (R74). -/
def State.fillPinQueue (s : State) (f : Nat) : State :=
  if s.regionSets = 0 then s
  else
    let live := (s.forge f).pinQueue.filter (fun c => s.segPinned c.1 && (s.tagOf c.1).isNone)
    let add := (s.pinnedSegs f).filter (fun c => (s.tagOf c.1).isNone && !live.any (·.1 == c.1) && !(s.forge f).follow.any (·.1 == c.1))
    s.modForge f (fun g => { g with pinQueue := live ++ add.take (64 - live.length) })

/-- The segments that wait for promotion, in the order in which they are served: the one whose victim has been written back, the PIN
queue, the candidates (R67, R69). -/
def Forge.waiting (g : Forge) : List (Nat × Nat) := g.follow.toList ++ g.pinQueue ++ g.candidates

/-- A segment no longer waits for promotion. -/
def State.unqueue (s : State) (f : Nat) (c : Nat × Nat) : State :=
  s.modForge f (fun g =>
    if g.follow = some c then { g with follow := none }
    else if g.pinQueue.contains c then { g with pinQueue := g.pinQueue.erase c }
    else { g with candidates := g.candidates.erase c })

/-- The placement unit of duty 6 in one forge, when the budget permits one: the first waiting segment that can be promoted; those
before it that cannot leave their queue. -/
def State.issuePlacement (s : State) (f : Nat) : State :=
  (s.forge f).waiting.foldl (fun a c =>
    if (a.forge f).placeUnit.isSome then a
    else
      let b := a.unqueue f c
      if b.promotable c then b.startPromotion f c else b) s

/-- R71: the threshold of one forge is adjusted from the last 256 heats. -/
def State.adjustThreshold (s : State) (f : Nat) : State :=
  if s.tiers.budget = 0 then s.modForge f (fun x => { x with issuedU := 0, allowedU := 0, refusedQ := 0 })
  else
    let g := s.forge f
    let ways := 16 * (s.regionSets / 8)
    let occ := (s.tiers.tags.filter (fun t => t.1 / 16 % 8 == f && (t.2.state == .filling || t.2.state == .valid))).length
    let t := g.threshold
    let t' := if 0 < g.refusedQ && decide (7 * g.allowedU ≤ 8 * g.issuedU) then min 255 (t + max 1 (t / 4))
      else if decide (16 * occ < 15 * ways) && decide (2 * g.issuedU < g.allowedU) then max 1 (t - max 1 (t / 8))
      else t
    s.modForge f (fun x => { x with threshold := t', issuedU := 0, allowedU := 0, refusedQ := 0 })

/-- The work of a decay boundary (R65, R68, R71): counts are halved, ages of tags held in a tag cache rise, and the
forges adjust their thresholds. -/
def State.decay (s : State) : State :=
  let s1 : State := { s with tiers := { s.tiers with
    forges := tmap s.tiers.forges (fun _ g => { g with activity := tmap g.activity (fun _ e => { e with count := e.count / 2 }) })
    tags := tmap s.tiers.tags (fun i t =>
      if (s.forge (i / 16 % 8)).tagCache.contains (i / 16) then { t with age := min 15 (t.age + 1) } else t) } }
  (List.range 8).foldl State.adjustThreshold s1

/-- DECAY_BOUNDARY: the boundary whose count is divisible by 256 runs decay in duty 6, ahead of the memory work (R68). -/
def execDecayBoundary (s : State) : Out :=
  done (if s.heat.running && s.heat.corrected.1 % 256 = 0 && !s.heat.decayDone then
    let t := s.decay
    { t with heat := { t.heat with decayDone := true } }
  else s)

/-! ### Duty 6: the background units of a forge (R34, R35, R521) -/

/-- A capture has copied every segment of an extent, so that its scrub may start (R95). -/
def State.captureDone (s : State) (n : Nat) : Bool :=
  !(s.ext n).capture ||
  match (s.seal (s.ext n).sealId).extents.findIdx? (· == n) with
  | none => true
  | some i => (List.range 4096).all (fun k => (tfind (s.seal (s.ext n).sealId).leaves (4096 * i + k)).isSome)

/-- The first granule of 4 KiB of a stack-tier block that lies in forge `f`, counted from the block's start (R51). -/
def State.firstGranule (s : State) (blk f : Nat) : Nat := (f + s.nStacks - blk * 65536 % s.nStacks) % s.nStacks

/-- The granules of a block that lie in forge `f` (R18, R51, R52): an eighth of a bulk-tier block, and of a stack-tier one
what its stack holds. -/
def State.granulesIn (s : State) (blk f : Nat) : Nat :=
  if isBulk (blk * 2 ^ 28) then 8192
  else if f < s.nStacks then ceilDiv (65536 - s.firstGranule blk f) s.nStacks else 0

/-- The granules in forge `f` of the frames that are scrubbed with an extent (R94). -/
def State.frameGranules (s : State) (n f : Nat) : List Nat :=
  (s.ext n).frames.flatMap (fun i => ((List.range 16).map (fun j => s.frame i + 4096 * j)).filter (fun a => s.homeForge a == f))

/-- The 64-KiB units of an extent in forge `f` (R34, R94, R95): those of its block, and then of its frames. -/
def State.unitsIn (s : State) (n f : Nat) : Nat := ceilDiv (s.granulesIn (s.ext n).dpaBlk f + (s.frameGranules n f).length) 16

/-- Where granule `m` of a block's share in forge `f` lies. -/
def State.granuleAt (s : State) (blk f m : Nat) : Nat :=
  blk * 2 ^ 28 + 4096 * (if isBulk (blk * 2 ^ 28) then 16 * (m / 2) + 2 * f + m % 2 else s.firstGranule blk f + s.nStacks * m)

/-- The granules of unit `k` of an extent's share in forge `f`. -/
def State.unitGranules (s : State) (n f k : Nat) : List Nat :=
  let b := (s.ext n).dpaBlk
  let g := s.granulesIn b f
  (List.range (min 16 (g - 16 * k))).map (fun i => s.granuleAt b f (16 * k + i)) ++
    (((s.frameGranules n f).drop (16 * k - g)).take (16 - min 16 (g - 16 * k)))

/-- The extents in FILLING or SCRUBBING that wait for units of forge `f`, each with the units left to issue. -/
def State.scrubDemand (s : State) (f : Nat) : List (Nat × Nat) :=
  (s.parts.extents.filter (fun p => (p.2.state == .filling || p.2.state == .scrubbing) && !p.2.endNext && s.captureDone p.1 &&
    (p.2.state == .scrubbing || (s.part p.2.part).state == .active))).filterMap (fun p =>
      let left := s.unitsIn p.1 f - tget 0 p.2.unitsDone f - ((s.background f).scrub.filter (· == p.1)).length
      if left = 0 then none else some (p.1, left))

/-- Up to `n` units of the extents that wait, in turn (log entry 19). -/
def scrubTurns : Nat → List (Nat × Nat) → List Nat
  | n + 1, (e, left) :: r => e :: scrubTurns n (if left ≤ 1 then r else r ++ [(e, left - 1)])
  | _, _ => []

/-- The ranges that the scrub and fill units issued in a heat write: as many units of each extent, from its next one on. -/
def State.scrubRanges (s : State) (f : Nat) (l : List Nat) : List (Nat × Nat) :=
  l.eraseDups.flatMap (fun n => (List.range (l.filter (· == n)).length).flatMap (fun i =>
    (s.unitGranules n f (tget 0 (s.ext n).unitsDone f + i)).map (fun a => (a, 4096))))

/-- The retiring unit of a forge whose retirement began first (R123). -/
def State.retiringUnit (s : State) (f : Nat) : Option Nat :=
  let us := s.dram.units.filter (fun p => p.2.state == .retiring && !p.2.switchNext && decide (p.2.pieces < s.unitPieces p.1) &&
    (if p.1 < 256 then p.1 / 32 == f else (p.1 - 256) / 8 == f))
  (us.foldl (fun b p => match b with
    | none => some p
    | some q => if p.2.order < q.2.order then some p else some q) none).map (·.1)

/-- The unit under warm-up test of a forge. -/
def State.testingUnit (s : State) (f : Nat) : Option Nat :=
  (s.dram.units.find? (fun p => p.2.state == .warmUp && !p.2.serving && !p.2.admitNext &&
    (if p.1 < 256 then p.1 / 32 == f else (p.1 - 256) / 8 == f))).map (·.1)

/-- The walker of a forge whose patrol unit is due: the earliest due heat, then the stack walker, then the lower channel (R117). -/
def State.dueWalker (s : State) (f : Nat) : Option Nat :=
  ([3 * f, 3 * f + 1, 3 * f + 2].filter (fun w => (tfind s.dram.walkers w).isSome && (s.walker w).due == 0 && !(s.walker w).running)).foldl
    (fun b w => match b with
      | none => some w
      | some v => if (s.walker v).late < (s.walker w).late then some w else some v) none

/-- The next twin epoch copy segment of a forge: one to restore (R509), a frozen one (R507), one of a partner's copy (R512). -/
def State.twinSegment (s : State) (f : Nat) : Option Nat :=
  ((s.twin.restore ++ s.twin.epochs.flatMap (fun e => if e.2.copying then e.2.frozen else [])).find? (fun g => g % 8 == f))
    |>.orElse (fun _ => if s.twin.state == .solo && s.twin.partnerState == 3 then s.twin.resync.find? (fun g => g % 8 == f) else none)

/-- Duty 6 for forge `f` (R521): at most six units, the kinds in the order of Table — Shared resources. A kind whose
unit is still running is counted in HEAT_OVERRUN and starts none (R35). -/
def State.issueForge (s : State) (f : Nat) : State :=
  let b := s.background f
  -- overrun counts of the kinds still running
  let s0 := if b.patrol.isSome || b.test.isSome then s.countForge f 68 1 else s
  let s0 := if (s.forge f).placeUnit.isSome then s0.countForge f 72 1 else s0
  let s0 := if b.spare.isSome then s0.countForge f 76 1 else s0
  let s0 := if !b.scrub.isEmpty then s0.countForge f 80 1 else s0
  let s0 := if b.twin.isSome then s0.countForge f 84 1 else s0
  -- spare migration
  let spare := if b.spare.isSome then none else s0.retiringUnit f
  let s1 := match spare with
    | some u => (s0.modBackground f (fun x => { x with spare := some u })).wakeUnits [u, s0.spareTarget u]
    | none => s0
  let left1 := 6 - ofBool spare.isSome
  -- quench scrub and extent fill
  let scrub := if b.scrub.isEmpty then scrubTurns (min 4 left1) (s1.scrubDemand f) else []
  let s2 := if scrub.isEmpty then s1
    else (s1.modBackground f (fun x => { x with scrub := scrub })).wakeUnits (s1.unitsHit (s1.scrubRanges f scrub))
  let left2 := left1 - scrub.length
  -- twin epoch copy, issued at duty 7
  let twin := if b.twin.isSome || left2 = 0 then none else s2.twinSegment f
  let s3 := match twin with
    | some g => (s2.modBackground f (fun x => { x with twin := some g })).wakeUnits (s2.unitsHit [(65536 * g, 65536)])
    | none => s2
  let left3 := left2 - ofBool twin.isSome
  -- placement migration, when the budget permits
  let allowed := s3.tiers.budget != 0 && decide (s3.tiers.budget ≤ s3.tiers.budgetAge + 1)
  let s4 := if allowed then s3.modForge f (fun g => { g with allowedU := g.allowedU + 1 }) else s3
  let s4 := s4.fillPinQueue f
  let s5 := if allowed && (s4.forge f).placeUnit.isNone && left3 != 0 && s4.regionSets != 0 then s4.issuePlacement f else s4
  let s5 := match (if (s4.forge f).placeUnit.isNone then (s5.forge f).placeUnit else none) with
    | some u => s5.wakeUnits (s5.unitsHit ((s5.placeRanges u).1 ++ (s5.placeRanges u).2))
    | none => s5
  let left4 := left3 - ofBool ((s4.forge f).placeUnit.isNone && (s5.forge f).placeUnit.isSome)
  -- patrol scrub; a warm-up test takes its slot and the walkers pause
  if b.patrol.isSome || b.test.isSome || left4 = 0 then s5
  else match s5.testingUnit f with
    | some u => (s5.modBackground f (fun x => { x with test := some u })).wakeUnits [u]
    | none => match s5.dueWalker f with
      | some w =>
        let step := s5.seekStep w (s5.walkerSteps w) (s5.walker w).step
        ((s5.modBackground f (fun x => { x with patrol := some w })).modWalker w (fun x =>
          { x with running := true, step := step, due := scrubInterval x.level, late := 0 })).modUnit (s5.walkerUnit w step) ServiceUnit.scrubStarts
      | none => s5

/-- The kinds of background unit that run in a forge, as numbered in Background.ages. -/
def State.runningKinds (s : State) (f : Nat) : List Nat :=
  let b := s.background f
  (if b.scrub.isEmpty then [] else [0]) ++ (if b.patrol.isSome then [1] else []) ++ (if b.spare.isSome then [2] else []) ++
  (if b.test.isSome then [3] else []) ++ (if b.twin.isSome then [4] else []) ++ (if (s.forge f).placeUnit.isSome then [5] else [])

/-- The requests of a forge's running units are one heat older; a kind that does not run has no age (R110). -/
def State.ageUnits (s : State) (f : Nat) : State :=
  let a := (s.runningKinds f).map (fun k => (k, tget 0 (s.background f).ages k + 1))
  if a = (s.background f).ages then s else s.modBackground f (fun b => { b with ages := a })

/-- What passes in the DRAM controllers at a boundary before units are issued: ages, idle counts, parity counts, and walkers (R110,
R117–R119, R127). -/
def State.dramTick (s0 : State) : State :=
  let s := (List.range 8).foldl State.ageUnits s0
  { s with dram := { s.dram with
      queues := tmap s.dram.queues (fun _ q => { q with
        reads := q.reads.map (fun r => { r with age := r.age + 1 }), writes := q.writes.map (fun w => { w with age := w.age + 1 }) })
      units := tmap s.dram.units (fun _ u => { u with
        parity := 0, touched := false, idle := if u.touched then 0 else min 65535 (u.idle + 1) })
      walkers := tmap s.dram.walkers (fun _ w => w.tick s.dram.scrubFloor) } }

/-- Units whose failure awaits the boundary begin to retire; switched ones finish; passed ones are admitted. DESIGN CHOICE (log entry 73):
of several units that failed in one heat the lowest unit number begins first, and takes the spare or the first free pieces. -/
def State.unitsAtBoundary (s : State) : State :=
  let s1 := ((s.dram.units.filter (fun p => p.2.switchNext)).map (·.1)).foldl State.finishRetire s
  let s2 := ((s1.dram.units.filter (fun p => p.2.admitNext)).map (·.1)).foldl State.admitUnit s1
  ((s2.dram.units.filter (fun p => p.2.failing)).map (·.1)).foldl State.beginRetire s2

end Sys2Proof.Machine
end

