-- ==== Sys2Proof/Machine/Mirror.lean ====
section
/-! DEFINITION. What a write to pool memory meets before and after it is made: the waits of a seal capture and of an
epoch's frozen segments (R101, R507), and the mirroring of its extent (R505, R508). -/

namespace Sys2Proof.Machine

/-- The 64 KiB segments that a range of addresses touches. -/
def segsOf (d len : Nat) : List Nat := (List.range ((d + len - 1) / 65536 + 1 - d / 65536)).map (d / 65536 + ·)

/-- The leaf of a capturing seal that a segment of an extent is: the seal and the leaf number. -/
def State.captureLeaf (s : State) (seg : Nat) : Option (Nat × Nat) :=
  match s.extentAt (seg * 65536) with
  | none => none
  | some n =>
    let e := s.ext n
    if !e.capture then none
    else
      let x := s.seal e.sealId
      (x.extents.findIdx? (· == n)).bind (fun i =>
        let leaf := 4096 * i + seg % 4096
        if (tfind x.leaves leaf).isSome then none else some (e.sealId, leaf))

/-- A segment is frozen in a running epoch and not yet copied. -/
def State.frozenIn (s : State) (seg : Nat) : Option Nat :=
  (s.twin.epochs.find? (fun e => e.2.copying && e.2.frozen.contains seg)).map (·.1)

/-- A segment still to be restored after a takeover (R509). -/
def State.restoring (s : State) (seg : Nat) : Bool := s.twin.restore.contains seg

/-- A write of a range has to wait for a copy (R101, R507, R509). -/
def State.copyComesFirst (s : State) (d len : Nat) : Bool :=
  (segsOf d len).any (fun g => (s.captureLeaf g).isSome || (s.frozenIn g).isSome || s.restoring g)

/-- The range that a held write stores to. -/
def HeldWrite.range : HeldWrite → Nat × Nat
  | .store _ t d => (d, le t.head 4 4)
  | .coherent m => (64 * m.line, 64)
  | .host _ d _ _ => (d, 64)

/-- A write that waits stores to a segment of a range: what comes after it waits behind it. -/
def State.heldBefore (s : State) (d len : Nat) : Bool :=
  s.coh.heldWrites.any (fun w => decide (w.range.1 / 65536 ≤ (d + len - 1) / 65536) && decide (d / 65536 ≤ (w.range.1 + w.range.2 - 1) / 65536))

/-- A write of a range by a partition has to wait: for a copy, for a way of the forge cache, or behind a write that does (R54, R56,
R101). -/
def State.writeWaits (s : State) (part d len : Nat) : Bool :=
  s.copyComesFirst d len || !s.rangeFree part d len || s.heldBefore d len

/-- The copies that a waiting write needs come next: its leaves ahead of leaf order, its frozen segments first. -/
def State.hasten (s : State) (d len : Nat) : State :=
  (segsOf d len).foldl (fun a g =>
    let a1 := match a.captureLeaf g with
      | some (sid, leaf) => a.modSeal sid (fun x => if x.urgent.contains leaf then x else { x with urgent := x.urgent ++ [leaf] })
      | none => a
    match a1.frozenIn g with
    | some p => a1.modEpoch p (fun e => { e with frozen := g :: e.frozen.erase g })
    | none => a1) s

/-- A usable twin port: the lower one first. -/
def State.twinPort (s : State) : Option Nat := [22, 23].find? (fun i => (s.egress i).twin && s.usable i)

/-- The queue of mirrored data of a twin port, class 1 and PART 0: the trains that have not started go behind the others where `copy`
says that they are copies (M6). -/
def Egress.copiesLast (e : Egress) (copy : QTrain → Bool) : Egress :=
  let k := qkey 1 0
  let q := e.queue k
  let fresh := q.filter (fun t => !t.started)
  let e1 : Egress := { e with
    queues := tins e.queues k (q.filter (·.started) ++ (fresh.filter (fun t => !copy t) ++ fresh.filter copy)) }
  e1.tagHead k

/-- A train of the mirrored-data queue is an epoch or resync copy. -/
def State.isCopy (s : State) (t : QTrain) : Bool := s.twin.mirrored.any (fun m => m.copy && m.tag == t.head.tag)

/-- Sends a mirrored write, or a copy, over a twin port as MEM WR with PART 0 and a DPA (R501, R505); mirrored writes are served ahead
of copies (M6). -/
def State.sendMirror (s : State) (d : Nat) (data : List Byte) (poison copy : Bool) (answer : Option Train) : State :=
  let tag := s.twin.nextTag
  let s1 : State := { s with twin := { s.twin with
    nextTag := (tag + 1) % 4096
    mirrored := s.twin.mirrored ++ [{ tag := tag, dpa := d, len := data.length, answer := answer, copy := copy }] } }
  let hd : List Byte := [0x02, BitVec.ofNat 8 (ofBool poison), 0, 0] ++ leBytes 4 data.length ++ leBytes 8 d
  let t : Train := { typ := 0x7, cls := 1, dst := s.endpoint 37, src := s.endpoint 37, part := 0, tag := tag,
                     cells := fit 32 hd :: cells32 data }
  match s.twinPort with
  | some i => (s1.sendOn i t).modEgress i (fun e => e.copiesLast s1.isCopy)
  | none => s1

/-- What the extent's mirror class makes of a write (R505, R507, R508): mirrored in PRIMARY, marked in the resync set
in SOLO, marked dirty for the next epoch. True when the write's completion has to wait for WR_CMP; `answer` is then
held back. -/
def State.mirror (s : State) (d : Nat) (data : List Byte) (poison : Bool) (answer : Option Train) : State × Bool :=
  match s.extentAt d with
  | none => (s, false)
  | some n =>
    let e := s.ext n
    let marks (a : State) : State := if a.twin.state = .solo then
      { a with twin := { a.twin with resync := (segsOf d data.length).foldl (fun l g => addSorted g l) a.twin.resync } } else a
    if e.mirror = 1 then
      if s.twin.state = .primary || (s.twin.state = .solo && s.twin.partnerState = 3 && !(segsOf d data.length).any s.twin.resync.contains) then
        -- the last piece carries the answer
        let ps := chunksN 2048 (data.length / 2048 + 1) data
        let r := ps.zipIdx.foldl (fun a p =>
          a.sendMirror (d + 2048 * p.2) p.1 poison false (if p.2 + 1 = ps.length then answer else none)) s
        (r, s.twin.state == .primary)
      else (marks s, false)
    else if e.mirror = 2 then
      (marks (s.modEpoch e.part (fun x => { x with dirty := (segsOf d data.length).foldl (fun l g => addSorted g l) x.dirty })), false)
    else (s, false)

/-- A write that the device makes at the home of a location: stored, and mirrored (R312, R505). -/
def State.homeWrite (s : State) (cls part d : Nat) (data : List Byte) (poison : Bool) : State :=
  ((s.engineStore cls part d data poison).mirror d data poison none).1

end Sys2Proof.Machine
end

