-- ==== Sys2Proof/Machine/Coherence.lean ====
section
/-! DEFINITION. Coherence at the home (12_coherence.md): the directory, home trackers, snoops and their timeouts, grip
time, placement writes, and the replies. -/

namespace Sys2Proof.Machine

/-! ### The directory (R298–R301) -/

/-- The forge-local line number n of a line (R298). `l` is DPA div 64. -/
def State.dirNumber (s : State) (l : Nat) : Nat :=
  if isBulk (l * 64) then bulkChanAddr (l * 64) / 64 * 2 + bulkChannelOf (l * 64) % 2 else s.stackLocal (l * 64) / 64

/-- The key of way `w` of a line's directory set. -/
def State.dirKey (s : State) (l w : Nat) : Nat := 2 ^ 18 * s.homeForge (l * 64) + 16 * (s.dirNumber l % 16384) + w

/-- The way that holds a line's entry. -/
def State.dirFind (s : State) (l : Nat) : Option Nat :=
  ((List.range 16).map (s.dirKey l)).find? (fun k => (tfind s.coh.dir k).any (fun e =>
    e.state != .invalid && e.tag == s.dirNumber l / 16384 && e.tier == ofBool (isBulk (l * 64))))

/-- The entry of a line; INVALID when the directory holds none. -/
def State.dirEntry (s : State) (l : Nat) : DirEntry := ((s.dirFind l).bind (tfind s.coh.dir)).getD DirEntry.reset

/-- The pointers of an entry. -/
def DirEntry.pointers (e : DirEntry) : List Nat := ((List.range 4).filter (bit e.pvalid ·)).map (tget 0 e.ptrs)

/-- The pointer of the F holder. -/
def DirEntry.fHolder (e : DirEntry) : Option Nat := if e.fvalid && bit e.pvalid e.fidx then some (tget 0 e.ptrs e.fidx) else none

/-- An entry EXCL for one agent. -/
def DirEntry.excl (e : DirEntry) (m : Nat) : DirEntry :=
  { e with state := .excl, ovf := false, fvalid := false, fidx := 0, pvalid := 1, ptrs := [(0, m)] }

/-- Removes an agent's pointer. -/
def DirEntry.remove (e : DirEntry) (m : Nat) : DirEntry :=
  let slots := (List.range 4).filter (fun i => bit e.pvalid i && tget 0 e.ptrs i == m)
  let pv := slots.foldl (fun v i => setBit v i false) e.pvalid
  { e with
    pvalid := pv, fvalid := e.fvalid && bit pv e.fidx
    state := if pv = 0 && !e.ovf then .invalid else e.state }

/-- An entry with OVF keeps the F holder's pointer alone, in its slot (R299). -/
def DirEntry.onlyF (e : DirEntry) : DirEntry :=
  if e.fvalid && bit e.pvalid e.fidx then { e with pvalid := 2 ^ e.fidx, ptrs := [(e.fidx, tget 0 e.ptrs e.fidx)] }
  else { e with fvalid := false, pvalid := 0, ptrs := [] }

/-- Adds a sharer, which takes F when `asF` (R299); true when a fifth sharer sets OVF. A sharer that takes F while no slot is
free gets the slot of the F holder before it, or slot 0. -/
def DirEntry.add (e : DirEntry) (m : Nat) (asF : Bool) : DirEntry × Bool :=
  match (List.range 4).find? (fun i => bit e.pvalid i && tget 0 e.ptrs i == m) with
  | some i =>
    let x : DirEntry := { e with state := .shared, fvalid := e.fvalid && e.fidx != i || asF, fidx := if asF then i else e.fidx }
    (if e.ovf then x.onlyF else x, false)
  | none =>
    if e.ovf && !asF then ({ e with state := .shared }, false)
    else match if e.ovf then none else (List.range 4).find? (fun i => !bit e.pvalid i) with
      | some i =>
        ({ e with state := .shared, pvalid := setBit e.pvalid i true, ptrs := tins e.ptrs i m
                  fvalid := e.fvalid || asF, fidx := if asF then i else e.fidx }, false)
      | none =>
        let k := if e.fHolder.isSome then e.fidx else 0
        let x : DirEntry := if asF then { e with fvalid := true, fidx := k, pvalid := 2 ^ k, ptrs := [(k, m)] } else e.onlyF
        ({ x with state := .shared, ovf := true }, !e.ovf)

def State.modCoh (s : State) (f : Coh → Coh) : State := { s with coh := f s.coh }

/-- Adds to counter `k` of Table — Coherence counters for a line's forge; lines of confidential partitions are left
out (R311). -/
def State.countCoh (s : State) (l part k n : Nat) : State :=
  if (s.part part).confidential then s
  else s.modCoh (fun c => { c with counters := tcount 32 c.counters (16 * s.homeForge (l * 64) + k) n })

def State.setEntry (s : State) (k : Nat) (e : DirEntry) : State := s.modCoh (fun c => { c with dir := tset DirEntry.reset c.dir k (if e.state = .invalid then DirEntry.reset else e) })

/-- Changes the entry of a line that has one. -/
def State.modEntry (s : State) (l : Nat) (f : DirEntry → DirEntry) : State :=
  match s.dirFind l with
  | some k => s.setEntry k (f (tget DirEntry.reset s.coh.dir k))
  | none => s

/-- Frees a line's entry. -/
def State.freeEntry (s : State) (l : Nat) : State :=
  match s.dirFind l with
  | some k => s.modCoh (fun c => { c with dir := tdel c.dir k })
  | none => s

/-- The line of a directory entry, as DPA div 64: the inverse of R298. -/
def State.lineOfEntry (s : State) (k : Nat) (e : DirEntry) : Nat :=
  let f := k / 2 ^ 18
  let n := e.tag * 16384 + k % 2 ^ 18 / 16
  if e.tier = 1 then
    let c := 2 * f + n % 2
    let a := n / 2 * 64
    (bulkBase + a / 4096 * 65536 + c * 4096 + a % 4096) / 64
  else
    let a := n * 64
    ((a / 4096 * s.nStacks + f) * 4096 + a % 4096) / 64

/-! ### Members and trackers (R290, R296) -/

/-- The member-list index of an endpoint, and an entry. -/
def State.memberIndex (s : State) (p ep : Nat) : Option Nat := (s.part p).members.findIdx? (·.ep == ep)
def State.member (s : State) (p i : Nat) : Option Member := (s.part p).members[i]?

/-- The member is a head of this chip. -/
def State.memberHead (s : State) (p i : Nat) : Option Nat :=
  (s.member p i).bind (fun m => if m.ep = s.endpoint 40 then some 0 else if m.ep = s.endpoint 41 then some 1 else none)

/-- The caching members of a partition. -/
def State.cachingMembers (s : State) (p : Nat) : List Nat :=
  ((s.part p).members.zipIdx.filter (fun m => m.1.caching)).map (·.2)

/-- The open transaction of a line. -/
def State.trackerOf (s : State) (l : Nat) : Option Nat := (s.coh.trackers.find? (fun t => t.2.msg.line == l)).map (·.1)

/-- Trackers in use in a forge. -/
def State.trackersUsed (s : State) (f : Nat) : Nat := (s.coh.trackers.filter (fun t => t.1 / 4096 == f)).length

/-- The request writes pool memory. -/
def CohReq.writes : CohReq → Bool | .wrBack => true | .wrLine => true | .wrPartial => true | .wrPlace => true | _ => false

/-- The 256 reserved trackers serve WR_BACK and the writes of the device's engines (R296). -/
def CohMsg.reserved (m : CohMsg) : Bool := m.req == .wrBack || (m.member == 0xFFFF && m.req.writes)

/-- Unreserved trackers in use in a forge: those of other transactions, and what the reserved ones do not hold. -/
def State.unreservedUsed (s : State) (f : Nat) : Nat :=
  let r := (s.coh.trackers.filter (fun t => t.1 / 4096 == f && t.2.msg.reserved && t.2.evict.isNone)).length
  s.trackersUsed f - min 256 r

/-- A request of this kind may take a tracker now. -/
def State.trackerFree (s : State) (f : Nat) (m : CohMsg) : Bool :=
  decide (s.trackersUsed f < 4096) && (m.reserved || decide (s.unreservedUsed f < 3840))

/-- The lowest free tracker of a forge. -/
def State.freeTracker (s : State) (f : Nat) : Nat :=
  ((List.range 4096).find? (fun k => (tfind s.coh.trackers (4096 * f + k)).isNone)).getD 0 + 4096 * f

def State.setTracker (s : State) (k : Nat) (t : Tracker2) : State := s.modCoh (fun c => { c with trackers := tins c.trackers k t })

def State.modTracker (s : State) (k : Nat) (f : Tracker2 → Tracker2) : State :=
  match tfind s.coh.trackers k with
  | some t => s.setTracker k (f t)
  | none => s

/-! ### Messages (R293) -/

/-- COP of a snoop. -/
def Snoop.cop : Snoop → Nat | .share => 0x11 | .fwd => 0x12 | .inv => 0x13 | .cur => 0x14 | .place => 0x15

/-- A coherent train with or without the 64 data bytes. -/
def cohTrain (cls dst src part tag cop flags state status trk psa peer : Nat) (data : List Byte) : Train :=
  let hd := [BitVec.ofNat 8 cop, BitVec.ofNat 8 (flags + (if data.isEmpty then 0 else 2)), BitVec.ofNat 8 state, BitVec.ofNat 8 status] ++
    leBytes 2 trk ++ [0, 0] ++ leBytes 8 psa ++ leBytes 2 peer
  { typ := 0x8, cls := cls, dst := dst, src := src, part := part, tag := tag
    cells := fit 32 hd :: (if data.isEmpty then [] else [(fit 64 data).take 32, (fit 64 data).drop 32]) }

/-- HOME_TRK of a tracker key: [11:0] tracker, [14:12] forge. -/
def homeTrk (k : Nat) : Nat := k % 4096 + k / 4096 * 4096

/-- The accesses that wait for a sector's fill no longer do. -/
def State.wakeSector (s : State) (sec : Nat) : State :=
  { s with tiers := { s.tiers with waiters := s.tiers.waiters.map (fun w => { w with need := w.need.filter (· != sec) }) } }

/-- One access no longer waits for the transaction of a line (R289). -/
def State.wakeTrans (s : State) (id line : Nat) : State :=
  { s with tiers := { s.tiers with waiters := s.tiers.waiters.map (fun w =>
      if w.id = id then { w with trans := w.trans.filter (· != line) } else w) } }

/-- The RSP train that answers a MEM request (R324): its OP with bit 7 set, the request's ADDR and TAG, SRC and DST
exchanged. -/
def memAnswer (c : Cell) (op flags status len : Nat) (data : List Byte) : Train :=
  let hd := [BitVec.ofNat 8 op, BitVec.ofNat 8 flags, 0, BitVec.ofNat 8 status] ++ leBytes 4 len ++ (c.payload.drop 8).take 8
  { typ := 0x7, cls := 3, dst := c.src, src := c.dst, part := c.part, tag := c.tag, cells := fit 32 hd :: cells32 data }

/-- Cell 0 of a train. -/
def Train.cell0 (t : Train) : Cell := t.cellOf 0 t.head

/-- Data of an admitted read leaves head `h`: READ_BYTES, POISON_READS and the Failure record of a poison read (R387,
R394). A head whose link is gone returns nothing (R392). -/
def State.headData (s : State) (h dpa : Nat) (d : List Byte × Bool) : State :=
  if (s.head h).link ≠ .active then s else
  let s1 := (s.modHead h (fun x => { x with lastRead := some d })).countHead h 4 d.1.length
  if d.2 then (s1.countHead h 16 1).post h 2 .poisonRead dpa d.1.length 0 else s1

/-- Answers an access whose sectors are all there: RD_DATA with what memory now holds, or WR_CMP; at a CXL head the
data leaves the head (R54, R324, R377). -/
def State.answerWaiter (s : State) (w : Waiter) : State :=
  let p := if w.origin = 0 then w.head.part else s.partAt w.dpa
  let data := s.view p w.dpa w.len
  let poison := s.viewPoison p w.dpa w.len
  if w.origin = 0 then
    if le w.head.head 0 1 = 0x02 then s.send (memAnswer w.head.cell0 0x82 0 stOk w.len [])
    else s.send (memAnswer w.head.cell0 0x81 (ofBool poison) stOk w.len data)
  else s.headData (w.origin - 1) w.dpa (data, poison)

/-- Answers every access that waits for nothing more. -/
def State.answerReady (s : State) : State :=
  let ready (w : Waiter) : Bool := w.need.isEmpty && w.trans.isEmpty
  (s.tiers.waiters.filter ready).foldl State.answerWaiter
    { s with tiers := { s.tiers with waiters := s.tiers.waiters.filter (fun w => !ready w) } }

/-- The reply to a requester (R293): DATA or CMP on RSP; to a host, its data; to the MEM access it was made for or an engine of the
device, that the line is served. -/
def State.cohReply (s : State) (k : Nat) (m : CohMsg) (state status : Nat) (data : Option (List Byte × Bool)) : State :=
  if m.port = 0xFFFF then
    if m.member = 0xFFFF then (if m.req.writes then s else s.modCoh (fun c => { c with fresh := addSorted m.line c.fresh }))
    else (s.wakeTrans m.waiter m.line).answerReady
  else if 256 ≤ m.port then
    match data with
    | some d => if m.port < 258 then s.headData (m.port - 256) (m.line * 64) d else s
    | none => s
  else
    match data with
    | some d => s.send (cohTrain 3 m.src (s.endpoint 37) m.part m.tag 0x21 (ofBool d.2) state status (homeTrk k) m.psa 0 d.1)
    | none => s.send (cohTrain 3 m.src (s.endpoint 37) m.part m.tag 0x22 0 state status (homeTrk k) m.psa 0 [])

/-- A grant starts the grip time of its agent (R302). -/
def State.startGrip (s : State) (m : CohMsg) : State :=
  if (s.part m.part).grip = 0 || m.member = 0xFFFF then s
  else s.modCoh (fun c => { c with grips := c.grips.filter (· != (m.line, m.member)) ++ [(m.line, m.member)] })

/-- The current data of a line of a partition at its home. -/
def State.lineData (s : State) (part l : Nat) : List Byte × Bool := s.sectorView part l

/-- Writes a whole line at home in class COHERENT. -/
def State.lineWrite (s : State) (part l : Nat) (data : List Byte) (poison : Bool) : State := s.homeWrite 0 part (l * 64) (fit 64 data) poison

/-- The runs of set bits of a mask of 64: first bit and length. -/
def maskRuns (mask : Nat) : List (Nat × Nat) :=
  ((List.range 64).foldl (fun (l : List (Nat × Nat)) i =>
    if !bit mask i then l
    else match l with
      | (a, n) :: t => if a + n = i then (a, n + 1) :: t else (i, 1) :: l
      | [] => [(i, 1)]) []).reverse

/-- Writes the bytes of a mask. -/
def State.lineMerge (s : State) (part l mask : Nat) (data : List Byte) (poison : Bool) : State :=
  (maskRuns mask).foldl (fun a r => a.homeWrite 0 part (l * 64 + r.1) ((data.drop r.1).take r.2) poison) s

/-- The PSA of a line, by the extent that holds it. -/
def State.psaOfLine (s : State) (l : Nat) : Nat :=
  match s.extentAt (l * 64) with
  | some n => (s.ext n).psaBlk * 2 ^ 28 + l * 64 % 2 ^ 28
  | none => 0

/-- A mirrored write of a line awaits the twin's WR_CMP (R505). -/
def State.mirrorOpen (s : State) (l : Nat) : Bool :=
  s.twin.state == .primary && s.twin.mirrored.any (fun m => decide (m.dpa < 64 * l + 64) && decide (64 * l < m.dpa + m.len))

/-! ### Snoops (R294, R300, R302–R305) -/

/-- The snoops that a request needs from the directory state of its line, in order: none when it can be served at
once. The first request for a line that a warm reset found open invalidates every caching member (R312). -/
def State.snoopsFor (s : State) (m : CohMsg) : List (Snoop × Nat) :=
  if s.coh.stale.contains m.line then (s.cachingMembers m.part).map (fun i => (.inv, i)) else
  let e := s.dirEntry m.line
  let all : List Nat := if e.ovf then s.cachingMembers m.part else e.pointers
  let others := all.filter (· != m.member)
  let host := (s.memberHead m.part m.member).isSome
  match e.state with
  | .invalid => []
  | .excl =>
    let x := (e.pointers.head?).getD 0
    match m.req with
    | .rdShared => [(.share, x)]
    | .rdOwn => [(.inv, x)]
    | .upgrade => if x = m.member then [] else [(.inv, x)]
    | .rdCur => [(.cur, x)]
    | .wrLine => [(.inv, x)]
    | .wrPartial => [(.inv, x)]
    | .wrPlace => [(.inv, x)]
    | .wrBack => []
  | .shared =>
    match m.req with
    | .rdShared =>
      if s.sectorHeld m.part m.line || host then []
      else match e.fHolder with
        | some f => if (s.memberHead m.part f).isSome then [] else [(.fwd, f)]
        | none => []
    | .rdOwn => others.map (fun i => (.inv, i))
    | .upgrade => others.map (fun i => (.inv, i))
    | .rdCur => []
    | .wrBack => []
    | _ => all.map (fun i => (.inv, i))

/-- Sends a snoop to a member: a SNP train, or a back-invalidate snoop to a host (R309). -/
def State.sendSnoop (s : State) (k : Nat) (m : CohMsg) (sn : Snoop) (mem : Nat) : State :=
  let s1 := (s.countCoh m.line m.part 4 1)
  let s2 := if sn = .fwd then s1.countCoh m.line m.part 5 1 else s1
  match s.memberHead m.part mem with
  | some h => (s2.modHead h (fun x => { x with bisnp := x.bisnp ++ [(m.line, sn)] })).countHead h 20 1
  | none =>
    let ep := ((s.member m.part mem).map (·.ep)).getD 0
    let psa := s.psaOfLine m.line
    if sn = .place then
      -- the data is poisoned when the line is
      let s3 := s2.engineRead 0 m.part (m.line * 64) 64
      s3.send (cohTrain 2 ep (s.endpoint 37) m.part (k % 4096) sn.cop (ofBool (s3.lineData m.part m.line).2) 0 0 (homeTrk k) psa 0
        (s3.lineData m.part m.line).1)
    else s2.send (cohTrain 2 ep (s.endpoint 37) m.part (k % 4096) sn.cop 0 0 0 (homeTrk k) psa (if sn = .fwd then m.src else 0) [])

/-- A member has not answered: it is marked unresponsive, and a device event names its endpoint (R304, R307). -/
def State.memberSilent (s : State) (p mem : Nat) : State :=
  let ep := ((s.member p mem).map (·.ep)).getD 0
  (s.modPart p (fun x => { x with
    members := x.members.zipIdx.map (fun y => if y.2 = mem then { y.1 with unresponsive := true } else y.1)
    silent := if x.silent.contains ep then x.silent else x.silent ++ [ep] })).deviceEvent 0x085

/-- What an expired snoop other than SNP_PLACE does before its transaction goes on (R304). -/
def State.poisonLine (s : State) (k : Nat) (m : CohMsg) (mem : Nat) : State :=
  let s1 := s.lineWrite m.part m.line (s.lineData m.part m.line).1 true
  let s2 := (s1.notePoison (m.line * 64)).modEntry m.line (fun e => e.remove mem)
  let s4 := (s2.memberSilent m.part mem).countCoh m.line m.part 7 1
  (s4.countCoh m.line m.part 14 1).modTracker k (fun t => { t with poisoned := true })

/-- One snoop that a transaction needs: held while the agent's grip time runs (R302), decided as expired for an
unresponsive member (R305), or sent. -/
def State.issueSnoop (s : State) (k : Nat) (m : CohMsg) (sn : Snoop) (mem : Nat) : State :=
  match s.member m.part mem with
  | none => s
  | some x =>
    if x.unresponsive then
      (if sn = .place then s.countCoh m.line m.part 7 1 else s.poisonLine k m mem)
    else if s.coh.grips.contains (m.line, mem) then
      (s.countCoh m.line m.part 13 1).modTracker k (fun t => { t with held := t.held ++ [(sn, mem)] })
    else
      (s.sendSnoop k m sn mem).modTracker k (fun t =>
        { t with snoops := t.snoops ++ [{ snoop := sn, member := mem, left := (s.part m.part).snoopTimeout }] })

/-! ### The end of a transaction -/

/-- Where the line's entry is, or goes: its own way, else a free way of its set. -/
def State.entrySlot (s : State) (l : Nat) : Option Nat :=
  match s.dirFind l with
  | some k => some k
  | none => ((List.range 16).map (s.dirKey l)).find? (fun k => (tget DirEntry.reset s.coh.dir k).state == .invalid)

/-- A new entry for a line: AGE 2, counted in DIR_ALLOC (R301). -/
def State.newEntry (s : State) (m : CohMsg) : DirEntry :=
  { DirEntry.reset with tag := s.dirNumber m.line / 16384, tier := ofBool (isBulk (m.line * 64)), part := m.part, age := 2 }

/-- Puts the entry of a request's line. -/
def State.putEntry (s : State) (m : CohMsg) (f : DirEntry → DirEntry) : State :=
  match s.dirFind m.line with
  | some k => s.setEntry k { f (tget DirEntry.reset s.coh.dir k) with age := 0 }
  | none => match s.entrySlot m.line with
    | some k => (s.setEntry k (f (s.newEntry m))).countCoh m.line m.part 0 1
    | none => s

/-- Adds the requester as a sharer. -/
def State.addSharer (s : State) (m : CohMsg) (asF : Bool) : State :=
  let fifth := ((s.dirEntry m.line).add m.member asF).2
  let s1 := s.putEntry m (fun e => (e.add m.member asF).1)
  if fifth then s1.countCoh m.line m.part 2 1 else s1

/-- Closes a tracker. -/
def State.closeTracker (s : State) (k : Nat) : State := s.modCoh (fun c => { c with trackers := tdel c.trackers k })

/-- The write of a transaction has been made: its completion goes out, or waits for the twin's WR_CMP (R505). -/
def State.cohComplete (s : State) (k : Nat) (m : CohMsg) : State :=
  if s.mirrorOpen m.line then s.modTracker k (fun x => { x with written := true })
  else (s.cohReply k m 0 stOk none).closeTracker k

/-- The placement offer of a WR_PLACE (R307): to a member with CACHING that is no host; otherwise counted. -/
def State.placeTarget (s : State) (m : CohMsg) : Option Nat :=
  (s.member m.part (m.peer % 256)).bind (fun x =>
    if x.caching && (s.memberHead m.part (m.peer % 256)).isNone then some (m.peer % 256) else none)

/-- A request whose snoops are answered takes the line's data from the home (Table — Home transitions). -/
def State.takesData (s : State) (t : Tracker2) : Bool :=
  let e := s.dirEntry t.msg.line
  match t.msg.req with
  | .rdCur => t.msg.member != 0xFFFF
  | .rdShared => !(e.state == .shared && t.offered && !t.poisoned)
  | .rdOwn => true
  | .upgrade => !(e.pointers.contains t.msg.member && !t.poisoned)
  | .wrBack => false | .wrLine => false | .wrPartial => false | .wrPlace => false

/-- The end of a request whose snoops are answered (Table — Home transitions), its data being there where it takes some. -/
def State.cohServe (s : State) (k : Nat) (t : Tracker2) : State :=
  let m := t.msg
  let e := s.dirEntry m.line
  let host := (s.memberHead m.part m.member).isSome
  let read (a : State) : State := a.engineRead 0 m.part (m.line * 64) 64
  let grant (a : State) (st : Nat) : State := (((read a).cohReply k m st stOk (some ((read a).lineData m.part m.line))).startGrip m).closeTracker k
  match m.req with
  | .rdCur =>
    if m.member = 0xFFFF then (s.cohReply k m 0 stOk none).closeTracker k
    else ((read s).cohReply k m 0 stOk (some ((read s).lineData m.part m.line))).closeTracker k
  | .rdShared =>
    match e.state with
    | .invalid => if t.poisoned && !host then grant (s.addSharer m true) 2 else
        (if t.poisoned then grant (s.addSharer m false) 1 else grant (s.putEntry m (fun x => x.excl m.member)) 3)
    | .excl => grant (s.addSharer m (!host)) (if host then 1 else 2)
    | .shared =>
      if t.poisoned then grant (s.addSharer m (!host)) (if host then 1 else 2)
      else if t.offered then
        -- the F holder has sent DATA to the requester itself (SNP_FWD answered): the home has granted nothing
        (s.addSharer m true).closeTracker k
      else if (s.sectorHeld m.part m.line && !t.missed) || host then grant (s.addSharer m false) 1
      else grant (s.addSharer m true) 2
  | .rdOwn => grant (s.putEntry m (fun x => x.excl m.member)) 3
  | .upgrade =>
    -- CMP without data when the requester holds the line as an entry says; otherwise as RD_OWN
    if e.pointers.contains m.member && !t.poisoned then
      (((s.putEntry m (fun x => x.excl m.member)).cohReply k m 3 stOk none).startGrip m).closeTracker k
    else grant (s.putEntry m (fun x => x.excl m.member)) 3
  | .wrBack =>
    if t.written then s.cohComplete k m
    else if e.state = .excl && e.pointers.contains m.member then
      ((s.lineWrite m.part m.line m.data m.poison).freeEntry m.line).cohComplete k m
    else (s.cohReply k m 0 stOk none).closeTracker k
  | .wrLine =>
    if t.written then s.cohComplete k m
    else ((s.lineWrite m.part m.line m.data m.poison).freeEntry m.line).cohComplete k m
  | .wrPartial =>
    if t.written then s.cohComplete k m
    else ((s.lineMerge m.part m.line m.mask m.data m.poison).freeEntry m.line).cohComplete k m
  | .wrPlace =>
    if t.offered || t.written then s.cohComplete k m
    else
      let s1 := (s.lineWrite m.part m.line m.data m.poison).freeEntry m.line
      match s.placeTarget m with
      | some g =>
        let s2 := (s1.modTracker k (fun x => { x with offered := true })).issueSnoop k m .place g
        if (tfind s2.coh.trackers k).any (fun x => x.snoops.isEmpty && x.held.isEmpty) then s2.cohComplete k m else s2
      | none => (s1.countCoh m.line m.part 11 1).cohComplete k m

/-- A request whose snoops are answered ends; one that takes data waits till the home has read the line, in class COHERENT (R109, R294).
A line that the forge cache does not hold when its readers share it is granted F (R295). -/
def State.cohFinish (s : State) (k : Nat) (t : Tracker2) : State :=
  if s.takesData t && !s.readReady t.msg.part (t.msg.line * 64) 64 then
    (s.fetchRead 0 t.msg.part (t.msg.line * 64) 64).modTracker k (fun x => { x with
      reading := true
      missed := x.missed || (!x.reading && (s.dirEntry x.msg.line).state == .shared && !s.sectorHeld x.msg.part x.msg.line) })
  else s.cohServe k t

/-- The end of an eviction (R301): the victim's entry is freed. -/
def State.evictFinish (s : State) (k : Nat) (t : Tracker2) : State := (s.freeEntry t.msg.line).closeTracker k

/-- The request needs a directory entry to be made. -/
def needsEntry : CohReq → Bool | .rdShared => true | .rdOwn => true | .upgrade => true | _ => false

/-- Starts the snoops of a request that has its tracker and, where it needs one, its directory way. -/
def State.cohSnoop (s : State) (k : Nat) (m : CohMsg) : State :=
  let sn := s.snoopsFor m
  let e := s.dirEntry m.line
  let s0 := if e.ovf && sn.any (fun x => x.1 == .inv) then s.countCoh m.line m.part 3 1 else s
  let s1 := if s.coh.stale.contains m.line then (s0.freeEntry m.line).modCoh (fun c => { c with stale := c.stale.erase m.line }) else s0
  sn.foldl (fun a x => a.issueSnoop k m x.1 x.2) (s1.modEntry m.line (fun x => { x with age := 0 }))

/-- The victim way of a full set (R301): AGE raised until a way of AGE 3 is eligible; ways with an open transaction are
not. -/
def State.dirVictim (s : State) (l : Nat) : State × Option Nat :=
  let ks := ((List.range 16).map (s.dirKey l))
  let el := ks.filter (fun k => (s.trackerOf (s.lineOfEntry k (tget DirEntry.reset s.coh.dir k))).isNone)
  let age (k : Nat) : Nat := (tget DirEntry.reset s.coh.dir k).age
  let top := (el.map age).foldl max 0
  (s.modCoh (fun c => { c with dir := tmap c.dir (fun k e => if ks.contains k then { e with age := min 3 (e.age + (3 - top)) } else e) }),
    el.find? (fun k => age k == top))

/-- The eviction that frees a directory way for the request of tracker `k` (R301): it runs in its own tracker. With every way's line
in an open transaction, or no unreserved tracker free, the request waits for one to end. -/
def State.evictFor (s : State) (k : Nat) (m : CohMsg) : State × Option Nat :=
  let f := s.homeForge (m.line * 64)
  let s0 := s.modTracker k (fun x => { x with waiting := true })
  if 3840 ≤ s.unreservedUsed f || 4096 ≤ s.trackersUsed f then (s0, none)
  else
    let v := s0.dirVictim m.line
    match v.2 with
    | none => (v.1, none)
    | some dk =>
      let e := tget DirEntry.reset v.1.coh.dir dk
      let vl := v.1.lineOfEntry dk e
      let em : CohMsg := { m with req := .wrPartial, line := vl, mask := 0, data := [], part := e.part, member := 0xFFFF, port := 0xFFFF
                                  psa := v.1.psaOfLine vl }
      let ek := v.1.freeTracker f
      let t : Tracker2 := { msg := em, evict := some k, snoops := [], held := [], offered := false, taken := none, waiting := false, missed := false
                            poisoned := false, written := false, reading := false }
      (((v.1.setTracker ek t).countCoh vl e.part 1 1).cohSnoop ek em, some ek)

/-- The request of tracker `k` has its directory way, or needs none: an offer that was taken enters its entry, else its snoops start;
it ends when none is outstanding. -/
def State.cohProceed (s : State) (k : Nat) (x : Tracker2) : State :=
  let s1 := s.modTracker k (fun y => { y with waiting := false, taken := none })
  let s2 := match x.taken with
    | some g => s1.putEntry x.msg (fun e => e.excl g)
    | none => s1.cohSnoop k x.msg
  match tfind s2.coh.trackers k with
  | some y => if y.snoops.isEmpty && y.held.isEmpty then s2.cohFinish k y else s2
  | none => s2

/-- Ends what can end: a tracker with no snoop outstanding or held finishes; an eviction's end lets the request that
waits for its way go on. -/
def State.settle (s : State) (k : Nat) : State :=
  match tfind s.coh.trackers k with
  | none => s
  | some t =>
    if !t.snoops.isEmpty || !t.held.isEmpty || t.waiting then s
    else match t.evict with
      | none => s.cohFinish k t
      | some w =>
        let s1 := s.evictFinish k t
        match tfind s1.coh.trackers w with
        | none => s1
        | some x => s1.cohProceed w x

/-- Gives the request of tracker `k` the directory way it needs, evicting a victim, or lets it go on. -/
def State.cohWay (s : State) (k : Nat) (x : Tracker2) : State :=
  if (needsEntry x.msg.req || x.taken.isSome) && (s.entrySlot x.msg.line).isNone then
    match s.evictFor k x.msg with
    | (s1, some ek) => s1.settle ek
    | (s1, none) => s1
  else s.cohProceed k x

/-- Starts a request on a free tracker (R294, R296, R301). -/
def State.cohStart (s : State) (m : CohMsg) : State :=
  let k := s.freeTracker (s.homeForge (m.line * 64))
  let t : Tracker2 := { msg := m, evict := none, snoops := [], held := [], offered := false, taken := none, waiting := false, missed := false
                        poisoned := false, written := false, reading := false }
  (s.setTracker k t).cohWay k t

/-- A line has an open transaction, or requests that wait for one to end. -/
def State.lineBusy (s : State) (l : Nat) : Bool := (s.trackerOf l).isSome || s.coh.lineWait.any (·.line == l)

/-- REQ traffic for a line of a range waits behind a request that waits at its home forge's ingress (R296). -/
def State.homeBlocked (s : State) (d len : Nat) : Bool :=
  (linesOf d len).any (fun la => !(tget [] s.coh.ingress (s.homeForge (la * 256))).isEmpty)

/-- A request arrives at its home forge (R296): it waits at the ingress behind one that does, waits for its line, waits for a tracker,
or starts. -/
def State.cohArrive (s : State) (m : CohMsg) : State :=
  let f := s.homeForge (m.line * 64)
  let behind := !(tget [] s.coh.ingress f).isEmpty
  if !behind && s.lineBusy m.line then s.modCoh (fun c => { c with lineWait := c.lineWait ++ [m] })
  else if behind || !s.trackerFree f m then
    (s.modCoh (fun c => { c with ingress := tins c.ingress f (tget [] c.ingress f ++ [m]) })).countCoh m.line m.part 12 1
  else s.cohStart m

/-- A request of a forge whose read at home can begin, or has ended, and which has not gone on. -/
def State.readWaiter (s : State) (forge : Nat) : Option Nat :=
  (s.coh.trackers.find? (fun t => t.1 / 4096 == forge && t.2.reading && t.2.snoops.isEmpty && t.2.held.isEmpty &&
    (s.readReady t.2.msg.part (t.2.msg.line * 64) 64 ||
      (!s.tiers.fetches.any (·.isOf t.2.msg.part (t.2.msg.line * 64) 64) && s.rangeFree t.2.msg.part (t.2.msg.line * 64) 64)))).map (·.1)

/-- A request that waits for its directory way while no eviction runs for it. -/
def State.wayWaiter (s : State) (forge : Nat) : Option (Nat × Tracker2) :=
  s.coh.trackers.find? (fun t => t.1 / 4096 == forge && t.2.waiting && !s.coh.trackers.any (fun e => e.2.evict == some t.1) &&
    ((s.entrySlot t.2.msg.line).isSome || (s.dirVictim t.2.msg.line).2.isSome))

/-- HOME_REQUEST_DEQUEUE: a request of a forge that waits for its directory way or for the home's read goes on, else the oldest waiting
request that can start takes a tracker; one that leads the ingress while its line has a transaction goes on to wait for that (R296,
R301). -/
def execHomeRequestDequeue (forge : Nat) (s : State) : Out :=
  let ok (m : CohMsg) : Bool := s.homeForge (m.line * 64) == forge && (s.trackerOf m.line).isNone && s.trackerFree forge m
  done (match s.wayWaiter forge with
  | some (k, x) => s.cohWay k x
  | none => match s.readWaiter forge with
    | some k => s.settle k
    | none => match s.coh.lineWait.find? ok with
      | some m => (s.modCoh (fun c => { c with lineWait := c.lineWait.erase m })).cohStart m
      | none => match tget [] s.coh.ingress forge with
        | m :: r =>
          let s1 := s.modCoh (fun c => { c with ingress := tins c.ingress forge r })
          if s.lineBusy m.line then s1.modCoh (fun c => { c with lineWait := c.lineWait ++ [m] })
          else if ok m then s1.cohStart m
          else s
        | [] => s)

/-! ### Answers (R303–R307) -/

/-- The state that an ACK reports, as a number of Table — Coherent message payload; the answer's data is written at
home when it comes (R294). -/
def State.cohAck (s : State) (k mem state : Nat) (data : Option (List Byte × Bool)) : State :=
  match tfind s.coh.trackers k with
  | none => s
  | some t =>
    match t.snoops.find? (fun x => x.member == mem && x.snoop != .place) with
    | none => s
    | some x =>
      let s1 := match data with
        | some d => s.lineWrite t.msg.part t.msg.line d.1 d.2
        | none => s
      let s2 := if x.snoop = .fwd && state = 0 then s1.countCoh t.msg.line t.msg.part 6 1 else s1
      -- SNP_FWD: the holder sent the data itself unless it had dropped the line; the home then serves it and grants F
      (s2.modTracker k (fun y => { y with
        snoops := y.snoops.erase x, offered := y.offered || (x.snoop == .fwd && state != 0)
        missed := y.missed || (x.snoop == .fwd && state == 0) })).settle k

/-- The tracker that HOME_TRK of a message names. -/
def trkOf (pl : List Byte) : Nat := let v := le pl 4 2; bits v 12 3 * 4096 + v % 4096

/-- A snoop's expiry (R303, R304, R307). -/
def State.cohExpire (s : State) (k mem : Nat) : State :=
  match tfind s.coh.trackers k with
  | none => s
  | some t =>
    match t.snoops.find? (fun x => x.member == mem && x.left == 0) with
    | none => s
    | some x =>
      let s1 := s.modTracker k (fun y => { y with snoops := y.snoops.erase x })
      let s2 := match s.memberHead t.msg.part mem with
        | some h => s1.modHead h (fun y => { y with bisnp := y.bisnp.erase (t.msg.line, x.snoop) })
        | none => s1
      if x.snoop = .place then
        (((s2.freeEntry t.msg.line).memberSilent t.msg.part mem).countCoh t.msg.line t.msg.part 7 1).settle k
      else (s2.poisonLine k t.msg mem).settle k

/-- SNOOP_TIMEOUT: a snoop whose T boundaries have passed expires (R303). -/
def execSnoopTimeout (tracker member : Nat) (s : State) : Out := done (s.cohExpire tracker member)

/-- The grip time of an agent on a line ends: the grip is over and the snoops held for it are sent (R302). -/
def State.gripEnds (s : State) (line member : Nat) : State :=
  let s1 := s.modCoh (fun c => { c with grips := c.grips.filter (· != (line, member)) })
  match s.trackerOf line with
  | none => s1
  | some k => match tfind s1.coh.trackers k with
    | none => s1
    | some t =>
      let mine := t.held.filter (fun h => h.2 == member)
      (mine.foldl (fun a h => a.issueSnoop k t.msg h.1 h.2)
        (s1.modTracker k (fun y => { y with held := y.held.filter (fun h => h.2 != member) }))).settle k

/-- GRIP_TIME_EXPIRY: the agent's grip time ends and the snoops held for it are sent (R302). -/
def execGripTimeExpiry (line member : Nat) (s : State) : Out := done (s.gripEnds line member)

/-- A sweep takes a member out of every directory slice (R305): an EXCL entry is written as poison and freed, a pointer
of a SHARED entry is removed. -/
def State.sweepMember (s : State) (p mem : Nat) : State :=
  s.coh.dir.foldl (fun a x =>
    if x.2.part = p && x.2.pointers.contains mem then
      let l := s.lineOfEntry x.1 x.2
      if x.2.state = .excl then
        (((a.lineWrite p l (a.lineData p l).1 true).notePoison (l * 64)).modCoh (fun c => { c with dir := tdel c.dir x.1 })).countCoh l p 14 1
      else a.setEntry x.1 (x.2.remove mem)
    else a) s

/-- The members that a change of list sweeps (R305): one with CACHING that is removed, replaced or deprived of it, and an unresponsive one
that is removed or written again. -/
def sweptMembers (old new : List Member) : List Nat :=
  (List.range old.length).filter (fun i =>
    match old[i]?, new[i]? with
    | some o, some n => (o.caching && (o.ep != n.ep || !n.caching)) || (o.unresponsive && (o.ep != n.ep || !n.unresponsive))
    | some o, none => o.caching || o.unresponsive
    | none, _ => false)

/-- The requests of a range that the home holds: at its trackers, behind their lines, and behind the trackers. -/
def State.cohHeld (s : State) (lo hi : Nat) : List (Nat × CohMsg) :=
  let inside (m : CohMsg) : Bool := decide (lo ≤ m.line * 64) && decide (m.line * 64 < hi)
  let f (m : CohMsg) : Nat := 4096 * s.homeForge (m.line * 64)
  ((s.coh.trackers.filter (fun t => t.2.evict.isNone && inside t.2.msg)).map (fun t => (t.1, t.2.msg))) ++
    ((s.coh.lineWait ++ s.coh.ingress.flatMap (·.2)).filter inside).map (fun m => (f m, m))

/-- A request that a drain completes at once (R92): a read returns poisoned data, whose bytes are free values; a write is dropped. -/
def State.cohDrop (s : State) (k : Nat) (m : CohMsg) : State :=
  match m.req with
  | .wrBack => s.cohReply k m 0 stNoExtent none
  | .wrLine => s.cohReply k m 0 stNoExtent none
  | .wrPartial => s.cohReply k m 0 stNoExtent none
  | .wrPlace => s.cohReply k m 0 stNoExtent none
  | _ => (s.cohReply k m 0 stOk (some ((List.range 64).map (Config.freeByte s.free), true))).drawn

/-- Drops every directory entry and transaction of lines in a range, without snooping and without writeback; an answer that comes to
a snoop of one is late then (R93, R306). -/
def State.dropDirIn (s : State) (lo hi : Nat) : State :=
  (([0, 1].foldl (fun (a : State) h => a.modHead h (fun x => { x with
    bisnp := x.bisnp.filter (fun b => decide (b.1 * 64 < lo) || decide (hi ≤ b.1 * 64)) })) s)).modCoh (fun c =>
    let inside (l : Nat) : Bool := decide (lo ≤ l * 64) && decide (l * 64 < hi)
    { c with
      dir := c.dir.filter (fun x => !inside (s.lineOfEntry x.1 x.2))
      fresh := c.fresh.filter (fun l => !inside l)
      trackers := c.trackers.filter (fun t => !inside t.2.msg.line)
      stale := c.stale.filter (fun l => !inside l)
      lineWait := c.lineWait.filter (fun m => !inside m.line)
      ingress := tmap c.ingress (fun _ l => l.filter (fun m => !inside m.line)) })

/-- The boundary at the home trackers: every outstanding snoop is one boundary older (R303). What the home fetched for engines in the heat
before and they have not read is fetched again. -/
def State.cohTick (s : State) : State :=
  s.modCoh (fun c => { c with trackers := tmap c.trackers (fun _ t =>
    { t with snoops := t.snoops.map (fun x => { x with left := x.left - 1 }) }), fresh := [] })

end Sys2Proof.Machine
end

