-- ==== Sys2Proof/Machine/Access.lean ====
section
/-! DEFINITION. Accesses to pool memory from the fabric: MEM loads and stores (R54, R85, R324), the fills that answer
them, coherent requests and the answers to snoops (12_coherence.md). -/

namespace Sys2Proof.Machine

/-! ### MEM requests (R85, R324, R503) -/

/-- The status that a REQ-class MEM request meets before its data is touched, and its DPA: the rules of the train
itself, the twin member's BUSY, then checks 2–5 of R85. Check 1 is the caller's. -/
def State.memStatus (s : State) (t : Train) (write : Bool) : Nat × Nat :=
  let len := le t.head 4 4
  let psa := le t.head 8 6
  if !s.twin.state.serves then (stBusy, 0)
  else if t.dst ≠ s.endpoint 37 then (stInvalid, 0)
  else if len = 0 || 4064 < len || le t.head 14 2 ≠ 0 || psa % 2 ^ 28 + len > 2 ^ 28 then (stInvalid, 0)
  else s.lookup t.part psa write

/-- A MEM train of REQ class at this chip. -/
def State.isMemReq (s : State) (t : Train) : Bool := t.typ == 0x7 && t.cls == 1 && s.inChip t.dst

/-- A cell dropped under admission checks 1 and 2 (R85). -/
def State.partDrop (s : State) (port : Nat) (t : Train) : State :=
  (s.takeTrain port t).countPort port 40 t.cells.length

/-- The lines of a range of a SHARED_COHERENT extent that the home must serve as transactions (R289). -/
def State.cohLines (s : State) (d len : Nat) : List Nat :=
  if (s.extentAt d).any (fun n => (s.ext n).coh == 1) then sectorsOf d len else []

/-- A transaction of an ordinary fabric access (R289): RD_CUR of a line, or WR_LINE or WR_PARTIAL of a piece. -/
def State.memTransaction (s : State) (t : Train) (psa : Nat) (p : Nat × Nat × List Byte) (write poison : Bool) : CohMsg :=
  { req := if !write then .rdCur else if p.2.2.length = 64 then .wrLine else .wrPartial
    src := t.src, member := (s.memberIndex t.part t.src).getD 0xFFFE, part := t.part, tag := t.tag
    psa := psa / 2 ^ 28 * 2 ^ 28 + p.1 * 64 % 2 ^ 28, line := p.1, data := zeros p.2.1 ++ p.2.2, poison := poison
    mask := maskOf ((List.range p.2.2.length).map (p.2.1 + ·)), peer := 0, port := 0xFFFF, waiter := s.tiers.nextWaiter - 1 }

/-- Registers an access under the next number. -/
def State.register (s : State) (w : Waiter) : State :=
  { s with tiers := { s.tiers with waiters := s.tiers.waiters ++ [{ w with id := s.tiers.nextWaiter }], nextWaiter := s.tiers.nextWaiter + 1 } }

/-- Registers an access that waits for sectors; it is answered at once when it waits for none. -/
def State.await (s : State) (w : Waiter) : State := (s.register w).answerReady

/-- An access that waits, by its train, for `need` sectors and the transactions of `trans` lines. -/
def waiterOf (t : Train) (port d len : Nat) (need trans : List Nat) : Waiter :=
  { head := t, port := port, origin := 0, dpa := d, len := len, id := 0, need := need, trans := trans }

/-- An admitted load (R54, R289). -/
def State.memLoad (s : State) (t : Train) (port d : Nat) : State :=
  let len := le t.head 4 4
  let psa := le t.head 8 6
  match s.cohLines d len with
  | [] =>
    let r := s.readRange t.part 1 d len
    r.1.await (waiterOf t port d len r.2 [])
  | ls =>
    let s1 := s.register (waiterOf t port d len [] ls)
    ls.foldl (fun a l => a.cohArrive (s1.memTransaction t psa (l, 0, []) false false)) s1

/-- An admitted store (R54, R289, R505): its completion waits for the transactions of its lines, or for the twin. -/
def State.memStore (s : State) (t : Train) (port d : Nat) : State :=
  let len := le t.head 4 4
  let psa := le t.head 8 6
  let data := t.data.take len
  let poison := bit (le t.head 1 1) 0
  match s.cohLines d len with
  | [] =>
    let ans := memAnswer t.cell0 0x82 0 stOk len []
    let r := (s.writeRange t.part 1 d data poison).mirror d data poison (some ans)
    if r.2 then r.1 else r.1.send ans
  | ls =>
    let s1 := s.register (waiterOf t port d len [] ls)
    (sectorPieces d data).foldl (fun a p => a.cohArrive (s1.memTransaction t psa p true poison)) s1

/-! ### Admitted writes that wait (R86, R101) -/

/-- A write that has passed its admission waits at the home. -/
def State.hold (s : State) (w : HeldWrite) : State := s.modCoh (fun c => { c with heldWrites := c.heldWrites ++ [w] })

/-- The partition of a held write. -/
def HeldWrite.part (s : State) : HeldWrite → Nat
  | .store _ t _ => t.part
  | .coherent m => m.part
  | .host _ d _ _ => s.partAt d

/-- A held write goes on. -/
def State.makeHeld (s : State) : HeldWrite → State
  | .store port t d => s.memStore t port d
  | .coherent m => s.cohArrive m
  | .host _ d m data => (maskRuns m).foldl (fun b q => b.writeRange (s.partAt d) 1 (d + q.1) ((data.drop q.1).take q.2) false) s

/-- The admitted writes that have nothing to wait for any more go on, in order of arrival. -/
def State.releaseHeld (s : State) : State :=
  s.coh.heldWrites.foldl (fun a w => if a.writeWaits (w.part a) w.range.1 w.range.2 then a.hold w else a.makeHeld w)
    (s.modCoh (fun c => { c with heldWrites := [] }))

/-- MEM_RD: a REQ-class MEM train that is no store: a load, or a reserved OP (R85, R324). One for whose lines no way is free stays at
its port (R56), and so does one behind a request that waits at the ingress of its home forge (R296). -/
def execMemRd (port : Nat) (t : Train) (s : State) : Out :=
  let op := le t.head 0 1
  done (if !s.isMemReq t || op = 0x02 then s
  else if !s.admits port t.part then s.partDrop port t
  else if op ≠ 0x01 then (s.takeTrain port t).send (memAnswer t.cell0 0x82 0 stInvalid 0 [])
  else
    let st := s.memStatus t false
    let s1 := s.takeTrain port t
    if st.1 ≠ stOk then s1.send (memAnswer t.cell0 0x81 0 st.1 0 [])
    else if !s.rangeFree t.part st.2 (le t.head 4 4) || s.homeBlocked st.2 (le t.head 4 4) then s
    else s1.memLoad t port st.2)

/-- MEM_WR: a REQ-class store (R85, R324). One that a capture, an epoch, a restore or the forge cache makes wait does so at its home,
admitted, and the copy it waits for comes next (R56, R86, R101, R507, R509). -/
def execMemWr (port : Nat) (t : Train) (s : State) : Out :=
  done (if !s.isMemReq t || le t.head 0 1 ≠ 0x02 || (t.part = 0 && (s.egress port).twin) then s
  else if !s.admits port t.part then s.partDrop port t
  else
    let st := s.memStatus t true
    if st.1 ≠ stOk then (s.takeTrain port t).send (memAnswer t.cell0 0x82 0 st.1 0 [])
    else if s.homeBlocked st.2 (le t.head 4 4) then s
    else if s.writeWaits t.part st.2 (le t.head 4 4) then ((s.takeTrain port t).hold (.store port t st.2)).hasten st.2 (le t.head 4 4)
    else (s.takeTrain port t).memStore t port st.2)

/-! ### Fills (R54, R57) -/

/-- An engine's read no longer waits for a sector. -/
def State.wakeFetches (s : State) (part sec : Nat) : State :=
  { s with tiers := { s.tiers with fetches := s.tiers.fetches.map (fun f =>
      if f.part = part then { f with need := f.need.filter (· != sec) } else f) } }

/-- The requests of a line whose read at home has ended go on (R294). -/
def State.wakeHome (s : State) (sec : Nat) : State :=
  match s.trackerOf sec with
  | some k => if (tfind s.coh.trackers k).any (·.reading) then s.settle k else s
  | none => s

/-- A returned sector fills the line it was read for, where that is still there, pending partial writes merge, and what waited for it
goes on (R54, R57). -/
def State.sectorFills (s : State) (forge sector : Nat) (r : Returned) : State :=
  let s1 := s.modForge forge (fun g => { g with returned := g.returned.erase r })
  let s2 := match s1.lineWay (sector / 4), s1.line (sector / 4) with
    | some i, some l => if l.part = r.part then s1.setLine (sector / 4) i (l.fill (sector % 4) r.data r.poison) else s1
    | _, _ => s1
  ((((s2.wakeSector sector).wakeFetches r.part sector).answerReady).wakeHome sector).releaseHeld

/-- FORGE_CACHE_FILL: a returned sector enters the forge cache, pending partial writes merge, and the reads that wait
for it go on (R54, R57). -/
def execForgeCacheFill (forge sector : Nat) (s : State) : Out :=
  done (match (s.forge forge).returned.find? (fun r => r.sector == sector) with
  | none => s
  | some r => s.sectorFills forge sector r)

/-! ### Coherent requests (R289–R296) -/

/-- A completion of a coherent request without data. -/
def State.cohRefuse (s : State) (t : Train) (status : Nat) : State :=
  s.send (cohTrain 3 t.src t.dst t.part t.tag 0x22 0 0 status 0 (le t.head 8 6) 0 [])

/-- The opcode of a coherent request. -/
def CohReq.cop : CohReq → Nat
  | .rdShared => 0x01 | .rdOwn => 0x02 | .upgrade => 0x03 | .rdCur => 0x04
  | .wrBack => 0x05 | .wrLine => 0x06 | .wrPartial => 0x07 | .wrPlace => 0x08

/-- The request asks for a copy to cache. -/
def CohReq.caches : CohReq → Bool | .rdShared => true | .rdOwn => true | .upgrade => true | _ => false

/-- A coherent train carries a line: FLAGS[1] is set and its two data cells are there (R293). -/
def Train.hasData (t : Train) : Bool := bit (le t.head 1 1) 1 && decide (3 ≤ t.cells.length)

/-- The status that a coherent request meets at the port complex and the home, and its DPA. -/
def State.cohStatus (s : State) (t : Train) (req : CohReq) : Nat × Nat :=
  let psa := le t.head 8 6 / 64 * 64
  if !s.twin.state.serves then (stBusy, 0)
  else if t.dst ≠ s.endpoint 37 || (req.writes && !t.hasData) then (stInvalid, 0)
  else
    let st := s.lookup t.part psa req.writes
    if st.1 ≠ stOk then st
    else if !(s.extentAt st.2).any (fun n => (s.ext n).coh == 1) then (stInvalid, 0)
    else if req.caches && !((s.memberIndex t.part t.src).bind (s.member t.part)).any (·.caching) then (stDenied, 0)
    else st

/-- The request of a coherent train for the line at `d`. -/
def State.cohMsgOf (s : State) (port : Nat) (t : Train) (req : CohReq) (d : Nat) : CohMsg :=
  { req := req, src := t.src, member := (s.memberIndex t.part t.src).getD 0xFFFE, part := t.part, tag := t.tag
    psa := le t.head 8 6 / 64 * 64, line := d / 64, data := t.data.take 64, poison := bit (le t.head 1 1) 0
    mask := le t.head 18 8, peer := le t.head 16 2, port := port, waiter := 0 }

/-- A writeback of a line whose extent has been released is discarded, and counted beside the answers discarded (R93). -/
def State.backLate (s : State) (t : Train) : State :=
  let psa := le t.head 8 6
  let f := match s.directory t.part (psa / 2 ^ 28) with
    | some n => s.homeForge ((s.ext n).dpaBlk * 2 ^ 28 + psa % 2 ^ 28)
    | none => bits (le t.head 4 2) 12 3
  if (s.part t.part).confidential then s
  else s.modCoh (fun c => { c with counters := tcount 32 c.counters (16 * f + 8) 1 })

/-- A coherent request arrives: admission, the checks of R289 and R290, then the home (R296). A write that has to wait does so there,
admitted (R86, R101). -/
def State.cohRequest (s : State) (port : Nat) (t : Train) (req : CohReq) : State :=
  if !(t.typ == 0x8 && t.cls == 1 && le t.head 0 1 == req.cop && s.inChip t.dst) then s
  else if !s.admits port t.part then s.partDrop port t
  else
    let st := s.cohStatus t req
    if st.1 ≠ stOk then
      let s1 := (s.takeTrain port t).cohRefuse t st.1
      if req = .wrBack && st.1 = stNoExtent then s1.backLate t else s1
    else if req.writes && s.writeWaits t.part st.2 64 then
      ((s.takeTrain port t).hold (.coherent (s.cohMsgOf port t req st.2))).hasten st.2 64
    else if !s.rangeFree t.part st.2 64 then s
    else (s.takeTrain port t).cohArrive (s.cohMsgOf port t req st.2)

def execRdShared (port : Nat) (t : Train) (s : State) : Out := done (s.cohRequest port t .rdShared)
def execRdOwn (port : Nat) (t : Train) (s : State) : Out := done (s.cohRequest port t .rdOwn)
def execUpgrade (port : Nat) (t : Train) (s : State) : Out := done (s.cohRequest port t .upgrade)
def execRdCur (port : Nat) (t : Train) (s : State) : Out := done (s.cohRequest port t .rdCur)
def execWrBack (port : Nat) (t : Train) (s : State) : Out := done (s.cohRequest port t .wrBack)
def execWrLine (port : Nat) (t : Train) (s : State) : Out := done (s.cohRequest port t .wrLine)
def execWrPartial (port : Nat) (t : Train) (s : State) : Out := done (s.cohRequest port t .wrPartial)
def execWrPlace (port : Nat) (t : Train) (s : State) : Out := done (s.cohRequest port t .wrPlace)

/-! ### Answers to snoops (R303–R307) -/

/-- An RSP-class coherent train with opcode `cop` addressed to this chip's memory. -/
def State.isCohRsp (s : State) (t : Train) (cop : Nat) : Bool :=
  t.typ == 0x8 && t.cls == 3 && le t.head 0 1 == cop && s.inChip t.dst

/-- The outstanding snoop that an answer of `t` is for: the tracker, of the line that the answer names, and the member that sent it. -/
def State.answeredSnoop (s : State) (t : Train) (place : Bool) : Option (Nat × Nat) :=
  let k := trkOf t.head
  match tfind s.coh.trackers k, s.memberIndex t.part t.src with
  | some x, some mem =>
    if x.msg.part = t.part && x.msg.psa / 64 = le t.head 8 6 / 64 && x.snoops.any (fun y => y.member == mem && (y.snoop == .place) == place) then some (k, mem) else none
  | _, _ => none

/-- What reaches the home too late for its line is counted in SNP_LATE of the line's forge (R93, R306). -/
def State.lateLine (s : State) (l : Nat) : State := s.countCoh l (s.partAt (64 * l)) 8 1

/-- An answer whose transaction has ended, by a release or a quench among others, is discarded and counted in SNP_LATE (R306). -/
def State.snpLate (s : State) (t : Train) : State :=
  if (s.part t.part).confidential then s
  else s.modCoh (fun c => { c with counters := tcount 32 c.counters (16 * bits (le t.head 4 2) 12 3 + 8) 1 })

/-- A request writes bytes of its line: an eviction and an engine's invalidation, which have the form of a write of no byte, do not. -/
def CohMsg.stores (m : CohMsg) : Bool := m.req.writes && !(m.member == 0xFFFF && m.mask == 0 && m.data.isEmpty)

/-- A write of a line that was admitted before its segment came under capture is still open at the home: the copy waits for it (R101). -/
def State.lineWriting (s : State) (l : Nat) : Bool :=
  (s.cohHeld (64 * l) (64 * l + 64)).any (fun x => x.2.stores)

/-- The dirty data of a snoop's answer has to wait: its segment is to be captured, and a capture does not take what agents held
modified at the seal boundary (R100, R101). It does not wait where an open write of its line needs it, which the copy waits for. -/
def State.dirtyWaits (s : State) (l : Nat) : Bool := s.copyComesFirst (64 * l) 64 && !s.lineWriting l

/-- The answer to a snoop of a transaction has to wait with its data. -/
def State.ackWaits (s : State) (k : Nat) : Bool := (tfind s.coh.trackers k).any (fun x => s.dirtyWaits x.msg.line)

/-- The answer of a member has reached its tracker: its snoop expires no more (R303). -/
def State.ackReached (s : State) (k mem : Nat) : State :=
  s.modTracker k (fun x => { x with snoops := x.snoops.map (fun y => if y.member = mem then { y with left := 65535 } else y) })

/-- ACK: the answer to a snoop, with the line's data where it has some (R294, R306). One whose data has to wait has reached the home and
stays at its port. -/
def execAck (port : Nat) (t : Train) (s : State) : Out :=
  done (if !s.isCohRsp t 0x23 then s
  else if !s.admits port t.part then s.partDrop port t
  else
    let s1 := s.takeTrain port t
    match s.answeredSnoop t false with
    | some (k, mem) =>
      if t.hasData && s.ackWaits k then (s.hasten (((tfind s.coh.trackers k).map (·.msg.line)).getD 0 * 64) 64).ackReached k mem
      else s1.cohAck k mem (le t.head 2 1) (if t.hasData then some (t.data.take 64, bit (le t.head 1 1) 0) else none)
    | none => s1.snpLate t)

/-- The end of an offer (R307): taken, the target holds the line EXCL; declined, no agent holds it. -/
def State.placeEnd (s : State) (port : Nat) (t : Train) (take : Bool) : State :=
  if !s.admits port t.part then s.partDrop port t
  else
    let s1 := s.takeTrain port t
    match s1.answeredSnoop t true with
    | none => s1.snpLate t
    | some (k, mem) =>
      match tfind s1.coh.trackers k with
      | none => s1
      | some x =>
        let s2 := s1.modTracker k (fun y => { y with snoops := y.snoops.filter (fun z => !(z.member == mem && z.snoop == .place)) })
        let s3 := s2.countCoh x.msg.line t.part (if take then 9 else 10) 1
        if !take then (s3.freeEntry x.msg.line).settle k
        else if (s3.entrySlot x.msg.line).isSome then (s3.putEntry x.msg (fun e => e.excl mem)).settle k
        else
          let y : Tracker2 := { x with snoops := [], taken := some mem }
          (s3.setTracker k y).cohWay k y

def execPlaceTake (port : Nat) (t : Train) (s : State) : Out :=
  done (if s.isCohRsp t 0x25 then s.placeEnd port t true else s)

def execPlaceDecline (port : Nat) (t : Train) (s : State) : Out :=
  done (if s.isCohRsp t 0x26 then s.placeEnd port t false else s)

end Sys2Proof.Machine
end

