-- ==== Sys2Proof/Machine/Crypto.lean ====
section
/-! DEFINITION. The concrete algorithms the spec names: Philox4x32-10 (R153), CRC-16 (R322), SHA-256 and HMAC and
HKDF over it (R95, R459, R466). -/

namespace Sys2Proof.Machine

/-! ### Philox4x32-10 (R153) -/

/-- One Philox round over the four counter words with a key pair. -/
def philoxRound (k0 k1 : Nat) (c : Nat × Nat × Nat × Nat) : Nat × Nat × Nat × Nat :=
  let p0 := 0xD2511F53 * c.1
  let p1 := 0xCD9E8D57 * c.2.2.1
  ((p1 / 2 ^ 32) ^^^ c.2.1 ^^^ k0, p1 % 2 ^ 32, (p0 / 2 ^ 32) ^^^ c.2.2.2 ^^^ k1, p0 % 2 ^ 32)

/-- `n` rounds, the key words stepped between them. -/
def philoxRounds : Nat → Nat → Nat → Nat × Nat × Nat × Nat → Nat × Nat × Nat × Nat
  | 0, _, _, c => c
  | n + 1, k0, k1, c =>
    philoxRounds n ((k0 + 0x9E3779B9) % 2 ^ 32) ((k1 + 0xBB67AE85) % 2 ^ 32) (philoxRound k0 k1 c)

/-- The 128 bits of one counter value, output word i in bits [32i + 31 : 32i]. -/
def philox (key c0 c1 c2 c3 : Nat) : Nat :=
  let o := philoxRounds 10 (key % 2 ^ 32) (key / 2 ^ 32 % 2 ^ 32) (c0 % 2 ^ 32, c1 % 2 ^ 32, c2 % 2 ^ 32, c3 % 2 ^ 32)
  o.1 + 2 ^ 32 * o.2.1 + 2 ^ 64 * o.2.2.1 + 2 ^ 96 * o.2.2.2

/-- The 12 random bits of element `i` of a stream: c0 holds i div 10 and the element takes bits [12m + 11 : 12m] of
m = i mod 10. -/
def randomBits (key c1 c2 c3 i : Nat) : Nat := bits (philox key (i / 10) c1 c2 c3) (12 * (i % 10)) 12

/-! ### CRC-16, polynomial 0x1021, most significant bit first -/

def crc16Bits : Nat → Nat → Nat
  | 0, c => c
  | k + 1, c => crc16Bits k (if c ≥ 0x8000 then (2 * c % 2 ^ 16) ^^^ 0x1021 else 2 * c)

/-- The CRC-16 of a byte list from a start value. -/
def crc16 (start : Nat) (l : List Byte) : Nat := l.foldl (fun c b => crc16Bits 8 (c ^^^ (b.toNat * 256))) start

/-! ### SHA-256 -/

def rotr32 (x n : Nat) : Nat := (x / 2 ^ n + x * 2 ^ (32 - n)) % 2 ^ 32

/-- The largest number below `r + 2 ^ n` whose power `k` does not exceed `v`, found bit by bit from `r` on. -/
def rootFrom (k v : Nat) : Nat → Nat → Nat
  | 0, r => r
  | n + 1, r => rootFrom k v n (if (r + 2 ^ n) ^ k ≤ v then r + 2 ^ n else r)

/-- The first 32 bits of the fraction of the root of degree `k` of `p`, for a root below 8. -/
def rootFraction (k p : Nat) : Nat := rootFrom k (p * 2 ^ (32 * k)) 35 0 % 2 ^ 32

/-- The primes below 312, of which there are 64. -/
def firstPrimes : List Nat := (List.range 312).filter (fun n => decide (2 ≤ n) && [2, 3, 5, 7, 11, 13, 17].all (fun d => n == d || n % d != 0))

/-- The constants of the 64 rounds: from the cube roots of the first 64 primes. -/
def shaConstants : List Nat := firstPrimes.map (rootFraction 3)

/-- A working state of eight words. -/
abbrev Sha8 := List Nat

/-- The state before the first block: from the square roots of the first 8 primes. -/
def shaInit : Sha8 := (firstPrimes.take 8).map (rootFraction 2)

def w8 (h : Sha8) (i : Nat) : Nat := (h[i]?).getD 0

/-- One round with the sum of the round constant and the message word. -/
def shaRound (h : Sha8) (kw : Nat) : Sha8 :=
  let e := w8 h 4
  let a := w8 h 0
  let t1 := w8 h 7 + (rotr32 e 6 ^^^ rotr32 e 11 ^^^ rotr32 e 25) + ((e &&& w8 h 5) ^^^ ((2 ^ 32 - 1 - e) &&& w8 h 6)) + kw
  let t2 := (rotr32 a 2 ^^^ rotr32 a 13 ^^^ rotr32 a 22) + ((a &&& w8 h 1) ^^^ (a &&& w8 h 2) ^^^ (w8 h 1 &&& w8 h 2))
  [(t1 + t2) % 2 ^ 32, a, w8 h 1, w8 h 2, (w8 h 3 + t1) % 2 ^ 32, e, w8 h 5, w8 h 6]

/-- Runs the rounds over the round constants left, with the window of the last sixteen message words. -/
def shaRounds : List Nat → List Nat → Sha8 → Sha8
  | [], _, h => h
  | k :: ks, w, h =>
    let x := w8 w 0
    let a := w8 w 1
    let b := w8 w 14
    let n := (x + (rotr32 a 7 ^^^ rotr32 a 18 ^^^ (a / 2 ^ 3)) + w8 w 9 + (rotr32 b 17 ^^^ rotr32 b 19 ^^^ (b / 2 ^ 10))) % 2 ^ 32
    shaRounds ks (w.drop 1 ++ [n]) (shaRound h (k + x))

/-- The big-endian number of a byte list. -/
def beVal (l : List Byte) : Nat := l.foldl (fun v b => 256 * v + b.toNat) 0

/-- `n` bytes of a number, big-endian. -/
def beBytes (n v : Nat) : List Byte := (leBytes n v).reverse

def shaBlock (h : Sha8) (blk : List Byte) : Sha8 :=
  let r := shaRounds shaConstants ((chunksN 4 16 blk).map beVal) h
  List.zipWith (fun a b => (a + b) % 2 ^ 32) h r

/-- SHA-256 of a byte list: 32 bytes. -/
def sha256 (m : List Byte) : List Byte :=
  let z := (119 - m.length % 64) % 64
  let p := m ++ [0x80] ++ zeros z ++ beBytes 8 (8 * m.length)
  ((chunksN 64 (p.length / 64) p).foldl shaBlock shaInit).flatMap (beBytes 4)

/-- HMAC-SHA-256. -/
def hmac (key msg : List Byte) : List Byte :=
  let k := fit 64 (if key.length > 64 then sha256 key else key)
  sha256 (k.map (· ^^^ 0x5C) ++ sha256 (k.map (· ^^^ 0x36) ++ msg))

/-- HKDF-SHA-256, extract step. -/
def hkdfExtract (salt ikm : List Byte) : List Byte := hmac salt ikm

/-- HKDF-SHA-256, expand step: `n` blocks from block `i`. -/
def hkdfBlocks : Nat → Nat → List Byte → List Byte → List Byte → List Byte
  | 0, _, _, _, _ => []
  | n + 1, i, prk, info, last =>
    let t := hmac prk (last ++ info ++ [BitVec.ofNat 8 i])
    t ++ hkdfBlocks n (i + 1) prk info t

/-- `len` bytes of HKDF output. -/
def hkdfExpand (prk info : List Byte) (len : Nat) : List Byte := (hkdfBlocks (len / 32 + 1) 1 prk info []).take len

/-! ### Keys and signatures, in the lengths that R458 and R466 give -/

/-- The 48 seed bytes of the identity key pair: HMAC-SHA-256 under the secret (R458). -/
def identitySeed (secret : List Byte) : List Byte := ((List.range 2).flatMap (fun i => hmac secret (Config.seedMessage i))).take 48

/-- The identity public key of a secret, 32 bytes. -/
def identityKey (secret : List Byte) : List Byte := fit 32 (Config.slhPublic (identitySeed secret))

/-- A signature by the identity key pair of a secret, 17,088 bytes. -/
def identitySign (secret msg : List Byte) : List Byte := fit 17088 (Config.slhSign (identitySeed secret) msg)

/-- The ML-KEM-768 encapsulation key of a seed, 1,184 bytes. -/
def kemKey (seed : List Byte) : List Byte := fit 1184 (Config.kemPublic seed)

/-- The ciphertext to an encapsulation key, 1,088 bytes, and the shared secret, 32 bytes. -/
def kemSeal (ek r : List Byte) : List Byte × List Byte := (fit 1088 (Config.kemEncaps ek r).1, fit 32 (Config.kemEncaps ek r).2)

/-- The shared secret that a seed recovers from a ciphertext. -/
def kemOpen (seed ct : List Byte) : List Byte := fit 32 (Config.kemDecaps seed (fit 1088 ct))

/-- The ASCII bytes of a label. -/
def ascii (s : String) : List Byte := s.toList.map (fun c => BitVec.ofNat 8 c.toNat)

end Sys2Proof.Machine
end

