-- ==== Sys2Proof/Machine/Parts.lean ====
section
/-! DEFINITION. Partitions, extents and seals as they change outside a command's boundary (04_partitions_extents.md):
fill and scrub units, drains, the quench's fence and zeroing, TOMBSTONE, seal capture and the coherence sweep. -/

namespace Sys2Proof.Machine

/-! ### Without a Hearth core (R400) -/

/-- No Hearth core is active and none takes over: Hearth is lost, or an active core has failed and the other is not STANDBY.
Until a warm reset no later step of an accepted command runs and no table changes, but by what is staged (R400). -/
def State.frozen (s : State) : Bool :=
  s.hearth.lost || (s.hearth.switching && !s.hearth.planned && (if s.hearth.active = 0 then s.hearth.core1 else s.hearth.core0) != .standby)

/-- Member-list changes whose sweep is done: they take effect at the next boundary (R305, R400). -/
def State.sweptLists (s : State) : List (Nat × Nat × List Member × Bool) :=
  if s.frozen then [] else s.coh.sweeps.filter (fun x => x.2.2.2)

/-! ### Fill and scrub units (R90, R94) -/

/-- Forgets the segment tag of a bulk segment of an extent without writeback; its frame is scrubbed with the extent (R67, R94). A
placement unit that runs for it goes on to its end (R35), and then finds the tag INVALID. -/
def State.dropTag (s : State) (n seg : Nat) : State :=
  match s.tagOf seg with
  | none => s
  | some i => (s.forgetTag seg).modExt n (fun e => { e with frames := e.frames ++ [i] })

/-- The segment tags of an extent become INVALID (R94). -/
def State.dropTags (s : State) (n : Nat) : State :=
  if (s.ext n).place = 1 then (List.range 4096).foldl (fun a k => a.dropTag n (segOf ((s.ext n).dpaBlk * 2 ^ 28 + 65536 * k))) s else s

/-- What the next unit of an extent's fill or scrub in forge `f` writes. -/
def State.scrubNext (s : State) (f n : Nat) : List (Nat × Nat) :=
  (s.unitGranules n f (tget 0 (s.ext n).unitsDone f)).map (fun a => (a, 4096))

/-- The next unit of an extent's fill or scrub has its turn at the controllers (R111, R123). -/
def State.scrubGoes (s : State) (f n : Nat) : Bool :=
  s.unitGoes f 0 (s.unitsHit (s.scrubNext f n)) && !s.movesWait (s.scrubNext f n)

/-- One unit of an extent's fill or scrub completes in forge `f`: zeros under the partition's key, or under the scrub key (R90, R477);
after the last the extent changes at the next boundary. -/
def State.scrubUnit (s : State) (f n : Nat) : State :=
  let slot := if (s.ext n).state = .filling then (s.ext n).part else 64
  let s1 := s.modBackground f (fun g => { g with scrub := g.scrub.erase n })
  let s2 := (s.scrubNext f n).foldl (fun x a => x.clearMem (s.ext n).part slot a.1 a.2) s1
  s2.modExt n (fun e =>
    let done := tins e.unitsDone f (tget 0 e.unitsDone f + 1)
    { e with unitsDone := done, endNext := (List.range 8).all (fun g => decide (s.unitsIn n g ≤ tget 0 done g)) })

/-- EXTENT_FILL_UNIT_COMPLETE: a zero-fill unit of a FILLING extent (R90). -/
def execExtentFillUnitComplete (forge ext : Nat) (s : State) : Out :=
  done (if (s.background forge).scrub.contains ext && (s.ext ext).state == .filling && s.scrubGoes forge ext then s.scrubUnit forge ext else s)

/-- QUENCH_SCRUB_UNIT_COMPLETE: a scrub unit of a SCRUBBING extent (R94, R97). -/
def execQuenchScrubUnitComplete (forge ext : Nat) (s : State) : Out :=
  done (if (s.background forge).scrub.contains ext && (s.ext ext).state == .scrubbing && s.scrubGoes forge ext then s.scrubUnit forge ext else s)

/-! ### Drains (R92–R94) -/

/-- A completion that has not gone out, with another status and no bytes. -/
def Train.refused (t : Train) (status : Nat) : Train :=
  { t with cells := fit 32 (t.head.take 3 ++ [BitVec.ofNat 8 status, 0, 0, 0, 0] ++ t.head.drop 8) :: t.cells.drop 1 }

/-- Stores of a range that await the partner's WR_CMP complete at once, refused; how many (R92, R505). -/
def State.drainMirrored (s : State) (lo hi : Nat) : State × Nat :=
  let here (m : Mirrored) : Bool := decide (lo ≤ m.dpa) && decide (m.dpa < hi) && m.answer.isSome
  let ms := s.twin.mirrored.filter here
  (ms.foldl (fun a m => match m.answer with | some t => a.send (t.refused stNoExtent) | none => a)
    { s with twin := { s.twin with mirrored := s.twin.mirrored.map (fun m => if here m then { m with answer := none } else m) } }, ms.length)

/-- Admitted writes of a range that still wait complete at once, dropped; how many (R86, R92). -/
def State.drainHeld (s : State) (lo hi : Nat) : State × Nat :=
  let here (w : HeldWrite) : Bool := decide (lo ≤ w.range.1) && decide (w.range.1 < hi)
  let ws := s.coh.heldWrites.filter here
  (ws.foldl (fun a w => match w with
      | .store _ t _ => a.send (memAnswer t.cell0 0x82 0 stNoExtent 0 [])
      | .coherent m => a.cohDrop (4096 * a.homeForge (m.line * 64)) m
      | .host .. => a)
    (s.modCoh (fun c => { c with heldWrites := c.heldWrites.filter (fun w => !here w) })), ws.length)

/-- The accesses still waiting in a range of memory complete at once: a read returns poisoned data, a write is dropped
(R92). The bytes under the poison mark are free values. The numbers of reads and of writes. -/
def State.drainRange (s : State) (lo hi : Nat) : State × Nat × Nat :=
  let here (w : Waiter) : Bool := decide (lo ≤ w.dpa) && decide (w.dpa < hi)
  let isWr (w : Waiter) : Bool := w.origin == 0 && le w.head.head 0 1 == 0x02
  let ws := s.tiers.waiters.filter here
  let s1 : State := { s with tiers := { s.tiers with
    waiters := s.tiers.waiters.filter (fun w => !here w)
    fetches := s.tiers.fetches.filter (fun f => decide (f.dpa < lo) || decide (hi ≤ f.dpa)) } }
  let s2 := ws.foldl (fun a w =>
    if isWr w then a.send (memAnswer w.head.cell0 0x82 0 stNoExtent 0 [])
    else
      let data := (List.range w.len).map (Config.freeByte a.free)
      (if w.origin = 0 then a.send (memAnswer w.head.cell0 0x81 1 stOk w.len data)
       else a.headData (w.origin - 1) w.dpa (data, true)).drawn) s1
  let h := s2.drainHeld lo hi
  let m := h.1.drainMirrored lo hi
  (m.1, (ws.filter (fun w => !isWr w)).length, (ws.filter isWr).length + h.2 + m.2)

/-- What the drain of an extent finds still open ends at once, and is counted: accesses, requests at the home, and then the home's
lines without snoop or writeback (R92, R93). -/
def State.drainExtent (s : State) (n : Nat) : State :=
  let e := s.ext n
  let lo := e.dpaBlk * 2 ^ 28
  let r := s.drainRange lo (lo + 2 ^ 28)
  let held := (r.1.cohHeld lo (lo + 2 ^ 28)).filter (fun x => x.2.port != 0xFFFF)
  let wr := (held.filter (fun x => x.2.req.writes)).length
  let s1 : State := { r.1 with parts := { r.1.parts with drained := tins r.1.parts.drained n (r.2.1 + (held.length - wr), r.2.2 + wr) } }
  (held.foldl (fun a x => a.cohDrop x.1 x.2) s1).dropDirIn lo (lo + 2 ^ 28)

/-- The drain of an extent ends (R92–R95): its accesses complete, its coherent lines are dropped, its tags become
INVALID, and it enters SCRUBBING; a seal block that is only unmapped loses its mapping (R104). -/
def State.endDrain (s : State) (n : Nat) : State :=
  let e := s.ext n
  let s2 := s.drainExtent n
  if e.unmapOnly then
    let p := s2.part e.part
    ({ s2 with parts := { s2.parts with dir := tdel s2.parts.dir (p.dirOff + (e.psaBlk - p.psaBase)) } }).modExt n (fun x =>
      { x with state := .active, mapped := false, unmapOnly := false, drain := none })
  else
    let s3 := if e.capture then s2 else s2.dropTags n
    s3.modExt n (fun x => { x with
      state := if (s3.part x.part).state = .quenching then .releasing else .scrubbing, drain := none, unitsDone := [], endNext := false })

/-- RELEASE_DRAIN_END: the drain ends within its last heat, ahead of the boundary 4 heats from the release point, which ends
it at the latest (R92). -/
def execReleaseDrainEnd (ext : Nat) (s : State) : Out :=
  done (if (s.ext ext).state == .releasing && (s.ext ext).drain.any (fun d => decide (3 ≤ d)) && !s.frozen then s.endDrain ext else s)

/-! ### Quench (R96) and TOMBSTONE (R80) -/

/-- The wait for the fence ends: the partition's bits in every port's admission and transit mask are cleared (R96 step 5,
R353). -/
def State.fenceDone (s : State) (p : Nat) : State :=
  (List.range 24).foldl (fun a i => a.modEgress i (fun e => { e with transitMask := setBit e.transitMask p false }))
    (s.modPart p (fun x => { x with fenceComplete := true })).remask

/-- The member is a CXL head of this chip, which receives no FENCE. -/
def State.isHeadEndpoint (s : State) (ep : Nat) : Bool := ep == s.endpoint 40 || ep == s.endpoint 41

/-- Members of a quenching partition that have not answered. -/
def State.silentMembers (s : State) (p : Nat) : List Nat :=
  let x := s.part p
  let acked := (x.quench.map (·.acked)).getD []
  (List.range x.members.length).filter (fun i => !acked.contains i && !((x.members[i]?).any (fun m => s.isHeadEndpoint m.ep)))

/-- FENCE_ACK: a member answers; the wait ends with the last answer (R96 step 5). -/
def execFenceAck (port : Nat) (cell : Cell) (s : State) : Out :=
  let p := le cell.payload 1 1
  let s1 := s.takeCells port 0 [cell]
  done (if cell.typ != 0x6 || le cell.payload 0 1 != 0x21 then s
  else match (s.part p).quench, s.memberIndex p cell.src with
    | some q, some i =>
      if (s.part p).fenceComplete then s1
      else
        let s2 := s1.modPart p (fun x => { x with quench := some { q with acked := addSorted i q.acked } })
        if (s2.silentMembers p).isEmpty && !s.frozen then s2.fenceDone p else s2
    | _, _ => s1)

/-- FENCE_WAIT_EXPIRY: at Bq + 64 the silent members are fenced by route removal, each named by a device event (R96
step 5). -/
def execFenceWaitExpiry (p : Nat) (s : State) : Out :=
  done (match (s.part p).quench with
  | some q =>
    if decide (q.age < 64) || (s.part p).fenceComplete || s.frozen then s
    else ((s.silentMembers p).foldl (fun a i => (a.modPart p (fun x => { x with
      silent := x.silent ++ [((x.members[i]?).map (·.ep)).getD 0] })).deviceEvent 0x085) s).fenceDone p
  | none => s)

/-- QUENCH_ZEROING_COMPLETE: the partition's lines, trackers, mailbox buffer and on-die plaintext are gone and FLAGS[2] is
set (R96 step 4, R413). -/
def execQuenchZeroingComplete (p : Nat) (s : State) : Out :=
  done (match (s.part p).quench with
  | some q => if q.drained && !(s.part p).zeroingComplete && !s.frozen then ((s.dropLinesOf p).modPage p (fun g => { g with buf := [] })).modPart p (fun x => { x with zeroingComplete := true }) else s
  | none => s)

/-- Partition p is FREE again: its Starter targets, claims, mailbox page, hints, logs, rings, fault queue and settings
return to reset (R80, R452). -/
def State.partFree (s : State) (p : Nat) : State :=
  let s1 := (s.starterFree p).modPart p (fun _ => Partition.reset)
  { s1 with
    hearth := { s1.hearth with pages := tdel s1.hearth.pages p }
    tiers := { s1.tiers with hints := tdel s1.tiers.hints p }
    sec := { s1.sec with logs := tdel s1.sec.logs p }
    crucibles := { s1.crucibles with rings := s1.crucibles.rings.filter (fun r => r.1 / 16 != p) }
    tongs := { s1.tongs with faultQueues := tdel s1.tongs.faultQueues p } }

/-- TOMBSTONE_EXPIRY: the partition becomes FREE; its Starter targets, claims, mailbox page and settings return to
reset (R80, R452). -/
def execTombstoneExpiry (p : Nat) (s : State) : Out :=
  done (if (s.part p).state == .tombstone && decide (512 ≤ (s.part p).tombAge) && !s.frozen then s.partFree p
  else s)

/-! ### Seal capture (R101, R102, R105) -/

/-- One level of the tree: pairs from left to right, a last unpaired node carried up (R102). -/
def pairUp : List (List Byte) → List (List Byte)
  | a :: b :: r => sha256 (1 :: a ++ b) :: pairUp r
  | l => l

/-- The root of a list of leaf hashes; `n` bounds the levels. -/
def sealRoot : Nat → List (List Byte) → List Byte
  | _, [a] => a
  | 0, _ => []
  | n + 1, l => sealRoot n (pairUp l)

/-- The leaf hash of a segment whose poisoned locations are taken as zeros (R102). -/
def leafHash (locs : List (List Byte × Bool)) : List Byte :=
  sha256 ((if locs.any (·.2) then 2 else 0) :: locs.flatMap (fun l => if l.2 then zeros 64 else l.1))

/-- A seal's extents leave capture. -/
def State.endCapture (s : State) (sid : Nat) : State :=
  (s.seal sid).extents.foldl (fun a n => a.modExt n (fun e => if e.capture && e.sealId == sid then { e with capture := false } else e)) s

/-- A capture aborts: by an uncorrectable read (R105) or, at a reset, with its own flag. -/
def State.abortSeal (s : State) (sid : Nat) (byReset : Bool) : State :=
  ((s.endCapture sid).modSeal sid (fun x => { x with
    state := .aborted, abortFault := x.abortFault || !byReset, abortReset := x.abortReset || byReset, urgent := [] })).fire (0x0C0 + (s.seal sid).part) 0

/-- Bytes at an offset of a seal's blocks from its first hash block on. -/
def State.hashAddress (s : State) (sid i : Nat) : Nat :=
  (s.ext (((s.seal sid).blocks[(s.seal sid).extents.length + 32 * i / 2 ^ 28]?).getD 0)).dpaBlk * 2 ^ 28 + 32 * i % 2 ^ 28

/-- The first leaf from `leaf` on that is not copied and that `ok` admits; `n` bounds the search. -/
def Seal.leafFrom (x : Seal) (ok : Nat → Bool) : Nat → Nat → Option Nat
  | 0, _ => none
  | n + 1, leaf => if (tfind x.leaves leaf).isNone && ok leaf then some leaf else x.leafFrom ok n (leaf + 1)

/-- The extent of a leaf. -/
def Seal.extentOf (x : Seal) (leaf : Nat) : Nat := (x.extents[leaf / 4096]?).getD 0

/-- The leaf that a capture copies next: the first that a write waits for, else the first of an extent that is being released, else
the first in leaf order (R95, R101). -/
def State.nextLeaf (s : State) (x : Seal) : Option Nat :=
  (x.urgent.find? (fun i => (tfind x.leaves i).isNone && decide (i < 4096 * x.extents.length)))
    |>.orElse (fun _ => if x.extents.all (fun n => (s.ext n).state == .active) then none
      else x.leafFrom (fun i => (s.ext (x.extentOf i)).state != .active) (4096 * x.extents.length) 0)
    |>.orElse (fun _ => x.leafFrom (fun _ => true) (4096 * x.extents.length) 0)

/-- A write to a segment that was admitted before the seal boundary is still to complete: it waits for the fill of its sector, or at
the home (R101). -/
def State.segmentOpen (s : State) (d : Nat) : Bool :=
  s.tiers.forges.any (fun g => g.2.lines.any (fun l => l.2.addr / 256 == d / 65536 && !l.2.merges.isEmpty)) ||
  (s.cohHeld d (d + 65536)).any (fun x => x.2.stores)

/-- Where a leaf lies. -/
def State.leafAddress (s : State) (x : Seal) (leaf : Nat) : Nat := (s.ext (x.extentOf leaf)).dpaBlk * 2 ^ 28 + leaf % 4096 * 65536

/-- Where the copy of a leaf goes in its seal block. -/
def State.leafTarget (s : State) (x : Seal) (leaf : Nat) : Nat :=
  (s.ext ((x.blocks[leaf / 4096]?).getD 0)).dpaBlk * 2 ^ 28 + leaf % 4096 * 65536

/-- The forge cache has a way for every line that the copy of a leaf writes (R54, R56). -/
def State.captureFits (s : State) (sid leaf : Nat) : Bool :=
  s.rangeFree (s.seal sid).part (s.leafTarget (s.seal sid) leaf) 65536 && s.rangeFree (s.seal sid).part (s.hashAddress sid leaf) 32

/-- One segment of a capture is copied to its seal block, 1,024 locations with the view of the forge, and hashed; its
hash is stored; the last leaf ends the capture, the seal is SEALED with its root and the partition's event is raised. -/
def State.captureCopied (s0 : State) (sid leaf : Nat) : State :=
  let x := s0.seal sid
  let src := s0.leafAddress x leaf
  let dst := s0.leafTarget x leaf
  let locs := (List.range 1024).map (fun i => s0.sectorView x.part (src / 64 + i))
  let sr := s0.engineRead 3 x.part src 65536
  let s1 := locs.zipIdx.foldl (fun a (p : (List Byte × Bool) × Nat) => a.engineStore 3 x.part (dst + 64 * p.2) p.1.1 p.1.2) sr
  let h := leafHash locs
  let s2 := (s1.engineStore 3 x.part (s1.hashAddress sid leaf) h false).modSeal sid (fun y => { y with
    leaves := tins y.leaves leaf h, urgent := y.urgent.filter (· != leaf), hasPoison := y.hasPoison || locs.any (·.2) })
  let n := 4096 * x.extents.length
  if (s2.seal sid).leaves.length < n || s2.frozen then s2
  else
    ((s2.endCapture sid).modSeal sid (fun y => { y with
      state := .sealed, rootValid := true, root := sealRoot 64 ((List.range n).map (tget [] y.leaves)) })).fire (0x0C0 + x.part) 0

/-- One more of the 16 capture copies of this heat (R101). -/
def State.copyCounted (s : State) : State := { s with parts := { s.parts with copied := s.parts.copied + 1 } }

/-- CAPTURE_SEGMENT_COPY_COMPLETE: the next leaf, whose writes of before the seal boundary are complete, is written to its seal block
and hashed, up to 16 in a heat; the last ends the capture, and the writes that waited for a copy go on (R101). The segment is read through
the forge cache in class BULK first (R54, R109). -/
def execCaptureSegmentCopyComplete (sid leaf : Nat) (found : List Finding) (s : State) : Out :=
  let x := s.seal sid
  done (if x.state ≠ .capturing || s.nextLeaf x ≠ some leaf || decide (16 ≤ s.parts.copied) || s.segmentOpen (s.leafAddress x leaf) then s
  else if !s.readReady x.part (s.leafAddress x leaf) 65536 then s.fetchRead 3 x.part (s.leafAddress x leaf) 65536
  else if !s.captureFits sid leaf then s
  else
    let s0 := (s.foundAll found).copyCounted
    if anyUncorrectable found then if s.frozen then s0 else (s0.abortSeal sid false).releaseHeld
    else (s0.captureCopied sid leaf).releaseHeld)

/-! ### The coherence sweep (R305) -/

/-- UNRESPONSIVE_SWEEP_COMPLETE: every directory slice has been swept of the members that a member-list change removes
or writes again; the list changes at the next boundary. -/
def execUnresponsiveSweepComplete (p : Nat) (s : State) : Out :=
  done (match s.coh.sweeps.find? (fun x => x.1 == p && !x.2.2.2) with
  | none => s
  | some w =>
    let s1 := (sweptMembers (s.part p).members w.2.2.1).foldl (fun a m => a.sweepMember p m) s
    s1.modCoh (fun c => { c with sweeps := c.sweeps.map (fun x => if x.1 = p then (x.1, x.2.1, x.2.2.1, true) else x) }))

/-! ### The boundary -/

/-- Pinned segments of a set of the cache region, over the whole device. -/
def State.pinsInSet (s : State) (set : Nat) : Nat :=
  ((List.range 8).map (fun f => (s.pinnedSegs f).countP (fun c => s.tagSet c.1 == set))).foldl (· + ·) 0

/-- CACHED segments of a range: PSA div 64 KiB and the segment. -/
def State.cachedSegs (s : State) (p base len : Nat) : List (Nat × Nat) :=
  (List.range (len / 65536)).filterMap (fun k =>
    let q := s.lookup p (base + 65536 * k) false
    if q.1 = stOk && s.isCached q.2 then some (base / 65536 + k, segOf q.2) else none)

/-- The segments of a PIN range that find their set full: each set takes 12 (R74). -/
def State.unpinnable (s : State) : List (Nat × Nat) → Tab Nat → List Nat
  | [], _ => []
  | (a, g) :: r, t =>
    let set := s.tagSet g
    let n := (tfind t set).getD (s.pinsInSet set)
    if n < 12 then s.unpinnable r (tins t set (n + 1)) else a :: s.unpinnable r (tins t set n)

/-- PIN bits of the tags of a partition follow its hints (R74). -/
def State.repin (s : State) (p : Nat) : State :=
  { s with tiers := { s.tiers with tags := tmap s.tiers.tags (fun _ t => if t.part = p then { t with pin := s.segPinned t.seg } else t) } }

/-- A CACHED extent becomes ACTIVE under PIN ranges that stand: its segments are counted against the sets as they would be by the
command, in rising address, and those that find their set full stay unpinned (R74). -/
def State.pinArrived (s : State) (n : Nat) : State :=
  let e := s.ext n
  let segs := s.cachedSegs e.part (e.psaBlk * 2 ^ 28) (2 ^ 28)
  let set (a : State) (full : List Nat) : State :=
    { a with tiers := { a.tiers with hints := tmap a.tiers.hints (fun k l => if k = e.part then l.map (fun r =>
      if r.hint = 6 then { r with skip := r.skip.filter (fun x => x / 4096 ≠ e.psaBlk) ++ full.filter (fun x =>
        decide (r.base ≤ 65536 * x) && decide (65536 * x < r.base + r.len)) } else r) else l) } }
  if segs.isEmpty then s
  else
    let under := segs.filter (fun x => s.hintAt e.part (65536 * x.1) == 6)
    (set s ((set s (segs.map (·.1))).unpinnable under [])).repin e.part

/-- Extents whose fill or scrub has completed change at this boundary (R90, R94): ACTIVE with a VALID directory entry,
or FREE. -/
def State.extentEnd (s : State) (n : Nat) : State :=
  let e := s.ext n
  let p := s.part e.part
  let k := p.dirOff + (e.psaBlk - p.psaBase)
  if !e.endNext || s.frozen then s
  else if e.state = .filling && p.state != .active then
    -- the fill has stopped: the block is scrubbed with the partition's others (R95)
    s.modExt n (fun x => { x with endNext := false })
  else if e.state = .filling then
    (({ s with parts := { s.parts with dir := tins s.parts.dir k n } }).modExt n (fun x =>
      { x with state := .active, mapped := true, endNext := false, unitsDone := [] })).pinArrived n
  else if e.state = .scrubbing then
    let s1 : State := { s with
      parts := { s.parts with
        dir := if e.mapped then tdel s.parts.dir k else s.parts.dir
        extents := tdel s.parts.extents n }
      cxl := { s.cxl with heads := tmap s.cxl.heads (fun _ x => { x with removed := x.removed.filter (· != n) }) } }
    -- an extent's own release is reported (R92); a seal's is when its last block has gone
    if e.ro || p.state != .active then s1 else s1.deviceEvent 0x086
  else s

/-- The quench of partition `p` at a boundary (R96): its age, the end of its drain, TOMBSTONE after the last block, key
destruction and the start of the scrub. -/
def State.quenchTick (s : State) (p : Nat) : State :=
  let x := s.part p
  match x.quench with
  | none => s
  | some q =>
    let mine := (s.parts.extents.filter (fun e => e.2.part == p)).map (·.1)
    let s1 := s.modPart p (fun y => { y with quench := some { q with age := q.age + 1 } })
    if s.frozen then s1
    else if q.keyGone then
      if mine.isEmpty then s1.modPart p (fun y => { y with state := .tombstone, quench := none, tombAge := 0, stateHeat := s1.heat.count }) else s1
    else
      let s2 := if q.drained || q.age + 1 < 4 then s1 else
        let d := mine.foldl (fun a n =>
          let b := a.drainExtent n
          if (b.ext n).state = .releasing then b.modExt n (fun e => { e with drain := none }) else b) s1
        d.modPart p (fun y => { y with quench := y.quench.map (fun z => { z with drained := true }) })
      if x.fenceComplete && x.zeroingComplete then
        let s3a := (s2.modPart p (fun y => { y with keyPresent := false, quench := y.quench.map (fun z => { z with keyGone := true }) })).dropKey p
        let s3 : State := { s3a with parts := { s3a.parts with
          seals := tmap s3a.parts.seals (fun _ z => if z.part = p then { z with state := .releasing, urgent := [] } else z) } }
        mine.foldl (fun a n =>
          let e := a.ext n
          if e.state = .scrubbing then a
          else
            (a.dropTags n).modExt n (fun y => { y with state := .scrubbing, unitsDone := [], endNext := false, drain := none, capture := false })) s3
      else s2

/-- A release drain that has lasted 4 heats ends, and the block's first scrub units are issued at this boundary (R92, R95). -/
def State.drainTick (s : State) (n : Nat) : State :=
  if (s.ext n).state = .releasing && (s.ext n).drain.any (fun d => decide (4 ≤ d)) && !s.frozen then s.endDrain n else s

/-- Drains, quenches, TOMBSTONE intervals, finished fills and scrubs, and swept member lists at a boundary. -/
def State.partsTick (s : State) : State :=
  let s1 := (s.parts.extents.map (·.1)).foldl State.extentEnd s
  let s2 : State := { s1 with parts := { s1.parts with
    copied := 0
    extents := tmap s1.parts.extents (fun _ e => { e with drain := e.drain.map (· + 1) })
    parts := tmap s1.parts.parts (fun _ p => if p.state = .tombstone then { p with tombAge := min 512 (p.tombAge + 1) } else p) } }
  let s2a := (s2.parts.extents.map (·.1)).foldl State.drainTick s2
  let s3 := (s2a.parts.parts.map (·.1)).foldl State.quenchTick s2a
  -- seals whose blocks have all gone become FREE; a seal's own release is reported (R105)
  let gone (x : Seal) : Bool := !s3.frozen && (x.state == .releasing || (s3.part x.part).state == .tombstone) &&
    x.blocks.all (fun n => (tfind s3.parts.extents n).isNone)
  let s4 := (s3.parts.seals.filter (fun x => gone x.2 && (s3.part x.2.part).state == .active)).foldl (fun a _ => a.deviceEvent 0x086)
    { s3 with parts := { s3.parts with seals := s3.parts.seals.filter (fun x => !gone x.2) } }
  -- member lists whose sweep is done
  let ready := s4.sweptLists
  let s5 := ready.foldl (fun a x => a.modPart x.1 (fun p => { p with members := x.2.2.1 })) s4
  let s6 := s5.modCoh (fun c => { c with sweeps := (c.sweeps.filter (fun x => !x.2.2.2 || s4.frozen)).map (fun x => (x.1, x.2.1 + 1, x.2.2)) })
  if ready.isEmpty then s6 else s6.remask

end Sys2Proof.Machine
end

