-- ==== Sys2Proof/Machine/Engine.lean ====
section
/-! DEFINITION. Accesses of the device's own engines — tongs, anvils, crucibles — to the memory of a partition (R85,
R289, R505), and the rings in partition memory (R212, R213, R558). -/

namespace Sys2Proof.Machine

/-- One access of an engine: partition, first PSA, length, and whether it writes. -/
structure Access where
  part : Nat
  psa : Nat
  len : Nat
  write : Bool
  deriving DecidableEq, Repr

/-- The parts of a range that lie in one PSA block each: PSA and length. -/
def blockParts (psa len : Nat) : List (Nat × Nat) :=
  (List.range ((psa + len - 1) / 2 ^ 28 + 1 - psa / 2 ^ 28)).filterMap (fun i =>
    let lo := max psa ((psa / 2 ^ 28 + i) * 2 ^ 28)
    let hi := min (psa + len) ((psa / 2 ^ 28 + i + 1) * 2 ^ 28)
    if lo < hi then some (lo, hi - lo) else none)

/-- The status of an access (R85 checks 2–5); an empty one passes. -/
def State.accStatus (s : State) (a : Access) : Nat := if a.len = 0 then stOk else s.rangeStatus a.part a.psa a.len a.write

/-- The DPA pieces of an access that passes. -/
def State.accPieces (s : State) (a : Access) : List (Nat × Nat) := (blockParts a.psa a.len).map (fun p => (s.dpaOf a.part p.1, p.2))

/-- The lines of an access that lie in SHARED_COHERENT extents. -/
def State.accLines (s : State) (a : Access) : List Nat := (s.accPieces a).flatMap (fun p => s.cohLines p.1 p.2)

/-- The home can serve a line to an engine at once: no transaction is open, and a read finds the current value at home,
a write finds no holder (R289). -/
def State.lineReady (s : State) (write : Bool) (l : Nat) : Bool :=
  (s.trackerOf l).isNone && !s.coh.stale.contains l &&
  (if write then (s.dirEntry l).state == .invalid else (s.dirEntry l).state != .excl || s.coh.fresh.contains l)

/-- A store of the device's engines to the range of an access has not been made yet. -/
def State.storeAhead (s : State) (a : Access) : Bool :=
  s.coh.posts.any (fun p => p.part == a.part && p.stores.any (fun q => decide (q.1 < a.psa + a.len) && decide (a.psa < q.1 + q.2.length)))

/-- An access that passes its checks meets nothing at the home and at the forge cache: its lines are ready, the data of a read is there,
and a write waits for no copy and no way (R54, R56, R57, R101). -/
def State.accOpen (s : State) (a : Access) : Bool :=
  s.accStatus a != stOk ||
  ((s.accLines a).all (s.lineReady a.write) && (s.accPieces a).all (fun p =>
    if a.write then !s.writeWaits a.part p.1 p.2 else s.readReady a.part p.1 p.2))

/-- An access can be made now: nothing stands in its way, and no store of the engines to its range comes first. -/
def State.accReady (s : State) (a : Access) : Bool := s.accOpen a && !s.storeAhead a

/-- The transaction by which an engine reaches a line: RD_CUR, or a write of no byte that invalidates every holder. -/
def State.engineMsg (s : State) (a : Access) (l : Nat) : CohMsg :=
  { req := if a.write then .wrPartial else .rdCur, src := 0, member := 0xFFFF, part := a.part, tag := 0, psa := s.psaOfLine l, line := l
    data := [], poison := false, mask := 0, peer := 0, port := 0xFFFF, waiter := 0 }

/-- Starts what an access of a service class waits for: the transactions of its lines, the reads of its sectors, the copies that its
writes wait for (R54, R101, R109). -/
def State.accPrepare (s : State) (cls : Nat) (a : Access) : State :=
  let s1 := ((s.accLines a).filter (fun l => !s.lineReady a.write l)).foldl (fun b l =>
    if (b.trackerOf l).isSome || b.coh.lineWait.any (·.line == l) || (tget [] b.coh.ingress (b.homeForge (l * 64))).any (·.line == l) then b
    else b.cohArrive (b.engineMsg a l)) s
  if a.write then (s1.accPieces a).foldl (fun b p => b.hasten p.1 p.2) s1
  else if (s1.accLines a).all (s1.lineReady false) then (s1.accPieces a).foldl (fun b p => b.fetchRead cls a.part p.1 p.2) s1
  else s1

/-- The accesses of a command are all possible now. -/
def State.allReady (s : State) (l : List Access) : Bool := l.all s.accReady

/-- A command whose accesses have to wait starts what they wait for; it is given again. -/
def State.prepareAll (s : State) (cls : Nat) (l : List Access) : State :=
  (l.filter (fun a => !s.accReady a)).foldl (fun b a => b.accPrepare cls a) s

/-- Bytes of a partition's memory as a read of an engine sees them, and whether some location reads as poison. -/
def State.pRead (s : State) (p psa len : Nat) : List Byte × Bool :=
  let ps := s.accPieces { part := p, psa := psa, len := len, write := false }
  (ps.flatMap (fun q => s.view p q.1 q.2), ps.any (fun q => s.viewPoison p q.1 q.2))

/-- A read of an engine as a status: refused, FAULTED for poison, or OK with the bytes. -/
def State.pLoad (s : State) (p psa len : Nat) : Nat × List Byte :=
  let st := s.accStatus { part := p, psa := psa, len := len, write := false }
  if st ≠ stOk then (st, [])
  else
    let r := s.pRead p psa len
    if r.2 then (stFaulted, r.1) else (stOk, r.1)

/-- A write of an engine to a partition's memory in a service class, stored and mirrored (R505). -/
def State.pWrite (s : State) (cls p psa : Nat) (data : List Byte) (poison : Bool) : State :=
  let ps := (blockParts psa data.length).map (fun q => (s.dpaOf p q.1, (data.drop (q.1 - psa)).take q.2))
  ps.foldl (fun a q => ((a.engineStore cls p q.1 q.2 poison).mirror q.1 q.2 poison none).1) s

/-- A write of an engine that R85 may refuse: the status, and the state with the write made when it passes. -/
def State.pStore (s : State) (cls p psa : Nat) (data : List Byte) (poison : Bool) : Nat × State :=
  let st := s.accStatus { part := p, psa := psa, len := data.length, write := true }
  if st = stOk then (stOk, s.pWrite cls p psa data poison) else (st, s)

/-- The reads of an engine's command go through the forge cache in its service class (R54, R109, log entry 18); the lines that the
home fetched for its accesses need no longer be held current. -/
def State.useLines (s : State) (cls : Nat) (l : List Access) : State :=
  let ls := l.flatMap s.accLines
  let s1 := (l.filter (fun a => !a.write && s.accStatus a == stOk)).foldl (fun b a =>
    (s.accPieces a).foldl (fun c p => c.engineRead cls a.part p.1 p.2) b) s
  s1.modCoh (fun c => { c with fresh := c.fresh.filter (fun x => !ls.contains x) })

/-! ### Stores that complete one after another: rings and records (R182, R211–R213, R260, R282, R505, R558) -/

/-- Adds to a counter of a context's engine unless its partition is confidential (R288). -/
def State.noteTongs (s : State) (c k n : Nat) : State :=
  if n = 0 || (s.part (s.ctx c).part).confidential then s else s.countTongs (s.ctx c).engine k n

/-- Accesses that an engine makes for a context: their bytes count as read and written, and its reads go through the forge cache in
class BULK (R253, R288). -/
def State.ctxUses (s : State) (c : Nat) (l : List Access) : State :=
  let bytes (w : Bool) : Nat := ((l.filter (fun a => a.write == w && s.accStatus a == stOk)).map (·.len)).foldl (· + ·) 0
  (((s.useLines 3 l)).noteTongs c 4 (bytes false)).noteTongs c 6 (bytes true)

/-- The accesses of a post are made: those of a context's engine count for it. -/
def State.postUses (s : State) (p : Post) (a : Access) : State :=
  match p.ctx with
  | some c => s.ctxUses c [a]
  | none => s.useLines p.cls [a]

/-- The last store of a post awaits the partner's WR_CMP (R505). -/
def State.awaitsPartner (s : State) (p : Post) : Bool :=
  s.twin.state == .primary &&
    p.begun.any (fun q => s.twin.mirrored.any (fun m => !m.copy && decide (m.dpa < q.1 + q.2) && decide (q.1 < m.dpa + m.len)))

def State.ringAt (s : State) : RingName → Option Ring
  | .status k => tfind s.crucibles.rings k
  | .faults p => tfind s.tongs.faultQueues p

def State.setRing (s : State) (n : RingName) (r : Ring) : State :=
  match n with
  | .status k => { s with crucibles := { s.crucibles with rings := tins s.crucibles.rings k r } }
  | .faults p => { s with tongs := { s.tongs with faultQueues := tins s.tongs.faultQueues p r } }

/-- The engine's read of a ring's READ_IDX. -/
def Ring.readAccess (r : Ring) (p : Nat) : Access := { part := p, psa := r.base + 4, len := 4, write := false }

/-- What a record makes of a ring whose READ_IDX is read now: the stores of the record and of WRITE_IDX, or, where the ring is full or
READ_IDX cannot be read, the store of DROPPED (R213, R558). -/
def State.ringStores (s : State) (p : Nat) (r : Ring) (rec : List Byte) : Ring × List (Nat × List Byte) :=
  let rd := s.pLoad p (r.base + 4) 4
  if rd.1 ≠ stOk || r.entries ≤ (r.writeIdx + 2 ^ 32 - leVal rd.2) % 2 ^ 32 then
    let n := min 0xFFFFFFFF (r.dropped + 1)
    ({ r with dropped := n }, [(r.base + 8, leBytes 4 n)])
  else
    let w := (r.writeIdx + 1) % 2 ^ 32
    ({ r with writeIdx := w }, [(r.base + 64 + rec.length * (r.writeIdx % r.entries), rec), (r.base, leBytes 4 w)])

/-- What is left of a post has been done. -/
def State.postOver (s : State) (p : Post) : Bool := p.ring.isNone && p.stores.isEmpty && !s.awaitsPartner p

/-- One step of a post: its ring is looked at, or its next store is made; what has to wait is started. A store that the extent map
refuses is lost (R558). -/
def State.postStep (s : State) (p : Post) : State × Post :=
  if s.awaitsPartner p then (s, p)
  else match p.ring with
  | some (n, rec) =>
    (match s.ringAt n with
    | none => (s, { p with ring := none })
    | some r =>
      let a := r.readAccess p.part
      if !s.accOpen a then (s.accPrepare p.cls a, p)
      else
        let q := s.ringStores p.part r rec
        ((s.setRing n q.1).postUses p a, { p with ring := none, stores := q.2 }))
  | none =>
    match p.stores with
    | [] => (s, p)
    | x :: r =>
      let a : Access := { part := p.part, psa := x.1, len := x.2.length, write := true }
      if !s.accOpen a then (s.accPrepare p.cls a, p)
      else ((s.pStore p.cls p.part x.1 x.2 false).2.postUses p a, { p with stores := r, begun := if s.accStatus a = stOk then s.accPieces a else [] })

/-- A post goes on as far as it can: at most its ring and three stores. -/
def State.postGoes (s : State) (p : Post) : State × Post := (List.range 4).foldl (fun q _ => q.1.postStep q.2) (s, p)

end Sys2Proof.Machine
end

