-- ==== Sys2Proof/Machine/Fp.lean ====
section
/-! DEFINITION. Exact binary floating point: a finite value is a sign and a fraction of naturals, and every rounding
is done once, from the exact value (R132, R133, R152). -/

namespace Sys2Proof.Machine

/-- A decoded number: a finite magnitude `n / d` with its sign, an infinity, or a NaN. -/
inductive Fp where
  | fin (neg : Bool) (n d : Nat)
  | inf (neg : Bool)
  | nan (neg : Bool)
  deriving DecidableEq, Repr

def Fp.neg : Fp → Bool
  | .fin s _ _ => s
  | .inf s => s
  | .nan s => s

def Fp.isFinite : Fp → Bool
  | .fin _ _ _ => true
  | _ => false

def Fp.isNan : Fp → Bool
  | .nan _ => true
  | _ => false

/-- The zero of a sign. -/
def Fp.zero (neg : Bool) : Fp := .fin neg 0 1

/-- `n / d` times 2 to the `e`, as numerator and denominator. -/
def scale2 (n d : Nat) (e : Int) : Nat × Nat :=
  if e < 0 then (n, d * 2 ^ (-e).toNat) else (n * 2 ^ e.toNat, d)

/-- `n / d` is below `m / c`. -/
def qlt (n d m c : Nat) : Bool := n * c < m * d

/-- The floor of the base-2 logarithm of a positive fraction. -/
def flog2 (n d : Nat) : Int :=
  let k : Int := (Nat.log2 n : Int) - (Nat.log2 d : Int)
  let p := scale2 1 1 k
  if qlt n d p.1 p.2 then k - 1 else k

/-- The ceiling of the base-2 logarithm of a positive fraction. -/
def clog2 (n d : Nat) : Int :=
  let k := flog2 n d
  let p := scale2 1 1 k
  if n * p.2 = p.1 * d then k else k + 1

/-- Rounds between two adjacent values a < b of a target, where the value lies at the fraction `f / g` of the way
from a to b, and `odd` says that a has the odd code (R152): true gives b. `rnd` is the RND field and `r` the 12
random bits. -/
def roundsUp (rnd r : Nat) (odd : Bool) (f g : Nat) : Bool :=
  if f = 0 then false
  else match rnd with
    | 0 => decide (2 * f > g) || (decide (2 * f = g) && odd)
    | 1 => false
    | _ => decide (f * 4096 / g + r ≥ 4096)

/-- The natural number that `n / d` rounds to. -/
def roundNat (rnd r n d : Nat) : Nat :=
  let q := n / d
  if roundsUp rnd r (q % 2 == 1) (n % d) d then q + 1 else q

/-- A binary floating-point layout: exponent bits, fraction bits, bias, and the code of the greatest finite
magnitude. -/
structure FpFmt where
  eb : Nat
  mb : Nat
  bias : Nat
  top : Nat
  deriving DecidableEq, Repr

def fmtF32 : FpFmt := { eb := 8, mb := 23, bias := 127, top := 0x7F7FFFFF }
def fmtBf16 : FpFmt := { eb := 8, mb := 7, bias := 127, top := 0x7F7F }
def fmtF16 : FpFmt := { eb := 5, mb := 10, bias := 15, top := 0x7BFF }
def fmtE4M3 : FpFmt := { eb := 4, mb := 3, bias := 7, top := 0x7E }
def fmtE5M2 : FpFmt := { eb := 5, mb := 2, bias := 15, top := 0x7B }
def fmtE3M2 : FpFmt := { eb := 3, mb := 2, bias := 3, top := 0x1F }
def fmtE2M3 : FpFmt := { eb := 2, mb := 3, bias := 1, top := 0x1F }
def fmtE2M1 : FpFmt := { eb := 2, mb := 1, bias := 1, top := 0x7 }

/-- The magnitude that a code without sign spells, as a fraction. -/
def fpMag (f : FpFmt) (code : Nat) : Nat × Nat :=
  let e := code / 2 ^ f.mb
  let m := code % 2 ^ f.mb
  if e = 0 then scale2 m 1 (1 - (f.bias : Int) - f.mb)
  else scale2 (2 ^ f.mb + m) 1 ((e : Int) - f.bias - f.mb)

/-- The sign bit of a code. -/
def fpSign (f : FpFmt) (code : Nat) : Bool := bit code (f.eb + f.mb)

/-- The code without its sign. -/
def fpBody (f : FpFmt) (code : Nat) : Nat := code % 2 ^ (f.eb + f.mb)

/-- Decodes a layout whose greatest codes are infinity and NaNs, as in IEEE 754 (R132, R133). -/
def decodeIeee (f : FpFmt) (code : Nat) : Fp :=
  let s := fpSign f code
  let b := fpBody f code
  if b / 2 ^ f.mb = 2 ^ f.eb - 1 then (if b % 2 ^ f.mb = 0 then .inf s else .nan s)
  else let p := fpMag f b; .fin s p.1 p.2

/-- Decodes FP8 E4M3, where only 0x7F and 0xFF are no finite number (R133). -/
def decodeE4M3 (code : Nat) : Fp :=
  let b := fpBody fmtE4M3 code
  if b = 0x7F then .nan (fpSign fmtE4M3 code)
  else let p := fpMag fmtE4M3 b; .fin (fpSign fmtE4M3 code) p.1 p.2

/-- Decodes a layout without special values (MXFP6 and MXFP4 elements, R136). -/
def decodePlain (f : FpFmt) (code : Nat) : Fp :=
  let p := fpMag f (fpBody f code); .fin (fpSign f code) p.1 p.2

/-- The code without sign of a magnitude that does not exceed the greatest finite one: rounded as `rnd` says. -/
def roundMag (f : FpFmt) (rnd r n d : Nat) : Nat :=
  if n = 0 then 0
  else
    let emin : Int := 1 - (f.bias : Int)
    let e := max emin (flog2 n d)
    let p := scale2 n d (f.mb - e)
    (e - emin).toNat * 2 ^ f.mb + roundNat rnd r p.1 p.2

/-- A magnitude is above the greatest finite one of a layout. -/
def aboveTop (f : FpFmt) (n d : Nat) : Bool :=
  let t := fpMag f f.top
  qlt t.1 t.2 n d

/-- A magnitude is below half the smallest subnormal of a layout. -/
def belowHalf (f : FpFmt) (n d : Nat) : Bool :=
  let m := fpMag f 1
  qlt n d m.1 (2 * m.2)

/-- The code of a finite value: held at the greatest finite magnitude, with true, and a signed zero below half the smallest subnormal
in every rounding mode (R154). -/
def encodeSat (f : FpFmt) (rnd r : Nat) (neg : Bool) (n d : Nat) : Nat × Bool :=
  let s := ofBool neg * 2 ^ (f.eb + f.mb)
  if aboveTop f n d then (s + f.top, true)
  else if belowHalf f n d then (s, false)
  else (s + roundMag f rnd r n d, false)

/-- The magnitude of an integer code for `n / d`, up to `lim`: zero below a half in every rounding mode, and true when it was held at
the limit (R154, log entry 66). -/
def encodeInt (rnd r lim n d : Nat) : Nat × Bool :=
  if qlt lim 1 n d then (lim, true)
  else if qlt n d 1 2 then (0, false)
  else (roundNat rnd r n d, false)

/-! ### FP32 arithmetic (R132): every result rounded once to nearest even -/

/-- The FP32 value of a 32-bit pattern. -/
def f32 (x : Half) : Fp := decodeIeee fmtF32 x.toNat

/-- +0, the infinities and the sign bit of FP32 patterns. -/
def f32Sign (neg : Bool) : Nat := ofBool neg * 2 ^ 31

def f32Inf (neg : Bool) : Half := BitVec.ofNat 32 (f32Sign neg + 0x7F800000)

/-- The FP32 pattern of a finite value, rounded to nearest even; an infinity above the range (IEEE 754). -/
def f32Round (neg : Bool) (n d : Nat) : Half :=
  let c := roundMag fmtF32 0 0 n d
  if c > fmtF32.top then f32Inf neg else BitVec.ofNat 32 (f32Sign neg + c)

/-- The FP32 pattern of a finite value, held at the greatest finite magnitude; true when rounding went above it. -/
def f32Held (neg : Bool) (n d : Nat) : Half × Bool :=
  let c := roundMag fmtF32 0 0 n d
  if c > fmtF32.top then (BitVec.ofNat 32 (f32Sign neg + fmtF32.top), true)
  else (BitVec.ofNat 32 (f32Sign neg + c), false)

/-- The exact sum of two finite values: sign and magnitude. An exact zero sum is -0 only when both are negative. -/
def qadd (s : Bool) (n d : Nat) (t : Bool) (m c : Nat) : Bool × Nat × Nat :=
  let a := n * c
  let b := m * d
  if s = t then (s, a + b, d * c)
  else if a = b then (false, 0, 1)
  else if a > b then (s, a - b, d * c) else (t, b - a, d * c)

/-- Integer square root by bisection on `k` bits. -/
def isqrt : Nat → Nat → Nat → Nat
  | 0, _, r => r
  | k + 1, x, r => if (r + 2 ^ k) * (r + 2 ^ k) ≤ x then isqrt k x (r + 2 ^ k) else isqrt k x r

end Sys2Proof.Machine
end

