-- ==== Sys2Proof/Machine/Formats.lean ====
section
/-! DEFINITION. The number formats (06_billet_formats.md): decoding of every format to FP32, encoding from FP32, and
the conversion events both report. -/

namespace Sys2Proof.Machine

/-! ### Format codes and sizes -/

/-- The code is listed in Table — Format codes (R130). -/
def fmtKnown (f : Nat) : Bool := decide (f ≤ 0x0C) || (decide (0x10 ≤ f) && decide (f ≤ 0x12))

/-- A Billet format. -/
def isBillet (f : Nat) : Bool := decide (0x10 ≤ f) && decide (f ≤ 0x12)

/-- An MX format. -/
def isMx (f : Nat) : Bool := decide (0x05 ≤ f) && decide (f ≤ 0x0A)

/-- INT8 or INT4. -/
def isInt (f : Nat) : Bool := f == 0x0B || f == 0x0C

/-- Element bits of a format (R130). -/
def elemBits (f : Nat) : Nat :=
  match f with
  | 0x00 => 32 | 0x01 => 16 | 0x02 => 16 | 0x03 => 8 | 0x04 => 8 | 0x05 => 8 | 0x06 => 8 | 0x07 => 6 | 0x08 => 6
  | 0x09 => 4 | 0x0A => 8 | 0x0B => 8 | 0x0C => 4 | 0x10 => 4 | 0x11 => 3 | 0x12 => 2 | _ => 0

/-- Elements of a block; 1 in a format without blocks. -/
def blockElems (f : Nat) : Nat :=
  if isMx f then 32 else match f with | 0x10 => 128 | 0x11 => 256 | 0x12 => 256 | _ => 1

/-- Elements of a group of a blocked format (R137, R142), or of a 32-byte cell of another (R135). -/
def groupElems (f : Nat) : Nat :=
  if isMx f then 1024 else match f with
    | 0x10 => 512 | 0x11 => 1024 | 0x12 => 1024 | _ => if elemBits f = 0 then 1 else 256 / elemBits f

/-- Bytes of a group, or of a cell of a format without blocks. -/
def groupBytes (f : Nat) : Nat :=
  if isMx f then 32 + 128 * elemBits f else match f with | 0x10 => 288 | 0x11 => 416 | 0x12 => 288 | _ => 32

/-- Bytes that `n` elements of a format occupy in memory: whole groups, or up to the last element (R135, R143). -/
def fmtBytes (f n : Nat) : Nat :=
  if isMx f || isBillet f then ceilDiv n (groupElems f) * groupBytes f else ceilDiv (n * elemBits f) 8

/-- The format word's fields (R131). -/
def fwFmt (w : Nat) : Nat := bits w 0 5
def fwLadder (w : Nat) : Nat := bits w 5 2
def fwEscMax (w : Nat) : Nat := bits w 7 2
def fwRnd (w : Nat) : Nat := bits w 9 2

/-- The ladder is reserved for the format (R139). -/
def ladderReserved (f ladder : Nat) : Bool :=
  match f with | 0x10 => ladder == 3 | 0x11 => decide (2 ≤ ladder) | 0x12 => decide (1 ≤ ladder) | _ => false

/-- A format word that R131 allows. -/
def formatWordOk (w : Nat) : Bool :=
  let f := fwFmt w
  fmtKnown f && bits w 11 5 == 0 && fwRnd w != 3 &&
  (if isBillet f then !ladderReserved f (fwLadder w) else fwLadder w == 0 && fwEscMax w == 0)

/-- The rank of a format (Table — Format ranks, Table — Upshift order). -/
def fmtRank (f : Nat) : Nat :=
  match f with
  | 0x12 => 1 | 0x11 => 2 | 0x10 => 3 | 0x09 => 3 | 0x07 => 4 | 0x08 => 4 | 0x03 => 5 | 0x04 => 5 | 0x05 => 5
  | 0x06 => 5 | 0x0A => 5 | 0x01 => 6 | 0x02 => 6 | 0x00 => 7 | _ => 0

/-! ### Events -/

/-- The sum of two event counts. -/
def EventCounts.add (a b : EventCounts) : EventCounts :=
  { decoded := a.decoded + b.decoded, escapes := a.escapes + b.escapes, saturated := a.saturated + b.saturated,
    malformed := a.malformed + b.malformed, nonfinite := a.nonfinite + b.nonfinite }

/-- One saturated event when `b`. -/
def evSat (b : Bool) : EventCounts := { EventCounts.zero with saturated := ofBool b }

/-- `n` malformed events. -/
def evMal (n : Nat) : EventCounts := { EventCounts.zero with malformed := n }

/-- One non-finite event when `b`. -/
def evNf (b : Bool) : EventCounts := { EventCounts.zero with nonfinite := ofBool b }

/-- Totals of a list of reports. -/
def sumEvents (l : List EventCounts) : EventCounts := l.foldl EventCounts.add EventCounts.zero

/-! ### FP32 patterns of decoded values -/

/-- An FP32 NaN with a sign: its fraction is open (log entry 10). -/
def f32Nan (neg : Bool) : Half := BitVec.ofNat 32 (f32Sign neg + 0x7F800001 + Config.nanFraction 0 % (2 ^ 23 - 1))

/-- The FP32 pattern of a value, held at the greatest finite magnitude, and whether it was held there. -/
def f32Of (x : Fp) : Half × Bool :=
  match x with
  | .fin s n d => f32Held s n d
  | .inf s => (f32Inf s, false)
  | .nan s => (f32Nan s, false)

/-- Decodes one code of a format without blocks other than the integers. -/
def decodeScalar (f code : Nat) : Fp :=
  match f with
  | 0x00 => decodeIeee fmtF32 code
  | 0x01 => decodeIeee fmtBf16 code
  | 0x02 => decodeIeee fmtF16 code
  | 0x03 => decodeE4M3 code
  | _ => decodeIeee fmtE5M2 code

/-- The FP32 pattern that a BF16, FP16 or FP32 code widens to without change (R146). -/
def widen (f code : Nat) : Option Half :=
  match f with
  | 0x00 => some (BitVec.ofNat 32 code)
  | 0x01 => some (BitVec.ofNat 32 (code * 2 ^ 16))
  | _ => none

/-- A product of two finite values. -/
def qmul (s : Bool) (n d : Nat) (t : Bool) (m c : Nat) : Fp := .fin (s != t) (n * m) (d * c)

/-- Decodes one element of a format without blocks to FP32 with its events (R134, R145, R146). `scale` is the FP32
scale of an integer format. -/
def decodeElem (f : Nat) (scale : Half) (code : Nat) : Half × EventCounts :=
  if isInt f then
    let v := toSigned (elemBits f) code
    match f32 scale with
    | .fin s n d =>
      -- the exact product is what is compared with the greatest finite value
      ((f32Held (decide (v < 0) != s) (v.natAbs * n) d).1, evSat (aboveTop fmtF32 (v.natAbs * n) d))
    | _ => (0, EventCounts.zero)
  else
    let x := decodeScalar f code
    ((widen f code).getD (f32Of x).1, evNf (!x.isFinite))

/-! ### Microscaling formats (R136, R137, R145) -/

/-- The element layout of an MX format with floating-point elements. -/
def mxElem (f code : Nat) : Fp :=
  match f with
  | 0x05 => decodeE4M3 code
  | 0x06 => decodeIeee fmtE5M2 code
  | 0x07 => decodePlain fmtE3M2 code
  | 0x08 => decodePlain fmtE2M3 code
  | 0x09 => decodePlain fmtE2M1 code
  | _ => let v := toSigned 8 code; .fin (decide (v < 0)) v.natAbs 64

/-- Decodes one MX element under the scale byte of its block. -/
def decodeMx (f s code : Nat) : Half × EventCounts :=
  if s = 0xFF then (f32Nan (Config.blockSign code), EventCounts.zero)
  else match mxElem f code with
    | .fin neg n d =>
      let p := scale2 n d ((s : Int) - 127)
      let r := f32Held neg p.1 p.2
      (r.1, evSat r.2)
    | x => ((f32Of x).1, evNf true)

/-- Decodes the first `n` elements of an MX group. -/
def decodeMxGroup (f : Nat) (l : List Byte) (n : Nat) : List Half × EventCounts :=
  let data := leVal (l.drop 32)
  let w := elemBits f
  let r := (List.range n).map (fun i => decodeMx f (byteAt l (i / 32)).toNat (bits data (w * i) w))
  let blocks := (List.range (ceilDiv n 32)).map (fun b => evNf (byteAt l b == 0xFF))
  (r.map (·.1), (sumEvents (r.map (·.2))).add (sumEvents blocks))

/-! ### Billet formats: decoding (R138–R144) -/

/-- Ladder entries in halves (R139). -/
def ladder2 (f ladder : Nat) : List Nat :=
  match f, ladder with
  | 0x10, 0 => [0, 2, 4, 6, 8, 10, 12, 14]
  | 0x10, 1 => [0, 1, 2, 3, 4, 6, 8, 12]
  | 0x10, 2 => [0, 2, 4, 8, 16, 32, 64, 128]
  | 0x11, 0 => [0, 2, 4, 6]
  | 0x11, 1 => [0, 2, 4, 8]
  | 0x12, 0 => [0, 2]
  | _, _ => [0]

/-- L_top in halves. -/
def ladderTop2 (f ladder : Nat) : Nat := (ladder2 f ladder).foldl max 0

/-- The sign and magnitude index of an element code; none for the reserved B2 code (R138). -/
def billetCode (f code : Nat) : Option (Bool × Nat) :=
  match f with
  | 0x10 => some (bit code 3, code % 8)
  | 0x11 => some (bit code 2, code % 4)
  | _ => match code with | 0 => some (false, 0) | 1 => some (false, 1) | 3 => some (true, 1) | _ => none

/-- CHK of a header: the XOR of the fifteen nibbles of bits [63:4] (R140). -/
def billetChk (h : Nat) : Nat := (List.range 15).foldl (fun c i => c ^^^ bits h (4 + 4 * i) 4) 0

/-- The used slots of a header in slot order: position and value. -/
def billetSlots (h : Nat) : List (Nat × Nat) :=
  (List.range (bits h 49 2)).map (fun i => (bits h (28 + 7 * i) 7, bits h (4 + 8 * i) 8))

/-- The slots that row 6 of R144 leaves in use, and those that it ignores. -/
def keptSlots : Option Nat → List (Nat × Nat) → List (Nat × Nat) × List (Nat × Nat)
  | _, [] => ([], [])
  | last, (p, v) :: r =>
    if last.all (· < p) then let k := keptSlots (some p) r; ((p, v) :: k.1, k.2)
    else let k := keptSlots last r; (k.1, (p, v) :: k.2)

/-- The element that an escape position names (R141). -/
def escElem (f p : Nat) : Nat := if f = 0x10 then p else 2 * p

/-- Scale of a finite header as a fraction: 2^(SEXP - 127) × (8 + SMAN) / 8. -/
def billetScale (sexp sman : Nat) : Nat × Nat := scale2 (8 + sman) 8 ((sexp : Int) - 127)

/-- Decodes the first `n` elements of a Billet block (R144): its header and its packed codes. What stands at padding is never counted
(R143); the sign of a non-finite block's NaNs is open (log entry 10). -/
def decodeBillet (f h data n : Nat) : List Half × EventCounts :=
  let w := elemBits f
  if n = 0 then ([], EventCounts.zero)
  else if billetChk h ≠ bits h 0 4 then (List.replicate n 0, evMal n)
  else if bits h 56 8 = 0xFF then (List.replicate n (f32Nan (Config.blockSign h)), evNf true)
  else if bits h 56 8 = 0 then (List.replicate n 0, EventCounts.zero)
  else if ladderReserved f (bits h 51 2) then (List.replicate n 0, evMal n)
  else if (billetSlots h).any (fun s => (decodeE4M3 s.2).isNan) then (List.replicate n (f32Nan (Config.blockSign h)), evNf true)
  else
    let sc := billetScale (bits h 56 8) (bits h 53 3)
    let kept := keptSlots none (billetSlots h)
    let real (s : Nat × Nat) : Bool := decide (escElem f s.1 < n)
    let slots := kept.1.filter real
    let lad := ladder2 f (bits h 51 2)
    let one (i : Nat) : Half × EventCounts :=
      match slots.find? (fun s => escElem f s.1 == i) with
      | some s =>
        match decodeE4M3 s.2 with
        | .fin neg m c => let r := f32Held neg (m * sc.1 * 8) (c * sc.2); (r.1, evSat r.2)
        | _ => (0, EventCounts.zero)
      | none =>
        match billetCode f (bits data (w * i) w) with
        | some (neg, ix) =>
          let e := (lad[ix]?).getD 0
          if e = 0 then (0, EventCounts.zero) else let r := f32Held neg (e * sc.1) (2 * sc.2); (r.1, evSat r.2)
        | none => (0, evMal 1)
    let r := (List.range n).map one
    (r.map (·.1), (sumEvents (r.map (·.2))).add { EventCounts.zero with escapes := slots.length, malformed := (kept.2.filter real).length })

/-- Data bytes of one block of a Billet group. -/
def billetBlockBytes (f : Nat) : Nat := if f = 0x11 then 96 else 64

/-- Decodes the first `n` elements of a Billet group (R142). -/
def decodeBilletGroup (f : Nat) (l : List Byte) (n : Nat) : List Half × EventCounts :=
  let be := blockElems f
  let r := (List.range 4).map (fun b =>
    decodeBillet f (le l (8 * b) 8) (le l (32 + billetBlockBytes f * b) (billetBlockBytes f)) (min be (n - be * b)))
  (r.flatMap (·.1), sumEvents (r.map (·.2)))

/-- Decodes the first `n` elements of a group, or of a cell of a format without blocks, to FP32 (R146). The events
count the elements decoded. -/
def decodeGroup (f : Nat) (scale : Half) (l : List Byte) (n : Nat) : List Half × EventCounts :=
  let r :=
    if isMx f then decodeMxGroup f l n
    else if isBillet f then decodeBilletGroup f l n
    else
      let v := leVal l
      let w := elemBits f
      let q := (List.range n).map (fun i => decodeElem f scale (bits v (w * i) w))
      (q.map (·.1), sumEvents (q.map (·.2)))
  (r.1, { r.2 with decoded := n })

/-! ### Encoding (R147–R154) -/

/-- Rounds `n / d` to an index of a rising list of values in halves: the entry chosen by the rounding mode, with the
top entry and true above the list (R150, R152). Under RND 2 a value below half the first entry above 0 may round up to it: R150 and
R152 decide for a Billet body element, and not the last row of Table — Special values on conversion (the model's choice, log entry 66). -/
def roundLadder (rnd r : Nat) : Nat → List Nat → Nat → Nat → Nat × Bool
  | i, [], _, _ => (i, true)
  | i, [a], n, d => (i, qlt a 2 n d)
  | i, a :: b :: l, n, d =>
    if !qlt n d b 2 then roundLadder rnd r (i + 1) (b :: l) n d
    else if !qlt a 2 n d then (i, false)
    else if roundsUp rnd r (i % 2 == 1) (2 * n - a * d) ((b - a) * d) then (i + 1, false) else (i, false)

/-- A signed magnitude at a position of a block. -/
abbrev Elem := Nat × Bool × Nat × Nat

/-- The first element of greatest magnitude that satisfies `p`. -/
def greatest (p : Elem → Bool) : List Elem → Option Elem
  | [] => none
  | x :: r =>
    if p x then
      match greatest p r with
      | some y => if qlt x.2.2.1 x.2.2.2 y.2.2.1 y.2.2.2 then some y else some x
      | none => some x
    else greatest p r

/-- Chooses at most `k` escapes (R148): the positions escaped and the body left. -/
def chooseEscapes (f : Nat) : Nat → List Elem → List Elem × List Elem
  | 0, body => ([], body)
  | k + 1, body =>
    match greatest (fun x => f == 0x10 || x.1 % 2 == 0) body with
    | none => ([], body)
    | some c =>
      let rest := body.filter (fun x => x.1 != c.1)
      match greatest (fun _ => true) rest with
      | some b =>
        if 0 < b.2.2.1 && qlt (2 * b.2.2.1) b.2.2.2 c.2.2.1 c.2.2.2 then
          let r := chooseEscapes f k rest; (c :: r.1, r.2)
        else ([], body)
      | none => ([], body)

/-- SEXP and SMAN of the scale for a greatest body magnitude M, and whether the upper clamp applied (R149). -/
def billetScaleFor (m d top2 : Nat) : Nat × Nat × Bool :=
  let sn := 2 * m
  let sd := d * top2
  let e := flog2 sn sd
  let p := scale2 sn sd (-e)
  let sman := ceilDiv (8 * p.1) p.2 - 8
  let e' := if sman = 8 then e + 1 else e
  let sman' := if sman = 8 then 0 else sman
  if e' < -126 then (1, 0, false)
  else if e' > 127 then (254, 7, true)
  else ((e' + 127).toNat, sman', false)

/-- Encodes a Billet block from `blockElems` values, padding as zero: header, codes and events. `r i` gives the 12
random bits of position i. -/
def encodeBillet (w : Nat) (r : Nat → Nat) (xs : List Fp) : Nat × List Nat × EventCounts :=
  let f := fwFmt w
  let rnd := fwRnd w
  let zero : Nat × List Nat × EventCounts := (0, List.replicate xs.length 0, EventCounts.zero)
  if xs.any (fun x => !x.isFinite) then
    let h := 0xFF * 2 ^ 56
    (h + billetChk h, List.replicate xs.length 0, evNf true)
  else
    let el : List Elem := xs.zipIdx.map (fun p => match p.1 with | .fin s n d => (p.2, s, n, d) | _ => (p.2, false, 0, 1))
    if el.all (fun x => x.2.2.1 == 0) then zero
    else
      let ch := chooseEscapes f (fwEscMax w) el
      let lad := ladder2 f (fwLadder w)
      match greatest (fun _ => true) ch.2 with
      | none => zero
      | some m =>
        let sc := billetScaleFor m.2.2.1 m.2.2.2 (ladderTop2 f (fwLadder w))
        let s := billetScale sc.1 sc.2.1
        let esc := (List.range xs.length).filterMap (fun i => (ch.1.find? (fun x => x.1 == i)).map (fun x =>
          (i, encodeSat fmtE4M3 rnd (r i) x.2.1 (x.2.2.1 * s.2) (x.2.2.2 * s.1 * 8))))
        let code (i : Nat) : Nat × Bool :=
          match ch.2.find? (fun x => x.1 == i) with
          | none => (0, false)
          | some x =>
            let q := roundLadder rnd (r i) 0 lad (x.2.2.1 * s.2) (x.2.2.2 * s.1)
            let c := match f with
              | 0x10 => ofBool x.2.1 * 8 + q.1
              | 0x11 => ofBool x.2.1 * 4 + q.1
              | _ => if q.1 = 0 then 0 else if x.2.1 then 3 else 1
            (c, q.2)
        let codes := (List.range xs.length).map code
        let isZero := (codes.all (fun c => match f with | 0x10 => c.1 % 8 == 0 | 0x11 => c.1 % 4 == 0 | _ => c.1 == 0)) &&
          esc.all (fun e => e.2.1 % 128 == 0)
        if isZero then zero
        else
          let pos (e : Nat × Nat × Bool) : Nat := if f = 0x10 then e.1 else e.1 / 2
          let slots := esc.zipIdx.map (fun p => pos p.1 * 2 ^ (28 + 7 * p.2) + p.1.2.1 * 2 ^ (4 + 8 * p.2))
          let h := sc.1 * 2 ^ 56 + sc.2.1 * 2 ^ 53 + fwLadder w * 2 ^ 51 + esc.length * 2 ^ 49 + slots.foldl (· + ·) 0
          let sat := (codes.filter (·.2)).length + (esc.filter (·.2.2)).length
          (h + billetChk h, codes.map (·.1), { EventCounts.zero with escapes := esc.length, saturated := sat })

/-- Packs codes of `w` bits into `n` little-endian bytes, element 0 lowest. -/
def packCodes (w n : Nat) (l : List Nat) : List Byte := leBytes n (l.foldr (fun c v => v * 2 ^ w + c) 0)

/-- The greatest finite element magnitude of an MX format (R151), as a fraction. -/
def mxTop (f : Nat) : Nat × Nat :=
  match f with
  | 0x05 => (448, 1) | 0x06 => (57344, 1) | 0x07 => (28, 1) | 0x08 => (15, 2) | 0x09 => (6, 1) | _ => (127, 64)

/-- Encodes one finite MX element: its code and whether it was held at the greatest magnitude, for MXINT8 127/64 of either sign (R151,
log entry 66). -/
def encodeMxElem (f rnd r : Nat) (neg : Bool) (n d : Nat) : Nat × Bool :=
  match f with
  | 0x05 => encodeSat fmtE4M3 rnd r neg n d
  | 0x06 => encodeSat fmtE5M2 rnd r neg n d
  | 0x07 => encodeSat fmtE3M2 rnd r neg n d
  | 0x08 => encodeSat fmtE2M3 rnd r neg n d
  | 0x09 => encodeSat fmtE2M1 rnd r neg n d
  | _ =>
    let q := encodeInt rnd r 127 (64 * n) d
    (if neg then (256 - q.1) % 256 else q.1, q.2)

/-- Encodes an MX block of 32 values: scale byte, codes and events (R151). -/
def encodeMx (w : Nat) (r : Nat → Nat) (xs : List Fp) : Nat × List Nat × EventCounts :=
  let f := fwFmt w
  if xs.any (fun x => !x.isFinite) then (0xFF, List.replicate xs.length 0, evNf true)
  else
    let el : List Elem := xs.zipIdx.map (fun p => match p.1 with | .fin s n d => (p.2, s, n, d) | _ => (p.2, false, 0, 1))
    match greatest (fun _ => true) el with
    | none => (0, [], EventCounts.zero)
    | some m =>
      if m.2.2.1 = 0 then (0, List.replicate xs.length 0, EventCounts.zero)
      else
        let t := mxTop f
        let x := max (-127) (min 127 (clog2 (m.2.2.1 * t.2) (m.2.2.2 * t.1)))
        let c := el.map (fun e => let p := scale2 e.2.2.1 e.2.2.2 (-x); encodeMxElem f (fwRnd w) (r e.1) e.2.1 p.1 p.2)
        ((x + 127).toNat, c.map (·.1), { EventCounts.zero with saturated := (c.filter (·.2)).length })

/-- Encodes one value in a format without blocks (R154). -/
def encodeElem (w : Nat) (scale : Half) (r : Nat) (x : Half) : Nat × EventCounts :=
  let rnd := fwRnd w
  let signed (f : FpFmt) (nanCode infCode : Nat) : Nat × EventCounts :=
    let top (neg : Bool) := ofBool neg * 2 ^ (f.eb + f.mb)
    match f32 x with
    | .fin s n d => let c := encodeSat f rnd r s n d; (c.1, evSat c.2)
    | .inf s => (top s + infCode, evNf true)
    | .nan s => (top s + nanCode, evNf true)
  match fwFmt w with
  | 0x00 => (x.toNat, EventCounts.zero)
  | 0x01 => signed fmtBf16 0x7FC0 0x7F80
  | 0x02 => signed fmtF16 0x7E00 0x7C00
  | 0x03 => signed fmtE4M3 0x7F 0x7F
  | 0x04 => signed fmtE5M2 0x7E 0x7C
  | f =>
    match f32 x, f32 scale with
    | .fin s n d, .fin t m c =>
      let neg := s != t
      let lim := 2 ^ (elemBits f - 1) - ofBool (!neg)
      let q := encodeInt rnd r lim (n * c) (d * m)
      (if neg then (2 ^ elemBits f - q.1) % 2 ^ elemBits f else q.1, evSat q.2)
    | .fin _ _ _, _ => (0, EventCounts.zero)
    | _, _ => (0, evNf true)

/-- Encodes the `xs.length` values of one group, or of one cell of a format without blocks, padded with zeros: its
bytes and events. `r i` gives the random bits of element i of the group. -/
def encodeGroup (w : Nat) (scale : Half) (r : Nat → Nat) (xs : List Half) : List Byte × EventCounts :=
  let f := fwFmt w
  let n := groupElems f
  let all := (xs ++ List.replicate n 0).take n
  let be := blockElems f
  if isMx f then
    let bl := (List.range 32).map (fun b => encodeMx w (fun i => r (32 * b + i)) (((all.drop (32 * b)).take 32).map f32))
    (leBytes 32 (bl.foldr (fun b v => v * 256 + b.1) 0) ++ packCodes (elemBits f) (128 * elemBits f) (bl.flatMap (·.2.1)),
      sumEvents (bl.map (·.2.2)))
  else if isBillet f then
    let bl := (List.range 4).map (fun b => encodeBillet w (fun i => r (be * b + i)) (((all.drop (be * b)).take be).map f32))
    (bl.flatMap (fun b => leBytes 8 b.1) ++ bl.flatMap (fun b => packCodes (elemBits f) (billetBlockBytes f) b.2.1),
      sumEvents (bl.map (·.2.2)))
  else
    let c := xs.zipIdx.map (fun p => encodeElem w scale (r p.2) p.1)
    (packCodes (elemBits f) 32 (c.map (·.1)), sumEvents (c.map (·.2)))

/-- A scale that R134 allows: finite and non-zero. -/
def scaleOk (s : Half) : Bool :=
  match f32 s with
  | .fin _ n _ => n != 0
  | _ => false

/-- Decodes `n` elements stored from the start of a byte image. -/
def decodeImage (f : Nat) (scale : Half) (l : List Byte) (n : Nat) : List Half × EventCounts :=
  let ge := groupElems f
  let r := (List.range (ceilDiv n ge)).map (fun g =>
    decodeGroup f scale ((l.drop (groupBytes f * g)).take (groupBytes f)) (min ge (n - ge * g)))
  (r.flatMap (·.1), sumEvents (r.map (·.2)))

/-- Encodes a list of values as a byte image of `fmtBytes` bytes; `r i` gives the random bits of element i. -/
def encodeImage (w : Nat) (scale : Half) (r : Nat → Nat) (xs : List Half) : List Byte × EventCounts :=
  let f := fwFmt w
  let ge := groupElems f
  let q := (List.range (ceilDiv xs.length ge)).map (fun g =>
    encodeGroup w scale (fun i => r (ge * g + i)) ((xs.drop (ge * g)).take ge))
  ((q.flatMap (·.1)).take (fmtBytes f xs.length), sumEvents (q.map (·.2)))

end Sys2Proof.Machine
end

