-- ==== Sys2Proof/Machine/Melt.lean ====
section
/-! DEFINITION. Melts and their windows (07_crucibles.md, 08_narrow_safeguards.md): the descriptor, slots and grants, the
close of a window, the skip and the end of a step, and the tensor status record. -/

namespace Sys2Proof.Machine

/-! ### The descriptor (Table — Melt descriptor) -/

def Melt.strict (m : Melt) : Bool := bit (le m.desc 1 1) 0
def Melt.rotate (m : Melt) : Bool := bit (le m.desc 1 1) 1
def Melt.recipe (m : Melt) : Nat := le m.desc 3 1
def Melt.outFmt (m : Melt) : Nat := le m.desc 4 2
def Melt.deadline (m : Melt) : Nat := le m.desc 6 2
def Melt.elements (m : Melt) : Nat := le m.desc 8 4
def Melt.contrib (m : Melt) : Nat := le m.desc 12 2
def Melt.maxSlots (m : Melt) : Nat := le m.desc 14 2
def Melt.roundSeed (m : Melt) : Nat := le m.desc 16 8
def Melt.rotSeed (m : Melt) : Nat := le m.desc 24 8
def Melt.masterPsa (m : Melt) : Nat := le m.desc 32 6
def Melt.m1Psa (m : Melt) : Nat := le m.desc 40 6
def Melt.m2Psa (m : Melt) : Nat := le m.desc 48 6
def Melt.residPsa (m : Melt) : Nat := le m.desc 56 6
def Melt.spillPsa (m : Melt) : Nat := le m.desc 64 6
def Melt.outPsa (m : Melt) : Nat := le m.desc 72 6
def Melt.paramPsa (m : Melt) : Nat := le m.desc 80 6
def Melt.ring (m : Melt) : Nat := le m.desc 88 1
def Melt.pushCtx (m : Melt) : Nat := le m.desc 90 2 % 2 ^ 14
def Melt.msrc (m : Melt) : Nat := le m.desc 92 2 % 2 ^ 10
def Melt.satN (m : Melt) : Nat := if le m.desc 94 2 = 0 then 4096 else le m.desc 94 2

/-- Windows of the shard, the elements and the chunks of one (R158). -/
def Melt.windowCount (m : Melt) : Nat := ceilDiv m.elements 65536
def Melt.winElems (m : Melt) (w : Nat) : Nat := min 65536 (m.elements - 65536 * w)
def Melt.winChunks (m : Melt) (w : Nat) : Nat := ceilDiv (m.winElems w) 512

/-- Where the image and the close record of a window lie in the spill range (R159). -/
def Melt.imagePsa (m : Melt) (w : Nat) : Nat := m.spillPsa + 262144 * w
def Melt.closePsa (m : Melt) (w : Nat) : Nat := m.spillPsa + 262144 * m.windowCount + 512 * w

/-- The formats a crucible accepts (R155). -/
def crucibleFmt (f : Nat) : Bool := fmtKnown f && !isInt f

def Window.reset : Window :=
  { place := .faulted, left := 0, acc := [], bitmap := [], counts := [], events := EventCounts.zero, marked := false,
    partialClose := false, missing := 0, closeHeat := 0, closeOrder := 0, wasSpilled := false }

def State.modWindow (s : State) (m w : Nat) (f : Window → Window) : State :=
  s.modMelt m (fun x => { x with windows := tmod Window.reset x.windows w f })

/-- Adds to a counter of a crucible unless the partition is confidential (R195). Counter 2 × WIN holds a window's low
field or its whole, 2 × WIN + 1 its high field. -/
def State.countPour (s : State) (p c k n : Nat) : State := if (s.part p).confidential then s else s.countCru c k n

/-! ### Slots (R164–R167) -/

/-- The slot that a window's place holds: crucible and slot. -/
def WindowPlace.slot : WindowPlace → Option (Nat × Nat)
  | .accum c k => some (c, k)
  | .closed c k => some (c, k)
  | .spilling c k => some (c, k)
  | .handed _ s _ => s
  | .started _ s _ => s
  | _ => none

/-- The window is in ACCUM. -/
def Window.open (w : Window) : Bool := match w.place with | .accum _ _ => true | _ => false

/-- The window counts against MAX_SLOTS: it is in a slot and is not being spilled (R166). -/
def Window.inSlot (w : Window) : Bool := match w.place with | .spilling _ _ => false | p => p.slot.isSome

def Melt.slotsHeld (m : Melt) : Nat := (m.windows.filter (fun w => w.2.inSlot)).length

/-- A free slot of crucible `c`. -/
def State.freeSlot (s : State) (c : Nat) : Option Nat :=
  if !bit s.crucibles.passed c then none
  else (List.range 32).find? (fun k => tget SlotUse.free s.crucibles.slots (32 * c + k) == .free)

/-- The crucible and slot that window `w` of melt `m` is given (R165). -/
def State.slotFor (s : State) (m w : Nat) : Option (Nat × Nat) :=
  ((List.range 8).map (fun i => (m + w + i) % 8)).findSome? (fun c => (s.freeSlot c).map (fun k => (c, k)))

/-- Frees a slot, cleared (R167). -/
def State.releaseSlot (s : State) (p : Option (Nat × Nat)) : State :=
  match p with
  | some (c, k) => { s with crucibles := { s.crucibles with slots := tdel s.crucibles.slots (32 * c + k) } }
  | none => s

/-- Windows of a melt that still wait for a slot. -/
def Melt.waiting (m : Melt) : Nat := if m.state = .armed then m.windowCount - m.nextWindow else 0

/-- The armed melts with waiting windows, in the order of R165. -/
def State.waitingMelts (s : State) : List Nat :=
  let ms := (s.crucibles.melts.filter (fun x => decide (0 < x.2.waiting))).map (fun x => (x.2.armOrder, x.1))
  (sortBy (fun a b => decide (a.1 < b.1) || (a.1 == b.1 && decide (a.2 ≤ b.2))) ms).map (·.2)

/-! ### Messages (R168, Table — Crucible CTL payload) -/

/-- A CTL message of the crucible complex; one that cannot be delivered is dropped (R170), and counted as R357 says. -/
def State.crucibleCtl (s : State) (ep part m kind cidx win minFmt status step off expiry elems : Nat) : State :=
  s.send (oneCell 0x6 0 ep (s.endpoint 33) part m
    ([BitVec.ofNat 8 kind, BitVec.ofNat 8 cidx] ++ leBytes 2 win ++ [BitVec.ofNat 8 minFmt, BitVec.ofNat 8 status, 0, 0] ++ leBytes 4 step ++
      leBytes 4 off ++ leBytes 8 expiry ++ leBytes 4 elems))

/-- A message of one kind to every contributor that is not disabled (R161). -/
def State.toContributors (s : State) (m kind win status expiry elems : Nat) : State :=
  let x := s.melt m
  x.contributors.zipIdx.foldl (fun a (c : Contributor × Nat) =>
    if c.1.disabled then a else a.crucibleCtl c.1.ep x.part m kind c.2 win x.minFmt status x.step 0 expiry elems) s

/-! ### Opening a window (R165, R168) -/

/-- A window opens in a slot, and GRANTs go out. -/
def State.openWindow (s : State) (m c k : Nat) : State :=
  let x := s.melt m
  let w := x.nextWindow
  let s1 := s.modMelt m (fun y => { y with
    nextWindow := w + 1
    windows := tins y.windows w { Window.reset with place := .accum c k, left := x.deadline } })
  let s2 : State := { s1 with crucibles := { s1.crucibles with slots := tins s1.crucibles.slots (32 * c + k) (.held m w) } }
  s2.toContributors m 0x10 w 0 (heatMod (s.heat.count + x.deadline)) (x.winElems w)

/-- WINDOW_OPEN: the first window waiting that may hold a slot is given a free one (R165). -/
def execWindowOpen (s : State) : Out :=
  done (match s.waitingMelts.find? (fun m => decide ((s.melt m).slotsHeld < (s.melt m).maxSlots)) with
  | none => s
  | some m => match s.slotFor m (s.melt m).nextWindow with
    | some (c, k) => s.openWindow m c k
    | none => s)

/-! ### The tensor status record (R198–R203, R209, R210) -/

/-- The upshift order: the next format of a minimum (R200). -/
def upshift (f : Nat) : Option Nat :=
  match fmtRank f with
  | 1 => some 0x11 | 2 => some 0x10 | 3 => some 0x07 | 4 => some 0x03 | 5 => some 0x01 | _ => none

/-- Events that R199 weighs. -/
def EventCounts.squeezed (e : EventCounts) : Nat := e.escapes + e.saturated

/-- A step calls for an upshift (R199). -/
def Melt.callsUpshift (m : Melt) : Bool := decide (m.totals.decoded < m.totals.squeezed * m.satN) || m.windowRule

/-- What a record's evaluation makes of the melt: CLEAN and the minimum format (R200, R202). -/
def Melt.evaluate (m : Melt) (outcome : Nat) : Melt :=
  if outcome = 5 || outcome = 6 then m
  else
    let up := m.callsUpshift
    let next := if up then upshift m.minFmt else none
    let clean := !up && m.totals.nonfinite == 0 && m.totals.malformed == 0
    { m with
      minFmt := next.getD m.minFmt
      clean := if next.isSome then 0 else if clean then min 65535 (m.clean + 1) else 0 }

/-- Contributors with no MISSING bit in a closed window, the disabled left out (R161, R209). -/
def Melt.present (m : Melt) : Nat :=
  (m.contributors.zipIdx.filter (fun (c : Contributor × Nat) => !c.1.disabled && !bit m.missingAny c.2)).length

/-- The 64 bytes of a record; `n` is the melt after evaluation. -/
def Melt.record (m n : Melt) (id outcome status eventWindow heat : Nat) : List Byte :=
  let evaluated := !(outcome = 5 || outcome = 6)
  let up := evaluated && m.callsUpshift
  let flags := ofBool (up && (upshift m.minFmt).isSome) + ofBool (up && (upshift m.minFmt).isNone) * 2 +
    ofBool (decide (64 ≤ n.clean) && m.minFmt != 0x12) * 4 + ofBool m.nfWindow.isSome * 8 + ofBool (m.totals.malformed != 0) * 16 +
    ofBool (m.castSat != 0) * 32 + ofBool m.pushFail * 64
  let sat (w v : Nat) : List Byte := leBytes w (min (2 ^ (8 * w) - 1) v)
  leBytes 2 id ++ [BitVec.ofNat 8 m.part, BitVec.ofNat 8 outcome, BitVec.ofNat 8 status, BitVec.ofNat 8 flags, BitVec.ofNat 8 m.minFmt, BitVec.ofNat 8 n.minFmt] ++
    leBytes 4 m.step ++ leBytes 6 heat ++ leBytes 2 n.clean ++ sat 5 m.totals.decoded ++ sat 5 m.totals.escapes ++
    sat 5 m.totals.saturated ++ sat 5 m.totals.malformed ++ sat 4 m.totals.nonfinite ++ leBytes 2 (m.nfCidx.getD 0xFFFF) ++
    leBytes 2 m.present ++ leBytes 4 eventWindow ++ leBytes 4 (if m.closedCount = 0 then 0xFFFFFFFF else (m.worst.map (·.2)).getD 0xFFFFFFFF) ++ leBytes 4 m.partialWindows ++ sat 4 m.castSat

/-! ### What follows the stores of an engine (R190, R213) -/

/-- A post has been done: its source is raised; a step's DONE goes out, and its melt is in IDLE (R190, R213). -/
def State.postDone (s : State) (p : Post) : State :=
  let s1 := match p.source with | some k => s.fire k p.part | none => s
  match p.melt with
  | some (m, st) => (s1.toContributors m 0x13 0 st 0 0).modMelt m (fun x => { x with ending := false })
  | none => s1

/-- The posts go on, those of one partition and class one after another. -/
def State.runPosts (s : State) : State :=
  s.coh.posts.foldl (fun a p =>
    if a.coh.posts.any (fun q => q.part == p.part && q.cls == p.cls) then a.modCoh (fun c => { c with posts := c.posts ++ [p] })
    else
      let r := a.postGoes p
      if r.1.postOver r.2 then r.1.postDone r.2 else r.1.modCoh (fun c => { c with posts := c.posts ++ [r.2] }))
    (s.modCoh (fun c => { c with posts := [] }))

/-- An engine makes stores one after another. -/
def State.storeAll (s : State) (p : Post) : State := (s.modCoh (fun c => { c with posts := c.posts ++ [p] })).runPosts

/-- The tongs' posts of a partition are carried out at once, as the quench sequencer does (R285). -/
def State.forcePosts (s : State) (part : Nat) : State :=
  let mine (p : Post) : Bool := p.part == part && p.cls == 3
  (s.coh.posts.filter mine).foldl (fun a p =>
    let r := match p.ring with
      | some (n, rec) => (match a.ringAt n with
        | some q => let x := a.ringStores part q rec; (a.setRing n x.1, x.2)
        | none => (a, []))
      | none => (a, p.stores)
    (r.2.foldl (fun b x => (b.pStore p.cls part x.1 x.2 false).2.postUses p { part := part, psa := x.1, len := x.2.length, write := true }) r.1).postDone p)
    (s.modCoh (fun c => { c with posts := c.posts.filter (fun p => !mine p) }))

/-- What is left of a melt when its step has ended: of its windows, that their cast was written in the step (R271). -/
def Melt.ended (m : Melt) : Melt :=
  { m with
    state := .idle, windows := m.windows.filter (fun w => w.2.place == .finalised), nextWindow := 0, closedCount := 0, finalised := 0, spilledCount := 0, pushes := 0 }

/-- A step ends: the record is written; once that is complete, the Starter source is raised, DONE is sent, and the melt is in IDLE (R190,
R209, R213). -/
def State.endStep (s : State) (m outcome status eventWindow : Nat) : State :=
  let x := s.melt m
  let n := x.evaluate outcome
  let rec64 := x.record n m outcome status eventWindow s.heat.count
  (s.modMelt m (fun _ => { n.ended with
    closedCount := n.closedCount, finalised := n.finalised, spilledCount := n.spilledCount, ending := true })).storeAll {
      part := x.part, cls := 2, ring := some (.status (16 * x.part + x.ring), rec64), source := some (0x500 + x.msrc), melt := some (m, status) }

/-- The melt is in IDLE and no step of it is ending. -/
def Melt.resting (m : Melt) : Bool := m.state == .idle && !m.ending

/-! ### Skips and aborts (R184, R192, R194, R205) -/

/-- The worst window so far, with another window's counters taken in (R198). -/
def worseOf (b : Option (Nat × Nat)) (e : EventCounts) (w : Nat) : Option (Nat × Nat) :=
  match b with
  | none => some (e.squeezed, w)
  | some (n, v) => if n < e.squeezed || (n = e.squeezed && w < v) then some (e.squeezed, w) else some (n, v)

/-- Frees every slot of a melt and the staging buffers of its pours; later cells of those pours are late while the melt is open (R172).
-/
def State.freeMelt (s : State) (m : Nat) (late : Bool) : State :=
  let s1 := (s.melt m).windows.foldl (fun a w => a.releaseSlot w.2.place.slot) s
  { s1 with
    crucibles := { s1.crucibles with
      staging := s1.crucibles.staging.filter (fun t => t.2.melt != m)
      refused := (s1.crucibles.staging.filter (fun t => t.2.melt == m)).foldl (fun r t =>
        tins r t.1 { melt := m, cru := t.2.cru, count := if late then 4 else 0, part := (s.melt m).part, hidden := (s.part (s.melt m).part).confidential })
        s1.crucibles.refused }
    anvils := { s1.anvils with anvils := tmap s1.anvils.anvils (fun _ v => { v with queue := v.queue.filter (·.melt != m) }) } }

/-- A melt that is closed for good: what is left of the pours of its ended steps is counted nowhere (R172). -/
def State.forgetPours (s : State) (m : Nat) : State :=
  { s with crucibles := { s.crucibles with
      refused := tmap s.crucibles.refused (fun _ r => if r.melt = m && r.count = 4 then { r with count := 0 } else r) } }

/-- The counters of the windows still open join the step totals, the choice of the worst window and the window rule when a step is
skipped or aborted (R198, R200). -/
def Melt.addOpen (m : Melt) : Melt :=
  (m.windows.filter (fun w => w.2.open)).foldl (fun y w => { y with
    totals := y.totals.add w.2.events, worst := worseOf y.worst w.2.events w.1
    windowRule := y.windowRule || decide (16 * w.2.events.decoded < w.2.events.squeezed * y.satN) }) m

/-- A step in ARMED is skipped or aborted: WITHDRAWs, the open windows' counters, the slots, then the step's end. -/
def State.skipStep (s : State) (m outcome status eventWindow : Nat) : State :=
  let wins := (s.melt m).windows.filter (fun w => w.2.open)
  let s1 := wins.foldl (fun a w => a.toContributors m 0x11 w.1 0 0 0) s
  ((s1.modMelt m Melt.addOpen).freeMelt m true).endStep m outcome status eventWindow

/-- A step that a reset or a switch-over stopped ends ABORTED (R194, R210, R510, R537). -/
def State.stopStep (s : State) (m : Nat) : State := ((s.modMelt m Melt.addOpen).freeMelt m true).endStep m 5 stQuenched 0xFFFFFFFF

/-! ### Closing a window (R179–R186) -/

/-- Contributors that have any chunk of a window unmarked, as a mask; the disabled ones by the same rule. -/
def Melt.missingOf (m : Melt) (w : Nat) (x : Window) : Nat :=
  maskOf ((List.range m.contrib).filter (fun c => (List.range (m.winChunks w)).any (fun k => !x.bitmap.contains (128 * c + k))))

/-- The close record of a window (Table — Close record). -/
def Window.closeRecord (x : Window) : List Byte :=
  fit 512 ((List.range 128).flatMap (fun k => leBytes 2 (tget 0 x.counts k)) ++ leBytes 32 x.missing ++ leBytes 8 x.closeHeat ++
    [BitVec.ofNat 8 (ofBool x.partialClose), BitVec.ofNat 8 (ofBool x.marked + ofBool x.wasSpilled * 2)])

/-- The store of a window's close record: refused by its status, or made in its turn (R182). -/
def State.storeClose (s : State) (m w : Nat) (v : Window) : Nat × State :=
  let x := s.melt m
  let st := s.accStatus { part := x.part, psa := x.closePsa w, len := 512, write := true }
  (st, if st = stOk then s.storeAll { part := x.part, cls := 2, stores := [(x.closePsa w, v.closeRecord)] } else s)

/-- The last window of a step has closed: the step is skipped for a non-finite value, or finalisation starts (R185,
R186). -/
def State.lastClosed (s : State) (m : Nat) : State :=
  let x := s.melt m
  if x.closedCount < x.windowCount then s
  else if x.nfWindow.isSome then (s.freeMelt m true).endStep m 3 stInvalid (x.nfWindow.getD 0xFFFFFFFF)
  else s.modMelt m (fun y => { y with state := .final })

/-- Window `w` closes, FULL or PARTIAL (R179–R182); a STRICT melt's first PARTIAL window skips the step (R184), and so
does a close record that is refused (R192). -/
def State.closeWindow (s : State) (m w : Nat) (part : Bool) : State :=
  let x := s.melt m
  match tfind x.windows w with
  | none => s
  | some v =>
    match v.place with
    | .accum c k =>
      let v1 : Window := { v with
        place := .closed c k, partialClose := part, missing := if part then x.missingOf w v else 0
        closeHeat := s.heat.count, closeOrder := s.crucibles.closeOrder }
      let s1 := s.modMelt m (fun y => { y with
        windows := tins y.windows w v1, closedCount := y.closedCount + 1, totals := y.totals.add v.events
        worst := worseOf y.worst v.events w
        windowRule := y.windowRule || decide (16 * v.events.decoded < v.events.squeezed * y.satN)
        missingAny := (List.range 256).foldl (fun a i => if bit v1.missing i then setBit a i true else a) y.missingAny
        partialWindows := y.partialWindows + ofBool part })
      let s2 : State := { s1 with crucibles := { s1.crucibles with closeOrder := s1.crucibles.closeOrder + 1 } }
      let s3 := s2.countPour x.part c (if part then 16 else 14) 1
      let r := s3.storeClose m w v1
      if part && x.strict then r.2.skipStep m 2 stPartial 0xFFFFFFFF
      else if r.1 ≠ stOk then r.2.skipStep m 6 stFaulted w
      else r.2.lastClosed m
    | _ => s

/-- Staging buffers of a window that are open at its deadline are discarded, counted late by the cells they hold
(R180). -/
def State.discardStaging (s : State) (m w : Nat) : State :=
  let mine := s.crucibles.staging.filter (fun t => t.2.melt == m && t.2.window == w)
  let s1 := mine.foldl (fun a t => a.countPour (s.melt m).part t.2.cru 8 t.2.held.length) s
  { s1 with crucibles := { s1.crucibles with
      staging := s1.crucibles.staging.filter (fun t => !(t.2.melt == m && t.2.window == w))
      refused := mine.foldl (fun r t => tins r t.1 { melt := m, cru := t.2.cru, count := 1, part := (s.melt m).part,
                                                     hidden := (s.part (s.melt m).part).confidential }) s1.crucibles.refused } }

/-- WINDOW_DEADLINE: a window at its deadline boundary expires and closes PARTIAL (R180, R181). -/
def execWindowDeadline (melt window : Nat) (s : State) : Out :=
  done (match tfind (s.melt melt).windows window with
  | none => s
  | some v =>
    if !v.open || v.left ≠ 0 then s
    else (s.discardStaging melt window).closeWindow melt window true)

/-! ### Spilling (R166) -/

/-- The oldest closed window in a slot among some melts. -/
def State.oldestClosed (s : State) (ok : Nat → Bool) : Option (Nat × Nat) :=
  let c := s.crucibles.melts.flatMap (fun x =>
    if ok x.1 then x.2.windows.filterMap (fun w => match w.2.place with | .closed _ _ => some (w.2.closeOrder, x.1, w.1) | _ => none) else [])
  match c with
  | [] => none
  | a :: r => some (r.foldl (fun b y => if y.1 < b.1 then y else b) a).2

/-- Windows of a melt that are being spilled. -/
def Melt.spilling (m : Melt) : Nat := (m.windows.filter (fun w => match w.2.place with | .spilling _ _ => true | _ => false)).length

/-- The window that R166 spills now: for a melt at its limit its own oldest closed one, else, with no slot free, the
device's. -/
def State.spillChoice (s : State) : Option (Nat × Nat) :=
  let ms := s.waitingMelts
  let atLimit := ms.filter (fun m => decide ((s.melt m).maxSlots ≤ (s.melt m).slotsHeld))
  let below := ms.filter (fun m => decide ((s.melt m).slotsHeld < (s.melt m).maxSlots))
  match atLimit.findSome? (fun m => if (s.melt m).spilling < (s.melt m).waiting then s.oldestClosed (· == m) else none) with
  | some x => some x
  | none =>
    let want := (below.map (fun m => min (s.melt m).waiting ((s.melt m).maxSlots - (s.melt m).slotsHeld))).foldl (· + ·) 0
    let under := (s.crucibles.melts.map (fun x => x.2.spilling)).foldl (· + ·) 0
    if under < want && (List.range 8).all (fun c => (s.freeSlot c).isNone) then s.oldestClosed (fun _ => true) else none

/-- WINDOW_SPILL: a closed window starts to spill (R166). -/
def execWindowSpill (s : State) : Out :=
  done (match s.spillChoice with
  | none => s
  | some (m, w) => s.modWindow m w (fun v => match v.place with | .closed c k => { v with place := .spilling c k } | _ => v))

/-- The image of a window: 65,536 accumulators. -/
def Window.image (v : Window) : List Byte := (List.range 65536).flatMap (fun i => leBytes 4 (tget 0 v.acc i).toNat)

/-- A finalising step meets a fault at a window: the first one is named, windows not started are not finalised, and
their slots and hand-off entries go (R192). -/
def State.meltFault (s : State) (m w : Nat) : State :=
  let x := s.melt m
  let gone (p : WindowPlace) : Bool := match p with | .started _ _ _ => false | .finalised => false | _ => true
  let s1 := (x.windows.filter (fun v => gone v.2.place)).foldl (fun a v => a.releaseSlot v.2.place.slot) s
  let s2 := s1.modMelt m (fun y => { y with
    faultWindow := y.faultWindow.orElse (fun _ => some w)
    windows := tmap y.windows (fun _ v => if gone v.place then { v with place := .faulted, acc := [] } else v) })
  { s2 with anvils := { s2.anvils with anvils := tmap s2.anvils.anvils (fun _ v => { v with queue := v.queue.filter (·.melt != m) }) } }

/-- The spill of a window is complete: its image is in the spill range, its slot is freed, its close record says so
(R166, R182, R192). A write that is refused skips the step, or faults the melt. -/
def State.spillDone (s : State) (melt window c k : Nat) (v : Window) (accs : List Access) : State :=
  let x := s.melt melt
  let v1 : Window := { v with place := .spilled c, wasSpilled := true, acc := [] }
  let r := s.pStore 2 x.part (x.imagePsa window) v.image false
  let q := (r.2.useLines 2 accs).storeClose melt window v1
  let s1 := q.2
  if r.1 ≠ stOk || q.1 ≠ stOk then
    (if x.state = .armed then s1.skipStep melt 6 stFaulted window else s1.meltFault melt window)
  else
    ((s1.releaseSlot (some (c, k))).modMelt melt (fun y => { y with
      windows := tins y.windows window v1, spilledCount := y.spilledCount + 1 })).countPour x.part c 18 1

/-- What a spill writes before its close record: the window's image. -/
def State.spillAccesses (s : State) (melt window : Nat) : List Access :=
  [{ part := (s.melt melt).part, psa := (s.melt melt).imagePsa window, len := 262144, write := true }]

/-- SPILL_WRITE_COMPLETE: the image is in the spill range, the slot is freed and the close record says so (R166, R182,
R192). -/
def execSpillWriteComplete (melt window : Nat) (s : State) : Out :=
  let x := s.melt melt
  done (match tfind x.windows window with
  | none => s
  | some v => match v.place with
    | .spilling c k =>
      if !s.allReady (s.spillAccesses melt window) then s.prepareAll 2 (s.spillAccesses melt window)
      else s.spillDone melt window c k v (s.spillAccesses melt window)
    | _ => s)

/-! ### Hand-off (R187) and the end of a step (R190, R192) -/

/-- The lowest window of a finalising step that has not been handed off. -/
def Melt.nextHand (m : Melt) : Option (Nat × Window) :=
  (m.windows.find? (fun w => match w.2.place with | .closed _ _ => true | .spilling _ _ => true | .spilled _ => true | _ => false))

/-- Anvils that the roster assigns to a partition now and that have room. -/
def State.handCandidates (s : State) (p : Nat) : List Nat :=
  (List.range 64).filter (fun a => (s.anvil a).enabled && (s.anvil a).part == p && decide ((s.anvil a).queue.length < 4))

/-- The anvil for a window of crucible `c`: fewest entries, then the crucible's forge, then the lowest index (R187). -/
def State.handTo (s : State) (p c : Nat) : Option Nat :=
  let rank (a : Nat) : Nat := (s.anvil a).queue.length * 1024 + (if a / 8 = c then 0 else 512) + a
  match s.handCandidates p with
  | [] => none
  | a :: r => some (r.foldl (fun b y => if rank y < rank b then y else b) a)

/-- An entry joins the hand-off queue of an anvil; one that works for its partition and runs no program runs the recipe
runner from then on (log entry 34). -/
def Anvil.takesEntry (v : Anvil) (h : HandOff) : Anvil :=
  { v with queue := v.queue ++ [h], mode := if v.mode = .idle ∧ v.enabled = true ∧ v.holder = v.part then .runner else v.mode }

/-- WINDOW_HAND_OFF: the next window of a finalising step goes to an anvil with room (R187). -/
def execWindowHandOff (melt : Nat) (s : State) : Out :=
  let x := s.melt melt
  done (if x.state ≠ .final || x.faultWindow.isSome then s
  else match x.nextHand with
    | none => s
    | some (w, v) =>
      let src : Option (Option (Nat × Nat) × Nat) := match v.place with
        | .closed c k => some (some (c, k), c)
        | .spilled c => some (none, c)
        | _ => none
      match src with
      | none => s
      | some (slot, c) => match s.handTo x.part c with
        | none => s
        | some a =>
          (s.modWindow melt w (fun y => { y with place := .handed a slot c })).modAnvil a (fun y =>
            y.takesEntry { melt := melt, window := w, step := x.step, slot := slot }))

/-- Nothing of a finalising step is left to do: every window has ended and every push has completed; a FAULTED step does not wait for
pushes (R162). -/
def Melt.stepDone (m : Melt) : Bool :=
  m.state == .final && (m.pushes == 0 || m.faultWindow.isSome) && m.windows.all (fun w => match w.2.place with | .finalised => true | .faulted => true | _ => false)

/-- OUTCOME and STATUS of a finalised step (Table — Step outcomes). -/
def Melt.outcome (m : Melt) : Nat × Nat :=
  if m.faultWindow.isSome then (4, stFaulted)
  else if m.partialWindows ≠ 0 then (1, stPartial)
  else (0, if m.pushFail then stPartial else stOk)

/-- STEP_END: the cast of every window is written and every push has completed (R190, R192). -/
def execStepEnd (melt : Nat) (s : State) : Out :=
  let x := s.melt melt
  done (if !x.stepDone then s
  else s.endStep melt x.outcome.1 x.outcome.2 (x.faultWindow.getD 0xFFFFFFFF))

/-! ### Quench, removed contributors, and the boundary -/

/-- Every melt of a quenching partition closes; its ID stays held until TOMBSTONE (R193). -/
def State.quenchMelts (s : State) (p : Nat) : State :=
  let ids := (s.crucibles.melts.filter (fun x => x.2.part == p && x.2.state != .free)).map (·.1)
  let s0 := s.modCoh (fun c => { c with posts := c.posts.filter (fun q => !(q.part == p && q.cls == 2)) })
  let s1 := ids.foldl (fun a m => (a.freeMelt m false).forgetPours m) s0
  { s1 with crucibles := { s1.crucibles with
      melts := s1.crucibles.melts.filter (fun x => !ids.contains x.1)
      heldIds := s1.crucibles.heldIds ++ ids.map (fun m => (m, p)) } }

/-- A member-set that removes endpoints disables their contributors (R161). -/
def State.disableContributors (s : State) (p : Nat) : State :=
  { s with crucibles := { s.crucibles with melts := tmap s.crucibles.melts (fun _ x =>
      if x.part = p then { x with contributors := x.contributors.map (fun c => { c with disabled := c.disabled || !s.isMember p c.ep }) } else x) } }

/-- melt-abort-step at its boundary (R194): true when the melt was still ARMED. -/
def State.abortStep (s : State) (m : Nat) : State × Bool :=
  if (s.melt m).state = .armed then (s.skipStep m 5 stQuenched 0xFFFFFFFF, true) else (s, false)

/-- The arm boundary of a step (R162, R198). -/
def State.armMelt (s : State) (m minFmt : Nat) : State :=
  s.modMelt m (fun x =>
    let f := if minFmt = 0x1F then x.minFmt else minFmt
    { x.ended with
      state := .armed, windows := [], step := x.step + 1, armHeat := s.heat.count, armOrder := s.crucibles.armOrder
      minFmt := f, clean := if f = x.minFmt then x.clean else 0
      totals := EventCounts.zero, worst := none, windowRule := false, nfWindow := none, nfCidx := none, missingAny := 0
      partialWindows := 0, castSat := 0, pushFail := false, faultWindow := none })

/-- The windows whose deadline boundary this is: those still open. -/
def State.windowsDue (s : State) : List (Nat × Nat) :=
  s.crucibles.melts.flatMap (fun x => (x.2.windows.filter (fun w => w.2.open && decide (w.2.left ≤ 1))).map (fun w => (x.1, w.1)))

/-- At a boundary: deadlines of the open windows, the staging buffers of those that expire, which are discarded (R180), the age of the
others (R174), the arm order, and melt IDs whose partition is no longer quenching. -/
def State.meltTick (s0 : State) : State :=
  let s := s0.windowsDue.foldl (fun a w => a.discardStaging w.1 w.2) s0
  { s with crucibles := { s.crucibles with
      melts := tmap s.crucibles.melts (fun _ x => { x with windows := tmap x.windows (fun _ w => if w.open then { w with left := w.left - 1 } else w) })
      staging := tmap s.crucibles.staging (fun _ t => { t with heats := t.heats + 1 })
      armOrder := s.crucibles.armOrder + 1
      heldIds := s.crucibles.heldIds.filter (fun h => (s.part h.2).state == .quenching) } }

end Sys2Proof.Machine
end

