-- ==== Sys2Proof/Machine/Pour.lean ====
section
/-! DEFINITION. Pours (R171–R179, R195–R197): the checks of a pour's header, the cells of an accepted pour, the decoding
of its staging units into a window's accumulators, and a train that stops short. -/

namespace Sys2Proof.Machine

/-- Elements of a staging unit of a format (R171). -/
def stagingElems (f : Nat) : Nat := if isMx f || f = 0x11 || f = 0x12 then 1024 else 512

/-- COUNT and OFFSET lie within a window of `n` elements, in whole staging units but for a last one that ends the window
(R171). -/
def pourFits (f offset count n : Nat) : Bool :=
  offset % 512 == 0 && decide (0 < count) && decide (offset + count ≤ n) && (count % stagingElems f == 0 || offset + count == n)

/-- The chunks that elements `lo` to `hi` of a window touch. -/
def chunksOf (lo hi : Nat) : List Nat := (List.range (ceilDiv hi 512 - lo / 512)).map (lo / 512 + ·)

/-- The chunks of a staging buffer that have not been added yet (R172 check 6). -/
def Staging.open (t : Staging) : List Nat :=
  let lo := t.offset + t.units * stagingElems t.fmt
  if lo < t.offset + t.count then chunksOf lo (t.offset + t.count) else []

/-- POUR_STATUS to the source of a refused pour (R172). -/
def State.pourStatus (s : State) (c : Cell) (status : Nat) : State :=
  s.send (oneCell 0x6 0 c.src (s.endpoint 33) c.part c.tag
    ([0x12, BitVec.ofNat 8 (le c.payload 1 1)] ++ leBytes 2 (le c.payload 2 2) ++
      [BitVec.ofNat 8 (s.melt c.tag).minFmt, BitVec.ofNat 8 status, 0, 0] ++ leBytes 4 (le c.payload 16 4) ++ leBytes 4 (le c.payload 8 4) ++ zeros 16))

/-- Remembers how the later cells of a port's train count (R172). -/
def State.refuseRest (s : State) (port melt cru count : Nat) : State :=
  { s with crucibles := { s.crucibles with refused := tins s.crucibles.refused port {
      melt := melt, cru := cru, count := count, part := (s.melt melt).part, hidden := (s.part (s.melt melt).part).confidential } } }

/-- A staging buffer whose train stops short (R174). -/
def State.truncateStaging (s : State) (port : Nat) : State :=
  match tfind s.crucibles.staging port with
  | none => s
  | some t =>
    let s1 : State := { s with crucibles := { s.crucibles with staging := tdel s.crucibles.staging port } }
    s1.countPour (s.melt t.melt).part t.cru 12 1

/-- What the checks of Table — Pour checks decide. -/
inductive PourFate where
  /-- Discarded; the counter of the crucible, how later cells count (Refused.count), and the status sent back. -/
  | refuse (counters : List Nat) (rest : Nat) (status : Option Nat)
  | accept (cru : Nat)
  deriving DecidableEq, Repr

/-- A window takes pours: it is open, and its deadline boundary has not passed (R180). -/
def Window.takes (w : Window) : Bool := w.open && w.left != 0

/-- Checks 2–6 of Table — Pour checks for a pour of melt `m`. -/
def State.pourChecks (s : State) (c : Cell) : PourFate :=
  let x := s.melt c.tag
  let cidx := le c.payload 1 1
  let w := le c.payload 2 2
  let f := fwFmt (le c.payload 4 2)
  let off := le c.payload 8 4
  let count := le c.payload 12 4
  let con := x.contributors[cidx]?
  let gone := con.any (·.disabled)
  let say (st : Nat) : Option Nat := if gone then none else some st
  let win := tfind x.windows w
  if !(decide (cidx < x.contrib) && con.any (fun k => k.ep == c.src && !k.disabled)) then .refuse [6] 0 (say stDenied)
  else if x.state ≠ .armed || x.step % 2 ^ 32 ≠ le c.payload 16 4 then .refuse [8] 1 none
  else if w < x.windowCount && win.isNone then .refuse [11] 2 none
  else if w < x.windowCount && !win.any Window.takes then .refuse [8] 1 none
  else if le c.payload 0 1 ≠ 1 || x.windowCount ≤ w || !crucibleFmt f || pourCells f count = 0 || 127 < pourCells f count ||
      !pourFits f off count (x.winElems w) then .refuse [6] 0 (say stInvalid)
  else if fmtRank f < fmtRank x.minFmt then .refuse [6, 7] 0 (say stFormatLow)
  else
    let mine := s.crucibles.staging.filter (fun t => t.2.melt == c.tag && t.2.window == w && t.2.cidx == cidx)
    let busy := mine.flatMap (fun t => t.2.open)
    match win.bind (fun v => v.place.slot), win with
    | some (k, _), some v =>
      if (chunksOf off (off + count)).any (fun j => v.bitmap.contains (128 * cidx + j) || busy.contains j) then .refuse [10] 0 (say stInvalid)
      else .accept k
    | _, _ => .refuse [8] 1 none

/-- The crucible in whose window a pour is counted (R195). -/
def State.pourCrucible (s : State) (m w : Nat) : Nat :=
  (((tfind (s.melt m).windows w).bind (fun v => v.place.slot)).map (·.1)).getD ((m + w) % 8)

/-- A pour that passes its checks opens its staging buffer on crucible k and counts, its header cell as taken (R172, R173, R195). -/
def State.pourOpened (s0 : State) (port : Nat) (cell : Cell) (k : Nat) : State :=
  let f := fwFmt (le cell.payload 4 2)
  let t : Staging := {
    melt := cell.tag, window := le cell.payload 2 2, step := (s0.melt cell.tag).step, cidx := le cell.payload 1 1, fmt := f,
    offset := le cell.payload 8 4, count := le cell.payload 12 4, cru := k, cells := pourCells f (le cell.payload 12 4), taken := 0, held := [], units := 0 }
  let st := tins s0.crucibles.staging port t
  let s1 : State := { s0 with crucibles := { s0.crucibles with
    staging := st, refused := tdel s0.crucibles.refused port
    peaks := tins s0.crucibles.peaks k (max (tget 0 s0.crucibles.peaks k) ((st.filter (fun y => y.2.cru == k)).length)) } }
  (s1.countPour cell.part k 4 1).countPour cell.part k 2 1

/-- The staging buffer of a port, set or freed. -/
def State.keepStaging (s : State) (port : Nat) (y : Option Staging) : State :=
  { s with crucibles := { s.crucibles with
    staging := match y with | some z => tins s.crucibles.staging port z | none => tdel s.crucibles.staging port } }

/-- A data cell that belongs to no pour in staging is discarded and counted with the pour it came with (R173, R174). -/
def State.strayCell (s0 : State) (port : Nat) (cell : Cell) : State :=
  match tfind s0.crucibles.refused port with
  | some r =>
    let count (k : Nat) : State := if r.hidden then s0 else s0.countPour r.part r.cru k 1
    (match r.count with
    | 1 => count 8
    | 4 => count 8
    | 2 => count 11
    | 3 => s0.countPort port 40 1
    | _ => s0)
  | none => s0.countPour cell.part 0 11 1

/-- POUR: the header of a COL train at the crucible complex (R85, R172, R173, R493, R503). -/
def execPour (port : Nat) (cell : Cell) (s : State) : Out :=
  done (if cell.typ ≠ 0x9 || cell.cls ≠ 4 || cell.seq ≠ 0 || cell.dst ≠ s.endpoint 33 then s
  else
    let x := s.melt cell.tag
    let w := le cell.payload 2 2
    let s0 := (s.takeCells port 4 [cell]).truncateStaging port
    if !s.admits port cell.part || (s.part cell.part).state ≠ .active then (s0.countPort port 40 1).refuseRest port cell.tag 0 3
    else if (s.twin.state ≠ .unpaired && !s.twin.state.isPrimary) || s.coolantStop then
      (s0.countPour cell.part ((cell.tag + w) % 8) 8 1).refuseRest port cell.tag ((cell.tag + w) % 8) 1
    else if x.state = .free || x.part ≠ cell.part then (s0.countPour cell.part 0 26 1).refuseRest port cell.tag 0 0
    else
      let cru := s.pourCrucible cell.tag w
      match s.pourChecks cell with
      | .refuse ks rest status =>
        let s1 := (ks.foldl (fun a k => a.countPour cell.part cru k 1) s0).refuseRest port cell.tag cru rest
        match status with | some st => s1.pourStatus cell st | none => s1
      | .accept k => s0.pourOpened port cell k)

/-- Adds decoded elements from element `off` on to the accumulators of a window (R176, R197): a non-finite element adds
nothing, a sum above the range is held and counted. -/
def addElems (acc : Tab Half) : Nat → List Half → Tab Half × Nat
  | _, [] => (acc, 0)
  | off, x :: r =>
    match f32 (tget 0 acc off), f32 x with
    | .fin a n d, .fin b m c =>
      let q := qadd a n d b m c
      let h := f32Held q.1 q.2.1 q.2.2
      let t := addElems (tset 0 acc off h.1) (off + 1) r
      (t.1, t.2 + ofBool h.2)
    | _, _ => addElems acc (off + 1) r

/-- The elements of a staging buffer's next unit: first element of the window, and how many. -/
def Staging.next (t : Staging) : Nat × Nat :=
  let lo := t.units * stagingElems t.fmt
  (t.offset + lo, min (stagingElems t.fmt) (t.count - lo))

/-- Cells of the next unit. -/
def Staging.unitCells (t : Staging) : Nat := pourCells t.fmt t.next.2

/-- A window takes a staging unit whose cells are all there (R174, R176, R196). -/
def Window.addUnit (v : Window) (t : Staging) (data : List Byte) : Window × EventCounts :=
  let d := decodeImage t.fmt 0x3F800000 data t.next.2
  let a := addElems v.acc t.next.1 d.1
  let ev : EventCounts := { d.2 with saturated := d.2.saturated + a.2 }
  let ks := chunksOf t.next.1 (t.next.1 + t.next.2)
  ({ v with
     acc := a.1
     bitmap := ks.foldl (fun b k => addSorted (128 * t.cidx + k) b) v.bitmap
     counts := ks.foldl (fun b k => tins b k (tget 0 b k + 1)) v.counts
     events := v.events.add ev
     marked := v.marked || ev.nonfinite != 0 }, ev)

/-- Every chunk of a window holds every contributor (R179). -/
def Melt.windowFull (m : Melt) (w : Nat) (v : Window) : Bool := (List.range (m.winChunks w)).all (fun k => tget 0 v.counts k == m.contrib)

/-- A unit is complete: it is decoded and added, its events are counted, and the window may close FULL. -/
def State.addUnit (s : State) (t : Staging) (data : List Byte) : State :=
  let x := s.melt t.melt
  match tfind x.windows t.window with
  | none => s
  | some v =>
    let r := v.addUnit t data
    let s1 := s.modMelt t.melt (fun y => { y with
      windows := tins y.windows t.window r.1
      nfWindow := if r.2.nonfinite ≠ 0 && y.nfWindow.isNone then some t.window else y.nfWindow
      nfCidx := if r.2.nonfinite ≠ 0 && y.nfWindow.isNone then some t.cidx else y.nfCidx })
    (((s1.countPour x.part t.cru 20 r.2.escapes).countPour x.part t.cru 22 r.2.saturated).countPour x.part t.cru 23 r.2.malformed).countPour
      x.part t.cru 24 r.2.nonfinite

/-- A unit of a pour is whole: it is added to the window, the staging buffer keeps the rest or is freed with the last
unit, and a window that is full closes (R176, R179). -/
def State.pourUnit (s0 : State) (port : Nat) (part : Nat) (t1 : Staging) : State :=
  let s1 := (s0.addUnit t1 (t1.held.flatMap (fit 32))).countPour part t1.cru 2 1
  let s2 := s1.keepStaging port (if t1.taken = t1.cells then none else some { t1 with units := t1.units + 1, held := [] })
  let x := s2.melt t1.melt
  if (tfind x.windows t1.window).any (x.windowFull t1.window) then s2.closeWindow t1.melt t1.window false else s2

/-- POUR_CELL: a data cell of a COL train: into staging, completing a unit or not, or discarded with its pour (R172–R174,
R176, R179). -/
def execPourCell (port : Nat) (cell : Cell) (s : State) : Out :=
  done (if cell.typ ≠ 0x9 || cell.cls ≠ 4 || cell.seq = 0 || cell.dst ≠ s.endpoint 33 then s
  else
    let s0 := s.takeCells port 4 [cell]
    match tfind s.crucibles.staging port with
    | none => s0.strayCell port cell
    | some t =>
      if s.coolantStop then s0.countPour (s.melt t.melt).part t.cru 8 1
      else if cell.seq ≠ t.taken + 1 || cell.tag ≠ t.melt || cell.part ≠ (s.melt t.melt).part then s0.strayCell port cell
      else
        let t1 : Staging := { t with taken := t.taken + 1, held := t.held ++ [cell.payload], heats := 0 }
        if t1.held.length < t1.unitCells then (s0.keepStaging port (some t1)).countPour cell.part t.cru 2 1
        else s0.pourUnit port cell.part t1)

/-- STAGING_TRUNCATION: a train has not resumed within a heat, a boundary having passed (R33, R174). -/
def execStagingTruncation (port : Nat) (s : State) : Out :=
  done (if (tfind s.crucibles.staging port).any (fun t => decide (1 ≤ t.heats)) then s.truncateStaging port else s)

end Sys2Proof.Machine
end

