-- ==== Sys2Proof/Machine/Operands.lean ====
section
/-! DEFINITION. The operand forms of an anvil's instructions (R216–R221): the register files, immediates, masks, tile SRAM,
the 64-bit word of each instruction format, and the issue of one instruction. -/

namespace Sys2Proof.Machine

/-! ### Register files (R217, Table — Anvil registers) -/

/-- s0 reads 0. -/
def AnvilRegs.rs (r : AnvilRegs) (i : Nat) : Word := if i % 32 = 0 then 0 else tget 0 r.s (i % 32)

/-- Writes to s0 are ignored. -/
def AnvilRegs.ws (r : AnvilRegs) (i : Nat) (v : Word) : AnvilRegs := if i % 32 = 0 then r else { r with s := tset 0 r.s (i % 32) v }

def AnvilRegs.rv (r : AnvilRegs) (i : Nat) : BitVec 2048 := tget 0 r.v (i % 32)
def AnvilRegs.wv (r : AnvilRegs) (i : Nat) (v : BitVec 2048) : AnvilRegs := { r with v := tset 0 r.v (i % 32) v }

/-- m0 reads all ones; a mask register takes its field's low 3 bits. -/
def AnvilRegs.rm (r : AnvilRegs) (i : Nat) : Word := if i % 8 = 0 then BitVec.allOnes 64 else tget 0 r.m (i % 8)

/-- Writes to m0 are ignored. -/
def AnvilRegs.wm (r : AnvilRegs) (i : Nat) (v : Word) : AnvilRegs := if i % 8 = 0 then r else { r with m := tset 0 r.m (i % 8) v }

/-- The word of an accumulator tile: the field's low 2 bits name the tile. -/
def accIndex (t row col : Nat) : Nat := 1024 * (t % 4) + 64 * row + col

def AnvilRegs.racc (r : AnvilRegs) (t row col : Nat) : Half := tget 0 r.acc (accIndex t row col)

/-- Lane `i` of a vector. -/
def lane (v : BitVec 2048) (i : Nat) : Half := BitVec.ofNat 32 (bits v.toNat (32 * i) 32)

/-- The 64 lanes of a vector. -/
def lanes (v : BitVec 2048) : List Half := (List.range 64).map (lane v)

/-- The vector whose lanes are the elements of a list. -/
def ofLanes (l : List Half) : BitVec 2048 := BitVec.ofNat 2048 (l.foldr (fun x v => v * 2 ^ 32 + x.toNat) 0)

/-- A vector from its lanes by number. -/
def mkLanes (f : Nat → Half) : BitVec 2048 := ofLanes ((List.range 64).map f)

/-- The lanes of a result whose mask bit is 0 keep the old value of the destination (R219). -/
def masked (mask : Word) (old new : BitVec 2048) : BitVec 2048 := mkLanes (fun i => if mask.getLsbD i then lane new i else lane old i)

/-- Writes a vector register under the mask of an instruction. -/
def AnvilRegs.wvMasked (r : AnvilRegs) (msk d : Nat) (v : BitVec 2048) : AnvilRegs := r.wv d (masked (r.rm msk) (r.rv d) v)

/-! ### Immediates and instruction words (R219, R220) -/

/-- IMM, sign-extended to 64 bits. -/
def immS (x : BitVec 32) : Word := x.signExtend 64

/-- The word of an instruction in format A. -/
def OpA.word (o : OpA) (maj fn : Nat) : Nat :=
  maj % 64 * 2 ^ 58 + fn % 64 * 2 ^ 52 + o.d % 32 * 2 ^ 47 + o.a % 32 * 2 ^ 42 + o.b % 32 * 2 ^ 37 + o.c % 32 * 2 ^ 32 +
    o.msk % 8 * 2 ^ 29 + ofBool o.ms * 2 ^ 28 + o.modifier % 65536

/-- The word of an instruction in format I. -/
def OpI.word (o : OpI) (maj fn : Nat) : Nat :=
  maj % 64 * 2 ^ 58 + fn % 64 * 2 ^ 52 + o.d % 32 * 2 ^ 47 + o.a % 32 * 2 ^ 42 + o.imm.toNat

/-- The word of an instruction in format M. -/
def OpM.word (o : OpM) (maj fn : Nat) : Nat :=
  maj % 64 * 2 ^ 58 + fn % 64 * 2 ^ 52 + o.d % 32 * 2 ^ 47 + o.a % 32 * 2 ^ 42 + o.b % 32 * 2 ^ 37 + o.c % 32 * 2 ^ 32 + o.imm.toNat

/-- The word of an instruction in format B. -/
def OpB.word (o : OpB) (maj fn : Nat) : Nat :=
  maj % 64 * 2 ^ 58 + fn % 64 * 2 ^ 52 + o.a % 32 * 2 ^ 42 + o.b % 32 * 2 ^ 37 + o.imm.toNat

/-! ### Instruction words (R219, R220) -/

/-- The fields of a word in format A. -/
def opA (anvil w : Nat) : OpA :=
  { anvil := anvil, d := bits w 47 5, a := bits w 42 5, b := bits w 37 5, c := bits w 32 5, msk := bits w 29 3, ms := bit w 28, modifier := bits w 0 16 }

/-- The fields of a word in format I. -/
def opI (anvil w : Nat) : OpI := { anvil := anvil, d := bits w 47 5, a := bits w 42 5, imm := BitVec.ofNat 32 w }

/-- The fields of a word in format M. -/
def opM (anvil w : Nat) : OpM :=
  { anvil := anvil, d := bits w 47 5, a := bits w 42 5, b := bits w 37 5, c := bits w 32 5, imm := BitVec.ofNat 32 w }

/-- The fields of a word in format B. -/
def opB (anvil w : Nat) : OpB := { anvil := anvil, a := bits w 42 5, b := bits w 37 5, imm := BitVec.ofNat 32 w }

/-- The instruction that a 64-bit word of an anvil's instruction memory is (Table — Major opcodes); none for a reserved MAJ or FN. -/
def anvilInstr (anvil w : Nat) : Option Instr :=
  match bits w 58 6, bits w 52 6 with
  | 0x00, 0x00 => some (.fault (opI anvil w))
  | 0x00, 0x01 => some (.yield (opI anvil w))
  | 0x00, 0x02 => some (.phase (opI anvil w))
  | 0x00, 0x03 => some (.srd (opI anvil w))
  | 0x00, 0x04 => some (.swr (opI anvil w))
  | 0x00, 0x05 => some (.live (opI anvil w))
  | 0x00, 0x06 => some (.halt (opI anvil w))
  | 0x01, 0x00 => some (.add (opA anvil w))
  | 0x01, 0x01 => some (.sub (opA anvil w))
  | 0x01, 0x02 => some (.mul (opA anvil w))
  | 0x01, 0x03 => some (.and (opA anvil w))
  | 0x01, 0x04 => some (.or (opA anvil w))
  | 0x01, 0x05 => some (.xor (opA anvil w))
  | 0x01, 0x06 => some (.shl (opA anvil w))
  | 0x01, 0x07 => some (.shr (opA anvil w))
  | 0x01, 0x08 => some (.sar (opA anvil w))
  | 0x01, 0x09 => some (.slt (opA anvil w))
  | 0x01, 0x0A => some (.sltu (opA anvil w))
  | 0x01, 0x0B => some (.min (opA anvil w))
  | 0x01, 0x0C => some (.max (opA anvil w))
  | 0x02, 0x00 => some (.addImmediate (opI anvil w))
  | 0x02, 0x01 => some (.subImmediate (opI anvil w))
  | 0x02, 0x02 => some (.mulImmediate (opI anvil w))
  | 0x02, 0x03 => some (.andImmediate (opI anvil w))
  | 0x02, 0x04 => some (.orImmediate (opI anvil w))
  | 0x02, 0x05 => some (.xorImmediate (opI anvil w))
  | 0x02, 0x06 => some (.shlImmediate (opI anvil w))
  | 0x02, 0x07 => some (.shrImmediate (opI anvil w))
  | 0x02, 0x08 => some (.sarImmediate (opI anvil w))
  | 0x02, 0x09 => some (.sltImmediate (opI anvil w))
  | 0x02, 0x0A => some (.sltuImmediate (opI anvil w))
  | 0x02, 0x0B => some (.minImmediate (opI anvil w))
  | 0x02, 0x0C => some (.maxImmediate (opI anvil w))
  | 0x02, 0x10 => some (.lui (opI anvil w))
  | 0x04, 0x00 => some (.beq (opB anvil w))
  | 0x04, 0x01 => some (.bne (opB anvil w))
  | 0x04, 0x02 => some (.blt (opB anvil w))
  | 0x04, 0x03 => some (.bge (opB anvil w))
  | 0x04, 0x04 => some (.bltu (opB anvil w))
  | 0x04, 0x05 => some (.bgeu (opB anvil w))
  | 0x04, 0x06 => some (.jal (opB anvil w))
  | 0x04, 0x07 => some (.jr (opB anvil w))
  | 0x08, 0x00 => some (.tld (opM anvil w))
  | 0x08, 0x01 => some (.tst (opM anvil w))
  | 0x08, 0x02 => some (.tld2 (opM anvil w))
  | 0x08, 0x03 => some (.tst2 (opM anvil w))
  | 0x08, 0x04 => some (.lds (opM anvil w))
  | 0x08, 0x05 => some (.sts (opM anvil w))
  | 0x08, 0x06 => some (.mwait (opM anvil w))
  | 0x0C, 0x00 => some (.vld (opM anvil w))
  | 0x0C, 0x01 => some (.vst (opM anvil w))
  | 0x0C, 0x02 => some (.vbc (opM anvil w))
  | 0x10, 0x00 => some (.vadd (opA anvil w))
  | 0x10, 0x01 => some (.vsub (opA anvil w))
  | 0x10, 0x02 => some (.vmul (opA anvil w))
  | 0x10, 0x03 => some (.vfma (opA anvil w))
  | 0x10, 0x04 => some (.vmin (opA anvil w))
  | 0x10, 0x05 => some (.vmax (opA anvil w))
  | 0x10, 0x06 => some (.vabs (opA anvil w))
  | 0x10, 0x07 => some (.vneg (opA anvil w))
  | 0x10, 0x08 => some (.vsign (opA anvil w))
  | 0x10, 0x09 => some (.vsqrt (opA anvil w))
  | 0x10, 0x0A => some (.vrcp (opA anvil w))
  | 0x10, 0x0B => some (.vrsqrt (opA anvil w))
  | 0x10, 0x0C => some (.vexp2 (opA anvil w))
  | 0x10, 0x0D => some (.vredsum (opA anvil w))
  | 0x10, 0x0E => some (.vredmax (opA anvil w))
  | 0x10, 0x0F => some (.vcmplt (opA anvil w))
  | 0x10, 0x10 => some (.vsel (opA anvil w))
  | 0x10, 0x11 => some (.vsplat (opA anvil w))
  | 0x10, 0x12 => some (.vlane (opA anvil w))
  | 0x10, 0x13 => some (.vacr (opA anvil w))
  | 0x10, 0x14 => some (.vacw (opA anvil w))
  | 0x10, 0x20 => some (.vaddInt (opA anvil w))
  | 0x10, 0x21 => some (.vsubInt (opA anvil w))
  | 0x10, 0x22 => some (.vmulInt (opA anvil w))
  | 0x10, 0x23 => some (.vfmaInt (opA anvil w))
  | 0x10, 0x24 => some (.vminInt (opA anvil w))
  | 0x10, 0x25 => some (.vmaxInt (opA anvil w))
  | 0x10, 0x26 => some (.vabsInt (opA anvil w))
  | 0x10, 0x27 => some (.vnegInt (opA anvil w))
  | 0x10, 0x28 => some (.vsignInt (opA anvil w))
  | 0x10, 0x29 => some (.vsqrtInt (opA anvil w))
  | 0x10, 0x2A => some (.vrcpInt (opA anvil w))
  | 0x10, 0x2B => some (.vrsqrtInt (opA anvil w))
  | 0x10, 0x2C => some (.vexp2Int (opA anvil w))
  | 0x10, 0x2D => some (.vredsumInt (opA anvil w))
  | 0x10, 0x2E => some (.vredmaxInt (opA anvil w))
  | 0x10, 0x2F => some (.vcmpltInt (opA anvil w))
  | 0x14, 0x00 => some (.vcvtTo (opA anvil w))
  | 0x14, 0x01 => some (.vcvtFrom (opA anvil w))
  | 0x14, 0x02 => some (.pack (opA anvil w))
  | 0x14, 0x03 => some (.unpack (opA anvil w))
  | 0x14, 0x04 => some (.sgnv (opA anvil w))
  | 0x18, 0x00 => some (.mma (opA anvil w))
  | 0x18, 0x01 => some (.azero (opA anvil w))
  | 0x1C, 0x00 => some (.fwhs (opA anvil w))
  | 0x1C, 0x01 => some (.fwhf (opA anvil w))
  | 0x1C, 0x02 => some (.fwhd (opA anvil w))
  | 0x20, 0x00 => some (.treq (opA anvil w))
  | 0x24, 0x00 => some (.waith (opI anvil w))
  | 0x24, 0x01 => some (.waitw (opI anvil w))
  | 0x24, 0x02 => some (.bar (opI anvil w))
  | 0x24, 0x03 => some (.sete (opI anvil w))
  | 0x24, 0x04 => some (.waite (opI anvil w))
  | 0x24, 0x05 => some (.sig (opI anvil w))
  | _, _ => none

/-- The word of an anvil's instruction; no other command has one. -/
def anvilWord : Instr → Option Nat
  | .fault o => some (o.word 0x00 0x00)
  | .yield o => some (o.word 0x00 0x01)
  | .phase o => some (o.word 0x00 0x02)
  | .srd o => some (o.word 0x00 0x03)
  | .swr o => some (o.word 0x00 0x04)
  | .live o => some (o.word 0x00 0x05)
  | .halt o => some (o.word 0x00 0x06)
  | .add o => some (o.word 0x01 0x00)
  | .sub o => some (o.word 0x01 0x01)
  | .mul o => some (o.word 0x01 0x02)
  | .and o => some (o.word 0x01 0x03)
  | .or o => some (o.word 0x01 0x04)
  | .xor o => some (o.word 0x01 0x05)
  | .shl o => some (o.word 0x01 0x06)
  | .shr o => some (o.word 0x01 0x07)
  | .sar o => some (o.word 0x01 0x08)
  | .slt o => some (o.word 0x01 0x09)
  | .sltu o => some (o.word 0x01 0x0A)
  | .min o => some (o.word 0x01 0x0B)
  | .max o => some (o.word 0x01 0x0C)
  | .addImmediate o => some (o.word 0x02 0x00)
  | .subImmediate o => some (o.word 0x02 0x01)
  | .mulImmediate o => some (o.word 0x02 0x02)
  | .andImmediate o => some (o.word 0x02 0x03)
  | .orImmediate o => some (o.word 0x02 0x04)
  | .xorImmediate o => some (o.word 0x02 0x05)
  | .shlImmediate o => some (o.word 0x02 0x06)
  | .shrImmediate o => some (o.word 0x02 0x07)
  | .sarImmediate o => some (o.word 0x02 0x08)
  | .sltImmediate o => some (o.word 0x02 0x09)
  | .sltuImmediate o => some (o.word 0x02 0x0A)
  | .minImmediate o => some (o.word 0x02 0x0B)
  | .maxImmediate o => some (o.word 0x02 0x0C)
  | .lui o => some (o.word 0x02 0x10)
  | .beq o => some (o.word 0x04 0x00)
  | .bne o => some (o.word 0x04 0x01)
  | .blt o => some (o.word 0x04 0x02)
  | .bge o => some (o.word 0x04 0x03)
  | .bltu o => some (o.word 0x04 0x04)
  | .bgeu o => some (o.word 0x04 0x05)
  | .jal o => some (o.word 0x04 0x06)
  | .jr o => some (o.word 0x04 0x07)
  | .tld o => some (o.word 0x08 0x00)
  | .tst o => some (o.word 0x08 0x01)
  | .tld2 o => some (o.word 0x08 0x02)
  | .tst2 o => some (o.word 0x08 0x03)
  | .lds o => some (o.word 0x08 0x04)
  | .sts o => some (o.word 0x08 0x05)
  | .mwait o => some (o.word 0x08 0x06)
  | .vld o => some (o.word 0x0C 0x00)
  | .vst o => some (o.word 0x0C 0x01)
  | .vbc o => some (o.word 0x0C 0x02)
  | .vadd o => some (o.word 0x10 0x00)
  | .vsub o => some (o.word 0x10 0x01)
  | .vmul o => some (o.word 0x10 0x02)
  | .vfma o => some (o.word 0x10 0x03)
  | .vmin o => some (o.word 0x10 0x04)
  | .vmax o => some (o.word 0x10 0x05)
  | .vabs o => some (o.word 0x10 0x06)
  | .vneg o => some (o.word 0x10 0x07)
  | .vsign o => some (o.word 0x10 0x08)
  | .vsqrt o => some (o.word 0x10 0x09)
  | .vrcp o => some (o.word 0x10 0x0A)
  | .vrsqrt o => some (o.word 0x10 0x0B)
  | .vexp2 o => some (o.word 0x10 0x0C)
  | .vredsum o => some (o.word 0x10 0x0D)
  | .vredmax o => some (o.word 0x10 0x0E)
  | .vcmplt o => some (o.word 0x10 0x0F)
  | .vsel o => some (o.word 0x10 0x10)
  | .vsplat o => some (o.word 0x10 0x11)
  | .vlane o => some (o.word 0x10 0x12)
  | .vacr o => some (o.word 0x10 0x13)
  | .vacw o => some (o.word 0x10 0x14)
  | .vaddInt o => some (o.word 0x10 0x20)
  | .vsubInt o => some (o.word 0x10 0x21)
  | .vmulInt o => some (o.word 0x10 0x22)
  | .vfmaInt o => some (o.word 0x10 0x23)
  | .vminInt o => some (o.word 0x10 0x24)
  | .vmaxInt o => some (o.word 0x10 0x25)
  | .vabsInt o => some (o.word 0x10 0x26)
  | .vnegInt o => some (o.word 0x10 0x27)
  | .vsignInt o => some (o.word 0x10 0x28)
  | .vsqrtInt o => some (o.word 0x10 0x29)
  | .vrcpInt o => some (o.word 0x10 0x2A)
  | .vrsqrtInt o => some (o.word 0x10 0x2B)
  | .vexp2Int o => some (o.word 0x10 0x2C)
  | .vredsumInt o => some (o.word 0x10 0x2D)
  | .vredmaxInt o => some (o.word 0x10 0x2E)
  | .vcmpltInt o => some (o.word 0x10 0x2F)
  | .vcvtTo o => some (o.word 0x14 0x00)
  | .vcvtFrom o => some (o.word 0x14 0x01)
  | .pack o => some (o.word 0x14 0x02)
  | .unpack o => some (o.word 0x14 0x03)
  | .sgnv o => some (o.word 0x14 0x04)
  | .mma o => some (o.word 0x18 0x00)
  | .azero o => some (o.word 0x18 0x01)
  | .fwhs o => some (o.word 0x1C 0x00)
  | .fwhf o => some (o.word 0x1C 0x01)
  | .fwhd o => some (o.word 0x1C 0x02)
  | .treq o => some (o.word 0x20 0x00)
  | .waith o => some (o.word 0x24 0x00)
  | .waitw o => some (o.word 0x24 0x01)
  | .bar o => some (o.word 0x24 0x02)
  | .sete o => some (o.word 0x24 0x03)
  | .waite o => some (o.word 0x24 0x04)
  | .sig o => some (o.word 0x24 0x05)
  | _ => none

/-! ### Tile SRAM (R216) -/

/-- Bytes of tile SRAM. -/
def sramSize : Nat := 2 ^ 21

/-- An access lies within tile SRAM. -/
def sramOk (a n : Nat) : Bool := decide (a + n ≤ sramSize)

/-- The SRAM address of a memory format: s_A + IMM. -/
def AnvilRegs.address (r : AnvilRegs) (a : Nat) (imm : BitVec 32) : Nat := (r.rs a + immS imm).toNat

/-! ### Issue (R218, R236, R237) -/

/-- The anvil issues the next instruction of its program or of the recipe runner: it waits for nothing and is not
halted. -/
def State.issues (s : State) (a : Nat) : Bool :=
  let v := s.anvil a
  (v.mode == .program || v.mode == .runner) && v.wait == .none && v.enabled && !s.coolantStop && s.isReady

/-- The anvil's counters count now: its holder is no confidential partition (R248). -/
def State.countsAnvil (s : State) (a : Nat) : Bool := !(s.part (s.anvil a).part).confidential

/-- Adds to a counter of an anvil unless a confidential partition holds it. -/
def State.noteAnvil (s : State) (a k n : Nat) : State := if s.countsAnvil a then s.countAnvil a k n else s

def State.modRegs (s : State) (a : Nat) (f : AnvilRegs → AnvilRegs) : State := s.modAnvil a (fun v => { v with regs := f v.regs })

/-- The pc after an instruction: 13 bits. -/
def AnvilRegs.next (r : AnvilRegs) : AnvilRegs := { r with pc := (r.pc + 1) % 8192 }

/-- An instruction that changes the registers issues and completes: they change, the pc goes on, the cycle counts. -/
def State.retire (s : State) (a : Nat) (f : AnvilRegs → AnvilRegs) : State :=
  (s.modRegs a (fun r => (f r).next)).noteAnvil a 4 1

/-- The same for a vector instruction of `n` cycles. -/
def State.retireV (s : State) (a n : Nat) (f : AnvilRegs → AnvilRegs) : State := (s.retire a f).noteAnvil a 12 n

end Sys2Proof.Machine
end

