-- ==== Sys2Proof/Machine/Flags.lean ====
section
/-! DEFINITION. The four EVT registers of an anvil, its status flags for conversion events (R217), and the faults of an
anvil (R229). -/

namespace Sys2Proof.Machine

/-- Adds conversion events to the EVT registers, 32 bits, saturating. -/
def AnvilRegs.events (r : AnvilRegs) (e : EventCounts) : AnvilRegs :=
  { r with evtEsc := satAdd 32 r.evtEsc e.escapes, evtSat := satAdd 32 r.evtSat e.saturated
           evtMal := satAdd 32 r.evtMal e.malformed, evtNf := satAdd 32 r.evtNf e.nonfinite }

/-- Adds saturated events of vector arithmetic (R222). -/
def AnvilRegs.saturated (r : AnvilRegs) (n : Nat) : AnvilRegs := { r with evtSat := satAdd 32 r.evtSat n }

/-! ### Faults (R229) -/

/-- The fault codes of R229. -/
abbrev fIllegal : Nat := 1
abbrev fSramRange : Nat := 2
abbrev fMemAccess : Nat := 3
abbrev fPoison : Nat := 4
abbrev fAlign : Nat := 5
abbrev fProgram : Nat := 6
abbrev fTongs : Nat := 7
abbrev fLive : Nat := 8

/-- A fault as its record names it: code, user code, instruction word, address and status. -/
structure AFault where
  code : Nat
  user : Nat
  word : Nat
  addr : Nat
  status : Nat
  deriving DecidableEq, Repr

def illegal (word : Nat) : AFault := { code := fIllegal, user := 0, word := word, addr := 0, status := 0 }
def sramRange (word addr : Nat) : AFault := { code := fSramRange, user := 0, word := word, addr := addr, status := 0 }
def alignFault (word addr : Nat) : AFault := { code := fAlign, user := 0, word := word, addr := addr, status := 0 }

def State.inst (s : State) (a p : Nat) : Option Instance := tfind s.anvils.instances (64 * a + p)

def State.setInst (s : State) (a p : Nat) (i : Option Instance) : State :=
  { s with anvils := { s.anvils with instances :=
      match i with | some x => tins s.anvils.instances (64 * a + p) x | none => tdel s.anvils.instances (64 * a + p) } }

/-- Writes a record to a partition's fault queue, where one is set, and raises its source 0x040 + p (R229, R280, R282); a context's engine
does so for it (R288). -/
def State.faultRecord (s : State) (p cls : Nat) (ctx : Option Nat) (rec : List Byte) : State :=
  s.storeAll { part := p, cls := cls, ring := some (.faults p, rec), ctx := ctx, source := some (0x040 + p) }

/-- The 32 bytes of Table — Anvil fault record. -/
def anvilRecord (a prog pc heat : Nat) (f : AFault) : List Byte :=
  [0x02, BitVec.ofNat 8 (a % 64), BitVec.ofNat 8 f.code, BitVec.ofNat 8 (prog % 16)] ++ leBytes 2 (pc % 8192) ++ leBytes 2 f.user ++
    leBytes 8 f.word ++ leBytes 8 (f.addr % 2 ^ 48) ++ leBytes 6 heat ++ [BitVec.ofNat 8 f.status, 0]

/-- A fault of the recipe runner: the step ends under R192, the runner goes on to the next window. -/
def State.runnerFault (s : State) (a : Nat) (f : AFault) : State :=
  let s1 := (s.noteAnvil a 40 1).modAnvil a (fun v => { v with lastFault := f.code, job := none })
  match (s.anvil a).job with
  | some j =>
    let s2 := (s1.releaseSlot j.slot).modWindow j.melt j.window (fun w => { w with place := .faulted, acc := [] })
    s2.meltFault j.melt j.window
  | none => s1

/-- A fault of an anvil (R229): a partition's program stops in FAULTED, its record is written and the source raised; a
fault of the runner ends its step. `pc` is that of the faulting instruction. -/
def State.anvilFault (s : State) (a pc : Nat) (f : AFault) : State :=
  let v := s.anvil a
  if v.mode = .runner then s.runnerFault a f
  else
    let prog := ((s.inst a v.holder).map (·.prog)).getD 0
    let s1 := (s.noteAnvil a 40 1).modAnvil a (fun y => { y with
      lastFault := f.code, wait := .none
      mode := if y.mode = .program then .idle else y.mode })
    let s2 := match s.inst a v.holder with
      | some i => s1.setInst a v.holder (some { i with state := .faulted, regs := v.regs, wait := .none })
      | none => s1
    s2.faultRecord v.holder 2 none (anvilRecord a prog pc s.heat.count f)

/-- An instruction of an anvil: nothing happens unless the anvil issues; it faults, or goes on. -/
def State.instr (s : State) (a : Nat) (go : Except AFault State) : State :=
  if !s.issues a then s
  else match go with
    | .error f => s.anvilFault a (s.anvil a).regs.pc f
    | .ok t => t

end Sys2Proof.Machine
end

