-- ==== Sys2Proof/Machine/AnvilSync.lean ====
section
/-! DEFINITION. The synchronisation instructions of an anvil and the events that end their waits (R230–R232). -/

namespace Sys2Proof.Machine

/-! ### Heats (R230) -/

/-- WAITH: waits for the next boundary, or for the first boundary whose heat is not earlier than s_A. -/
def execWaith (o : OpI) (s : State) : Out :=
  let x := ((s.anvil o.anvil).regs.rs o.a).toNat
  let w : AnvilWait := if x = 0 then .nextHeat else .heat (x % 2 ^ 48)
  done (s.instr o.anvil (.ok ((s.retire o.anvil id).modAnvil o.anvil (fun v => { v with wait := w }))))

/-- WAITH_RELEASE: the boundary has come. A wait for the next boundary becomes one for its heat when it comes. -/
def execWaithRelease (anvil : Nat) (s : State) : Out :=
  done (s.modAnvil anvil (fun v => match v.wait with
  | .heat h => if heatReached s.heat.count h then { v with wait := .none } else v
  | _ => v))

/-- The waits of an anvil at a boundary: YIELD ends, a wait for the next boundary is met (R230, R243). -/
def Anvil.boundaryWait (v : Anvil) (heat : Nat) : Anvil :=
  match v.wait with
  | .yield => { v with wait := .none }
  | .nextHeat => { v with wait := .heat heat }
  | _ => v

/-! ### Hand-off (R231) -/

/-- The source word that WAITW writes to s_(D+3). -/
def sourceWord : Option (Nat × Nat) → Nat
  | some (c, k) => c * 4 + k * 32
  | none => 2 ^ 63

/-- The runner takes the head entry of its queue: the four registers, the job, the window's place. -/
def State.takeWindow (s : State) (a d : Nat) : State :=
  let v := s.anvil a
  match (if v.holder = v.part then v.queue else []), v.job with
  | h :: q, none =>
    let s1 := s.modAnvil a (fun y => { y with
      queue := q, wait := .none, lastWindow := some (h.melt, h.window, h.step)
      job := some { melt := h.melt, window := h.window, step := h.step, slot := h.slot, imageRead := false, image := [], counts := [], full := false }
      regs := (((y.regs.ws d (BitVec.ofNat 64 h.melt)).ws (d + 1) (BitVec.ofNat 64 h.window)).ws (d + 2) (BitVec.ofNat 64 h.step)).ws (d + 3)
        (BitVec.ofNat 64 (sourceWord h.slot)) })
    s1.modWindow h.melt h.window (fun w => match w.place with | .handed _ sl c => { w with place := .started a sl c } | _ => w)
  | _, _ => s.modAnvil a (fun y => { y with wait := .waitw d })

/-- WAITW: takes the head of the hand-off queue, or waits; in the recipe runner only. -/
def execWaitw (o : OpI) (s : State) : Out :=
  let d := o.d % 32
  done (s.instr o.anvil (
    if (s.anvil o.anvil).mode ≠ .runner || d = 0 || 28 < d then .error (illegal (o.word 0x24 0x01))
    else .ok ((s.retire o.anvil id).takeWindow o.anvil d)))

/-- WAITW_RELEASE: an entry has been queued. -/
def execWaitwRelease (anvil : Nat) (s : State) : Out :=
  let v := s.anvil anvil
  done (match v.wait with
  | .waitw d => if v.mode = .runner && v.enabled && !s.coolantStop then s.takeWindow anvil d else s
  | _ => s)

/-! ### Barriers and flags (R232) -/

/-- An arrival at a barrier counts (R232). -/
def State.barArrives (s : State) (k : Nat) : State :=
  { s with anvils := { s.anvils with barriers := tins s.anvils.barriers k (tget 0 s.anvils.barriers k + 1) } }

/-- BAR: an arrival at barrier IMM[3:0]; the anvil waits for s_A arrivals. -/
def execBar (o : OpI) (s : State) : Out :=
  let v := s.anvil o.anvil
  let b := o.imm.toNat % 16
  let s1 := (s.retire o.anvil id).modAnvil o.anvil (fun y => { y with wait := .bar b (v.regs.rs o.a).toNat })
  done (s.instr o.anvil (.ok (s1.barArrives (16 * v.holder + b))))

/-- A wait at barrier `b` that `n` arrivals end. -/
def AnvilWait.barMet (b n : Nat) : AnvilWait → Bool
  | .bar c m => c == b && decide (m ≤ n)
  | _ => false

def AnvilWait.atBar (b : Nat) : AnvilWait → Bool
  | .bar c _ => c == b
  | _ => false

/-- Every waiter of a partition's barrier is released, saved ones too, and its count returns to 0 (R232). -/
def State.barReleased (s : State) (p barrier : Nat) : State :=
  { s with anvils := { s.anvils with
    anvils := tmap s.anvils.anvils (fun _ v => if v.holder == p && v.wait.atBar barrier then { v with wait := .none } else v)
    instances := tmap s.anvils.instances (fun j i => if j % 64 = p && i.wait.atBar barrier then { i with wait := .none } else i)
    barriers := tdel s.anvils.barriers (16 * p + barrier) } }

/-- Some waiter of a partition's barrier waits for no more arrivals than have come (R232). -/
def State.barDue (s : State) (p barrier : Nat) : Bool :=
  s.anvils.anvils.any (fun v => v.2.holder == p && v.2.wait.barMet barrier (tget 0 s.anvils.barriers (16 * p + barrier))) ||
    s.anvils.instances.any (fun i => i.1 % 64 == p && i.2.wait.barMet barrier (tget 0 s.anvils.barriers (16 * p + barrier)))

/-- BAR_RELEASE: a barrier has its arrivals; it releases every waiter, saved ones too, and returns to 0. -/
def execBarRelease (p barrier : Nat) (s : State) : Out := done (if s.barDue p barrier then s.barReleased p barrier else s)

def State.flag (s : State) (p f : Nat) : Bool := tget false s.anvils.flags (64 * p + f % 64)

def State.setFlag (s : State) (p f : Nat) (b : Bool) : State :=
  { s with anvils := { s.anvils with flags := tset false s.anvils.flags (64 * p + f % 64) b } }

/-- SETE: sets flag IMM[5:0]. -/
def execSete (o : OpI) (s : State) : Out :=
  done (s.instr o.anvil (.ok ((s.retire o.anvil id).setFlag (s.anvil o.anvil).holder o.imm.toNat true)))

/-- WAITE: waits until flag IMM[5:0] is set, then clears it. -/
def execWaite (o : OpI) (s : State) : Out :=
  let p := (s.anvil o.anvil).holder
  let f := o.imm.toNat % 64
  let s1 := s.retire o.anvil id
  done (s.instr o.anvil (.ok (if s.flag p f then s1.setFlag p f false else s1.modAnvil o.anvil (fun v => { v with wait := .flag f }))))

/-- An anvil tests a flag now: it waits for it and runs. -/
def State.testsFlag (s : State) (p f a : Nat) : Bool :=
  let v := s.anvil a
  v.holder == p && v.wait == .flag f && v.enabled && (v.mode == .program || v.mode == .runner)

/-- WAITE_RELEASE: the flag is set; the lowest anvil that waits for it clears it and goes on (R232, R271). -/
def execWaiteRelease (anvil : Nat) (s : State) : Out :=
  let p := (s.anvil anvil).holder
  done (match (s.anvil anvil).wait with
  | .flag f =>
    if s.flag p f && s.testsFlag p f anvil && (List.range anvil).all (fun a => !s.testsFlag p f a) then
      (s.setFlag p f false).modAnvil anvil (fun v => { v with wait := .none })
    else s
  | _ => s)

/-- SIG: raises source 0x900 + 16 × anvil + IMM[3:0]. -/
def execSig (o : OpI) (s : State) : Out :=
  done (s.instr o.anvil (.ok ((s.retire o.anvil id).fire (0x900 + 16 * o.anvil + o.imm.toNat % 16) (s.anvil o.anvil).holder)))

end Sys2Proof.Machine
end

