-- ==== Sys2Proof/Machine/Vector.lean ====
section
/-! DEFINITION. The vector arithmetic of an anvil (R219, R220, R222), FP32 and integer, and the vector access to the
accumulator tiles. -/

namespace Sys2Proof.Machine

/-! ### FP32 on one lane. `k` numbers the values the spec leaves open: a NaN's sign and fraction (R132), a result that no
rule states. The second part of an answer counts saturated events (R222). -/

/-- A value that the spec does not state. -/
def openHalf (k : Nat) : Half := BitVec.ofNat 32 (Config.freeValue k)

/-- A NaN that an FP32 operation makes. -/
def anyNan (k : Nat) : Half := BitVec.ofNat 32 (f32Sign (Config.freeValue k % 2 == 1) + 0x7F800001 + Config.nanFraction k % (2 ^ 23 - 1))

/-- A finite result, held at the greatest magnitude. -/
def fHeld (neg : Bool) (n d : Nat) : Half × Nat := let h := f32Held neg n d; (h.1, ofBool h.2)

/-- The sum of two values. -/
def fpAdd (k : Nat) (x y : Fp) : Half × Nat :=
  match x, y with
  | .fin a n d, .fin b m c => let q := qadd a n d b m c; fHeld q.1 q.2.1 q.2.2
  | .inf a, .inf b => if a = b then (f32Inf a, 0) else (anyNan k, 0)
  | .inf a, .fin _ _ _ => (f32Inf a, 0)
  | .fin _ _ _, .inf b => (f32Inf b, 0)
  | _, _ => (anyNan k, 0)

def Fp.negate : Fp → Fp
  | .fin a n d => .fin (!a) n d
  | .inf a => .inf (!a)
  | .nan a => .nan (!a)

/-- The exact product of two values; none where it is a NaN. -/
def fpProduct (x y : Fp) : Option Fp :=
  match x, y with
  | .fin a n d, .fin b m c => some (.fin (a != b) (n * m) (d * c))
  | .inf a, .fin b m _ => if m = 0 then none else some (.inf (a != b))
  | .fin a n _, .inf b => if n = 0 then none else some (.inf (a != b))
  | .inf a, .inf b => some (.inf (a != b))
  | _, _ => none

/-- A value rounded to FP32. -/
def fpRound (k : Nat) (x : Fp) : Half × Nat :=
  match x with
  | .fin a n d => fHeld a n d
  | .inf a => (f32Inf a, 0)
  | .nan _ => (anyNan k, 0)

def fAdd (k : Nat) (x y : Half) : Half × Nat := fpAdd k (f32 x) (f32 y)
def fSub (k : Nat) (x y : Half) : Half × Nat := fpAdd k (f32 x) (f32 y).negate
def fMul (k : Nat) (x y : Half) : Half × Nat := match fpProduct (f32 x) (f32 y) with | some p => fpRound k p | none => (anyNan k, 0)

/-- x × y + z, rounded once. -/
def fFma (k : Nat) (x y z : Half) : Half × Nat := match fpProduct (f32 x) (f32 y) with | some p => fpAdd k p (f32 z) | none => (anyNan k, 0)

/-- The order of two values that are no NaN. -/
def fpLt (x y : Fp) : Bool :=
  match x, y with
  | .fin a n d, .fin b m c =>
    (match a, b with
    | false, false => qlt n d m c
    | true, true => qlt m c n d
    | true, false => decide (n ≠ 0) || decide (m ≠ 0)
    | false, true => false)
  | .inf a, .inf b => a && !b
  | .inf a, .fin _ _ _ => a
  | .fin _ _ _, .inf b => !b
  | _, _ => false

/-- The lesser and the greater of two values. The spec states no result for a NaN, nor which of two zeros is taken. -/
def fMin (k : Nat) (x y : Half) : Half × Nat :=
  if (f32 x).isNan || (f32 y).isNan then (openHalf k, 0)
  else if fpLt (f32 x) (f32 y) then (x, 0) else if fpLt (f32 y) (f32 x) then (y, 0)
  else (if Config.freeValue k % 2 = 0 then x else y, 0)

def fMax (k : Nat) (x y : Half) : Half × Nat :=
  if (f32 x).isNan || (f32 y).isNan then (openHalf k, 0)
  else if fpLt (f32 x) (f32 y) then (y, 0) else if fpLt (f32 y) (f32 x) then (x, 0)
  else (if Config.freeValue k % 2 = 0 then x else y, 0)

def fAbs (x : Half) : Half := x &&& 0x7FFFFFFF
def fNeg (x : Half) : Half := x ^^^ 0x80000000

/-- -1, 0 or 1; the spec states no result for a NaN and no sign for the zero of -0. -/
def fSign (k : Nat) (x : Half) : Half :=
  match f32 x with
  | .nan _ => openHalf k
  | .inf a => if a then 0xBF800000 else 0x3F800000
  | .fin a n _ => if n = 0 then (if a then BitVec.ofNat 32 (f32Sign (Config.freeValue k % 2 == 1)) else 0) else if a then 0xBF800000 else 0x3F800000

/-- The square root, rounded to nearest even: a root that is not exact is rounded as the half above its floor on a grid
finer than every boundary. -/
def fSqrt (k : Nat) (x : Half) : Half × Nat :=
  match f32 x with
  | .nan _ => (anyNan k, 0)
  | .inf a => if a then (anyNan k, 0) else (f32Inf false, 0)
  | .fin a n d =>
    if n = 0 then (x, 0) else if a then (anyNan k, 0)
    else
      let v := n * d * 2 ^ 200
      let r := isqrt 280 v 0
      fHeld false (2 * r + ofBool (r * r != v)) (2 * d * 2 ^ 100)

/-- A result within 1 unit in the last place of an exact value whose code rounded down is `c` (R222): `c` or the next
code, or a neighbour of an exact one. -/
def within (fn k : Nat) (x : Half) (neg exact : Bool) (c : Nat) : Half × Nat :=
  let o := Config.approx fn (x.toNat + 2 ^ 32 * k)
  let v := if exact then c + o % 3 - 1 else c + o % 2
  if v > fmtF32.top then (BitVec.ofNat 32 (f32Sign neg + fmtF32.top), 1) else (BitVec.ofNat 32 (f32Sign neg + v), 0)

/-- The reciprocal; that of 0 is not stated. -/
def fRcp (k : Nat) (x : Half) : Half × Nat :=
  match f32 x with
  | .nan _ => (anyNan k, 0)
  | .inf a => (BitVec.ofNat 32 (f32Sign a), 0)
  | .fin a n d =>
    if n = 0 then (openHalf k, 0)
    else
      let c := roundMag fmtF32 1 0 d n
      let m := fpMag fmtF32 c
      within 0 k x a (m.1 * n == d * m.2) c

/-- The reciprocal square root; that of 0 is not stated. -/
def fRsqrt (k : Nat) (x : Half) : Half × Nat :=
  match f32 x with
  | .nan _ => (anyNan k, 0)
  | .inf a => if a then (anyNan k, 0) else (0, 0)
  | .fin a n d =>
    if n = 0 then (openHalf k, 0) else if a then (anyNan k, 0)
    else
      let v := n * d * 2 ^ 300
      let r := isqrt 330 v 0
      let c := roundMag fmtF32 1 0 r (n * 2 ^ 150)
      let m := fpMag fmtF32 c
      within 1 k x false (r * r == v && m.1 * (n * 2 ^ 150) == r * m.2) c

/-- 2^(f / 2^149) for f < 2^149, in units of 2^-128 rounded down: the product of the square roots that the bits of f choose. -/
def pow2Frac : Nat → Nat → Nat → Nat → Nat
  | 0, _, _, acc => acc
  | k + 1, root, f, acc =>
    let root1 := isqrt 130 (root * 2 ^ 128) 0
    pow2Frac k root1 (f * 2 % 2 ^ 149) (if 2 ^ 149 ≤ f * 2 then acc * root1 / 2 ^ 128 else acc)

/-- The base-2 exponential. Every FP32 number is a multiple of 2^-149, so its fraction is taken whole; the power of one that is no integer
is irrational, so its code rounded down stands for it. -/
def fExp2 (k : Nat) (x : Half) : Half × Nat :=
  match f32 x with
  | .nan _ => (anyNan k, 0)
  | .inf a => if a then (0, 0) else (f32Inf false, 0)
  | .fin a n d =>
    if 200 * d < n then (if a then within 2 k x false false 0 else within 2 k x false false (fmtF32.top + 1))
    else
      let t : Nat := n * 2 ^ 149 / d
      let v : Int := if a then -(t : Int) else (t : Int)
      let p := scale2 (pow2Frac 149 (2 ^ 129) (v % (2 ^ 149 : Nat)).toNat (2 ^ 128)) (2 ^ 128) (v / (2 ^ 149 : Nat))
      within 2 k x false (n % d == 0) (roundMag fmtF32 1 0 p.1 p.2)

/-! ### Reductions -/

/-- The sum of the 64 lanes into one value. The spec gives no order of the additions: the sum is stated when every order
gives the same, that is when no partial sum needs rounding; otherwise it is a free value. -/
def fRedSum (k : Nat) (l : List Half) : Half × Nat :=
  let xs := l.map f32
  if xs.any Fp.isNan then (anyNan k, 0)
  else
    let pinf := xs.any (fun x => x == .inf false)
    let ninf := xs.any (fun x => x == .inf true)
    if pinf && ninf then (anyNan k, 0)
    else if pinf then (f32Inf false, 0) else if ninf then (f32Inf true, 0)
    else
      -- every finite FP32 value is a whole number of units of 2^-149
      let unit (x : Fp) : Nat := match x with | .fin _ n d => n * 2 ^ 149 / d | _ => 0
      let mags := xs.map unit
      let total := mags.foldl (· + ·) 0
      let sum := xs.foldl (fun (q : Bool × Nat × Nat) x => match x with | .fin a n d => qadd q.1 q.2.1 q.2.2 a n d | _ => q) (true, 0, 1)
      let grain := (List.range 280).find? (fun e => mags.any (fun m => m / 2 ^ e % 2 == 1))
      match grain with
      | none => (if xs.all Fp.neg then 0x80000000 else 0, 0)
      | some e =>
        if total ≤ 2 ^ (24 + e) && total < 2 ^ 277 then fHeld (sum.1 && decide (sum.2.1 ≠ 0)) sum.2.1 sum.2.2
        else (openHalf k, if total < 2 ^ 276 then 0 else Config.freeValue (k + 1) % 2)

/-- The greatest of the lanes. -/
def fRedMax (k : Nat) (l : List Half) : Half × Nat :=
  match l with
  | [] => (0, 0)
  | x :: r => if l.any (fun y => (f32 y).isNan) then (openHalf k, 0) else r.foldl (fun a y => fMax k a.1 y) (x, 0)

/-! ### Integer forms on 32-bit lanes -/

def iMin (x y : Half) : Half := if x.slt y then x else y
def iMax (x y : Half) : Half := if x.slt y then y else x

/-- The absolute value; the spec states none for -2^31. -/
def iAbs (k : Nat) (x : Half) : Half := if x = 0x80000000 then openHalf k else if x.msb then -x else x
def iSign (x : Half) : Half := if x = 0 then 0 else if x.msb then -1 else 1

/-- The integer square root, reciprocal, reciprocal root and power of two: stated where the result is an integer of the
lane; elsewhere the spec states none. -/
def iSqrt (k : Nat) (x : Half) : Half :=
  let r := isqrt 16 x.toNat 0
  if !x.msb && r * r == x.toNat then BitVec.ofNat 32 r else openHalf k
def iRcp (k : Nat) (x : Half) : Half := if x = 1 || x = -1 then x else openHalf k
def iRsqrt (k : Nat) (x : Half) : Half := if x = 1 then 1 else openHalf k
def iExp2 (k : Nat) (x : Half) : Half := if !x.msb && x.toNat < 31 then BitVec.ofNat 32 (2 ^ x.toNat) else openHalf k

/-! ### Vector instructions -/

/-- A vector instruction whose lane `i` takes `g k i`: the lanes of the mask are written, their saturated events are
counted (R219, R222). -/
def State.vector (s : State) (o : OpA) (g : Nat → AnvilRegs → Nat → Half × Nat) : State :=
  let r := (s.anvil o.anvil).regs
  let res := (List.range 64).map (fun i => g (64 * s.free + i) r i)
  let mask := r.rm o.msk
  let sat := ((res.zipIdx.filter (fun (p : (Half × Nat) × Nat) => mask.getLsbD p.2)).map (fun p => p.1.2)).foldl (· + ·) 0
  s.instr o.anvil (.ok (s.drawn.retireV o.anvil 1 (fun y => (y.wvMasked o.msk o.d (ofLanes (res.map (·.1)))).saturated sat)))

def State.vec1 (s : State) (o : OpA) (f : Nat → Half → Half × Nat) : State := s.vector o (fun k r i => f k (lane (r.rv o.a) i))
def State.vec2 (s : State) (o : OpA) (f : Nat → Half → Half → Half × Nat) : State :=
  s.vector o (fun k r i => f k (lane (r.rv o.a) i) (lane (r.rv o.b) i))
def State.vec3 (s : State) (o : OpA) (f : Nat → Half → Half → Half → Half × Nat) : State :=
  s.vector o (fun k r i => f k (lane (r.rv o.a) i) (lane (r.rv o.b) i) (lane (r.rv o.c) i))

/-- A reduction into lane 0 of v_D; the other lanes keep their values. -/
def State.reduce (s : State) (o : OpA) (f : Nat → List Half → Half × Nat) : State :=
  s.vector o (fun k r i => if i = 0 then f k (lanes (r.rv o.a)) else (lane (r.rv o.d) i, 0))

/-- A comparison: bit i of m_D says how lane i compares; bits outside the mask stay (R219). -/
def State.compare (s : State) (o : OpA) (f : Half → Half → Bool) : State :=
  s.instr o.anvil (.ok (s.retireV o.anvil 1 (fun r =>
    let bit (i : Nat) : Bool := if (r.rm o.msk).getLsbD i then f (lane (r.rv o.a) i) (lane (r.rv o.b) i) else (r.rm o.d).getLsbD i
    r.wm o.d (BitVec.ofNat 64 (maskOf ((List.range 64).filter bit))))))

/-- VADD: FP32 sums. -/
def execVadd (o : OpA) (s : State) : Out := done (s.vec2 o fAdd)

/-- VSUB: FP32 differences. -/
def execVsub (o : OpA) (s : State) : Out := done (s.vec2 o fSub)

/-- VMUL: FP32 products. -/
def execVmul (o : OpA) (s : State) : Out := done (s.vec2 o fMul)

/-- VFMA: v_A × v_B + v_C, rounded once. -/
def execVfma (o : OpA) (s : State) : Out := done (s.vec3 o fFma)

/-- VMIN: the lesser of the lanes. -/
def execVmin (o : OpA) (s : State) : Out := done (s.vec2 o fMin)

/-- VMAX: the greater of the lanes. -/
def execVmax (o : OpA) (s : State) : Out := done (s.vec2 o fMax)

/-- VABS: the sign bit is cleared. -/
def execVabs (o : OpA) (s : State) : Out := done (s.vec1 o (fun _ x => (fAbs x, 0)))

/-- VNEG: the sign bit is inverted. -/
def execVneg (o : OpA) (s : State) : Out := done (s.vec1 o (fun _ x => (fNeg x, 0)))

/-- VSIGN: -1, 0 or 1. -/
def execVsign (o : OpA) (s : State) : Out := done (s.vec1 o (fun k x => (fSign k x, 0)))

/-- VSQRT: square roots, rounded to nearest even. -/
def execVsqrt (o : OpA) (s : State) : Out := done (s.vec1 o fSqrt)

/-- VRCP: reciprocals within 1 ulp. -/
def execVrcp (o : OpA) (s : State) : Out := done (s.vec1 o fRcp)

/-- VRSQRT: reciprocal square roots within 1 ulp. -/
def execVrsqrt (o : OpA) (s : State) : Out := done (s.vec1 o fRsqrt)

/-- VEXP2: powers of two within 1 ulp. -/
def execVexp2 (o : OpA) (s : State) : Out := done (s.vec1 o fExp2)

/-- VREDSUM: the sum of the lanes into lane 0 of v_D. -/
def execVredsum (o : OpA) (s : State) : Out := done (s.reduce o fRedSum)

/-- VREDMAX: the greatest of the lanes into lane 0 of v_D. -/
def execVredmax (o : OpA) (s : State) : Out := done (s.reduce o fRedMax)

/-- VCMPLT: m_D ← v_A < v_B. -/
def execVcmplt (o : OpA) (s : State) : Out := done (s.compare o (fun x y => fpLt (f32 x) (f32 y)))

/-- VSEL: m_C selects v_A, else v_B. -/
def execVsel (o : OpA) (s : State) : Out :=
  done (s.vector o (fun _ r i => (if (r.rm o.c).getLsbD i then lane (r.rv o.a) i else lane (r.rv o.b) i, 0)))

/-- VSPLAT: every lane ← s_A[31:0]. -/
def execVsplat (o : OpA) (s : State) : Out := done (s.vector o (fun _ r _ => ((r.rs o.a).truncate 32, 0)))

/-- The lane or row that a register names, below `n`; one beyond them is not stated, and is a free one. -/
def pickRow (free n : Nat) (x : Word) : Nat := if x.toNat < n then x.toNat else Config.freeValue free % n

/-- VLANE: s_D ← lane s_B of v_A. -/
def execVlane (o : OpA) (s : State) : Out :=
  done (s.instr o.anvil (.ok (s.drawn.retireV o.anvil 1 (fun r =>
    r.ws o.d ((lane (r.rv o.a) (pickRow s.free 64 (r.rs o.b))).zeroExtend 64)))))

/-- VACR: v_D ← row s_B of acc_A. -/
def execVacr (o : OpA) (s : State) : Out :=
  done (s.vector o (fun _ r i => (r.racc o.a (pickRow s.free 16 (r.rs o.b)) i, 0)))

/-- VACW: row s_B of acc_D ← v_A. -/
def execVacw (o : OpA) (s : State) : Out :=
  done (s.instr o.anvil (.ok (s.drawn.retireV o.anvil 1 (fun r =>
    let row := pickRow s.free 16 (r.rs o.b)
    { r with acc := (List.range 64).foldl (fun t i =>
        if (r.rm o.msk).getLsbD i then tset 0 t (accIndex o.d row i) (lane (r.rv o.a) i) else t) r.acc }))))

/-! ### The integer forms (functions 0x20–0x2F) -/

/-- Integer VADD, modulo 2^32. -/
def execVaddInt (o : OpA) (s : State) : Out := done (s.vec2 o (fun _ x y => (x + y, 0)))

/-- Integer VSUB, modulo 2^32. -/
def execVsubInt (o : OpA) (s : State) : Out := done (s.vec2 o (fun _ x y => (x - y, 0)))

/-- Integer VMUL, modulo 2^32. -/
def execVmulInt (o : OpA) (s : State) : Out := done (s.vec2 o (fun _ x y => (x * y, 0)))

/-- Integer VFMA, modulo 2^32. -/
def execVfmaInt (o : OpA) (s : State) : Out := done (s.vec3 o (fun _ x y z => (x * y + z, 0)))

/-- Integer VMIN, signed. -/
def execVminInt (o : OpA) (s : State) : Out := done (s.vec2 o (fun _ x y => (iMin x y, 0)))

/-- Integer VMAX, signed. -/
def execVmaxInt (o : OpA) (s : State) : Out := done (s.vec2 o (fun _ x y => (iMax x y, 0)))

/-- Integer VABS. -/
def execVabsInt (o : OpA) (s : State) : Out := done (s.vec1 o (fun k x => (iAbs k x, 0)))

/-- Integer VNEG, modulo 2^32. -/
def execVnegInt (o : OpA) (s : State) : Out := done (s.vec1 o (fun _ x => (-x, 0)))

/-- Integer VSIGN. -/
def execVsignInt (o : OpA) (s : State) : Out := done (s.vec1 o (fun _ x => (iSign x, 0)))

/-- Integer VSQRT. -/
def execVsqrtInt (o : OpA) (s : State) : Out := done (s.vec1 o (fun k x => (iSqrt k x, 0)))

/-- Integer VRCP. -/
def execVrcpInt (o : OpA) (s : State) : Out := done (s.vec1 o (fun k x => (iRcp k x, 0)))

/-- Integer VRSQRT. -/
def execVrsqrtInt (o : OpA) (s : State) : Out := done (s.vec1 o (fun k x => (iRsqrt k x, 0)))

/-- Integer VEXP2. -/
def execVexp2Int (o : OpA) (s : State) : Out := done (s.vec1 o (fun k x => (iExp2 k x, 0)))

/-- Integer VREDSUM, modulo 2^32. -/
def execVredsumInt (o : OpA) (s : State) : Out := done (s.reduce o (fun _ l => (l.foldl (· + ·) 0, 0)))

/-- Integer VREDMAX, signed. -/
def execVredmaxInt (o : OpA) (s : State) : Out := done (s.reduce o (fun _ l => (l.foldl iMax 0x80000000, 0)))

/-- Integer VCMPLT, signed. -/
def execVcmpltInt (o : OpA) (s : State) : Out := done (s.compare o (fun x y => x.slt y))

end Sys2Proof.Machine
end

