-- ==== Sys2Proof/Machine/Convert.lean ====
section
/-! DEFINITION. The convert class and the Hadamard transform of an anvil (R221, R225–R227). -/

namespace Sys2Proof.Machine

/-! ### Random bits (R153, R226) -/

/-- The 12 random bits of lane `i` of register `reg` of a convert instruction: from the anvil's stream, or with MS = 1 from
the melt row of the window that the last WAITW took. -/
def State.convertBits (s : State) (o : OpA) (reg i : Nat) : Nat :=
  let v := s.anvil o.anvil
  if o.ms then
    match v.lastWindow with
    | some (m, w, step) => randomBits (s.melt m).roundSeed w (step % 2 ^ 32) (m % 4096) ((v.regs.rs o.c).toNat + i + 64 * reg)
    | none => 0
  else
    let c := (v.regs.streamCtr.toNat + reg) % 2 ^ 64
    randomBits v.regs.streamKey.toNat (c % 2 ^ 32) (c / 2 ^ 32) (0x80000000 + o.anvil) i

/-- MS = 1 is valid in the recipe runner, for a window that WAITW has taken (R226). -/
def State.msOk (s : State) (o : OpA) : Bool := !o.ms || ((s.anvil o.anvil).mode == .runner && (s.anvil o.anvil).lastWindow.isSome)

/-- The stream counter after an instruction that reads `n` registers: it goes on by `n` when the instruction rounds
stochastically (R153, R226). -/
def AnvilRegs.streamed (r : AnvilRegs) (w n : Nat) : AnvilRegs :=
  if fwRnd w = 2 then { r with streamCtr := r.streamCtr + BitVec.ofNat 64 n } else r

/-- The FP32 scale of an integer format, in s_C (R225). -/
def AnvilRegs.scale (r : AnvilRegs) (c : Nat) : Half := (r.rs c).truncate 32

/-- A convert instruction may run on its format word: the word is legal, an integer format has a legal scale (R134, R220,
R225). -/
def State.convertOk (s : State) (o : OpA) : Bool :=
  formatWordOk o.modifier && s.msOk o && (!isInt (fwFmt o.modifier) || scaleOk ((s.anvil o.anvil).regs.scale o.c))

/-- A format whose elements stand alone. -/
def flatFmt (f : Nat) : Bool := !isMx f && !isBillet f

/-! ### VCVT (R225) -/

/-- VCVT.TO: the 64 lanes of v_A, converted and packed into v_D from bit 0 upwards. -/
def execVcvtTo (o : OpA) (s : State) : Out :=
  let r := (s.anvil o.anvil).regs
  let f := fwFmt o.modifier
  let c := (lanes (r.rv o.a)).zipIdx.map (fun p => encodeElem o.modifier (r.scale o.c) (s.convertBits o 0 p.2) p.1)
  let v : BitVec 2048 := BitVec.ofNat 2048 (leVal (packCodes (elemBits f) (8 * elemBits f) (c.map (·.1))))
  done (s.instr o.anvil (
    if !s.convertOk o || !flatFmt f then .error (illegal (o.word 0x14 0x00))
    else .ok (s.retireV o.anvil 1 (fun y => ((y.wvMasked o.msk o.d v).events (sumEvents (c.map (·.2)))).streamed o.modifier 1))))

/-- VCVT.FROM: the elements packed in v_A, converted to the 64 lanes of v_D. Of its format word it uses FMT alone (R131). All 64 lanes
are converted and count their events, the masked ones too, which only keep their old values (R156, log entry 32). -/
def execVcvtFrom (o : OpA) (s : State) : Out :=
  let r := (s.anvil o.anvil).regs
  let f := fwFmt o.modifier
  let w := elemBits f
  let c := (List.range 64).map (fun i => decodeElem f (r.scale o.c) (bits (r.rv o.a).toNat (w * i) w))
  done (s.instr o.anvil (
    if !fmtKnown f || !s.msOk o || (isInt f && !scaleOk (r.scale o.c)) || !flatFmt f then .error (illegal (o.word 0x14 0x01))
    else .ok (s.retireV o.anvil 1 (fun y => (y.wvMasked o.msk o.d (ofLanes (c.map (·.1)))).events (sumEvents (c.map (·.2)))))))

/-! ### PACK and UNPACK (R225) -/

/-- Registers that a block, or an MX pair, fills. -/
def packRegs (f : Nat) : Nat := if isMx f then 1 else if f = 0x10 then 2 else 4

/-- Blocks, or MX pairs, of a group. -/
def packBlocks (f : Nat) : Nat := if isMx f then 16 else 4

/-- Bytes of header and of data of one block, or of an MX pair. -/
def packHead (f : Nat) : Nat := if isMx f then 2 else 8
def packBytes (f : Nat) : Nat := if isMx f then 8 * elemBits f else billetBlockBytes f

/-- The cycles that the vector and convert units take (R225). -/
def packCycles (f : Nat) : Nat := if isMx f then 2 else if f = 0x10 then 8 else 16

/-- Encodes the values of one block, or of an MX pair: header bytes, data bytes and events. -/
def packBlock (w : Nat) (r : Nat → Nat) (xs : List Half) : List Byte × List Byte × EventCounts :=
  let f := fwFmt w
  if isMx f then
    let a := encodeMx w r ((xs.take 32).map f32)
    let b := encodeMx w (fun i => r (32 + i)) ((xs.drop 32).map f32)
    ([BitVec.ofNat 8 a.1, BitVec.ofNat 8 b.1], packCodes (elemBits f) (packBytes f) (a.2.1 ++ b.2.1), a.2.2.add b.2.2)
  else
    let a := encodeBillet w r (xs.map f32)
    (leBytes 8 a.1, packCodes (elemBits f) (packBytes f) a.2.1, a.2.2)

/-- Decodes one block, or an MX pair, from its header and data bytes. -/
def unpackBlock (f : Nat) (head data : List Byte) : List Half × EventCounts :=
  if isMx f then
    let r := (List.range 64).map (fun i => decodeMx f (byteAt head (i / 32)).toNat (bits (leVal data) (elemBits f * i) (elemBits f)))
    (r.map (·.1), (sumEvents (r.map (·.2))).add { EventCounts.zero with nonfinite := ((head.take 2).filter (· == 0xFF)).length })
  else decodeBillet f (leVal head) (leVal data) (blockElems f)

/-- The SRAM addresses of block `b` of the group at `g`: header and data. -/
def packPlaces (f g b : Nat) : Nat × Nat := (g + packHead f * b, g + 32 + packBytes f * b)

/-- Both parts of a block lie in SRAM. -/
def packInSram (f g b : Nat) : Bool := sramOk (packPlaces f g b).1 (packHead f) && sramOk (packPlaces f g b).2 (packBytes f)

/-- PACK: one Billet block or an MX pair from the registers starting at v_A, into the group at SRAM s_D as block s_B. -/
def execPack (o : OpA) (s : State) : Out :=
  let r := (s.anvil o.anvil).regs
  let f := fwFmt o.modifier
  let g := (r.rs o.d).toNat
  let b := (r.rs o.b).toNat
  let n := packRegs f
  let word := o.word 0x14 0x02
  let q := packBlock o.modifier (fun i => s.convertBits o (i / 64) (i % 64)) ((List.range n).flatMap (fun i => lanes (r.rv (o.a + i))))
  done (s.instr o.anvil (
    if !s.convertOk o || flatFmt f || 32 < o.a % 32 + n || packBlocks f ≤ b then .error (illegal word)
    else if !packInSram f g b then .error (sramRange word g)
    else .ok ((s.retireV o.anvil (packCycles f) (fun y => (y.events q.2.2).streamed o.modifier n)).modAnvil o.anvil (fun y => { y with
      sram := bwrite (bwrite y.sram (packPlaces f g b).1 q.1) (packPlaces f g b).2 q.2.1 }))))

/-- UNPACK: one Billet block or an MX pair, block s_B of the group at SRAM s_A, into the registers starting at v_D. Of its
format word it uses FMT alone (R131). -/
def execUnpack (o : OpA) (s : State) : Out :=
  let v := s.anvil o.anvil
  let f := fwFmt o.modifier
  let g := (v.regs.rs o.a).toNat
  let b := (v.regs.rs o.b).toNat
  let n := packRegs f
  let word := o.word 0x14 0x03
  let q := unpackBlock f (bread v.sram (packPlaces f g b).1 (packHead f)) (bread v.sram (packPlaces f g b).2 (packBytes f))
  done (s.instr o.anvil (
    if !fmtKnown f || !s.msOk o || flatFmt f || 32 < o.d % 32 + n || packBlocks f ≤ b then .error (illegal word)
    else if !packInSram f g b then .error (sramRange word g)
    else .ok (s.retireV o.anvil (packCycles f) (fun y =>
      ((List.range n).foldl (fun z i => z.wvMasked o.msk (o.d + i) (ofLanes ((q.1.drop (64 * i)).take 64))) y).events q.2))))

/-! ### The sign vector (R178, R221) -/

/-- The 128-bit sign vector of a rotation seed. -/
def signVector (seed : Nat) : Nat := philox seed 0 0 0 0xC0000000

/-- SGNV: m_D and m_(D+1) ← the sign vector of the seed in s_A. -/
def execSgnv (o : OpA) (s : State) : Out :=
  let x := signVector ((s.anvil o.anvil).regs.rs o.a).toNat
  done (s.instr o.anvil (
    if o.d % 8 = 0 || o.d % 8 = 7 then .error (illegal (o.word 0x14 0x04))
    else .ok (s.retireV o.anvil 1 (fun r => (r.wm (o.d % 8) (BitVec.ofNat 64 x)).wm (o.d % 8 + 1) (BitVec.ofNat 64 (x / 2 ^ 64))))))

/-! ### The Hadamard transform (R227) -/

/-- One stage: each pair (a, b) at e and e + 2^k, where bit k of e is 0, becomes (a + b, a - b). `d` numbers the open
values. -/
def fwStage (d k : Nat) (x : List Half) : List Half × Nat :=
  let h := 2 ^ k
  let el (i : Nat) : Half := (x[i]?).getD 0
  let q := (List.range 128).map (fun e => if bit e k then fSub (d + e) (el (e - h)) (el e) else fAdd (d + e) (el e) (el (e + h)))
  (q.map (·.1), (q.map (·.2)).foldl (· + ·) 0)

/-- Stages 0–6. -/
def fwStages (d : Nat) (x : List Half) : List Half × Nat :=
  (List.range 7).foldl (fun a k => let q := fwStage (d + 128 * k) k a.1; (q.1, a.2 + q.2)) (x, 0)

/-- 1/√128 rounded to nearest even. -/
def invSqrt128 : Half := 0x3DB504F3

/-- The scaling by 1/√128. -/
def fwScale (d : Nat) (x : List Half) : List Half × Nat :=
  let q := x.zipIdx.map (fun p => fMul (d + p.2) p.1 invSqrt128)
  (q.map (·.1), (q.map (·.2)).foldl (· + ·) 0)

/-- The negation of the elements whose bit of a sign vector is set. -/
def fwNegate (sign : Nat) (x : List Half) : List Half := x.zipIdx.map (fun p => if bit sign p.2 then fNeg p.1 else p.1)

/-- FWHF: stages, scaling, then the signs. -/
def fwhf (d sign : Nat) (x : List Half) : List Half × Nat :=
  let a := fwStages d x
  let b := fwScale (d + 1024) a.1
  (fwNegate sign b.1, a.2 + b.2)

/-- FWHD: the signs, then stages and scaling. -/
def fwhd (d sign : Nat) (x : List Half) : List Half × Nat :=
  let a := fwStages d (fwNegate sign x)
  let b := fwScale (d + 1024) a.1
  (b.1, a.2 + b.2)

/-- The 128 elements held in v_A and v_(A+1). -/
def AnvilRegs.pair (r : AnvilRegs) (a : Nat) : List Half := lanes (r.rv a) ++ lanes (r.rv (a + 1))

/-- A transform into v_D and v_(D+1). -/
def State.transform (s : State) (o : OpA) (word cycles : Nat) (ok : Bool) (q : List Half × Nat) : State :=
  s.instr o.anvil (
    if !ok || o.a % 32 = 31 || o.d % 32 = 31 then .error (illegal word)
    else .ok (s.drawn.retireV o.anvil cycles (fun r =>
      ((r.wvMasked o.msk o.d (ofLanes (q.1.take 64))).wvMasked o.msk (o.d + 1) (ofLanes (q.1.drop 64))).saturated q.2)))

/-- The sign bits of the pair m_C, m_(C+1). -/
def AnvilRegs.signPair (r : AnvilRegs) (c : Nat) : Nat := (r.rm c).toNat + (r.rm (c + 1)).toNat * 2 ^ 64

/-- FWHS: one stage, modifier[2:0]. -/
def execFwhs (o : OpA) (s : State) : Out :=
  done (s.transform o (o.word 0x1C 0x00) 1 (o.modifier % 8 != 7)
    (fwStage (4096 * s.free) (o.modifier % 8) ((s.anvil o.anvil).regs.pair o.a)))

/-- FWHF: the inverse rotation. -/
def execFwhf (o : OpA) (s : State) : Out :=
  let r := (s.anvil o.anvil).regs
  done (s.transform o (o.word 0x1C 0x01) 8 (o.c % 8 != 7) (fwhf (4096 * s.free) (r.signPair o.c) (r.pair o.a)))

/-- FWHD: the forward rotation. -/
def execFwhd (o : OpA) (s : State) : Out :=
  let r := (s.anvil o.anvil).regs
  done (s.transform o (o.word 0x1C 0x02) 8 (o.c % 8 != 7) (fwhd (4096 * s.free) (r.signPair o.c) (r.pair o.a)))

end Sys2Proof.Machine
end

