-- ==== Sys2Proof/Machine/Tongs.lean ====
section
/-! DEFINITION. Tongs contexts, rings and descriptors (R253–R264), address spaces and translation (R273–R280). -/

namespace Sys2Proof.Machine

/-! ### Descriptor fields (Table — Descriptor header, Table — Descriptor fields) -/

abbrev tCopy : Nat := 1
abbrev tTile : Nat := 2
abbrev tGather : Nat := 3
abbrev tScatter : Nat := 4
abbrev tFill : Nat := 5
abbrev tCast : Nat := 6
abbrev tSeal : Nat := 7
abbrev tPush : Nat := 8
abbrev tLoop : Nat := 9
abbrev tWait : Nat := 10
abbrev tSignal : Nat := 11

def dType (e : List Byte) : Nat := le e 0 1
def dIrq (e : List Byte) : Bool := bit (le e 1 1) 0
def dFence (e : List Byte) : Bool := bit (le e 1 1) 1
def dSpsa (e : List Byte) : Bool := bit (le e 1 1) 2
def dDpsa (e : List Byte) : Bool := bit (le e 1 1) 3
def dTag (e : List Byte) : Nat := le e 4 4
def dSrc (e : List Byte) : Nat := le e 8 6
def dDst (e : List Byte) : Nat := le e 16 6
def dIndex (e : List Byte) : Nat := le e 24 6
def dLen (e : List Byte) : Nat := if dType e = tPush then le e 20 4 else le e 24 8
def dRowBytes (e : List Byte) : Nat := le e 24 4
def dRows (e : List Byte) : Nat := le e 28 4
def dSrcStride (e : List Byte) : Int := toSigned 32 (le e 32 4)
def dDstStride (e : List Byte) : Int := toSigned 32 (le e 36 4)
def dCount (e : List Byte) : Nat := le e 32 4
def dElem (e : List Byte) : Nat := le e 36 4
def dStride (e : List Byte) : Nat := le e 40 4
def dWidth (e : List Byte) : Nat := if bit (le e 44 1) 0 then 8 else 4
def dElements (e : List Byte) : Nat := le e 24 4
def dSrcFmt (e : List Byte) : Nat := le e 28 2
def dDstFmt (e : List Byte) : Nat := le e 30 2
def dSrcScale (e : List Byte) : Half := BitVec.ofNat 32 (le e 32 4)
def dDstScale (e : List Byte) : Half := BitVec.ofNat 32 (le e 36 4)
def dLeaves (e : List Byte) : Nat := le e 24 4
def dSealCopy (e : List Byte) : Bool := bit (le e 28 1) 0
def dCopyDst (e : List Byte) : Nat := le e 32 6
def dBody (e : List Byte) : Nat := le e 8 1
def dReps (e : List Byte) : Nat := le e 10 2 + 1
def dWaitValue (e : List Byte) : Nat := le e 16 8
def dWaitKind (e : List Byte) : Nat := le e 8 1

/-- Bytes `lo` to `hi - 1` of a descriptor are 0. -/
def zeroIn (e : List Byte) (lo hi : Nat) : Bool := zeroField e lo (hi - lo)

/-- An address field of 48 bits with [63:48] zero. -/
def addrOk (e : List Byte) (off : Nat) : Bool := zeroField e (off + 6) 2

/-- An integer side has a legal scale (R134). -/
def sideScaleOk (fmt : Nat) (scale : Half) : Bool := !isInt (fwFmt fmt) || scaleOk scale

/-- A side in an MX or Billet format is 32-byte aligned (R267). -/
def sideAligned (fmt a : Nat) : Bool := !(isMx (fwFmt fmt) || isBillet (fwFmt fmt)) || a % 32 == 0

/-- The checks of R264 on a descriptor's own fields. Of a CAST's source word only FMT matters to its decoder (R131), and its reserved
bits must be 0. -/
def descFields (e : List Byte) : Bool :=
  let common := bits (le e 1 1) 4 4 == 0 && zeroIn e 2 4
  let len24 (n : Nat) : Bool := decide (1 ≤ n) && decide (n ≤ 2 ^ 24)
  common &&
  match dType e with
  | 1 => addrOk e 8 && addrOk e 16 && len24 (dLen e) && zeroIn e 32 64
  | 2 => addrOk e 8 && addrOk e 16 && decide (1 ≤ dRowBytes e) && decide (dRowBytes e ≤ 65536) && decide (1 ≤ dRows e) &&
      decide (dRows e ≤ 4096) && zeroIn e 40 64
  | 5 => zeroIn e 8 16 && addrOk e 16 && len24 (dLen e) && zeroIn e 40 64
  | 6 => addrOk e 8 && addrOk e 16 && len24 (dElements e) && fmtKnown (fwFmt (dSrcFmt e)) && bits (dSrcFmt e) 11 5 == 0 && formatWordOk (dDstFmt e) &&
      sideScaleOk (dSrcFmt e) (dSrcScale e) && sideScaleOk (dDstFmt e) (dDstScale e) && sideAligned (dSrcFmt e) (dSrc e) &&
      sideAligned (dDstFmt e) (dDst e) && zeroIn e 56 64
  | 7 => addrOk e 8 && addrOk e 16 && addrOk e 32 && dSrc e % 65536 == 0 && dDst e % 32 == 0 && dCopyDst e % 65536 == 0 &&
      decide (1 ≤ dLeaves e) && decide (dLeaves e ≤ 256) && decide (le e 28 4 ≤ 1) && zeroIn e 40 64
  | 8 => addrOk e 8 && decide (le e 18 1 ≤ 2) && zeroIn e 19 20 && len24 (dLen e) && zeroIn e 32 64
  | 9 => decide (1 ≤ dBody e) && decide (dBody e ≤ 15) && zeroIn e 9 10 && zeroIn e 12 16 && zeroIn e 40 64
  | 10 => decide (dWaitKind e ≤ 2) && decide (le e 9 1 ≤ 1) && zeroIn e 10 16 && zeroIn e 24 64
  | 11 => decide (le e 8 1 ≤ 3) && decide (le e 9 1 ≤ 63) && zeroIn e 10 16 && addrOk e 16 && dDst e % 8 == 0 && zeroIn e 32 64
  | 3 | 4 => addrOk e 8 && addrOk e 16 && addrOk e 24 && decide (1 ≤ dCount e) && decide (dCount e ≤ 4096) && decide (4 ≤ dElem e) &&
      decide (dElem e ≤ 4096) && dElem e % 4 == 0 && decide (le e 44 1 ≤ 1) && zeroIn e 45 64
  | _ => false

/-! ### Address ranges: first address and length -/

/-- An address modulo 2^48. -/
def addr48 (x : Int) : Nat := (x % (2 ^ 48 : Nat)).toNat

/-- The 64 KiB granules that ranges touch. -/
def granulesOf (l : List (Nat × Nat)) : List Nat :=
  (l.foldl (fun acc r => if r.2 = 0 then acc else
    (List.range ((r.1 + r.2 - 1) / 65536 + 1 - r.1 / 65536)).foldl (fun b i =>
      let g := r.1 / 65536 + i; if b.contains g then b else g :: b) acc) ([] : List Nat)).reverse

/-- Elements of batch `b` of a GATHER or SCATTER: element number and index. -/
def batchOf (ix : List Nat) (b : Nat) : List (Nat × Nat) := ((ix.zipIdx.drop (64 * b)).take 64).map (fun p => (p.2, p.1))

/-- Where the elements of a GATHER or SCATTER lie on the indexed side and on the dense side. -/
def indexedAt (e : List Byte) (base ix : Nat) : Nat × Nat := (addr48 ((base + ix * dStride e : Nat) : Int), dElem e)
def denseAt (e : List Byte) (base i : Nat) : Nat × Nat := (addr48 ((base + i * dElem e : Nat) : Int), dElem e)

/-- Strokes by leaf of a SEAL: its hash alone, or with COPY 16 of 4 KiB each and then the hash of what they copied (R253, R268). -/
def leafStrokes (e : List Byte) : Nat := if dSealCopy e then 17 else 1

/-- Stroke `k` of a SEAL with COPY copies 4 KiB; the other strokes of a SEAL write a hash. -/
def copiesLeaf (e : List Byte) (k : Nat) : Bool := dSealCopy e && decide (k % 17 < 16)

/-- The strokes of a descriptor, at most 4 KiB of destination each (R253). A CAST goes by 1,024 elements, a SEAL by leaves, GATHER and
SCATTER by elements. -/
def strokeCount (e : List Byte) : Nat :=
  match dType e with
  | 1 => ceilDiv (dLen e) 4096
  | 2 => dRows e * ceilDiv (dRowBytes e) 4096
  | 3 | 4 => dCount e
  | 5 => ceilDiv (dLen e) 4096
  | 6 => ceilDiv (dElements e) 1024
  | 7 => leafStrokes e * dLeaves e
  | 8 => ceilDiv (dLen e) 4064
  | _ => 0

/-- The part of `len` bytes that piece `k` of `unit` bytes covers. -/
def piece (len unit k : Nat) : Nat := min unit (len - unit * k)

/-- Source ranges of stroke `k`. -/
def strokeSrc (e : List Byte) (ix : List Nat) (k : Nat) : List (Nat × Nat) :=
  match dType e with
  | 1 => [(addr48 (dSrc e + 4096 * k : Nat), piece (dLen e) 4096 k)]
  | 2 =>
    let n := ceilDiv (dRowBytes e) 4096
    [(addr48 ((dSrc e : Int) + (k / n : Nat) * dSrcStride e + (4096 * (k % n) : Nat)), piece (dRowBytes e) 4096 (k % n))]
  | 3 => [indexedAt e (dSrc e) ((ix[k]?).getD 0)]
  | 4 => [denseAt e (dSrc e) k]
  | 6 =>
    let f := fwFmt (dSrcFmt e)
    [(addr48 (dSrc e + fmtBytes f (1024 * k) : Nat), fmtBytes f (piece (dElements e) 1024 k))]
  | 7 =>
    if copiesLeaf e k then [(addr48 (dSrc e + 65536 * (k / 17) + 4096 * (k % 17) : Nat), 4096)]
    else if dSealCopy e then [] else [(addr48 (dSrc e + 65536 * k : Nat), 65536)]
  | 8 => [(addr48 (dSrc e + 4064 * k : Nat), piece (dLen e) 4064 k)]
  | _ => []

/-- Destination ranges of stroke `k`. -/
def strokeDst (e : List Byte) (ix : List Nat) (k : Nat) : List (Nat × Nat) :=
  match dType e with
  | 1 => [(addr48 (dDst e + 4096 * k : Nat), piece (dLen e) 4096 k)]
  | 2 =>
    let n := ceilDiv (dRowBytes e) 4096
    [(addr48 ((dDst e : Int) + (k / n : Nat) * dDstStride e + (4096 * (k % n) : Nat)), piece (dRowBytes e) 4096 (k % n))]
  | 3 => [denseAt e (dDst e) k]
  | 4 => [indexedAt e (dDst e) ((ix[k]?).getD 0)]
  | 5 => [(addr48 (dDst e + 4096 * k : Nat), piece (dLen e) 4096 k)]
  | 6 =>
    let f := fwFmt (dDstFmt e)
    [(addr48 (dDst e + fmtBytes f (1024 * k) : Nat), fmtBytes f (piece (dElements e) 1024 k))]
  | 7 =>
    if copiesLeaf e k then [(addr48 (dCopyDst e + 65536 * (k / 17) + 4096 * (k % 17) : Nat), 4096)]
    else [(addr48 (dDst e + 32 * (k / leafStrokes e) : Nat), 32)]
  | _ => []

/-- The ranges of a whole descriptor, but for GATHER and SCATTER, of one of its batches. -/
def wholeSrc (e : List Byte) (ix : List Nat) (b : Nat) : List (Nat × Nat) :=
  match dType e with
  | 1 | 8 => [(dSrc e, dLen e)]
  | 2 => (List.range (dRows e)).map (fun (r : Nat) => (addr48 ((dSrc e : Int) + r * dSrcStride e), dRowBytes e))
  | 3 => (batchOf ix b).map (fun p => indexedAt e (dSrc e) p.2)
  | 4 => (batchOf ix b).map (fun p => denseAt e (dSrc e) p.1)
  | 6 => [(dSrc e, fmtBytes (fwFmt (dSrcFmt e)) (dElements e))]
  | 7 => [(dSrc e, 65536 * dLeaves e)]
  | _ => []

def wholeDst (e : List Byte) (ix : List Nat) (b : Nat) : List (Nat × Nat) :=
  match dType e with
  | 1 | 5 => [(dDst e, dLen e)]
  | 2 => (List.range (dRows e)).map (fun (r : Nat) => (addr48 ((dDst e : Int) + r * dDstStride e), dRowBytes e))
  | 3 => (batchOf ix b).map (fun p => denseAt e (dDst e) p.1)
  | 4 => (batchOf ix b).map (fun p => indexedAt e (dDst e) p.2)
  | 6 => [(dDst e, fmtBytes (fwFmt (dDstFmt e)) (dElements e))]
  | 7 => (dDst e, 32 * dLeaves e) :: (if dSealCopy e then [(dCopyDst e, 65536 * dLeaves e)] else [])
  | 11 => if bit (le e 8 1) 1 then [(dDst e, 8)] else []
  | _ => []

/-- The list of indices in memory. -/
def indexRange (e : List Byte) : List (Nat × Nat) :=
  if dType e = tGather || dType e = tScatter then [(dIndex e, dCount e * dWidth e)] else []

/-- No side touches more than 257 granules (R264); a GATHER or SCATTER by batch. -/
def granulesOk (e : List Byte) (ix : List Nat) : Bool :=
  let small (l : List (Nat × Nat)) : Bool := decide ((granulesOf l).length ≤ 257)
  (List.range (max 1 (ceilDiv ix.length 64))).all (fun b => small (wholeSrc e ix b) && small (wholeDst e ix b))

/-! ### LOOP bodies (R270) -/

/-- Adds an increment to the address field at `off`. -/
def addAddr (e : List Byte) (off : Nat) (d : Int) : List Byte := putAt e off (leBytes 6 (addr48 ((le e off 6 : Nat) + d)))

/-- A body descriptor in repetition `r` of LOOP `w`: SRC_INC on SRC; DST_INC on DST, HASH_DST and ADDR; AUX_INC on INDEX and
COPY_DST. -/
def bodyAt (w e : List Byte) (r : Nat) : List Byte :=
  let si := r * toSigned 64 (le w 16 8)
  let di := r * toSigned 64 (le w 24 8)
  let ai := r * toSigned 64 (le w 32 8)
  match dType e with
  | 1 | 2 | 6 => addAddr (addAddr e 8 si) 16 di
  | 3 | 4 => addAddr (addAddr (addAddr e 8 si) 16 di) 24 ai
  | 5 | 11 => addAddr e 16 di
  | 7 => addAddr (addAddr (addAddr e 8 si) 16 di) 32 ai
  | 8 => addAddr e 8 si
  | _ => e

/-- Body descriptor `body` of a LOOP in repetition `rep`; another descriptor is its own. -/
def Desc.effAt (d : Desc) (rep body : Nat) : List Byte :=
  if dType d.words = tLoop then bodyAt d.words ((d.words.drop (64 * (body + 1))).take 64) rep else d.words

/-- The descriptor that is under way. -/
def Desc.eff (d : Desc) : List Byte := d.effAt d.rep d.body

/-- Ring slots that a descriptor consumes. -/
def Desc.slots (d : Desc) : Nat := max 1 (d.words.length / 64)

/-- A descriptor of ring index `idx` that has just been fetched. -/
def newDesc (idx : Nat) (words : List Byte) : Desc :=
  { serial := idx, idx := idx, unread := false, words := words, rep := 0, body := 0, inFlight := [], issued := 0, committed := 0, total := 0,
    done := 0, poison := false, soiled := false, escapes := 0, saturated := 0, malformed := 0, nonfinite := 0, status := none, push := none
    indices := [], tickets := [], batch := 0, checked := false, pieces := [] }

/-- The descriptor has still to enter its work: the checks and translations of a body descriptor of a LOOP. -/
def Desc.entering (d : Desc) : Bool := d.total == 0 && d.status.isNone && !d.checked

/-- A WAIT that is not met. -/
def Desc.waiting (d : Desc) : Bool := d.status.isNone && d.checked

/-- Nothing of it is left but its record. -/
def Desc.finished (d : Desc) : Bool := d.status.isSome && d.inFlight.isEmpty

/-- Changes one descriptor of a context, started or ahead. -/
def State.modDesc (s : State) (c serial : Nat) (f : Desc → Desc) : State :=
  let g (d : Desc) : Desc := if d.serial = serial then f d else d
  s.modCtx c (fun x => { x with started := x.started.map g, ahead := x.ahead.map g })

/-- The number of the ticket of a body descriptor. -/
def ticketOf (rep body : Nat) : Nat := 16 * rep + body

/-- The ticket of the descriptor under way. -/
def Desc.ticket (d : Desc) : List Leaf := tget [] d.tickets (ticketOf d.rep d.body)

/-- The descriptor with another ticket for what is under way. -/
def Desc.withTicket (d : Desc) (t : List Leaf) : Desc := { d with tickets := tins d.tickets (ticketOf d.rep d.body) t }

/-! ### Translation (R273–R280) -/

/-- What a translation comes to: pieces of PSA and length, addresses that the ticket does not cover, or a fault of R280: code,
level, address and whether it was a write. -/
inductive Xlat where
  | ok (pieces : List (Nat × Nat))
  | miss (addrs : List (Nat × Bool))
  | fault (code level tva : Nat) (write : Bool)
  deriving DecidableEq, Repr

/-- The leaf maps an address. -/
def Leaf.covers (l : Leaf) (a : Nat) : Bool := decide (l.tva ≤ a) && decide (a < l.tva + l.size)

/-- The level of the entry that maps a leaf, by its size (R273). -/
def Leaf.level (l : Leaf) : Nat := if l.size = 2 ^ 30 then 1 else if l.size = 2 ^ 21 then 2 else 3

/-- The parts of a range within one 64 KiB granule each: address and length. -/
def granuleParts (r : Nat × Nat) : List (Nat × Nat) :=
  if r.2 = 0 then [] else
  (List.range ((r.1 + r.2 - 1) / 65536 + 1 - r.1 / 65536)).filterMap (fun i =>
    let lo := max r.1 ((r.1 / 65536 + i) * 65536)
    let hi := min (r.1 + r.2) ((r.1 / 65536 + i + 1) * 65536)
    if lo < hi then some (lo % 2 ^ 48, hi - lo) else none)

/-- Joins pieces that follow each other. -/
def joinPieces : List (Nat × Nat) → List (Nat × Nat)
  | [] => []
  | p :: r =>
    match joinPieces r with
    | [] => [p]
    | q :: t => if p.1 + p.2 = q.1 then (p.1, p.2 + q.2) :: t else p :: q :: t

/-- Translates ranges of one side by a ticket; PSAs pass as they are. -/
def translate (t : List Leaf) (psa write : Bool) (l : List (Nat × Nat)) : Xlat :=
  if psa then .ok l
  else
    let found := (l.flatMap granuleParts).map (fun p => (p, t.find? (fun f => f.covers p.1)))
    match found.findSome? (fun q => q.2.bind (fun f => if (if write then f.w else f.r) then none else some (q.1.1, f.level))) with
    | some (a, level) => .fault 0x12 level a write
    | none =>
      match (found.filter (fun q => q.2.isNone)).map (fun q => (q.1.1, write)) with
      | [] => .ok (joinPieces (found.filterMap (fun q => q.2.map (fun f => (f.psa + (q.1.1 - f.tva), q.1.2)))))
      | m => .miss m

/-- Two translations taken together. -/
def Xlat.both (a b : Xlat) : Xlat :=
  match a, b with
  | .fault c l t w, _ => .fault c l t w
  | _, .fault c l t w => .fault c l t w
  | .miss m, .miss n => .miss (m ++ n)
  | .miss m, _ => .miss m
  | _, .miss n => .miss n
  | .ok p, .ok q => .ok (p ++ q)

/-- A cache with an entry put first, cut to its size. -/
def cached {α : Type} [DecidableEq α] (n : Nat) (x : α) (l : List α) : List α := (x :: l.filter (fun y => y ≠ x)).take n

/-- The leaf enters the cache of the engine of a context (R277). -/
def State.cacheLeaf (s : State) (c : Nat) (l : Leaf) : State :=
  let e := (s.ctx c).engine
  { s with tongs := { s.tongs with engineCache := tins s.tongs.engineCache e (cached 1024 l (tget [] s.tongs.engineCache e)) } }

/-- A ticket looks up one address that it does not cover: in the engine's cache, then in the forge's (R277). A lookup that neither
answers is counted when its walk starts. -/
def State.lookLeaf (s : State) (c : Nat) (t : List Leaf) (a : Nat) : State × List Leaf :=
  let x := s.ctx c
  let mine (l : Leaf) : Bool := l.asid == x.asid && l.covers a
  if t.any (fun l => l.covers a) then (s, t)
  else match (tget [] s.tongs.engineCache x.engine).find? mine with
    | some l => (s.noteTongs c 10 1, l :: t)
    | none => match (tget [] s.tongs.sharedCache (x.engine / 4)).find? mine with
      | some l => ((s.cacheLeaf c l).noteTongs c 12 1, l :: t)
      | none => (s, t)

/-- A ticket takes from the caches what ranges need. -/
def State.lookLeaves (s : State) (c : Nat) (t : List Leaf) (l : List (Nat × Nat)) : State × List Leaf :=
  (l.flatMap granuleParts).foldl (fun a p => a.1.lookLeaf c a.2 p.1) (s, t)

/-- The ranges of both sides of a descriptor that are addresses to translate. -/
def virtualRanges (e : List Byte) (src dst : List (Nat × Nat)) : List (Nat × Nat) :=
  (if dSpsa e then [] else src) ++ (if dDpsa e then [] else dst)

/-- Fills the ticket of what is under way in a descriptor. -/
def State.fillTicket (s : State) (c : Nat) (d : Desc) (src dst : List (Nat × Nat)) : State × Desc :=
  let r := s.lookLeaves c d.ticket (virtualRanges d.eff src dst)
  let t := r.2
  if t = d.ticket then (r.1, d) else (r.1.modDesc c d.serial (fun y => { y with tickets := tins y.tickets (ticketOf d.rep d.body) t }), d.withTicket t)

/-- Starts walks for addresses that miss, for what is under way in a descriptor: at most 2 for a context and 16 for a forge (R277). -/
def State.startWalks (s : State) (c : Nat) (d : Desc) (m : List (Nat × Bool)) : State :=
  let e := (s.ctx c).engine
  let f := e / 4
  m.foldl (fun a g =>
    if a.tongs.walks.any (fun w => w.ctx == c && w.tva / 65536 == g.1 / 65536) then a
    else if 2 ≤ (a.tongs.walks.filter (·.ctx == c)).length || 16 ≤ (a.tongs.walks.filter (·.forge == f)).length then a
    else
      let w : Walk := { ctx := c, forge := f, tva := g.1, write := g.2, serial := d.serial, rep := d.rep, body := d.body }
      let held := (a.tongs.walks.filter (fun w => (a.ctx w.ctx).engine == e)).length + 1
      let a1 : State := { a with tongs := { a.tongs with walks := a.tongs.walks ++ [w], peaks := tins a.tongs.peaks e (max (tget 0 a.tongs.peaks e) held) } }
      (a1.noteTongs c 12 1).noteTongs c 13 1) s

/-! ### The table walk (R273, R274, R277) -/

/-- The index of a level: first bit and width. -/
def levelBits (l : Nat) : Nat × Nat := match l with | 0 => (39, 9) | 1 => (30, 9) | 2 => (21, 9) | _ => (16, 5)

/-- Bytes that an entry of a level maps. -/
def levelSize (l : Nat) : Nat := 2 ^ (levelBits l).1

/-- The end of one walk: a leaf, a fault, or an access that has to wait. `tables` are the tables reached by level. -/
inductive WalkEnd where
  | leaf (psa size : Nat) (r w : Bool) (tables : List (Nat × Nat)) (reads : List Access)
  | fault (code level : Nat) (reads : List Access)
  | wait (a : Access)
  deriving DecidableEq, Repr

/-- The accesses by which a walk has read its entries. -/
def WalkEnd.reads : WalkEnd → List Access
  | .leaf _ _ _ _ _ l => l
  | .fault _ _ l => l
  | .wait _ => []

/-- Walks from table `table` of level `l`; `n` bounds the levels left. -/
def State.walkFrom (s : State) (p tva : Nat) : Nat → Nat → Nat → List (Nat × Nat) → List Access → WalkEnd
  | 0, l, _, _, acc => .fault 0x13 l acc
  | n + 1, l, table, seen, acc0 =>
    let b := levelBits l
    let a : Access := { part := p, psa := table + 8 * bits tva b.1 b.2, len := 8, write := false }
    if !s.accReady a then .wait a
    else
      let r := s.pLoad p a.psa 8
      let acc := acc0 ++ [a]
      if r.1 = stFaulted then .fault 0x15 l acc
      else if r.1 ≠ stOk then .fault 0x14 l acc
      else
        let e := leVal r.2
        let ad := bits e 8 40 * 256
        if !bit e 0 then .fault 0x11 l acc
        else if bits e 4 4 ≠ 0 || bits e 48 16 ≠ 0 then .fault 0x13 l acc
        else if bit e 1 then
          (if l = 0 || ad % levelSize l ≠ 0 then .fault 0x13 l acc else .leaf ad (levelSize l) (bit e 2) (bit e 3) seen acc)
        else if l = 3 then .fault 0x13 l acc
        else if l < 2 && ad % 4096 ≠ 0 then .fault 0x13 l acc
        else s.walkFrom p tva n (l + 1) ad ((l + 1, ad) :: seen) acc

/-- A walk, from the deepest table that the forge's walk cache holds, else from the root. -/
def State.walk (s : State) (c tva : Nat) : WalkEnd :=
  let x := s.ctx c
  let hit (l : Nat) : Option WalkEntry := (tget [] s.tongs.walkCache (x.engine / 4)).find? (fun e =>
    e.asid == x.asid && e.level == l && e.pre == tva / levelSize (l - 1))
  match (tfind s.tongs.spaces x.asid).bind (·.root) with
  | none => .fault 0x16 0 []
  | some root =>
    match hit 3 with
    | some e => s.walkFrom x.part tva 1 3 e.table [] []
    | none => match hit 2 with
      | some e => s.walkFrom x.part tva 2 2 e.table [] []
      | none => match hit 1 with
        | some e => s.walkFrom x.part tva 3 1 e.table [] []
        | none => s.walkFrom x.part tva 4 0 root [] []

/-- A resolved leaf enters the caches, and the tables it was reached through the walk cache (R277). -/
def State.keepLeaf (s : State) (c tva : Nat) (l : Leaf) (tables : List (Nat × Nat)) : State :=
  let x := s.ctx c
  let f := x.engine / 4
  let wc := tables.foldl (fun a q => cached 256 { asid := x.asid, level := q.1, pre := tva / levelSize (q.1 - 1), table := q.2 } a)
    (tget [] s.tongs.walkCache f)
  let s1 := s.cacheLeaf c l
  { s1 with tongs := { s1.tongs with
    sharedCache := tins s1.tongs.sharedCache f (cached 16384 l (tget [] s1.tongs.sharedCache f)), walkCache := tins s1.tongs.walkCache f wc } }

/-! ### Engines (R256) -/

/-- The state is that of a context on an engine. -/
def State.activeOn (s : State) (e : Nat) : Nat := (s.tongs.ctxs.filter (fun x => x.2.state == .active && x.2.engine == e)).length

/-- Engines that passed self-test and serve fewer than 64 contexts. -/
def State.openEngines (s : State) : List Nat := (List.range 32).filter (fun e => bit s.tongs.passed e && decide (s.activeOn e < 64))

/-- The engine for a context: of its preferred forge where that has room, the one with the fewest active contexts. -/
def State.engineFor (s : State) (forge : Nat) : Option Nat :=
  let mine := s.openEngines.filter (fun e => e / 4 == forge)
  match (if mine.isEmpty then s.openEngines else mine) with
  | [] => none
  | a :: r => some (r.foldl (fun b y => if s.activeOn y < s.activeOn b then y else b) a)

/-- Places every READY context that an engine has room for, lowest first. -/
def State.placeReady (s : State) : State :=
  (s.tongs.ctxs.filter (fun x => x.2.state == .ready)).foldl (fun a x =>
    match a.engineFor (a.ctx x.1).forge with
    | some e => a.modCtx x.1 (fun y => { y with state := .active, engine := e })
    | none => a) s

/-! ### Faults of a context (R280) -/

/-- The 32 bytes of Table — Tongs fault record, for what is under way in a descriptor. -/
def State.tongsRecord (s : State) (c code level tva : Nat) (write : Bool) (d : Desc) : List Byte :=
  let x := s.ctx c
  let loop := dType d.words = tLoop
  [0x01, BitVec.ofNat 8 x.engine, BitVec.ofNat 8 code, BitVec.ofNat 8 (level % 4 + ofBool write * 4 + (if loop then d.body * 8 else 0))] ++
    leBytes 2 c ++ leBytes 2 x.asid ++ leBytes 8 tva ++ leBytes 4 d.idx ++ leBytes 4 (dTag d.words) ++ leBytes 6 s.heat.count ++
    leBytes 2 (if loop then d.rep else 0)

/-- The walks of a context are dropped. -/
def State.dropWalks (s : State) (c : Nat) : State := { s with tongs := { s.tongs with walks := s.tongs.walks.filter (·.ctx != c) } }

/-- A translation fault of an ACTIVE context: it is FAULTED and off its engine, its tickets go, the record is written and the source
raised. A context that has left its engine meets the fault when it translates again (R256). -/
def State.ctxFault (s : State) (c code level tva : Nat) (write : Bool) (d : Desc) : State :=
  let p := (s.ctx c).part
  if (s.ctx c).state ≠ .active then s
  else
    let rec32 := s.tongsRecord c code level tva write d
    let bare (y : Desc) : Desc := { y with tickets := [] }
    let s1 := (s.noteTongs c 16 1).modCtx c (fun x => { x with
      state := .faulted, started := x.started.map bare, ahead := x.ahead.map bare, fault := some rec32, faultSerial := d.serial })
    ((s1.dropWalks c).placeReady).faultRecord p 3 (some c) rec32

/-! ### Fetching and translating ahead (R276) -/

/-- Descriptors of the ring that have been submitted and not started. -/
def Ctx.waitingSlots (x : Ctx) : Nat := (x.subTail + 2 ^ 32 - x.nextIdx) % 2 ^ 32

/-- The slot of ring index `i`. -/
def Ctx.slotPsa (x : Ctx) (i : Nat) : Nat := x.subBase + 64 * (i % max 1 x.entries)

/-- The descriptor at ring index `i` as its engine fetches it, `n` slots being submitted from there on: its words, a LOOP's with its
body's; with the status it ends with when a fetch fails or a LOOP's body is not valid (R270, R558). -/
def State.fetchAt (s : State) (c i n : Nat) : Desc :=
  let x := s.ctx c
  let r := s.pLoad x.part (x.slotPsa i) 64
  let failed (st : Nat) : Option Nat := some (if st = stFaulted then stFaulted else stNoExtent)
  if r.1 ≠ stOk then { newDesc i ((List.range 64).map (Config.freeByte s.free)) with status := failed r.1, unread := true }
  else if dType r.2 ≠ tLoop then newDesc i r.2
  else if !descFields r.2 then { newDesc i r.2 with status := some stInvalid }
  else
    let k := min (dBody r.2) (n - 1)
    let body := (List.range k).map (fun j => s.pLoad x.part (x.slotPsa ((i + 1 + j) % 2 ^ 32)) 64)
    let d := newDesc i (r.2 ++ body.flatMap (fun b => fit 64 b.2))
    if k < dBody r.2 || body.any (fun b => b.1 = stOk && dType b.2 = tLoop) then { d with status := some stInvalid }
    else match body.find? (fun b => b.1 ≠ stOk) with
      | some b => { d with status := failed b.1 }
      | none => d

/-- The next descriptor of a context's ring: as fetched ahead, else as a fetch now reads it. -/
def State.fetch (s : State) (c : Nat) : Desc :=
  let x := s.ctx c
  (x.ahead.head?).getD (s.fetchAt c x.nextIdx x.waitingSlots)

/-- The ring slots of a descriptor at index `i`. -/
def Ctx.slotAccesses (x : Ctx) (i n : Nat) : List Access :=
  (List.range n).map (fun j => { part := x.part, psa := x.slotPsa ((i + j) % 2 ^ 32), len := 64, write := false })

/-- Fetches the next descriptors of the ring until 8 are held. A LOOP whose body is not yet wholly inside the tail waits for its start. -/
def State.fetchAhead (s : State) (c : Nat) : Nat → State
  | 0 => s
  | n + 1 =>
    let x := s.ctx c
    let i := (x.ahead.foldl (fun k d => k + d.slots) x.nextIdx) % 2 ^ 32
    let left := (x.subTail + 2 ^ 32 - i) % 2 ^ 32
    let one := x.slotAccesses i 1
    if left = 0 || 8 ≤ x.ahead.length then s
    else if !s.allReady one then s.prepareAll 3 one
    else
      let d := s.fetchAt c i left
      let all := x.slotAccesses i d.slots
      if dType d.words = tLoop && !d.unread && descFields (d.words.take 64) && left ≤ dBody d.words then s
      else if !s.allReady all then s.prepareAll 3 all
      else (((if d.unread then s.drawn else s).ctxUses c all).modCtx c (fun y => { y with ahead := y.ahead ++ [d] })).fetchAhead c n

/-- The body descriptors of a LOOP from one on, or the descriptor itself: at most 8. -/
def Desc.instances (d : Desc) (rep body : Nat) : List Desc :=
  if d.status.isSome then []
  else if dType d.words ≠ tLoop then [d]
  else
    let b := max 1 (dBody d.words)
    let i := rep * b + body
    ((List.range 8).filter (fun k => decide (i + k < b * dReps d.words))).map (fun k => { d with rep := (i + k) / b, body := (i + k) % b, indices := [] })

/-- What a context will do next, at most 8 descriptors ahead, each repetition of a LOOP's body counting (R276). -/
def Ctx.comingUp (x : Ctx) : List Desc :=
  ((x.started.filter (fun d => dType d.words == tLoop)).flatMap (fun d => d.instances d.rep (d.body + 1)) ++
    x.ahead.flatMap (fun d => d.instances 0 0)).take 8

/-- The ranges of a descriptor that its ticket covers before its start: for a GATHER or SCATTER the list of indices. -/
def aheadRanges (e : List Byte) : List (Nat × Nat) × List (Nat × Nat) :=
  if !descFields e then ([], [])
  else if dType e = tGather || dType e = tScatter then (indexRange e, [])
  else if granulesOk e [] then (wholeSrc e [] 0, wholeDst e [] 0) else ([], [])

/-- Translates one descriptor ahead of its start. -/
def State.translateAhead (s : State) (c : Nat) (d : Desc) : State :=
  if (s.ctx c).state ≠ .active then s
  else
    let e := d.eff
    let a := aheadRanges e
    let r := s.fillTicket c d a.1 a.2
    match (translate r.2.ticket (dSpsa e) false a.1).both (translate r.2.ticket (dDpsa e) true a.2) with
    | .ok _ => r.1
    | .miss m => r.1.startWalks c d m
    | .fault f l t w => r.1.ctxFault c f l t w d

/-- Fetches and translates a context's next descriptors ahead of their start (R276). -/
def State.lookAhead (s : State) (c : Nat) : State :=
  if (s.ctx c).state ≠ .active then s
  else
    let s1 := s.fetchAhead c 8
    (s1.ctx c).comingUp.foldl (fun a d => a.translateAhead c d) s1

/-! ### A context's way between states (R256) -/

/-- Places READY contexts; each that comes onto an engine is fetched and translated ahead for. -/
def State.placeAhead (s : State) : State :=
  ((s.tongs.ctxs.filter (fun x => x.2.state == .ready)).map (·.1)).foldl State.lookAhead s.placeReady

/-- A context has work that no descriptor in progress is: descriptors in the ring or queued pushes. -/
def Ctx.pendingWork (x : Ctx) : Bool := x.nextIdx != x.subTail || !x.pushes.isEmpty

/-- A context with new work becomes READY (R256); one on an engine is fetched and translated ahead for (R276). -/
def State.wake (s : State) (c : Nat) : State :=
  if (s.ctx c).state = .idle && (s.ctx c).pendingWork then (s.modCtx c (fun x => { x with state := .ready })).placeAhead else s.lookAhead c

/-- The state a context is in once its descriptors have moved on: IDLE with nothing left, WAITING on an unmet WAIT. -/
def State.rest (s : State) (c : Nat) : State :=
  let x := s.ctx c
  if x.state ≠ .active then s
  else if x.started.isEmpty && !x.pendingWork then (s.modCtx c (fun y => { y with state := .idle })).placeAhead
  else if (x.started.head?).any (fun d => d.waiting && dType d.words != tLoop) && x.started.length = 1 then
    (s.modCtx c (fun y => { y with state := .waiting })).placeAhead
  else s

end Sys2Proof.Machine
end

