-- ==== Sys2Proof/Machine/TongsRun.lean ====
section
/-! DEFINITION. The course of a tongs context (R256–R262, R265–R272, R276–R281): completion records, the entry and the
strokes of a descriptor, the issue of strokes by an engine, and the start of the next descriptor. -/

namespace Sys2Proof.Machine

/-! ### Completion (R259–R262) -/

/-- The 32 bytes of Table — Completion record. -/
def Desc.record (d : Desc) : List Byte :=
  let loop := dType d.words = tLoop && d.push.isNone
  let sat (n : Nat) : List Byte := leBytes 4 (min 0xFFFFFFFF n)
  leBytes 4 d.idx ++ leBytes 4 (dTag d.words) ++ [BitVec.ofNat 8 (dType d.words), BitVec.ofNat 8 (d.status.getD 0), BitVec.ofNat 8 (ofBool d.poison + ofBool loop * 2), 0] ++
    leBytes 4 (if loop then d.rep else d.done) ++ sat d.escapes ++ sat d.saturated ++ sat d.malformed ++ sat d.nonfinite

/-- A queued push has ended: the step that counts it goes on without it (R190, R191). -/
def State.pushEnded (s : State) (q : QueuedPush) (status : Nat) : State :=
  let x := s.melt q.melt
  if q.step = some x.step && (x.state == .armed || x.state == .final) then
    s.modMelt q.melt (fun m => { m with pushes := m.pushes - 1, pushFail := m.pushFail || status != 0 })
  else s

/-- A melt that is closed counts no push of its ended steps any more. -/
def State.forgetPushes (s : State) (m : Nat) : State :=
  let f (d : Desc) : Desc := { d with push := d.push.map (fun q => if q.melt = m then { q with step := none } else q) }
  { s with tongs := { s.tongs with ctxs := tmap s.tongs.ctxs (fun _ x => { x with started := x.started.map f, pushes := x.pushes.map f }) } }

/-- Writes the record of a descriptor, then WRITE_IDX and SUB_HEAD, and raises the source with IRQ; of a descriptor that could not be
read, whose flags are unknown, it is raised (R260, R558). -/
def State.complete1 (s : State) (c : Nat) (d : Desc) : State :=
  let x := s.ctx c
  let w := (x.writeIdx + 1) % 2 ^ 32
  let h := if d.push.isSome then x.subHead else (d.idx + d.slots) % 2 ^ 32
  let s3 := (s.modCtx c (fun y => { y with writeIdx := w, subHead := h })).noteTongs c 2 1
  let s4 := if d.status = some 0 then s3 else s3.noteTongs c 17 1
  let s5 := match d.push with
    | some q => s4.pushEnded q (d.status.getD 0)
    | none => s4
  s5.storeAll {
    part := x.part, cls := 3, ctx := some c
    stores := [(x.cplBase + 64 + 32 * (x.writeIdx % max 1 x.entries), d.record), (x.cplBase, leBytes 4 w), (x.cplBase + 8, leBytes 4 h)]
    source := if d.unread || (dIrq d.words && d.push.isNone) then some (0x100 + c / 16) else none }

/-- Writes the records of the descriptors that have finished, in ring order. -/
def State.finish (s : State) (c : Nat) : Nat → State
  | 0 => s
  | n + 1 =>
    match (s.ctx c).started with
    | d :: r => if d.finished then ((s.modCtx c (fun x => { x with started := r })).complete1 c d).finish c n else s
    | [] => s

/-- Writes all the records that are due. -/
def State.finishAll (s : State) (c : Nat) : State := s.finish c (s.ctx c).started.length

/-! ### How a descriptor goes on -/

/-- The next body descriptor of a LOOP, the next repetition, or its end (R270). -/
def Desc.loopNext (d : Desc) : Desc :=
  let e : Desc := { d with total := 0, issued := 0, committed := 0, indices := [], batch := 0, checked := false, soiled := false
                           tickets := tdel d.tickets (ticketOf d.rep d.body) }
  if d.body + 1 < dBody d.words then { e with body := d.body + 1 }
  else if d.rep + 1 < dReps d.words then { e with body := 0, rep := d.rep + 1 }
  else { e with rep := d.rep + 1, status := some stOk }

/-- A descriptor whose strokes have all committed ends, or its LOOP goes on (R281). -/
def Desc.settle (d : Desc) : Desc :=
  if d.status.isSome || d.total = 0 || d.committed < d.total || !d.inFlight.isEmpty then d
  else if d.soiled && dType d.eff ≠ tSeal then { d with status := some stFaulted }
  else if dType d.words = tLoop then d.loopNext
  else { d with status := some stOk }

/-- A WAIT or SIGNAL is done. -/
def Desc.ended (d : Desc) : Desc := if dType d.words = tLoop then d.loopNext else { d with status := some stOk }

/-! ### Entry: the checks and translations before the first stroke (R264, R270, R276, R279) -/

/-- What the entry of a descriptor comes to. -/
inductive Entry where
  | ready (d : Desc)
  | miss (m : List (Nat × Bool))
  | fault (code level tva : Nat) (write : Bool)
  | wait (l : List Access)
  deriving DecidableEq, Repr

/-- The DPA ranges of translated pieces that the extent map admits. -/
def State.dpaPieces (s : State) (p : Nat) (l : List (Nat × Nat)) : List (Nat × Nat) :=
  l.flatMap (fun q => if q.2 = 0 then [] else (blockParts q.1 q.2).filterMap (fun b =>
    let r := s.lookup p b.1 false
    if r.1 = stOk then some (r.2, b.2) else none))

def meets (a b : Nat × Nat) : Bool := decide (a.1 < b.1 + b.2) && decide (b.1 < a.1 + a.2)

/-- Two ranges of a list meet. -/
def selfMeets : List (Nat × Nat) → Bool
  | [] => false
  | a :: r => r.any (meets a) || selfMeets r

/-- Once translated, source and destination share a byte, or the destination rows of a TILE do (R264). -/
def State.shares (s : State) (p : Nat) (e : List Byte) (src dst : List (Nat × Nat)) : Bool :=
  let t := dType e
  let b := s.dpaPieces p dst
  (t == tCopy || t == tTile || t == tCast) &&
    ((s.dpaPieces p src).any (fun q => b.any (meets q)) || (t == tTile && selfMeets b))

/-- The index list of a GATHER or SCATTER is read by its ticket (R276): the descriptor with its indices, or what stands in the way. -/
def State.readIndices (s : State) (c : Nat) (d : Desc) : State × Entry :=
  let e := d.eff
  let p := (s.ctx c).part
  match translate d.ticket (dSpsa e) false (indexRange e) with
  | .fault a l t w => (s, .fault a l t w)
  | .miss m => (s, .miss m)
  | .ok ps =>
    let acc := ps.map (fun q => ({ part := p, psa := q.1, len := q.2, write := false } : Access))
    if !s.allReady acc then (s, .wait acc)
    else
      match (acc.map s.accStatus).find? (· ≠ stOk) with
      | some st => (s, .ready { d with status := some st })
      | none =>
        let rs := ps.map (fun q => s.pRead p q.1 q.2)
        (s.ctxUses c acc, .ready (if rs.any (·.2) then { d with status := some stFaulted, poison := true }
          else { d with indices := leList (dWidth e) (dCount e) (rs.flatMap (·.1)) }))

/-- The entry of a descriptor whose indices, if it has any, are known. -/
def State.entryRanges (s : State) (c : Nat) (d : Desc) : State × Entry :=
  let e := d.eff
  if !granulesOk e d.indices then (s, .ready { d with status := some stInvalid })
  else
    let src := wholeSrc e d.indices 0
    let dst := wholeDst e d.indices 0
    let r := s.fillTicket c d src dst
    let a := translate r.2.ticket (dSpsa e) false src
    let b := translate r.2.ticket (dDpsa e) true dst
    (r.1, match a, b with
      | .ok x, .ok y =>
        .ready (if s.shares (s.ctx c).part e x y then { r.2 with status := some stInvalid } else { r.2 with total := strokeCount e })
      | _, _ => match a.both b with
        | .fault x l t w => .fault x l t w
        | .miss m => .miss m
        | .ok _ => .miss [])

/-- The entry of a descriptor, or of the next body descriptor of a LOOP. -/
def State.entry (s : State) (c : Nat) (d : Desc) : State × Entry :=
  let e := d.eff
  if !descFields e || (dType d.words = tLoop && dType e = tLoop) then (s, .ready { d with status := some stInvalid })
  else if dType e = tWait then
    (s, .ready (if dWaitKind e = 1 && ((s.melt (dWaitValue e % 4096)).state == .free || (s.melt (dWaitValue e % 4096)).part != (s.ctx c).part) then
      { d with status := some stInvalid } else { d with checked := true }))
  else if (dType e = tGather || dType e = tScatter) && d.indices.isEmpty then
    let f := s.fillTicket c d (indexRange e) []
    match f.1.readIndices c f.2 with
    | (s1, .ready d1) => if d1.status.isSome then (s1, .ready d1) else s1.entryRanges c d1
    | x => x
  else s.entryRanges c d

/-- The write of a SIGNAL, translated: where it goes, if it writes. -/
def Desc.signalAt (d : Desc) : Option Nat :=
  let e := d.eff
  if dType e = tSignal && bit (le e 8 1) 1 then
    match translate d.ticket (dDpsa e) true [(dDst e, 8)] with
    | .ok ((a, _) :: _) => some a
    | _ => none
  else none

/-- A SIGNAL acts: it sets its flag, and writes its value (R272). -/
def State.signalActs (s : State) (c : Nat) (d : Desc) : State × Desc :=
  let e := d.eff
  let p := (s.ctx c).part
  let s1 := if bit (le e 8 1) 0 then s.setFlag p (le e 9 1) true else s
  match d.signalAt with
  | some a =>
    let r := s1.pStore 3 p a ((e.drop 24).take 8) false
    if r.1 = stOk then (r.2.ctxUses c [{ part := p, psa := a, len := 8, write := true }], { d with done := d.done + 8 }.ended)
    else (s1, { d with status := some r.1 })
  | none => (s1, d.ended)

/-- The access that a SIGNAL makes has to wait. -/
def State.signalWaits (s : State) (c : Nat) (d : Desc) : List Access :=
  match d.signalAt with
  | some a =>
    let x : Access := { part := (s.ctx c).part, psa := a, len := 8, write := true }
    if s.accReady x then [] else [x]
  | none => []

/-- A descriptor waits for every earlier one of its context: FENCE, its LOOP's at its start, or a SIGNAL (R261). -/
def Desc.alone (d : Desc) : Bool := dFence d.eff || dType d.eff == tSignal || (d.rep == 0 && d.body == 0 && dFence d.words)

/-- Started LOOPs whose next body descriptor can enter do so; one that has to wait for earlier descriptors does not yet. -/
def State.enterLoops (s : State) (c : Nat) : Nat → State
  | 0 => s
  | n + 1 =>
    let x := s.ctx c
    match x.started.find? Desc.entering with
    | none => s
    | some d =>
      if x.state ≠ .active || (d.alone && !(x.started.head?).any (·.serial == d.serial)) then s
      else match s.entry c d with
        | (s1, .miss m) => s1.startWalks c d m
        | (s1, .fault a l t w) => s1.ctxFault c a l t w d
        | (s1, .wait l) => s1.prepareAll 3 l
        | (s1, .ready d1) =>
          if d1.status.isNone && dType d.eff = tSignal then
            (if !(s1.signalWaits c d1).isEmpty then s1.prepareAll 3 (s1.signalWaits c d1)
            else
              let r := s1.signalActs c d1
              (r.1.modDesc c d.serial (fun _ => r.2)).enterLoops c n)
          else (s1.modDesc c d.serial (fun _ => d1)).enterLoops c n

/-! ### Strokes (R253, R260, R269) -/

/-- Strokes that an engine has in flight: those it issued, wherever their context is now (R253). -/
def State.inFlight (s : State) (e : Nat) : Nat :=
  (s.tongs.ctxs.map (fun x => (x.2.started.map (fun d => d.inFlight.countP (fun k => k.engine == e))).foldl (· + ·) 0)).foldl (· + ·) 0

/-- A PUSH train is sent to its endpoint (R269, R324); without a route it is answered inside the chip (R357). -/
def State.sendPush (s : State) (c : Nat) (e : List Byte) (k : Nat) (data : List Byte) : State :=
  let hd : List Byte := [0x02, 0, BitVec.ofNat 8 (le e 18 1), 0] ++ leBytes 4 data.length ++ leBytes 8 (le e 24 8 + 4064 * k)
  let t : Train := { typ := 0x7, cls := 1, dst := le e 16 2, src := s.endpoint 34, part := (s.ctx c).part, tag := s.tongs.nextTag
                     cells := fit 32 hd :: cells32 data }
  let s1 : State := { s with tongs := { s.tongs with nextTag := (s.tongs.nextTag + 1) % 4096 } }
  match s1.chooseOut t.dst t.src t.tag with
  | some out => s1.sendOn out t
  | none => s1.unreachable (s1.blamePort t.dst 0) t.cell0

/-- The ranges that must be translated before stroke `k` issues: its own, and a GATHER's or SCATTER's whole batch (R276, R279). -/
def strokeNeeds (e : List Byte) (ix : List Nat) (k : Nat) : List (Nat × Nat) × List (Nat × Nat) :=
  if (dType e == tGather || dType e == tScatter) && k % 64 == 0 then (wholeSrc e ix (k / 64), wholeDst e ix (k / 64))
  else (strokeSrc e ix k, strokeDst e ix k)

/-- A descriptor comes to the batch of stroke `k`: the ticket of the batch before goes. -/
def Desc.atBatch (d : Desc) (k : Nat) : Desc := if d.batch = k / 64 then d else { d.withTicket [] with batch := k / 64 }

/-- Issues the next stroke of a descriptor of a context (R279, R284): true when one was issued. A PUSH train needs the space for its
RSP, which is its place among the 64 strokes in flight (R269). -/
def State.issueStroke (s : State) (c : Nat) : State × Bool :=
  let x := s.ctx c
  if x.state ≠ .active || s.coolantStop then (s, false)
  else match x.started.find? (fun d => d.status.isNone && decide (d.issued < d.total)) with
  | none => (s, false)
  | some d0 =>
    let e := d0.eff
    let k := d0.issued
    let d1 := if dType e = tGather || dType e = tScatter then d0.atBatch k else d0
    let need := strokeNeeds e d1.indices k
    let f := (if d1 = d0 then s else s.modDesc c d0.serial (fun _ => d1)).fillTicket c d1 need.1 need.2
    let s1 := f.1
    let t := f.2.ticket
    match (translate t (dSpsa e) false need.1).both (translate t (dDpsa e) true need.2) with
    | .fault a l v w => (s1.ctxFault c a l v w d1, false)
    | .miss m => (s1.startWalks c d1 m, false)
    | .ok _ =>
      let pieces (z : Xlat) : List (Nat × Nat) := match z with | .ok l => l | _ => []
      let src := pieces (translate t (dSpsa e) false (strokeSrc e d1.indices k))
      let dst := pieces (translate t (dDpsa e) true (strokeDst e d1.indices k))
      let st : Stroke := { index := k, src := src, dst := dst, tag := s1.tongs.nextTag, age := none, fenced := false, engine := x.engine }
      let fly (z : State) : State := z.modDesc c d1.serial (fun y => { y with inFlight := y.inFlight ++ [st], issued := k + 1 })
      if dType e ≠ tPush then (fly s1, true)
      else
        let acc := src.map (fun q => ({ part := x.part, psa := q.1, len := q.2, write := false } : Access))
        if !s1.allReady acc then (s1.prepareAll 3 acc, false)
        else match (acc.map s1.accStatus).find? (· ≠ stOk) with
          | some u => (s1.modDesc c d1.serial (fun y => { y with status := some u }), true)
          | none =>
            let rs := src.map (fun q => s1.pRead x.part q.1 q.2)
            let s2 := s1.ctxUses c acc
            if rs.any (·.2) then
              (s2.modDesc c d1.serial (fun y => { y with poison := true, soiled := true, issued := k + 1, committed := y.committed + 1 }.settle), true)
            else
              let data := rs.flatMap (·.1)
              ((fly (s2.sendPush c e k data)).noteTongs c 8 data.length, true)

/-- The active contexts of an engine in the order of its round: those after the last one served come first (R253). -/
def State.roundOf (s : State) (e : Nat) : List Nat :=
  let l := (s.tongs.ctxs.filter (fun x => x.2.state == .active && x.2.engine == e)).map (·.1)
  let last := tget 0 s.tongs.turn e
  l.filter (fun c => decide (last < c)) ++ l.filter (fun c => decide (c ≤ last))

/-- An engine with fewer than 64 strokes in flight issues one stroke, of the first context in turn that has one: true when one was
issued. -/
def State.issueNext (s : State) (e : Nat) : State × Bool :=
  (s.roundOf e).foldl (fun a c =>
    if a.2 || 64 ≤ a.1.inFlight e then a
    else
      let r := a.1.issueStroke c
      if r.2 then ({ r.1 with tongs := { r.1.tongs with turn := tins r.1.tongs.turn e c } }, true) else r) (s, false)

/-- An engine issues strokes while it can. -/
def State.issueRounds (s : State) (e : Nat) : Nat → State
  | 0 => s
  | n + 1 =>
    let r := s.issueNext e
    if r.2 then r.1.issueRounds e n else r.1

/-- A walk slot is free: contexts of the forge whose misses waited for one start theirs (R278). -/
def State.slotFreed (s : State) (forge : Nat) : State :=
  let cs := (s.tongs.ctxs.filter (fun x => x.2.state == .active && x.2.engine / 4 == forge)).map (·.1)
  (List.range 4).foldl (fun a k => a.issueRounds (4 * forge + k) 65536) (cs.foldl (fun a c => (a.enterLoops c 16).lookAhead c) s)

/-- The walks that an event has dropped or ended leave their slots to others of their forges (R278). -/
def State.freedSince (s s0 : State) : State :=
  ((s0.tongs.walks.filter (fun w => !s.tongs.walks.contains w)).map (·.forge)).dedup.foldl State.slotFreed s

/-- What follows every event of a context: LOOPs enter their next body descriptor, the engine issues strokes, finished
descriptors write their records, the next descriptors are translated, and the context leaves its engine when nothing is left. -/
def State.pump (s : State) (c : Nat) : State :=
  let s1 := s.enterLoops c 16
  let s2 := s1.issueRounds (s1.ctx c).engine 65536
  (((s2.finishAll c).lookAhead c).rest c).freedSince s

/-! ### The start of a descriptor (R260, R261, R276, R558) -/

/-- READ_IDX as the engine reads it; a failed read counts the ring as full (R558). -/
def State.readIdx (s : State) (c : Nat) : Nat :=
  let x := s.ctx c
  let r := s.pLoad x.part (x.cplBase + 4) 4
  if r.1 = stOk then leVal r.2 else (x.writeIdx + 2 ^ 32 - x.entries % 2 ^ 32) % 2 ^ 32

/-- The completion ring has room for one more descriptor beside those started (R260). -/
def Ctx.hasRoom (x : Ctx) : Bool := decide ((x.writeIdx + 2 ^ 32 - x.readIdx) % 2 ^ 32 + x.started.length + 1 ≤ x.entries)

/-- The engine's read of READ_IDX. -/
def State.readIdxAccess (s : State) (c : Nat) : Access := { part := (s.ctx c).part, psa := (s.ctx c).cplBase + 4, len := 4, write := false }

/-- The engine reads READ_IDX again; a read that has to wait for its line does not come yet. -/
def State.reread (s : State) (c : Nat) : State :=
  let a := s.readIdxAccess c
  if s.accReady a then (s.modCtx c (fun y => { y with readIdx := s.readIdx c })).ctxUses c [a] else s.accPrepare 3 a

/-- The accesses of a fetch and of the start. -/
def State.startAccesses (s : State) (c : Nat) : List Access :=
  let x := s.ctx c
  (List.range (min 16 x.waitingSlots)).map (fun i => { part := x.part, psa := x.slotPsa (x.nextIdx + i), len := 64, write := false }) ++
    [s.readIdxAccess c]

/-- A descriptor is taken from the ring, or from the queued pushes, and starts. -/
def State.take (s : State) (c : Nat) (d : Desc) : State :=
  s.modCtx c (fun x => { x with
    started := x.started ++ [d], held := false
    nextIdx := if d.push.isSome then x.nextIdx else (x.nextIdx + d.slots) % 2 ^ 32
    ahead := if d.push.isSome then x.ahead else x.ahead.drop 1
    pushes := if d.push.isSome then x.pushes.drop 1 else x.pushes })

/-- A context may start a descriptor: it is on an engine, fewer than 8 are in progress, none is an unmet WAIT. -/
def State.mayStart (s : State) (c : Nat) : Bool :=
  let x := s.ctx c
  x.state == .active && !s.coolantStop && !x.resetting && (s.part x.part).state == .active && decide (x.started.length < 8) && !x.started.any Desc.waiting

/-- Starts descriptor `d` of context `c`, its accesses being possible now. -/
def State.startNow (s : State) (c : Nat) (d : Desc) : State :=
  let x := s.ctx c
  if d.status.isSome then ((if d.unread && x.ahead.isEmpty then s.drawn else s).take c d).pump c
  else if d.alone && !x.started.isEmpty then s
  else match s.entry c d with
    | (s1, .miss m) => s1.startWalks c d m
    | (s1, .fault a l t w) => (s1.ctxFault c a l t w d).freedSince s
    | (s1, .wait l) => s1.prepareAll 3 l
    | (s1, .ready d1) =>
      if !(s1.signalWaits c d1).isEmpty then s1.prepareAll 3 (s1.signalWaits c d1)
      else if d1.status.isNone && dType d1.eff = tSignal then
        let r := s1.signalActs c d1
        (r.1.take c r.2).pump c
      else (s1.take c d1).pump c

/-- A context as it comes to start a descriptor: READ_IDX read again unless one is held back, the next descriptors fetched. -/
def State.refreshed (s : State) (c : Nat) : State := (if (s.ctx c).held then s else s.reread c).fetchAhead c 8

/-- The start of a context's next descriptor when its TYPE is one of those of a row; queued pushes start before the ring's. A
descriptor that could not be read is of every row. -/
def State.startDesc (s : State) (c : Nat) (ok : Nat → Bool) : State :=
  let x := s.ctx c
  let push := ok tPush && !x.pushes.isEmpty
  if !s.mayStart c || (x.waitingSlots = 0 && !push) then s
  else if !s.allReady (s.startAccesses c) then s.prepareAll 3 (s.startAccesses c)
  else
    let s0 := s.refreshed c
    let d := if push then (x.pushes.head?).getD (newDesc 0 []) else s0.fetch c
    if !push && !d.unread && !ok (dType d.words) then s
    else if !(s0.ctx c).hasRoom then
      (if x.held then s else (s0.modCtx c (fun y => { y with held := true })).noteTongs c 22 1)
    else s0.startNow c d

end Sys2Proof.Machine
end

