-- ==== Sys2Proof/Machine/Runner.lean ====
section
/-! DEFINITION. The recipe runner (R183, R188, R189, R207, R245–R247): the reading of a window image, the library recipes,
the cast with residual, and the pushes that follow. -/

namespace Sys2Proof.Machine

/-! ### Reading the image (R188) -/

/-- The runner of an anvil works: it is loaded, its clock runs, and it has taken a window. -/
def State.runnerJob (s : State) (a : Nat) : Option RunnerJob :=
  let v := s.anvil a
  if v.mode == .runner && v.enabled && !s.coolantStop && s.isReady then v.job else none

/-- The accesses that read a window's close record and image. -/
def RunnerJob.imageAccesses (j : RunnerJob) (x : Melt) : List Access :=
  let close : Access := { part := x.part, psa := x.closePsa j.window, len := 512, write := false }
  match j.slot with
  | some _ => [close]
  | none => [close, { part := x.part, psa := x.imagePsa j.window, len := 262144, write := false }]

/-- Words of four bytes of an image, by element. -/
def wordsOf (l : List Byte) : List Half := (leList 4 (l.length / 4) l).map (BitVec.ofNat 32)

/-- The table of the words of an image that are not +0. -/
def imageTab (l : List Half) : Tab Half := (l.zipIdx.filter (fun (p : Half × Nat) => p.1 ≠ 0)).map (fun (p : Half × Nat) => (p.2, p.1))

/-- The fault of the runner's first access that is refused or reads poison, if there is one. -/
def State.readFault (s : State) (l : List Access) : Option AFault :=
  match l.find? (fun a => s.accStatus a != stOk) with
  | some a => some { code := fMemAccess, user := 0, word := 0, addr := a.psa, status := s.accStatus a }
  | none => (l.find? (fun a => !a.write && (s.pRead a.part a.psa a.len).2)).map (fun a =>
      { code := fPoison, user := 0, word := 0, addr := a.psa, status := 0 })

/-- The runner of an anvil holds the image and the close record of its window; the slot becomes FREE (R188, R192). -/
def State.imageTaken (s0 : State) (anvil : Nat) (j : RunnerJob) (accs : List Access) : State :=
  let x := s0.melt j.melt
  let close := (s0.pRead x.part (x.closePsa j.window) 512).1
  let image := match j.slot with
    | some _ => ((tfind x.windows j.window).map (·.acc)).getD []
    | none => imageTab (wordsOf (s0.pRead x.part (x.imagePsa j.window) 262144).1)
  let counts := ((List.range 128).zip (leList 2 128 close)).filter (fun (q : Nat × Nat) => q.2 ≠ 0)
  let s1 := ((s0.useLines 2 accs).releaseSlot j.slot).modAnvil anvil (fun y => { y with
    job := some { j with slot := none, imageRead := true, image := image, counts := counts, full := le close 296 1 == 0 } })
  let s2 := s1.modWindow j.melt j.window (fun w => { w with acc := [], place := match w.place with | .started a _ c => .started a none c | p => p })
  let s3 := s2.noteAnvil anvil 16 (512 + 262144)
  match j.slot, (tfind x.windows j.window).map (fun (w : Window) => w.place) with
  | none, some (WindowPlace.started _ _ c) => s3.countPour x.part c 19 1
  | _, _ => s3

/-- IMAGE_READ_REPORT: the close record and the image have been read; the slot becomes FREE (R188, R192). -/
def execImageReadReport (anvil : Nat) (found : List Finding) (s : State) : Out :=
  done (match s.runnerJob anvil with
  | none => s
  | some j =>
    let x := s.melt j.melt
    let accs := j.imageAccesses x
    if j.imageRead then s
    else if !s.allReady accs then s.prepareAll 2 accs
    else
      let s0 := s.foundAll found
      match s0.readFault accs with
      | some f => s0.runnerFault anvil f
      | none => s0.imageTaken anvil j accs)

/-! ### The library recipes (R245) -/

/-- The recipe parameter block (R246). -/
structure Params where
  lr : Half
  beta1 : Half
  beta2 : Half
  eps : Half
  wd : Half
  gscale : Half
  nesterov : Bool
  biasCorr : Bool
  deriving DecidableEq, Repr

def paramsOf (l : List Byte) : Params :=
  let w (k : Nat) : Half := BitVec.ofNat 32 (le l (4 * k) 4)
  { lr := w 0, beta1 := w 1, beta2 := w 2, eps := w 3, wd := w 4, gscale := w 5, nesterov := bit (le l 24 1) 0, biasCorr := bit (le l 24 1) 1 }

/-- A quotient rounded to nearest even, and whether it was held. -/
def fDiv (k : Nat) (x y : Half) : Half × Nat :=
  match f32 x, f32 y with
  | .fin a n d, .fin b m c =>
    if m = 0 then (if n = 0 then anyNan k else f32Inf (a != b), 0) else fHeld (a != b) (n * c) (d * m)
  | .inf a, .fin b _ _ => (f32Inf (a != b), 0)
  | .fin a _ _, .inf b => (BitVec.ofNat 32 (f32Sign (a != b)), 0)
  | _, _ => (anyNan k, 0)

/-- The FP32 value of a count. -/
def fNat (n : Nat) : Half := f32Round false n 1

/-- β^STEP: the exact power, rounded once. -/
def fPow (k : Nat) (x : Half) (n : Nat) : Half × Nat :=
  match f32 x with
  | .fin a m d => fHeld (a && n % 2 == 1) (m ^ n) (d ^ n)
  | .inf a => (f32Inf (a && n % 2 == 1), 0)
  | .nan _ => (anyNan k, 0)

/-- A result of the runner's arithmetic with the overflows held on the way to it, one event each (R222). -/
abbrev Held := Half × Nat

/-- An operation on two results: its own overflow joins theirs. -/
def held2 (f : Half → Half → Half × Nat) (x y : Held) : Held :=
  let r := f x.1 y.1
  (r.1, x.2 + y.2 + r.2)

def fOne : Half := 0x3F800000

/-- The correction 1 - β^STEP, or 1. -/
def Params.correction (q : Params) (k : Nat) (beta : Half) (step : Nat) : Held :=
  if q.biasCorr then held2 (fSub (k + 1)) (fOne, 0) (fPow k beta step) else (fOne, 0)

/-- The values of one element: master and moments. -/
structure Element where
  m : Half
  m1 : Half
  m2 : Half
  deriving DecidableEq, Repr

/-- The update of an element with the mean gradient `g`, and the overflows that it held; `c1` and `c2` are the corrections of ADAMW, `k`
numbers the open values. Every operation of Table — Library recipes rounds to nearest even (log entry 21). -/
def Params.update (q : Params) (k recipe : Nat) (c1 c2 : Half) (e : Element) (g : Half) : Element × Nat :=
  let v (x : Half) : Held := (x, 0)
  let add (i : Nat) : Held → Held → Held := held2 (fAdd (k + i))
  let sub (i : Nat) : Held → Held → Held := held2 (fSub (k + i))
  let mul (i : Nat) : Held → Held → Held := held2 (fMul (k + i))
  let div (i : Nat) : Held → Held → Held := held2 (fDiv (k + i))
  match recipe with
  | 1 =>
    let u := add 1 (mul 0 (v q.beta1) (v e.m1)) (v g)
    let d := if q.nesterov then add 3 (v g) (mul 2 (v q.beta1) u) else u
    let m := sub 7 (v e.m) (mul 6 (v q.lr) (add 5 d (mul 4 (v q.wd) (v e.m))))
    ({ e with m1 := u.1, m := m.1 }, m.2)
  | 2 =>
    let a := add 3 (mul 0 (v q.beta1) (v e.m1)) (mul 2 (sub 1 (v fOne) (v q.beta1)) (v g))
    let b := add 8 (mul 4 (v q.beta2) (v e.m2)) (mul 7 (sub 5 (v fOne) (v q.beta2)) (mul 6 (v g) (v g)))
    let w := div 10 b (v c2)
    let root := fSqrt (k + 13) w.1
    let r := div 12 (div 9 a (v c1)) (add 11 (root.1, w.2 + root.2) (v q.eps))
    let m := sub 17 (v e.m) (mul 16 (v q.lr) (add 15 r (mul 14 (v q.wd) (v e.m))))
    ({ m1 := a.1, m2 := b.1, m := m.1 }, m.2)
  | 3 =>
    let c := add 3 (mul 0 (v q.beta1) (v e.m1)) (mul 2 (sub 1 (v fOne) (v q.beta1)) (v g))
    let m := sub 7 (v e.m) (mul 6 (v q.lr) (add 5 (fSign (k + 8) c.1, c.2) (mul 4 (v q.wd) (v e.m))))
    let n := add 12 (mul 9 (v q.beta2) (v e.m1)) (mul 11 (sub 10 (v fOne) (v q.beta2)) (v g))
    ({ e with m := m.1, m1 := n.1 }, m.2 + n.2)
  | _ => ({ e with m := g }, 0)

/-! ### One window (R247) -/

/-- The arrays of a window that the runner reads: element accesses of one kind. -/
def Melt.arrays (x : Melt) (w : Nat) : List (Nat × Nat) :=
  let n := x.winElems w
  let m1 : List (Nat × Nat) := if x.recipe = 0 then [] else [(x.m1Psa + 262144 * w, 4 * n)]
  let m2 : List (Nat × Nat) := if x.recipe = 2 then [(x.m2Psa + 262144 * w, 4 * n)] else []
  let r : List (Nat × Nat) := if x.residPsa = 0 then [] else [(x.residPsa + 131072 * w, 2 * n)]
  [(x.masterPsa + 262144 * w, 4 * n)] ++ m1 ++ m2 ++ r

/-- Where the cast of a window lies, and how long it is. -/
def Melt.castPsa (x : Melt) (w : Nat) : Nat := x.outPsa + w * fmtBytes (fwFmt x.outFmt) 65536
def Melt.castLen (x : Melt) (w : Nat) : Nat := fmtBytes (fwFmt x.outFmt) (x.winElems w)

/-- Reads and writes of a window. -/
def Melt.windowReads (x : Melt) (w : Nat) : List Access :=
  ({ part := x.part, psa := x.paramPsa, len := 64, write := false } : Access) ::
    (x.arrays w).map (fun r => { part := x.part, psa := r.1, len := r.2, write := false })

def Melt.windowWrites (x : Melt) (w : Nat) : List Access :=
  ({ part := x.part, psa := x.castPsa w, len := x.castLen w, write := true } : Access) ::
    (x.arrays w).map (fun r => { part := x.part, psa := r.1, len := r.2, write := true })

/-- The mean gradient of block `b` of a window: the sum, rotated back where the melt rotates, over the number of
contributors, times GSCALE (R183, R245), with the overflows held, those of the rotation with the first element. -/
def RunnerJob.means (j : RunnerJob) (x : Melt) (q : Params) (k n b : Nat) : List Held :=
  let sum := (List.range 128).map (fun i => tget (0 : Half) j.image (128 * b + i))
  let y := if x.rotate then fwhf k (signVector x.rotSeed) sum else (sum, 0)
  let c := fNat (if j.full then x.contrib else tget 0 j.counts (b / 4))
  ((y.1.zipIdx.map (fun (p : Half × Nat) =>
    held2 (fMul (k + 2048 + p.2)) (held2 (fDiv (k + 1280 + p.2)) (p.1, if p.2 = 0 then y.2 else 0) (c, 0)) (q.gscale, 0))).take (n - 128 * b))

/-- A chunk of a window is finalised (R183). -/
def RunnerJob.takes (j : RunnerJob) (x : Melt) (chunk : Nat) : Bool := (j.full && x.contrib != 0) || tget 0 j.counts chunk != 0

/-- The elements of a window after the recipe, each with the overflows that its update held (R222); one that is not finalised keeps its
values and is marked. -/
def RunnerJob.run (j : RunnerJob) (x : Melt) (q : Params) (k : Nat) (old : List Element) : List ((Element × Bool) × Nat) :=
  let n := old.length
  let c1 := q.correction (k + 1) q.beta1 j.step
  let c2 := q.correction (k + 3) q.beta2 j.step
  (List.range (ceilDiv n 128)).flatMap (fun b =>
    let here := (old.drop (128 * b)).take 128
    if !j.takes x (b / 4) then here.map (fun e => ((e, false), 0))
    else ((here.zip (j.means x q (k + 2 ^ 13 * (b + 1)) n b)).zipIdx).map (fun (p : (Element × Held) × Nat) =>
      let u := q.update (k + 2 ^ 24 + 32 * (128 * b + p.2)) x.recipe c1.1 c2.1 p.1.1 p.1.2.1
      ((u.1, true), u.2 + p.1.2.2 + (if b = 0 ∧ p.2 = 0 then c1.2 + c2.2 else 0))))

/-- The bytes of the cast image of a window that hold chunk `c` of `n` elements: header and data parts, as offset and
length. In a blocked format a chunk is whole blocks of one group. -/
def castParts (f n c : Nat) : List (Nat × Nat) :=
  if isMx f || isBillet f then
    let g := 512 * c / groupElems f
    let o := g * groupBytes f
    let blk := 512 / blockElems f
    let h := if isMx f then blk else 8 * blk
    let d := 64 * elemBits f
    let second := 512 * c % groupElems f ≠ 0
    if groupElems f = 512 then [(o, groupBytes f)]
    else if !second && n ≤ 512 * (c + 1) then [(o, groupBytes f)]
    else if second then [(o + h, h), (o + 32 + d, d)]
    else [(o, h), (o + 32, d)]
  else [(64 * elemBits f * c, ceilDiv (min 512 (n - 512 * c) * elemBits f) 8)]

/-- Little-endian bytes of a list of FP32 values. -/
def bytesOf (l : List Half) : List Byte := l.flatMap (fun h => leBytes 4 h.toNat)

/-- What the runner writes for a window: the pieces of every array, the saturated events of the cast (R207), and all events of its
decodes and encodes (R156). -/
structure WindowResult where
  writes : List (Nat × List Byte)
  saturated : Nat
  events : EventCounts
  deriving DecidableEq, Repr

/-- The cast of a window with its residual (R207, R208). `new` are the elements with their marks, `resid` the residuals as
read. -/
def RunnerJob.castOf (j : RunnerJob) (x : Melt) (k : Nat) (new : List (Element × Bool)) (resid : List Nat) :
    List (Nat × List Byte) × List (Nat × List Byte) × Nat × EventCounts :=
  let n := new.length
  let f := fwFmt x.outFmt
  let has := x.residPsa ≠ 0
  let sums := new.zipIdx.map (fun (p : (Element × Bool) × Nat) =>
    if !p.1.2 then ((0 : Half), 0)
    else if has then fAdd (k + p.2) p.1.1.m (f32Of (decodeIeee fmtF16 ((resid[p.2]?).getD 0))).1 else (p.1.1.m, 0))
  let v := sums.map (fun (p : Held) => p.1)
  let rb (i : Nat) : Nat := randomBits x.roundSeed j.window (j.step % 2 ^ 32) (j.melt % 4096) i
  -- A melt gives INT8 and INT4 no scale: a free value among the legal ones (R134, log entry 61).
  let open_ : Half := BitVec.ofNat 32 (Config.freeValue (k + 2 ^ 26))
  let scale : Half := if isInt f && scaleOk open_ then open_ else fOne
  let c := encodeImage x.outFmt scale rb v
  let back := decodeImage f scale c.1 n
  let diffs := (v.zip back.1).zipIdx.map (fun (p : (Half × Half) × Nat) => fSub (k + 65536 + p.2) p.1.1 p.1.2)
  let r := diffs.map (fun (p : Held) => encodeElem 0x0002 0 0 p.1)
  let ovf := if has then ((sums ++ diffs).map (fun (p : Held) => p.2)).foldl (· + ·) 0 else 0
  let chunks := (List.range (ceilDiv n 512)).filter (fun i => j.takes x i)
  let casts := chunks.flatMap (fun i => (castParts f n i).map (fun (p : Nat × Nat) => (x.castPsa j.window + p.1, (c.1.drop p.1).take p.2)))
  let resids := if has then chunks.map (fun i =>
    (x.residPsa + 131072 * j.window + 1024 * i, (((r.drop (512 * i)).take 512).flatMap (fun (p : Nat × EventCounts) => leBytes 2 p.1)))) else []
  let kept := sumEvents (r.map (fun (p : Nat × EventCounts) => p.2))
  let read := resid.map (fun (w : Nat) => evNf (!(decodeIeee fmtF16 w).isFinite))
  (casts, resids, c.2.saturated + (if has then kept.saturated else 0),
    if has then (((c.2.add back.2).add kept).add (sumEvents read)).add { EventCounts.zero with saturated := ovf } else c.2)

/-- The whole of a window's work on the values read: parameter block and arrays. -/
def State.windowResult (s : State) (j : RunnerJob) : WindowResult :=
  let x := s.melt j.melt
  let n := x.winElems j.window
  let k := 2 ^ 40 * s.free
  let rd (psa len : Nat) : List Byte := (s.pRead x.part psa len).1
  let q := paramsOf (rd x.paramPsa 64)
  let word (psa : Nat) : List Half := wordsOf (rd (psa + 262144 * j.window) (4 * n))
  let ms := word x.masterPsa
  let m1 := if x.recipe = 0 then [] else word x.m1Psa
  let m2 := if x.recipe = 2 then word x.m2Psa else []
  let resid := if x.residPsa = 0 then [] else leList 2 n (rd (x.residPsa + 131072 * j.window) (2 * n))
  let old := ms.zipIdx.map (fun (p : Half × Nat) => { m := p.1, m1 := (m1[p.2]?).getD 0, m2 := (m2[p.2]?).getD 0 : Element })
  let ran := j.run x q k old
  let new := ran.map (fun (e : (Element × Bool) × Nat) => e.1)
  let c := j.castOf x (k + 2 ^ 32) new resid
  let arr (psa : Nat) (get : Element → Half) : List (Nat × List Byte) := [(psa + 262144 * j.window, bytesOf (new.map (fun (e : Element × Bool) => get e.1)))]
  { writes := arr x.masterPsa (·.m) ++ (if x.recipe = 0 then [] else arr x.m1Psa (·.m1)) ++ (if x.recipe = 2 then arr x.m2Psa (·.m2) else []) ++
      c.2.1 ++ c.1
    saturated := c.2.2.1
    events := c.2.2.2.add { EventCounts.zero with saturated := (ran.map (fun (e : (Element × Bool) × Nat) => e.2)).foldl (· + ·) 0 } }

/-! ### The pushes of a window (R189) -/

/-- The PUSH descriptor of contributor `c` for window `w`: the cast from OUT_PSA to PUSH_BASE + w × B. Its TAG is that of
Table — Completion record. -/
def Melt.pushWords (x : Melt) (m w : Nat) (c : Contributor) : List Byte :=
  let b := w * fmtBytes (fwFmt x.outFmt) 65536
  fit 64 ([0x08, 0x04, 0, 0] ++ leBytes 4 (w % 2 ^ 16 + m % 2 ^ 12 * 2 ^ 16 + 8 * 2 ^ 28) ++ leBytes 8 (x.castPsa w) ++
    leBytes 2 c.ep ++ leBytes 1 c.hint ++ [0] ++ leBytes 4 (x.castLen w) ++ leBytes 8 (c.pushBase + b))

/-- Queues the pushes of a window on PUSH_CTX, or fails them at once. -/
def State.queuePushes (s : State) (m w : Nat) : State :=
  let x := s.melt m
  let cs := (x.contributors.zipIdx.filter (fun (p : Contributor × Nat) => p.1.pushEn && !p.1.disabled))
  let y := s.ctx x.pushCtx
  if y.part ≠ x.part || y.state = .free then
    s.modMelt m (fun z => { z with pushFail := z.pushFail || !cs.isEmpty })
  else
    let n := s.tongs.pushCount
    let ds := cs.zipIdx.map (fun (p : (Contributor × Nat) × Nat) =>
      { newDesc 0xFFFFFFFF (x.pushWords m w p.1.1) with serial := 2 ^ 32 + n + p.2, push := some { melt := m, step := some x.step } })
    let s1 : State := { s with tongs := { s.tongs with pushCount := n + ds.length } }
    ((s1.modMelt m (fun z => { z with pushes := z.pushes + ds.length })).modCtx x.pushCtx (fun z => { z with pushes := z.pushes ++ ds })).wake x.pushCtx

/-- The runner of an anvil has updated its window's elements and written its cast; the window is finalised and its
pushes follow (R189, R192, R247). -/
def State.windowApplied (s0 : State) (anvil : Nat) (j : RunnerJob) (accs : List Access) : State :=
  let x := s0.melt j.melt
  let r := s0.windowResult j
  let s1 := r.writes.foldl (fun (b : State) (q : Nat × List Byte) => b.pWrite 2 x.part q.1 q.2 false) (s0.drawn.useLines 2 accs)
  let rd := ((x.windowReads j.window).map (·.len)).foldl (· + ·) 0
  let wr := (r.writes.map (fun (q : Nat × List Byte) => q.2.length)).foldl (· + ·) 0
  let s2 := ((s1.noteAnvil anvil 16 rd).noteAnvil anvil 20 wr).noteAnvil anvil 28 1
  let s3 := (s2.modAnvil anvil (fun y => { y with job := none, regs := y.regs.events r.events })).modWindow j.melt j.window (fun w => { w with place := .finalised, acc := [] })
  (s3.modMelt j.melt (fun y => { y with finalised := y.finalised + 1, castSat := y.castSat + r.saturated })).queuePushes j.melt j.window

/-- WINDOW_WRITTEN: the runner has updated the window's elements and written its cast; pushes follow (R189, R192, R247). -/
def execWindowWritten (anvil : Nat) (found : List Finding) (s : State) : Out :=
  done (match s.runnerJob anvil with
  | none => s
  | some j =>
    let x := s.melt j.melt
    let accs := x.windowReads j.window ++ x.windowWrites j.window
    if !j.imageRead then s
    else if !s.allReady accs then s.prepareAll 2 accs
    else
      let s0 := s.foundAll found
      match s0.readFault accs with
      | some f => s0.runnerFault anvil f
      | none => s0.windowApplied anvil j accs)

end Sys2Proof.Machine
end

