-- ==== Sys2Proof/Machine/TileMem.lean ====
section
/-! DEFINITION. The memory instructions of an anvil (R216, R218, R220, R228): tile loads and stores, SRAM accesses of the
scalar core and the vector unit, and the waits for outstanding transfers. -/

namespace Sys2Proof.Machine

/-! ### Tile loads and stores (R218, R228) -/

/-- The limits of R228: a linear transfer of 1 byte to 1 MiB, a 2-D one of 1 to 4,096 rows of 1 byte to 64 KiB. -/
def TileXfer.inLimits (x : TileXfer) (flat : Bool) : Bool :=
  if flat then decide (0 < x.len) && decide (x.len ≤ 2 ^ 20)
  else decide (0 < x.rows) && decide (x.rows ≤ 4096) && decide (0 < x.len) && decide (x.len ≤ 65536)

/-- A tile load or store issues: it joins the outstanding transfers, or waits while 64 are outstanding. -/
def State.tile (s : State) (a word : Nat) (x : TileXfer) (flat : Bool) : State :=
  if s.issues a && decide (64 ≤ (s.anvil a).xfers.length) then s
  else s.instr a (
    if !x.inLimits flat then .error (illegal word)
    else if !sramOk x.sram (x.rows * x.len) then .error (sramRange word x.sram)
    else .ok ((s.retire a id).modAnvil a (fun v => { v with xfers := v.xfers ++ [x] })))

/-- The transfer of a linear instruction: s_B bytes between PSA s_A + IMM and SRAM s_D. -/
def State.linear (s : State) (o : OpM) (load : Bool) : TileXfer :=
  let r := (s.anvil o.anvil).regs
  { load := load, psa := r.address o.a o.imm, sram := (r.rs o.d).toNat, len := (r.rs o.b).toNat, rows := 1, stride := 0, pc := r.pc }

/-- The transfer of a 2-D instruction: s_B[47:32] rows of s_B[31:0] bytes, PSA row stride s_C. -/
def State.rowsOf (s : State) (o : OpM) (load : Bool) : TileXfer :=
  let r := (s.anvil o.anvil).regs
  let b := (r.rs o.b).toNat
  { load := load, psa := r.address o.a o.imm, sram := (r.rs o.d).toNat, len := b % 2 ^ 32, rows := b / 2 ^ 32 % 2 ^ 16, stride := (r.rs o.c).toNat, pc := r.pc }

/-- TLD: a linear tile load. -/
def execTld (o : OpM) (s : State) : Out := done (s.tile o.anvil (o.word 0x08 0x00) (s.linear o true) true)

/-- TST: a linear tile store. -/
def execTst (o : OpM) (s : State) : Out := done (s.tile o.anvil (o.word 0x08 0x01) (s.linear o false) true)

/-- TLD2: a 2-D tile load. -/
def execTld2 (o : OpM) (s : State) : Out := done (s.tile o.anvil (o.word 0x08 0x02) (s.rowsOf o true) false)

/-- TST2: a 2-D tile store. -/
def execTst2 (o : OpM) (s : State) : Out := done (s.tile o.anvil (o.word 0x08 0x03) (s.rowsOf o false) false)

/-- The rows of a transfer: PSA, modulo 2^64, and SRAM address. -/
def TileXfer.pieces (x : TileXfer) : List (Nat × Nat) := (List.range x.rows).map (fun i => ((x.psa + i * x.stride) % 2 ^ 64, x.sram + i * x.len))

/-- The accesses of a transfer. -/
def TileXfer.accesses (p : Nat) (x : TileXfer) : List Access := x.pieces.map (fun q => { part := p, psa := q.1, len := x.len, write := !x.load })

/-- A transfer that failed faults the program that issued it, if it still runs (R228, R229). -/
def State.tileFault (s : State) (a : Nat) (x : TileXfer) (code addr status : Nat) : State :=
  let v := s.anvil a
  if v.mode = .runner || (s.inst a v.holder).any (fun i => i.state == .running) then
    s.anvilFault a x.pc { code := code, user := 0, word := (tget 0 v.imem x.pc).toNat, addr := addr, status := status }
  else s

/-- An outstanding transfer, whose lines are ready, moves its bytes; it faults where an access is refused or a load reads
poison (R228, R229). -/
def State.tileMoves (s0 : State) (anvil holder : Nat) (x : TileXfer) : State :=
  match (x.accesses holder).find? (fun q => s0.accStatus q != stOk) with
  | some q => s0.tileFault anvil x fMemAccess q.psa (s0.accStatus q)
  | none =>
    let s1 := s0.useLines 2 (x.accesses holder)
    if x.load then
      match x.pieces.find? (fun q => (s0.pRead holder q.1 x.len).2) with
      | some q => s1.tileFault anvil x fPoison q.1 0
      | none =>
        ((s1.modAnvil anvil (fun y => { y with sram := x.pieces.foldl (fun m q => bwrite m q.2 (s0.pRead holder q.1 x.len).1) y.sram })).noteAnvil
          anvil 16 (x.rows * x.len))
    else
      (x.pieces.foldl (fun b q => b.pWrite 2 holder q.1 (bread ((s0.anvil anvil).sram) q.2 x.len) false) s1).noteAnvil anvil 20 (x.rows * x.len)

/-- TILE_TRANSFER_COMPLETE: an outstanding transfer whose lines are ready leaves the list and moves its bytes. -/
def execTileTransferComplete (anvil index : Nat) (found : List Finding) (s : State) : Out :=
  let v := s.anvil anvil
  done (match v.xfers[index]? with
  | none => s
  | some x =>
    let wait := x.accesses v.holder
    if !s.allReady wait then s.prepareAll 2 wait
    else ((s.foundAll found).modAnvil anvil (fun y => { y with xfers := y.xfers.eraseIdx index })).tileMoves anvil v.holder x)

/-- MWAIT: waits until at most IMM[6:0] transfers are outstanding. -/
def execMwait (o : OpM) (s : State) : Out :=
  let n := o.imm.toNat % 128
  done (s.instr o.anvil (.ok ((s.retire o.anvil id).modAnvil o.anvil (fun v =>
    if v.xfers.length ≤ n then v else { v with wait := .mwait n }))))

/-- MWAIT_RELEASE: the outstanding transfers have fallen to the limit. -/
def execMwaitRelease (anvil : Nat) (s : State) : Out :=
  done (s.modAnvil anvil (fun v => match v.wait with
  | .mwait n => if v.xfers.length ≤ n then { v with wait := .none } else v
  | _ => v))

/-! ### SRAM accesses (R216, R220) -/

/-- LDS: s_D ← 8 bytes at SRAM s_A + IMM. -/
def execLds (o : OpM) (s : State) : Out :=
  let v := s.anvil o.anvil
  let x := v.regs.address o.a o.imm
  done (s.instr o.anvil (
    if !sramOk x 8 then .error (sramRange (o.word 0x08 0x04) x)
    else .ok (s.retire o.anvil (fun r => r.ws o.d (BitVec.ofNat 64 (leVal (bread v.sram x 8)))))))

/-- STS: s_D to 8 bytes at SRAM s_A + IMM. -/
def execSts (o : OpM) (s : State) : Out :=
  let v := s.anvil o.anvil
  let x := v.regs.address o.a o.imm
  done (s.instr o.anvil (
    if !sramOk x 8 then .error (sramRange (o.word 0x08 0x05) x)
    else .ok ((s.retire o.anvil id).modAnvil o.anvil (fun y => { y with sram := bwrite y.sram x (leBytes 8 (v.regs.rs o.d).toNat) }))))

/-- VLD: v_D ← the 256 bytes at a 256-byte-aligned SRAM address s_A + IMM. -/
def execVld (o : OpM) (s : State) : Out :=
  let v := s.anvil o.anvil
  let x := v.regs.address o.a o.imm
  done (s.instr o.anvil (
    if !sramOk x 256 then .error (sramRange (o.word 0x0C 0x00) x)
    else if x % 256 ≠ 0 then .error (alignFault (o.word 0x0C 0x00) x)
    else .ok (s.retireV o.anvil 1 (fun r => r.wv o.d (BitVec.ofNat 2048 (leVal (bread v.sram x 256)))))))

/-- VST: the 256 bytes at a 256-byte-aligned SRAM address ← v_D. -/
def execVst (o : OpM) (s : State) : Out :=
  let v := s.anvil o.anvil
  let x := v.regs.address o.a o.imm
  done (s.instr o.anvil (
    if !sramOk x 256 then .error (sramRange (o.word 0x0C 0x01) x)
    else if x % 256 ≠ 0 then .error (alignFault (o.word 0x0C 0x01) x)
    else .ok ((s.retireV o.anvil 1 id).modAnvil o.anvil (fun y => { y with sram := bwrite y.sram x (leBytes 256 (v.regs.rv o.d).toNat) }))))

/-- VBC: every lane of v_D ← the 4 bytes at SRAM s_A + IMM. -/
def execVbc (o : OpM) (s : State) : Out :=
  let v := s.anvil o.anvil
  let x := v.regs.address o.a o.imm
  done (s.instr o.anvil (
    if !sramOk x 4 then .error (sramRange (o.word 0x0C 0x02) x)
    else .ok (s.retireV o.anvil 1 (fun r => r.wv o.d (mkLanes (fun _ => BitVec.ofNat 32 (leVal (bread v.sram x 4))))))))

end Sys2Proof.Machine
end

