-- ==== Sys2Proof/Machine/AnvilSwitch.lean ====
section
/-! DEFINITION. The roster and the changes of an anvil (R233–R241, R244): assignment at a boundary, save, zeroing, restore,
the switches between a program and the recipe runner, quenched anvils, and reserved instruction words. -/

namespace Sys2Proof.Machine

/-! ### The context block (R241, R244) -/

/-- The DPA of the context block of anvil `a` in the store of partition `p`. -/
def State.contextBlock (s : State) (p a : Nat) : Option Nat :=
  (tfind s.anvils.stores p).map (fun n => (s.ext n).dpaBlk * 2 ^ 28 + 0x100000 + a * 0x80000)

/-- The DPA of a program slot. -/
def State.programSlot (s : State) (p prog : Nat) : Option Nat :=
  (tfind s.anvils.stores p).map (fun n => (s.ext n).dpaBlk * 2 ^ 28 + prog * 65536)

/-- The bytes of a register image and of a program slot. -/
def imageBytes : Nat := 25024
def slotBytes : Nat := 65536

/-- A register image: the spec gives its length and not its layout (log entry 22). -/
def State.registerImage (s : State) : List Byte := (List.range imageBytes).map (fun i => Config.freeByte s.free i)

/-- The context of an anvil's program is saved: the register image and the live range are in its context block (R237). -/
def State.contextSaved (s : State) (anvil : Nat) : State :=
  let v := s.anvil anvil
  let live := bread v.sram v.regs.liveBase v.regs.liveLen
  let s1 := match s.contextBlock v.holder anvil with
    | some d => ((s.engineStore 2 v.holder d s.registerImage false).engineStore 2 v.holder (d + 32768) live false).drawn
    | none => s
  let s2 := (match s.inst anvil v.holder with
    | some i => if i.state = InstState.running then s1.setInst anvil v.holder (some { i with state := .saved, regs := v.regs, wait := v.wait }) else s1
    | none => s1).noteAnvil anvil 44 (imageBytes + v.regs.liveLen)
  s2.modAnvil anvil (fun y => { y with mode := if v.change.isSome then .zeroing else .restoring, wait := .none })

/-- CONTEXT_SAVE_COMPLETE: the register image and the live range are in the context block; after a partition change the
zeroing follows, within the partition the recipe runner is loaded (R237, R244). -/
def execContextSaveComplete (anvil : Nat) (s : State) : Out :=
  let v := s.anvil anvil
  done (if v.mode ≠ .saving || !v.xfers.isEmpty then s
  else s.contextSaved anvil)

/-- ANVIL_ZEROING_COMPLETE: all of tile SRAM, every register and instruction memory are 0 (R237). -/
def execAnvilZeroingComplete (anvil : Nat) (s : State) : Out :=
  let v := s.anvil anvil
  done (if v.mode ≠ .zeroing || v.halted || !v.xfers.isEmpty then s
  else s.modAnvil anvil (fun y => { y with
    sram := [], regs := AnvilRegs.reset, imem := [], wait := .none, lastWindow := none, holder := 0, mode := .held }))

/-- The program that is loaded into an anvil, or is being loaded. -/
def State.loaded (s : State) (a : Nat) : Option Instance :=
  (s.inst a (s.anvil a).holder).filter (fun i => i.state == .running)

/-- The instruction memory that a program slot's bytes give. -/
def imemOf (l : List Byte) : Tab Word :=
  ((leList 8 (l.length / 8) l).zipIdx.filter (fun (p : Nat × Nat) => p.1 ≠ 0)).map (fun (p : Nat × Nat) => (p.2, BitVec.ofNat 64 p.1))

/-- What the restore of an instance reads by DPA: its program slot, its register image and its live range (R237, R241, R244). -/
def State.restoreReads (s : State) (anvil : Nat) : List (Nat × Nat) :=
  let p := (s.anvil anvil).holder
  match s.loaded anvil with
  | none => []
  | some i => (((s.programSlot p i.prog).map (fun d => (d, slotBytes))).toList ++
      ((s.contextBlock p anvil).map (fun d => [(d, imageBytes), (d + 32768, i.regs.liveLen)])).getD []).filter (fun q => q.2 ≠ 0)

/-- The next work of an anvil is loaded: its program with its registers and live range, or the recipe runner (R237, R238). -/
def State.contextRestored (s : State) (anvil : Nat) : State :=
  let v := s.anvil anvil
  let free : Bool := v.change.isNone && v.enabled && v.part == v.holder
  match s.loaded anvil with
  | none => s.modAnvil anvil (fun y => { y with mode := if free then .runner else .held, wait := .none })
  | some i =>
    let imem := ((s.programSlot v.holder i.prog).map (fun d => imemOf (s.view v.holder d slotBytes))).getD []
    let live := ((s.contextBlock v.holder anvil).map (fun d => s.view v.holder (d + 32768) i.regs.liveLen)).getD []
    let s1 := (s.restoreReads anvil).foldl (fun b q => b.engineRead 2 v.holder q.1 q.2) s
    (s1.modAnvil anvil (fun y => { y with
      mode := if free then .program else .held, regs := i.regs, wait := i.wait, imem := imem
      sram := if i.regs.liveLen = 0 then y.sram else bwrite y.sram i.regs.liveBase live })).noteAnvil anvil 44
        (slotBytes + imageBytes + i.regs.liveLen)

/-- CONTEXT_RESTORE_COMPLETE: the program or the recipe runner is loaded, once the data it reads is there, which is asked for first
(R54, R57). Work resumes at once, but after a partition change at the second boundary (R237, R238). -/
def execContextRestoreComplete (anvil : Nat) (s : State) : Out :=
  let v := s.anvil anvil
  done (if v.mode ≠ .restoring then s
  else if !(s.restoreReads anvil).all (fun q => s.readReady v.holder q.1 q.2) then
    (s.restoreReads anvil).foldl (fun b q => b.fetchRead 2 v.holder q.1 q.2) s
  else s.contextRestored anvil)

/-! ### Boundaries (R236–R239) -/

/-- The roster entry of an anvil in heat `h` (R233). -/
def Roster.entry (r : Roster) (h a : Nat) : Nat := tget 0 r.entries (64 * (heatDiff h r.start % r.lap) + a)

/-- The partition that an anvil works for: the one that the roster assigns it in the heat that starts (R236), but an anvil
that waits for its stop keeps its own (R491). -/
def State.assignment (s : State) (a : Nat) : Nat :=
  let p := s.anvils.roster.entry s.heat.count a
  if s.bellows.held.any (fun h => !h.start && h.anvil == a) then (s.anvil a).part
  else if bit s.bellows.enable a && (s.anvil a).passed && (s.part p).state == .active && p != 0 then p else 0

/-- Hand-off entries that have not started return to the crucible complex (R187). -/
def State.returnQueue (s : State) (a : Nat) : State :=
  let q := (s.anvil a).queue
  let s1 := q.foldl (fun (b : State) (h : HandOff) => b.modWindow h.melt h.window (fun w => { w with place := match w.place with
    | .handed _ (some (c, k)) _ => .closed c k
    | .handed _ none c => .spilled c
    | p => p })) s
  (s1.noteAnvil a 30 q.length).modAnvil a (fun v => { v with queue := [] })

/-- The anvil loads what waits for it: the recipe runner for queued windows, else a program that is bound or saved, else
nothing. -/
def State.load (s : State) (a : Nat) : State :=
  let v := s.anvil a
  if !v.queue.isEmpty then s.modAnvil a (fun y => { y with mode := .restoring })
  else match s.inst a v.holder with
    | some i =>
      if i.state = .bound || i.state = .saved then
        (s.setInst a v.holder (some { i with state := .running })).modAnvil a (fun y => { y with mode := .restoring })
      else s.modAnvil a (fun y => { y with mode := .idle, wait := .none, change := none })
    | none => s.modAnvil a (fun y => { y with mode := .idle, wait := .none, change := none })

/-- Work goes on in place: the program, or the runner with its window. -/
def State.goOn (s : State) (a : Nat) : State :=
  let v := s.anvil a
  if (s.loaded a).isSome then s.modAnvil a (fun y => { y with mode := .program, change := none })
  else if v.job.isSome || !v.queue.isEmpty then s.modAnvil a (fun y => { y with mode := .runner, change := none })
  else (s.modAnvil a (fun y => { y with change := none })).load a

/-- An anvil leaves its partition: a started window is finished first, a program is saved, then the anvil is zeroed. -/
def State.leave (s : State) (a : Nat) : State :=
  let v := s.anvil a
  let s1 := if v.change.isNone then (s.noteAnvil a 32 1).modAnvil a (fun y => { y with change := some 0 }) else s
  if v.job.isSome then s1.modAnvil a (fun y => { y with mode := .runner })
  else if (s.loaded a).isSome then s1.modAnvil a (fun y => { y with mode := .saving })
  else s1.modAnvil a (fun y => { y with mode := .zeroing })

/-- A zeroed anvil takes up its partition: its restore starts. With nothing to restore, an anvil that changed its partition
works from the second boundary on all the same. -/
def State.takeUp (s : State) (a p : Nat) : State :=
  let s1 := s.modAnvil a (fun y => { y with holder := p })
  let s2 := s1.load a
  if (s.anvil a).change.isSome && (s2.anvil a).mode == .idle then s1.modAnvil a (fun y => { y with mode := .held }) else s2

/-- A boundary within a partition: program and recipe runner take turns (R237). -/
def State.takeTurns (s : State) (a : Nat) : State :=
  let v := s.anvil a
  match v.mode with
  | .program => if v.queue.isEmpty then s else (s.noteAnvil a 34 1).modAnvil a (fun y => { y with mode := .saving })
  | .runner =>
    if v.job.isSome || !v.queue.isEmpty then s
    else
      let t := s.load a
      if (t.anvil a).mode = .restoring then t.noteAnvil a 34 1 else t
  | .idle => s.load a
  | _ => s

/-- A heat of a running change has passed. -/
def Anvil.aged (v : Anvil) : Anvil := { v with change := v.change.map (· + 1) }

/-- Table — Anvil at a boundary, for one anvil and the partition it is now assigned. -/
def State.anvilMoves (s : State) (a p : Nat) : State :=
  let v := s.anvil a
  -- a switch within its partition that is under way when another partition is named is finished first; the change has begun (R238)
  let named := if v.change.isNone && p ≠ 0 && v.holder ≠ 0 && p ≠ v.holder then (s.noteAnvil a 32 1).modAnvil a (fun y => { y with change := some 0 }) else s
  match v.mode with
  | .saving => named
  | .zeroing => named
  | .restoring => named
  | m =>
    if p = 0 then s.modAnvil a (fun y => { y with mode := if v.holder = 0 then y.mode else .held, change := none })
    else if v.holder = 0 then s.takeUp a p
    else if v.holder ≠ p then s.leave a
    else if m = .held then (if v.change.all (fun n => 2 ≤ n) then s.goOn a else s)
    else (s.modAnvil a (fun y => { y with change := none })).takeTurns a

/-- An anvil follows its enable bit and its roster entry (R236–R239): quenched anvils follow their roster again at the second
boundary after Bq; entries return when the partition changes. -/
def State.followRoster (s0 : State) (a : Nat) : State :=
  let p := s0.assignment a
  let s1 := if (s0.anvil a).part = p then s0 else s0.returnQueue a
  let s2 := s1.modAnvil a (fun v =>
    let w := { v with enabled := bit s0.bellows.enable a, part := p }
    if v.halted && v.change.all (fun n => 3 ≤ n) then { w with halted := false, change := none, mode := .held, holder := 0 } else w)
  if (s2.anvil a).halted then s2 else s2.anvilMoves a p

/-- An anvil at a boundary; a heat lost beyond the two of a change is counted. -/
def State.anvilTick (s : State) (a : Nat) : State :=
  let s3 := (s.modAnvil a Anvil.aged).followRoster a
  match (s3.anvil a).change with
  | some n => if 2 ≤ n && !(s3.anvil a).halted && (s3.anvil a).part ≠ 0 then s3.noteAnvil a 36 1 else s3
  | none => s3

/-- Duty 5 for the anvils. -/
def State.anvilsTick (s : State) : State :=
  let s1 := { s with anvils := { s.anvils with anvils := tmap s.anvils.anvils (fun _ v => v.boundaryWait s.heat.count) } }
  (List.range 64).foldl State.anvilTick s1

/-- Bq of a quench for the anvils (R239): instances end without a save, windows that a runner holds are abandoned, the
anvils are zeroed, barriers and flags go. -/
def State.quenchAnvils (s : State) (p : Nat) : State :=
  let clear (v : Anvil) : Anvil :=
    if v.holder = p then { v with
      regs := AnvilRegs.reset, wait := .none, sram := [], imem := [], xfers := [], job := none, lastWindow := none, holder := 0
      mode := .zeroing, halted := true, change := some 0 }
    else v
  { s with anvils := { s.anvils with
      anvils := tmap s.anvils.anvils (fun _ v => clear (if v.part = p then { v with part := 0, queue := [] } else v))
      instances := s.anvils.instances.filter (fun i => i.1 % 64 != p)
      barriers := s.anvils.barriers.filter (fun b => b.1 / 16 != p)
      flags := s.anvils.flags.filter (fun f => f.1 / 64 != p) } }

/-! ### program-start and program-stop (R243) -/

/-- program-start at its boundary: one instance for each anvil of the mask. -/
def State.startProgram (s : State) (p prog mask : Nat) (args : List Nat) : State :=
  let regs : AnvilRegs := { AnvilRegs.reset with
    s := (args.zipIdx.filter (fun (q : Nat × Nat) => q.1 % 2 ^ 64 ≠ 0)).map (fun (q : Nat × Nat) => (q.2 + 1, BitVec.ofNat 64 q.1)) }
  (bitList 64 mask).foldl (fun b a => b.setInst a p (some { prog := prog, state := .bound, regs := regs, wait := .none })) s

/-- program-stop at its boundary: the instances of the slot on the anvils of the mask end. -/
def State.stopProgram (s : State) (p prog mask : Nat) : State :=
  (bitList 64 mask).foldl (fun b a =>
    match b.inst a p with
    | some i =>
      if i.prog ≠ prog then b
      else
        let t := b.setInst a p none
        if i.state = .running && (b.anvil a).holder = p then t.modAnvil a (fun v => { v with
          mode := if v.mode = .program || v.mode = .restoring then .idle else v.mode, wait := .none }) else t
    | none => b) s

/-! ### Reserved words (R220) -/

/-- A reserved instruction: its MAJ or FN is not listed, so the word is no instruction. -/
def reservedWord (w : Nat) : Bool := (anvilInstr 0 w).isNone

/-- RESERVED_INSTRUCTION: faults with ILLEGAL. -/
def execReservedInstruction (anvil : Nat) (word : Nat) (s : State) : Out :=
  done (if reservedWord word then s.instr anvil (.error (illegal (word % 2 ^ 64))) else s)

end Sys2Proof.Machine
end

