-- ==== Sys2Proof/Machine/Cxl.lean ====
section
/-! DEFINITION. The CXL heads (15_cxl_ports.md): host reads and writes, decoders, resets of a head, offers, and the CXL
mailbox commands. The layouts of the mailbox payloads are those of CXL 3.1, which the spec does not restate (log entry 23). -/

namespace Sys2Proof.Machine

/-! ### Addresses and admission (R381, R384) -/

/-- The link of a head carries requests. -/
def State.headUp (s : State) (h : Nat) : Bool := decide (h < 2) && (s.head h).link == .active && s.isReady

/-- The DPA of a host address in a decoder: the interleave-select bits are removed (R381). -/
def HdmDecoder.dpa (x : HdmDecoder) (hpa : Nat) : Option Nat :=
  let o := hpa - x.base
  if x.committed && decide (x.base ≤ hpa) && decide (hpa < x.base + x.size) && o / x.granularity % x.ways == x.position then
    some (x.dpaBase + o / (x.granularity * x.ways) * x.granularity + o % x.granularity)
  else none

/-- The DPA that the committed decoders of a head give a host address. -/
def Head.decode (x : Head) (hpa : Nat) : Option Nat := (List.range 8).findSome? (fun i => (tget HdmDecoder.reset x.decoders i).dpa hpa)

/-- The region that holds an address (R379). -/
def State.regionOf (s : State) (d : Nat) : Option Nat :=
  (List.range 8).find? (fun r => match tfind s.cxl.regions r with
    | some q => decide (q.1 * 2 ^ 28 ≤ d) && decide (d < (q.1 + q.2) * 2 ^ 28)
    | none => false)

/-- Table — CXL admission checks: the first check that fails, 0 where all pass, and the DPA where there is one. -/
def State.cxlCheck (s : State) (h hpa : Nat) : Nat × Option Nat :=
  match (s.head h).decode hpa with
  | none => (1, none)
  | some d =>
    if (s.regionOf d).isNone then (1, some d)
    else match s.extentAt d with
    | none => (2, some d)
    | some n =>
      if !(s.ext n).dcValid || (s.ext n).state != .active then (2, some d)
      else if !(s.head h).accepted.contains n && !(s.head h).removed.contains n then (3, some d)
      else if (s.part (s.ext n).part).state ≠ .active then (4, some d)
      else (0, some d)

/-- A refusal under R384: counted, and recorded once a heat. An address that no decoder holds has no DPA to name. -/
def State.cxlRefuse (s : State) (h check : Nat) (dpa : Option Nat) (write : Bool) : State :=
  let s1 := s.countHead h (if write then 14 else 12) 1
  if (s.head h).refusedThisHeat then s1.countHead h 26 1
  else
    let d := dpa.getD (Config.freeValue s.free)
    (s1.drawn.modHead h (fun x => { x with refusedThisHeat := true })).post h 2 (if write then .refusedWrite else .refusedRead) d 64 check

/-- `n` bytes that the spec leaves open. -/
def State.freeBytes (s : State) (n : Nat) : List Byte := (List.range n).map (Config.freeByte s.free)

/-- The home transaction of a host's access (R309). -/
def State.hostMsg (s : State) (h d tag : Nat) (req : CohReq) (data : List Byte) (mask : Nat) : CohMsg :=
  let n := (s.extentAt d).getD 0
  let p := (s.ext n).part
  let ep := s.endpoint (40 + h)
  { req := req, src := ep, member := (s.memberIndex p ep).getD 0xFFFE, part := p, tag := tag
    psa := (s.ext n).psaBlk * 2 ^ 28 + d % 2 ^ 28 / 64 * 64, line := d / 64, data := data, poison := false, mask := mask, peer := 0, port := 256 + h, waiter := 0 }

/-- The header that a waiting host read is kept under. -/
def hostTrain (tag : Nat) : Train := { typ := 0, cls := 0, dst := 0, src := 0, part := 0, tag := tag, cells := [zeros 32] }

def HostRead.req : HostRead → CohReq | .shared => .rdShared | .own => .rdOwn | .current => .rdCur

/-- A head is a member that may cache lines of the extent at an address (R290, R380). -/
def State.headCaches (s : State) (h d : Nat) : Bool :=
  let p := (s.ext ((s.extentAt d).getD 0)).part
  ((s.memberIndex p (s.endpoint (40 + h))).bind (s.member p)).any (·.caching)

/-- A read that the device refuses returns poisoned data, whose bytes are free values (R92, R384). -/
def State.headPoison (s : State) (h : Nat) : State := (s.modHead h (fun x => { x with lastRead := some (s.freeBytes 64, true) })).drawn

/-- CXL_MEM_READ: 64 bytes for a host (R309, R384). A head without CACHING is denied a copy to cache: it gets poisoned data, and
nothing else changes (R290, log entry 74). A read for whose line no way is free stays at its head (R56). -/
def execCxlMemRead (head hpa : Nat) (kind : HostRead) (tag : Nat) (s : State) : Out :=
  done (if !s.headUp head then s
  else match s.cxlCheck head (hpa / 64 * 64) with
  | (0, some a) =>
    let d := a / 64 * 64
    let n := (s.extentAt d).getD 0
    if (s.ext n).coh = 1 && kind != .current && !s.headCaches head d then s.headPoison head
    else if !s.rangeFree (s.ext n).part d 64 || s.homeBlocked d 64 then s
    else if (s.ext n).coh = 1 then s.cohArrive (s.hostMsg head d tag kind.req [] 0)
    else
      let r := s.readRange (s.ext n).part 1 d 64
      r.1.await { waiterOf (hostTrain tag) 0 d 64 r.2 [] with origin := 1 + head }
  | (k, d) => (s.cxlRefuse head k d false).headPoison head)

/-- The back-invalidate snoop of a line at a head has been reached by the host's dirty data: it expires no more (R303, R309). -/
def State.hostReached (s : State) (h l : Nat) : State :=
  match s.trackerOf l with
  | some k => (((tfind s.coh.trackers k).bind (fun t => s.memberIndex t.msg.part (s.endpoint (40 + h)))).map (s.ackReached k)).getD s
  | none => s

/-- The request of a host's write: of a line it held in M, or of the bytes of a mask. -/
def writeReq (back : Bool) (m : Nat) : CohReq := if back then .wrBack else if m = 2 ^ 64 - 1 then .wrLine else .wrPartial

/-- CXL_MEM_WRITE: the bytes of a mask within one line (R309, R384). `back` says that the host held the line in M; while a
back-invalidate snoop of the line is open at the host, such a write is the dirty data of its answer, which the home writes at once; it
stays at its head while its segment is to be captured first (R100). Another write that has to wait does so at its home, admitted (R86,
R101). A refused writeback has come too late (R93). -/
def execCxlMemWrite (head hpa : Nat) (back : Bool) (mask : Nat) (data : List Byte) (s : State) : Out :=
  let m := mask % 2 ^ 64
  done (if !s.headUp head then s
  else match s.cxlCheck head (hpa / 64 * 64) with
  | (0, some a) =>
    let d := a / 64 * 64
    let n := (s.extentAt d).getD 0
    let s1 := s.countHead head 8 (pop64 m)
    if back && (s.head head).bisnp.any (fun b => b.1 == d / 64) then
      (if s.dirtyWaits (d / 64) then (s.hasten d 64).hostReached head (d / 64)
       else s1.lineMerge (s.ext n).part (d / 64) m (fit 64 data) false)
    else if s.homeBlocked d 64 then s
    else
      let w : HeldWrite := if (s.ext n).coh = 1 then .coherent (s.hostMsg head d 0 (writeReq back m) (fit 64 data) m)
        else .host head d m (fit 64 data)
      if s.writeWaits (s.ext n).part d 64 then (s1.hold w).hasten d 64 else s1.makeHeld w
  | (k, d) =>
    let s1 := s.cxlRefuse head k d true
    match d with
    | some a => if back then s1.lateLine (a / 64) else s1
    | none => s1)

/-- BIRSP: the host's answer to a back-invalidate snoop of a line (R303, R309); one that comes after its transaction has ended, or after
its line has been dropped, is discarded and counted (R93, R306). -/
def execBirsp (head line state : Nat) (s : State) : Out :=
  done (if !s.headUp head then s
  else
    let s1 := s.countHead head 22 1
    match (s.head head).bisnp.find? (fun b => b.1 == line), s.trackerOf line with
    | some b, some k =>
      let s2 := s1.modHead head (fun x => { x with bisnp := x.bisnp.erase b })
      match (tfind s.coh.trackers k).bind (fun t => s.memberIndex t.msg.part (s.endpoint (40 + head))) with
      | some mem => s2.cohAck k mem state none
      | none => s2.lateLine line
    | _, _ => s1.lateLine line)

/-- HDM_DECODER_COMMIT: a decoder commits, or shows its commit error and stays uncommitted (R381). -/
def execHdmDecoderCommit (head index base size ways granularity position dpaBase : Nat) (s : State) : Out :=
  let ok := [1, 2, 4, 8].contains ways && [256, 512, 1024, 2048, 4096, 8192, 16384].contains granularity
  done (if !s.headUp head || 8 ≤ index then s
  else s.modHead head (fun x => { x with
    decoders := tins x.decoders index (if ok then { committed := true, error := false, base := base, size := size, ways := ways, granularity := granularity, position := position, dpaBase := dpaBase }
      else { (tget HdmDecoder.reset x.decoders index) with committed := false, error := true }) }))

/-! ### Offers (R382, R385) -/

/-- The tag of a block, as a number. -/
def State.tagOfExt (s : State) (n : Nat) : Nat := leVal ((tfind s.cxl.tags (s.ext n).dcTag).getD [])

/-- Blocks merged into extents: contiguous in DPA, of one region and one tag (R382). -/
def State.mergedExtents (s : State) (ns : List Nat) : List DcExtent :=
  let order := (ns.map (fun n => (s.ext n).dpaBlk)).foldl (fun l b => addSorted b l) []
  let byBlk (b : Nat) : Nat := (ns.find? (fun n => (s.ext n).dpaBlk == b)).getD 0
  (order.foldl (fun (l : List DcExtent) b =>
    let x : DcExtent := { first := b, count := 1, region := (s.ext (byBlk b)).dcRegion, tag := s.tagOfExt (byBlk b) }
    match l with
    | e :: rest => if e.first + e.count = b && e.region = x.region && e.tag = x.tag then { e with count := e.count + 1 } :: rest else x :: l
    | [] => [x]) []).reverse

/-- Posts one Dynamic Capacity record on a head, which lists the extents that some blocks make (R382, R385); none for no block. -/
def State.postDc (s : State) (h : Nat) (kind : EventKind) (ns : List Nat) : State :=
  if ns.isEmpty then s else s.postListing h 4 kind 0 0 0 (s.mergedExtents ns)

/-! ### Resets of a head (R391–R393, R539) -/

/-- The request of a head whose link was lost goes on at its home, and its data reaches no one. -/
def CohMsg.lost (m : CohMsg) (h : Nat) : CohMsg := if m.port = 256 + h then { m with port := 511 } else m

/-- The reads of a head that have not returned are discarded (R392). -/
def State.dropReads (s : State) (h : Nat) : State :=
  { s with
    tiers := { s.tiers with waiters := s.tiers.waiters.filter (fun w => w.origin != 1 + h) }
    coh := { s.coh with
      trackers := tmap s.coh.trackers (fun _ t => { t with msg := t.msg.lost h })
      lineWait := s.coh.lineWait.map (·.lost h), ingress := tmap s.coh.ingress (fun _ l => l.map (·.lost h)) } }

/-- A channel is a mailbox of head `h`. -/
def Chan.ofHead (h : Nat) : Chan → Bool
  | .primary k => k == h
  | .secondary k => k == h
  | .page _ => false
  | .sideband _ => false

/-- A fabric-manager binding on a mailbox of head `h` is lost (R429). -/
def State.unbindHead (s : State) (h : Nat) : State :=
  { s with hearth := { s.hearth with binding := if s.hearth.binding.any (Chan.ofHead h) then none else s.hearth.binding } }

/-- What a PERST assertion and a link-down do (R392), with the binding on the head (R429). -/
def State.headReset (s : State) (h : Nat) : State :=
  let s1 := s.postDc h .offerCancelled (s.head h).offered
  ((s1.modHead h (fun x => { x with decoders := [], offered := [] })).dropReads h).unbindHead h

/-- PERST_ASSERT: a head's PERST_N is asserted. -/
def execPerstAssert (head : Nat) (s : State) : Out :=
  done (if 2 ≤ head || (s.head head).perst then s
  else ((s.headReset head).modHead head (fun x => { x with perst := true, link := .perst, width := 0, rate := 0, flit := false })).countHead head 33 1)

/-- PERST_RELEASE: the head starts link training, from step 5 of the boot on (R539). -/
def execPerstRelease (head : Nat) (s : State) : Out :=
  done (if 2 ≤ head || !(s.head head).perst then s
  else s.modHead head (fun x => { x with perst := false, link := if 5 ≤ s.boot.step then .training else .down }))

/-- CXL_LINK_DOWN: with the effects of a PERST assertion (R392). -/
def execCxlLinkDown (head : Nat) (s : State) : Out :=
  done (if 2 ≤ head || (s.head head).link ≠ .active then s
  else ((s.headReset head).modHead head (fun x => { x with link := .down, width := 0, rate := 0, flit := false })).countHead head 30 1)

/-- CXL_LINK_TRAINING_COMPLETE: the head reports its width and rate (R376). Below 64 GT/s the flit mode is open. -/
def execCxlLinkTrainingComplete (head width rate : Nat) (s : State) : Out :=
  done (if 2 ≤ head || (s.head head).perst || (s.head head).link = .active || s.boot.step < 5 || s.sec.recovery || s.linksIdle then s
  else (s.modHead head (fun x => { x with
    link := .active, width := width, rate := rate, flit := rate == 6 || Config.freeValue s.free % 2 == 1 })).drawn)

/-- FUNCTION_LEVEL_RESET: takes effect at the next boundary (R391). -/
def execFunctionLevelReset (head : Nat) (s : State) : Out :=
  done (if 2 ≤ head || !s.isReady then s else s.modHead head (fun x => { x with flr := true }))

/-! ### Mailboxes (R388–R390) -/

/-- Hearth takes no command (R398, R400, R535): the status that every channel answers, none while it takes commands. -/
def State.hearthRefuses (s : State) : Option Nat :=
  if s.hearth.lost then some stFaulted
  else if s.hearth.switching || !s.isReady then some stBusy
  else none

/-- CXL return codes. -/
abbrev rcSuccess : Nat := 0
abbrev rcInvalid : Nat := 2
abbrev rcUnsupported : Nat := 3
abbrev rcInternal : Nat := 4
abbrev rcBusy : Nat := 6
abbrev rcHandle : Nat := 0xE
abbrev rcAddress : Nat := 0xF
abbrev rcLength : Nat := 0x16
abbrev rcLog : Nat := 0x17

/-- The reply of a mailbox command: return code, payload, and the state it leaves. -/
structure CxlAnswer where
  code : Nat
  payload : List Byte
  state : State

/-- The return code of a mailbox while no core serves it: busy in a switch-over, an internal error once Hearth is lost (R398, R400, log
entry 23). -/
def rcRefused (status : Nat) : Nat := if status = stBusy then rcBusy else rcInternal

/-- A mailbox of a head completes a command (R388, R394); while Hearth takes none the command changes nothing (R398, R400). -/
def State.mailbox (s : State) (h : Nat) (primary : Bool) (op : Nat) (a : CxlAnswer) : State :=
  if !s.headUp h then s
  else
    let r : CxlReply := match s.hearthRefuses with
      | some st => { opcode := op, code := rcRefused st, payload := [] }
      | none => { opcode := op, code := a.code, payload := a.payload }
    ((if s.hearthRefuses.isSome then s else a.state).modHead h (fun x => if primary then { x with primary := some r } else { x with secondary := some r })).countHead h (if primary then 36 else 38) 1

/-- An answer without a payload. -/
def State.answer (s : State) (code : Nat) : CxlAnswer := { code := code, payload := [], state := s }

/-- A successful answer. -/
def State.payload (s : State) (l : List Byte) : CxlAnswer := { code := rcSuccess, payload := l, state := s }

/-- IDENTIFY: the component is a Type-3 device with mailboxes of 8 KiB; the vendor and device numbers are open. -/
def execIdentify (head : Nat) (primary : Bool) (input : List Byte) (s : State) : Out :=
  done (s.mailbox head primary 0x0001 (if !input.isEmpty then s.answer rcLength else s.drawn.payload (s.freeBytes 16 ++ [13, 3])))

/-- BACKGROUND_OPERATION_STATUS: none is running (R426). -/
def execBackgroundOperationStatus (head : Nat) (primary : Bool) (input : List Byte) (s : State) : Out :=
  done (s.mailbox head primary 0x0002 (if !input.isEmpty then s.answer rcLength else s.payload (zeros 8)))

/-- The UUID of the Command Effects Log. -/
def celUuid : List Byte := [0x0d, 0xa9, 0xc0, 0xb5, 0xbf, 0x41, 0x4b, 0x78, 0x8f, 0x79, 0x96, 0xb1, 0x62, 0x3b, 0x3f, 0x17]

/-- The commands that each mailbox supports (Table — Supported CXL commands). -/
def celOpcodes (primary : Bool) : List Nat :=
  [0x0001, 0x0002, 0x0100, 0x0101, 0x0102, 0x0103, 0x0300] ++ (if primary then [0x0301] else []) ++ [0x0400, 0x0401, 0x4000, 0x4100, 0x4300] ++
    (if primary then [0x4301, 0x4302] else []) ++ [0x4800, 0x4801, 0x4802, 0x4803]

/-- The Command Effects Log: opcodes with their effects, which the spec does not give. -/
def State.celBytes (s : State) (primary : Bool) : List Byte :=
  (celOpcodes primary).zipIdx.flatMap (fun (p : Nat × Nat) => leBytes 2 p.1 ++ [Config.freeByte s.free (2 * p.2), Config.freeByte s.free (2 * p.2 + 1)])

/-- GET_SUPPORTED_LOGS: the Command Effects Log. -/
def execGetSupportedLogs (head : Nat) (primary : Bool) (input : List Byte) (s : State) : Out :=
  done (s.mailbox head primary 0x0400 (if !input.isEmpty then s.answer rcLength
    else s.payload ([1, 0] ++ zeros 6 ++ celUuid ++ leBytes 4 (4 * (celOpcodes primary).length))))

/-- GET_LOG: a part of the Command Effects Log. -/
def execGetLog (head : Nat) (primary : Bool) (input : List Byte) (s : State) : Out :=
  let off := le input 16 4
  let len := le input 20 4
  done (s.mailbox head primary 0x0401 (
    if input.length ≠ 24 then s.answer rcLength
    else if input.take 16 ≠ celUuid then s.answer rcLog
    else if 8192 < len || (s.celBytes primary).length < off + len then s.answer rcInvalid
    else s.drawn.payload (((s.celBytes primary).drop off).take len)))

/-- GET_TIMESTAMP: 0 until one has been set, then the time that has passed since; its place within the heat is open. -/
def execGetTimestamp (head : Nat) (primary : Bool) (input : List Byte) (s : State) : Out :=
  let t := (s.head head).timestamp
  done (s.mailbox head primary 0x0300 (if !input.isEmpty then s.answer rcLength
    else s.drawn.payload (leBytes 8 (if t = 0 then 0 else t + Config.freeValue s.free % 2048))))

/-- SET_TIMESTAMP: on the primary mailbox only. -/
def execSetTimestamp (head : Nat) (primary : Bool) (input : List Byte) (s : State) : Out :=
  done (s.mailbox head primary 0x0301 (if !primary then s.answer rcUnsupported
    else if input.length ≠ 8 then s.answer rcLength
    else (s.modHead head (fun x => { x with timestamp := le input 0 8 })).answer rcSuccess))

/-! ### Events (R387) -/

def uuidMedia : List Byte := [0xfb, 0xcd, 0x0a, 0x77, 0xc2, 0x60, 0x41, 0x7f, 0x85, 0xa9, 0x08, 0x8b, 0x16, 0x21, 0xeb, 0xa6]
def uuidModule : List Byte := [0xfe, 0x92, 0x74, 0x75, 0xdd, 0x59, 0x43, 0x39, 0xa5, 0x86, 0x79, 0xba, 0xb1, 0x13, 0xbc, 0xb7]
def uuidCapacity : List Byte := [0xca, 0x95, 0xaf, 0xa7, 0xf1, 0x83, 0x40, 0x18, 0x8c, 0x2f, 0x95, 0x26, 0x8e, 0x10, 0x1a, 0x2a]

/-- The 16 bytes that name a record's kind; a vendor record's are open. -/
def EventKind.uuid (k : EventKind) (free : List Byte) : List Byte :=
  match k with
  | .refusedRead | .refusedWrite | .uncorrectable | .poisonRead => uuidMedia
  | .retirement | .replace | .thermal | .coolant => uuidModule
  | .addCapacity | .releaseCapacity | .offerCancelled => uuidCapacity
  | .twinSwitch | .quenched => fit 16 free

/-- The event type of a Dynamic Capacity record; that of a cancelled offer is open. -/
def EventKind.capacityType (k : EventKind) (free : Byte) : Byte :=
  match k with
  | .addCapacity => 0
  | .releaseCapacity => 2
  | _ => free

/-- The records that Get Event Records returns for one of the log: a record that lists several extents is returned as one for each,
all with its handle, and all but the last with the More flag. -/
def EventRec.parts (r : EventRec) : List (EventRec × Bool) :=
  if r.extents.length ≤ 1 then [(r, false)]
  else r.extents.zipIdx.map (fun (p : DcExtent × Nat) => ({ r with extents := [p.1] }, decide (p.2 + 1 < r.extents.length)))

/-- The 128 bytes of a record of log `l`. What neither the spec nor the record fixes is open. The failed check of a refusal stands in
the first byte of the component identifier (R384, log entry 23). -/
def EventRec.bytes (r : EventRec) (l : Nat) (more : Bool) (free : List Byte) : List Byte :=
  let head := r.kind.uuid free ++ [0x80, BitVec.ofNat 8 (if l = 4 then 0 else l), 0, 0] ++ leBytes 2 r.handle ++ [0, 0] ++ (free.drop 16).take 8 ++ zeros 16
  let body := match r.kind with
    | .addCapacity | .releaseCapacity | .offerCancelled =>
      [r.kind.capacityType (byteAt free 24)] ++ zeros 3 ++ [BitVec.ofNat 8 ((r.extents.head?.map (·.region)).getD 0), BitVec.ofNat 8 (ofBool more)] ++ zeros 2 ++
        r.extents.flatMap (fun e => leBytes 8 (e.first * 2 ^ 28) ++ leBytes 8 (e.count * 2 ^ 28) ++ leBytes 16 e.tag ++ zeros 8)
    | .refusedRead | .refusedWrite => leBytes 8 r.dpa ++ (free.drop 110).take 10 ++ leBytes 1 r.info
    | .uncorrectable | .poisonRead => leBytes 8 r.dpa
    | _ => []
  head ++ body ++ (free.drop 25).take (80 - body.length)

/-- GET_EVENT_RECORDS: the oldest records of a log, at most 63. -/
def execGetEventRecords (head : Nat) (primary : Bool) (input : List Byte) (s : State) : Out :=
  let l := le input 0 1
  let x := tget EventLog.reset (s.head head).logs l
  let all := x.recs.flatMap EventRec.parts
  let shown := all.take 63
  let flags := ofBool x.overflow + ofBool (decide (63 < all.length)) * 2
  done (s.mailbox head primary 0x0100 (
    if input.length ≠ 1 then s.answer rcLength
    else if 5 ≤ l then s.answer rcInvalid
    else s.drawn.payload ([BitVec.ofNat 8 flags, 0] ++ leBytes 2 (min x.lost 0xFFFF) ++ (if x.overflow then s.freeBytes 16 else zeros 16) ++
      leBytes 2 shown.length ++ zeros 10 ++
      shown.zipIdx.flatMap (fun (p : (EventRec × Bool) × Nat) => p.1.1.bytes l p.1.2 ((List.range 128).map (fun i => Config.freeByte s.free (128 * (p.2 + 1) + i)))))))

/-- The oldest records are those named, in order. -/
def inOrder : List EventRec → List Nat → Bool
  | _, [] => true
  | r :: rs, h :: hs => r.handle == h && inOrder rs hs
  | [], _ :: _ => false

/-- CLEAR_EVENT_RECORDS: the named records, oldest first, or all of a log. -/
def execClearEventRecords (head : Nat) (primary : Bool) (input : List Byte) (s : State) : Out :=
  let l := le input 0 1
  let all := bit (le input 1 1) 0
  let n := le input 2 1
  let x := tget EventLog.reset (s.head head).logs l
  let hs := leList 2 n (input.drop 6)
  let keep (recs : List EventRec) : CxlAnswer :=
    (s.modHead head (fun y => { y with logs := tins y.logs l { recs := recs, overflow := false, lost := 0 } })).answer rcSuccess
  done (s.mailbox head primary 0x0101 (
    if input.length < 6 || input.length ≠ 6 + 2 * n then s.answer rcLength
    else if 5 ≤ l then s.answer rcInvalid
    else if all then keep []
    else if !inOrder x.recs hs then s.answer rcHandle
    else keep (x.recs.drop n)))

/-- GET_EVENT_INTERRUPT_POLICY: the setting of each log. -/
def execGetEventInterruptPolicy (head : Nat) (primary : Bool) (input : List Byte) (s : State) : Out :=
  done (s.mailbox head primary 0x0102 (if !input.isEmpty then s.answer rcLength else s.payload (fit 5 (s.head head).policy)))

/-- SET_EVENT_INTERRUPT_POLICY: a byte for each log; the fifth is for the Dynamic Capacity log. -/
def execSetEventInterruptPolicy (head : Nat) (primary : Bool) (input : List Byte) (s : State) : Out :=
  done (s.mailbox head primary 0x0103 (
    if input.length ≠ 4 && input.length ≠ 5 then s.answer rcLength
    else if input.any (fun b => 2 ≤ b.toNat % 4) then s.answer rcInvalid
    else (s.modHead head (fun x => { x with policy := fit 5 (input ++ x.policy.drop input.length) })).answer rcSuccess))

/-! ### The memory device (R379, R386, R389) -/

/-- IDENTIFY_MEMORY_DEVICE: no static volatile and no persistent capacity; the sizes of the logs and of the poison list. -/
def execIdentifyMemoryDevice (head : Nat) (primary : Bool) (input : List Byte) (s : State) : Out :=
  done (s.mailbox head primary 0x4000 (if !input.isEmpty then s.answer rcLength
    else s.drawn.payload (s.freeBytes 16 ++ zeros 32 ++ leBytes 2 64 ++ leBytes 2 64 ++ leBytes 2 64 ++ leBytes 2 16 ++ zeros 4 ++ leBytes 3 256 ++
      (s.freeBytes 20).drop 16 ++ leBytes 2 256)))

/-- GET_PARTITION_INFO: no static capacity now or next (R379). -/
def execGetPartitionInfo (head : Nat) (primary : Bool) (input : List Byte) (s : State) : Out :=
  done (s.mailbox head primary 0x4100 (if !input.isEmpty then s.answer rcLength else s.payload (zeros 32)))

/-- GET_POISON_LIST: the recorded locations of accepted blocks in a range, in DPA order (R386). The source of an entry is
open. -/
def execGetPoisonList (head : Nat) (primary : Bool) (input : List Byte) (s : State) : Out :=
  let base := le input 0 8 / 64 * 64
  let len := le input 8 8 * 64
  let x := s.head head
  let l := x.poisonList.filter (fun k => s.acceptedAt head (k * 64) && decide (base ≤ k * 64) && decide (k * 64 < base + len))
  done (s.mailbox head primary 0x4300 (
    if input.length ≠ 16 then s.answer rcLength
    else s.drawn.payload ([BitVec.ofNat 8 (ofBool x.poisonOverflow * 2), 0] ++ leBytes 8 x.overflowTime ++ leBytes 2 l.length ++ zeros 20 ++
      l.zipIdx.flatMap (fun (p : Nat × Nat) => leBytes 8 (p.1 * 64 + (Config.freeByte s.free p.2).toNat % 8) ++ leBytes 4 1 ++ zeros 4))))

/-- A 64-byte write by a head's mailbox to an accepted block, by way of the home where the extent is coherent. -/
def State.headStore (s : State) (h d : Nat) (data : List Byte) (poison : Bool) : State :=
  let n := (s.extentAt d).getD 0
  if (s.ext n).coh = 1 then s.cohArrive { s.hostMsg h d 0 .wrLine data (2 ^ 64 - 1) with poison := poison }
  else s.writeRange (s.ext n).part 1 d data poison

/-- INJECT_POISON: the location becomes poison; its data is open (R114, R386). -/
def execInjectPoison (head : Nat) (primary : Bool) (input : List Byte) (s : State) : Out :=
  let d := le input 0 8
  done (if primary && s.headUp head && s.hearthRefuses.isNone && s.acceptedAt head d && s.writeWaits (s.ext ((s.extentAt d).getD 0)).part d 64 then s.hasten d 64
  else s.mailbox head primary 0x4301 (if !primary then s.answer rcUnsupported
    else if input.length ≠ 8 then s.answer rcLength
    else if d % 64 ≠ 0 || !s.acceptedAt head d then s.answer rcInvalid
    else ((s.headStore head d (s.freeBytes 64) true).notePoison d).drawn.answer rcSuccess))

/-- CLEAR_POISON: the location takes the supplied 64 bytes (R386). -/
def execClearPoison (head : Nat) (primary : Bool) (input : List Byte) (s : State) : Out :=
  let d := le input 0 8
  done (if primary && s.headUp head && s.hearthRefuses.isNone && s.acceptedAt head d && s.writeWaits (s.ext ((s.extentAt d).getD 0)).part d 64 then s.hasten d 64
  else s.mailbox head primary 0x4302 (if !primary then s.answer rcUnsupported
    else if input.length ≠ 72 then s.answer rcLength
    else if d % 64 ≠ 0 || !s.acceptedAt head d then s.answer rcInvalid
    else (s.headStore head d (input.drop 8) false).answer rcSuccess))

/-! ### Dynamic Capacity (R379, R382, R383) -/

/-- GET_DYNAMIC_CAPACITY_CONFIGURATION: the regions of the table. Counts of extents and tags are open. -/
def execGetDynamicCapacityConfiguration (head : Nat) (primary : Bool) (input : List Byte) (s : State) : Out :=
  let all := (List.range 8).filter (fun r => (tfind s.cxl.regions r).isSome)
  let shown := (all.drop (le input 1 1)).take (le input 0 1)
  let region (r : Nat) : List Byte :=
    let q := (tfind s.cxl.regions r).getD (0, 0)
    leBytes 8 (q.1 * 2 ^ 28) ++ leBytes 8 q.2 ++ leBytes 8 (q.2 * 2 ^ 28) ++ leBytes 8 (2 ^ 28) ++ ((s.freeBytes 40).drop (4 * r)).take 4 ++ zeros 4
  done (s.mailbox head primary 0x4800 (
    if input.length ≠ 2 then s.answer rcLength
    else s.drawn.payload (leBytes 1 all.length ++ leBytes 1 shown.length ++ zeros 6 ++ shown.flatMap region ++ (s.freeBytes 56).drop 40)))

/-- GET_DYNAMIC_CAPACITY_EXTENT_LIST: the accepted extents (R392). The generation number is open. -/
def execGetDynamicCapacityExtentList (head : Nat) (primary : Bool) (input : List Byte) (s : State) : Out :=
  let all := s.mergedExtents (s.head head).accepted
  let shown := ((all.drop (le input 4 4)).take (le input 0 4)).take 200
  done (s.mailbox head primary 0x4801 (
    if input.length ≠ 8 then s.answer rcLength
    else if all.length < le input 4 4 then s.answer rcInvalid
    else s.drawn.payload (leBytes 4 shown.length ++ leBytes 4 all.length ++ s.freeBytes 4 ++ zeros 4 ++
      shown.flatMap (fun (e : DcExtent) => leBytes 8 (e.first * 2 ^ 28) ++ leBytes 8 (e.count * 2 ^ 28) ++ leBytes 16 e.tag ++ zeros 8))))

/-- The blocks that a list of extents of a response names. -/
def listedBlocks (input : List Byte) : List Nat :=
  (List.range (le input 0 4 % 512)).flatMap (fun i =>
    (List.range (le input (16 + 24 * i) 8 / 2 ^ 28)).map (fun k => le input (8 + 24 * i) 8 / 2 ^ 28 + k))

/-- A response is well formed: whole blocks, and as long as its count says. -/
def listWellFormed (input : List Byte) : Bool :=
  let n := le input 0 4
  decide (n ≤ 340) && input.length == 8 + 24 * n &&
    (List.range n).all (fun i => le input (8 + 24 * i) 8 % 2 ^ 28 == 0 && le input (16 + 24 * i) 8 % 2 ^ 28 == 0 && decide (le input (16 + 24 * i) 8 < 2 ^ 44))

/-- ADD_DYNAMIC_CAPACITY_RESPONSE: the host accepts offered blocks, with access from the next boundary (R382). An empty
list declines what is pending (log entry 24). -/
def execAddDynamicCapacityResponse (head : Nat) (primary : Bool) (input : List Byte) (s : State) : Out :=
  let ns := (listedBlocks input).map (fun b => (s.head head).offered.find? (fun n => (s.ext n).dpaBlk == b))
  let take := ns.filterMap id
  done (s.mailbox head primary 0x4802 (
    if !listWellFormed input then s.answer rcInvalid
    else if ns.any (·.isNone) then s.answer rcAddress
    else if take.isEmpty then (s.modHead head (fun x => { x with offered := [] })).answer rcSuccess
    else (s.modHead head (fun x => { x with
      offered := x.offered.filter (fun n => !take.contains n), accepting := x.accepting ++ take.filter (fun n => !x.accepting.contains n) })).answer rcSuccess))

/-- RELEASE_DYNAMIC_CAPACITY: accepted blocks leave the head at the next boundary; blocks of a region that the head does
not hold change nothing (R383, R385). -/
def execReleaseDynamicCapacity (head : Nat) (primary : Bool) (input : List Byte) (s : State) : Out :=
  let bs := listedBlocks input
  let mine := ((s.head head).accepted ++ (s.head head).accepting).filter (fun n => bs.contains (s.ext n).dpaBlk)
  done (s.mailbox head primary 0x4803 (
    if !listWellFormed input then s.answer rcInvalid
    else if bs.any (fun b => (s.regionOf (b * 2 ^ 28)).isNone) then s.answer rcAddress
    else (s.modHead head (fun x => { x with releasing := x.releasing ++ mine.filter (fun n => !x.releasing.contains n) })).answer rcSuccess))

/-- The opcodes that a mailbox serves: the CXL commands of the table, and the range of the command set (R390). -/
def cxlServed (primary : Bool) (op : Nat) : Bool := (celOpcodes primary).contains op || (decide (0xC000 ≤ op) && decide (op ≤ 0xCBFF))

/-- UNSUPPORTED_CXL_COMMAND: any other opcode returns the unsupported return code (R388–R390). -/
def execUnsupportedCxlCommand (head : Nat) (primary : Bool) (opcode : Nat) (s : State) : Out :=
  done (if cxlServed primary opcode then s else s.mailbox head primary opcode (s.answer rcUnsupported))

/-! ### A boundary -/

/-- Both heads at a boundary: accepted and released blocks, a new heat for refusal records, the timestamps (R382–R384). -/
def State.headTick (s : State) : State :=
  [0, 1].foldl (fun (a : State) h => a.modHead h (fun x => { x with
    accepted := (x.accepted ++ x.accepting.filter (fun n => !x.accepted.contains n)).filter (fun n => !x.releasing.contains n)
    accepting := [], releasing := [], refusedThisHeat := false
    timestamp := if x.timestamp = 0 then 0 else x.timestamp + 2048 })) s

end Sys2Proof.Machine
end

