-- ==== Sys2Proof/Machine/Link.lean ====
section
/-! DEFINITION. The link layer of a fabric port (13_byhiuz_links.md): units and cells, link states, receive order,
credits, acknowledgement and replay, lanes, width, rate and retrain, and what a port sends at a unit boundary. -/

namespace Sys2Proof.Machine

/-! ### Units and cells (R322) -/

/-- The 40 bytes of a cell: header and payload (Table — Cell header). -/
def Cell.bytes (c : Cell) : List Byte :=
  leBytes 8 (c.typ % 16 * 2 ^ 60 + c.cls % 8 * 2 ^ 57 + c.dst % 2 ^ 16 * 2 ^ 41 + c.src % 2 ^ 16 * 2 ^ 25 + c.part % 64 * 2 ^ 19 +
    c.tag % 4096 * 2 ^ 7 + c.seq % 128) ++ fit 32 c.payload

/-- The cell that 40 bytes spell. -/
def cellOf (b : List Byte) : Cell :=
  let h := le b 0 8
  { typ := bits h 60 4, cls := bits h 57 3, dst := bits h 41 16, src := bits h 25 16, part := bits h 19 6, tag := bits h 7 12,
    seq := bits h 0 7, payload := fit 32 (b.drop 8) }

/-- The 44 bytes of a unit (Table — Link unit). -/
def LinkUnit.raw (u : LinkUnit) : List Byte :=
  let b := leBytes 2 (u.lseq % 4096 + u.vc % 8 * 2 ^ 12 + ofBool u.rpl * 2 ^ 15) ++ fit 40 u.body
  b ++ leBytes 2 (crc16 0xFFFF b)

/-- A LINK unit: its LSEQ, VC, RPL and header fields but TYPE are 0 (R327). -/
def linkUnit (pl : List Byte) : List Byte :=
  ({ lseq := 0, vc := 0, rpl := false, body := zeros 8 ++ fit 32 pl } : LinkUnit).raw

/-! ### Link identity and lane sets (R313, R319) -/

/-- LINK_ID of port `p` under identity hash `h`. -/
def linkIdOf (h : List Byte) (p : Nat) : Nat := le (sha256 (h ++ [BitVec.ofNat 8 p])) 0 8

/-- The lane sets that R313 allows. -/
def laneSets : List Nat := [15, 3, 12, 1, 2, 4, 8]

/-- Lanes out of service, as a mask. -/
def Port.outLanes (p : Port) : Nat := maskOf ((List.range 4).filter (fun i => (tget Lane.reset p.lanes i).out))

/-- A lane set uses none of the lanes of a mask. -/
def avoids (set out : Nat) : Bool := (List.range 4).all (fun i => !(bit set i && bit out i))

/-- The widest set within the lanes `locked` that avoids every lane out of service (R317, R320). -/
def Port.widestSet (p : Port) (locked : Nat) : Nat := (laneSets.find? (fun x => avoids x p.outLanes && avoids x (15 - locked % 16))).getD 0

/-- The widest set that avoids every lane out of service. -/
def Port.bestSet (p : Port) : Nat := p.widestSet 15

/-- A lane set may carry the port. -/
def Port.setOk (p : Port) (set : Nat) : Bool := laneSets.contains set && avoids set p.outLanes

/-! ### States (R320, R337, R338) -/

/-- A port enters ACTIVE: a device event (R320). -/
def State.enterActive (s : State) (i : Nat) : State :=
  (s.modPort i (fun p => { p with state := .active, stateHeats := 0 })).deviceEvent 0x081

/-- A port goes DOWN, or DISABLED: what R338 and R357 discard, reset and destroy. The trains that were arriving are stopped where they
stand, and discarded one heat later (R354). -/
def State.leaveLink (s : State) (i : Nat) (st : LinkState) : State :=
  let s1 := s.modPort i (fun p => { p with
    state := st, stateHeats := 0, txLanes := 0, rxLanes := 0, encOn := false, partner := none, rxE := 0, reorder := [], opened := [], keysDue := false
    vcBuf := [], openTrain := tmap p.openTrain (fun _ o => { o with lost := true, sentOn := o.sentOn || s.headSent i o.head }), ctlDue := false, sinceCtl := 0, creditRet := [], lastGaps := [], nextLseq := 0, wrapped := false
    replay := [], credits := initialCredits, lastCredit := [], linkOut := [], laneCmd := none, wantWidth := false, wantRetrain := false
    quiet := false, keying := none, txKey := none, rxKey := none, txNext := none, rxNext := none, rekeyWanted := false
    chain := [], txGroup := [], groupClose := false, groupFails := [], resync := false, epochs := 0 })
  s1.egressDown i

/-- The link goes DOWN (R338). -/
def State.goDown (s : State) (i : Nat) : State := ((s.leaveLink i .down).countPort i 51 1).deviceEvent 0x081

/-- A port that was DISABLED goes DOWN: it is enabled, or starts at boot (R320, R532). -/
def State.enterDown (s : State) (i : Nat) : State :=
  ((s.modPort i (fun x => { x with state := .down, stateHeats := 0, credits := initialCredits })).countPort i 51 1).deviceEvent 0x081

/-- A port enters RETRAIN from ACTIVE (R337). -/
def State.startRetrain (s : State) (i : Nat) : State :=
  if (s.port i).state = .active then
    (s.modPort i (fun p => { p with state := .retrain, stateHeats := 0, laneCmd := none, wantRetrain := false, quiet := false, linkOut := [] })).countPort i 48 1
  else s

/-- SIGNAL_DETECT: a DOWN port sees signal on a lane (R320). -/
def execSignalDetect (port : Nat) (s : State) : Out :=
  done (if (s.port port).state = .down && !s.linksIdle then s.modPort port (fun p => { p with state := .train, stateHeats := 0 }) else s)

/-- The IDENT unit of a port (Table — Link-control payloads). -/
def State.identUnit (s : State) (i : Nat) : List Byte :=
  let p := s.port i
  linkUnit ([0x06, BitVec.ofNat 8 i, BitVec.ofNat 8 (ofBool (p.maxRate = 1) + ofBool (p.encSetting = 2) * 2 + ofBool (p.encSetting ≠ 0) * 4 +
      ofBool (s.egress i).twin * 8), 0] ++ leBytes 4 (s.endpoint 0) ++ leBytes 8 p.linkId ++
    ([0, 1, 2, 3, 4].flatMap (fun v => leBytes 2 (tget 0 initialCredits v))))

/-- A LINK unit joins those to be sent. -/
def State.sendLink (s : State) (i : Nat) (u : List Byte) : State := s.modPort i (fun p => { p with linkOut := p.linkOut ++ [u] })

/-- TRAINING_COMPLETE: at least one lane set locks at both ends; the port takes the widest set within the lanes that have
locked, of those it sends on and those it receives on, enters IDENT and sends its IDENT (R317, R320, R321). -/
def execTrainingComplete (port txLocked rxLocked rate : Nat) (s : State) : Out :=
  let p := s.port port
  let set := p.widestSet (txLocked &&& rxLocked)
  done (if p.state = .train && set != 0 && decide (rate ≤ p.maxRate) then
    let s1 := s.modPort port (fun x => { x with state := .ident, stateHeats := 0, txLanes := set, rxLanes := set, rate := rate })
    s1.sendLink port (s1.identUnit port)
  else s)

/-- TRAINING_TIMEOUT: not locked 256 heats after entry (R320). -/
def execTrainingTimeout (port : Nat) (s : State) : Out :=
  done (if (s.port port).state = .train && decide (256 ≤ (s.port port).stateHeats) then s.goDown port else s)

/-- The partner that an IDENT payload presents. -/
def identOf (pl : List Byte) : Ident :=
  { port := le pl 1 1, caps := le pl 2 1, chip := le pl 4 2, linkId := le pl 8 8, credits := (List.range 5).map (fun v => le pl (16 + 2 * v) 2) }

/-- A port refuses the link of a partner (R321, R500). -/
def State.refusesLink (s : State) (i : Nat) (x : Ident) : Bool :=
  let p := s.port i
  x.linkId == p.linkId ||
  (p.encSetting == 2 && !(bit x.caps 1 || bit x.caps 2)) || (bit x.caps 1 && p.encSetting == 0) ||
  x.credits != (List.range 5).map (tget 0 initialCredits) ||
  ((s.egress i).twin && x.linkId != linkIdOf s.twin.partnerH x.port)

/-- The reported partner differs from the expected neighbour (R345): a chip by its coordinate, a leaf by this chip's
coordinate and the local index of a leaf (R344), NONE by any partner. -/
def State.misfits (s : State) (i : Nat) (x : Ident) : Bool :=
  match (s.egress i).expected with
  | .none => true
  | .leaf => !(x.chip / 64 == s.endpoint 0 / 64 && decide (x.chip % 64 < 24))
  | .chip a b => x.chip / 64 != a * 32 + b

/-- Marks port `i` MISWIRED, or clears the mark (R345). A twin port has the twin's own check. -/
def State.checkWiring (s : State) (i : Nat) : State :=
  match (s.port i).partner with
  | none => s
  | some x =>
    let m := !(s.egress i).twin && s.misfits i x
    if m && !(s.egress i).miswired then (s.modEgress i (fun e => { e with miswired := true })).deviceEvent 0x081
    else s.modEgress i (fun e => { e with miswired := m })

/-- Link encryption runs when one end requires it and the other permits it (R321, R336). -/
def Port.wantsEnc (p : Port) (x : Ident) : Bool := p.encSetting == 2 || bit x.caps 1

/-- IDENT_RESEND: every 1/64 heat in IDENT (R321). -/
def execIdentResend (port : Nat) (s : State) : Out :=
  done (if (s.port port).state = .ident then s.sendLink port (s.identUnit port) else s)

/-! ### Receiving (R323, R326, R329) -/

/-- LSEQ `a` lies `d` after `b`. -/
def seqDist (a b : Nat) : Nat := (a % 4096 + 4096 - b % 4096) % 4096

/-- The LSEQs from E up to the last held one that are not held. -/
def Port.gaps (p : Port) : List Nat :=
  let top := (p.reorder.map (fun u => seqDist u.1 p.rxE + 1)).foldl max 0
  ((List.range top).map (fun d => (p.rxE + d) % 4096)).filter (fun q => (tfind p.reorder q).isNone)

/-- A unit that R323 discards: counted in BAD_UNIT, its credit returned when its VC is one of the five. -/
def State.badUnit (s : State) (i vc : Nat) : State :=
  let s1 := s.countPort i 42 1
  if vc < 5 then s1.creditBack i vc 1 else s1

/-- A cell that is not discarded goes into its VC buffer and counts in RX_UNITS; a CTL cell for a unit of this chip is
removed on arrival (R355), and the event of its message carries it. -/
def State.buffered (s : State) (i vc : Nat) (c : Cell) : State :=
  let s1 := s.countPort i 16 1
  if c.cls = 0 && (c.typ == 0x2 || c.typ == 0x3 || s.inChip c.dst || (s.egress i).twin) then s1.creditBack i vc 1
  else s1.modPort i (fun p => { p with vcBuf := tins p.vcBuf vc (tget [] p.vcBuf vc ++ [c]) })

/-- A train whose cell 0 is `h` ends the partner's last step of the first key exchange, step 3 with its last data
(R466, R468). -/
def Port.endsKeyExchange (p : Port) (h : Cell) (n : Nat) : Bool :=
  p.state == .keying && h.typ == 0x2 && le h.payload 0 1 == 0x33 && decide (le h.payload 2 2 ≤ le h.payload 4 4 + 32 * (n - 1))

/-- Cell 0 of an RSP-class MEM train for this chip that its OP or LEN makes no response (R324). -/
def State.badResponse (s : State) (i : Nat) (c : Cell) : Bool :=
  c.typ == 0x7 && c.cls == 3 && (s.inChip c.dst || (s.egress i).twin) &&
    (!(le c.payload 0 1 == 0x81 || le c.payload 0 1 == 0x82) || decide (4064 < le c.payload 4 4))

/-- A sequenced unit is delivered to its VC buffer under the rules of R323 and R354. A TAG unit spends no credit. -/
def State.deliver (s : State) (i vc : Nat) (c : Cell) : State :=
  if vc ≠ c.cls || 4 < c.cls then s.badUnit i vc
  else if c.typ = 0x1 && c.cls = 0 then (if c.seq = 0 then s.countPort i 16 1 else s.badUnit i vc)
  else if !typeClassOk c.typ c.cls then s.badUnit i vc
  else if c.seq = 0 && s.badResponse i c then (s.truncateTrain i vc).badUnit i vc
  else if c.seq = 0 then
    let n := trainLength c.typ c.payload
    let s1 := s.truncateTrain i vc
    (if n = 1 then s1
    else s1.modPort i (fun p => { p with openTrain := tins p.openTrain vc { head := c, next := 1, length := n, heats := 0 } })).buffered i vc c
  else match tfind (s.port i).openTrain vc with
    | none => s.badUnit i vc
    | some o =>
      if o.next = c.seq && !o.lost && o.head.typ = c.typ && o.head.dst = c.dst && o.head.src = c.src && o.head.part = c.part && o.head.tag = c.tag then
        (if o.next + 1 = o.length then s.modPort i (fun p => { p with
            openTrain := tdel p.openTrain vc, keysDue := p.keysDue || p.endsKeyExchange o.head o.length })
        else s.modPort i (fun p => { p with openTrain := tins p.openTrain vc { o with next := o.next + 1, heats := 0 } })).buffered i vc c
      else s.badUnit i vc

/-- Arriving units are ciphertext, held until their group verifies (R340, R468). -/
def Port.holds (p : Port) : Bool := p.encOn || p.keysDue

/-- The cell of a held unit as far as it may be delivered: at once on a clear link, and once its group has verified on an
encrypted one (R329, R340). -/
def Port.clear (p : Port) (q : Nat) : Option (List Byte) :=
  if p.holds then tfind p.opened q else (tfind p.reorder q).map (·.body)

/-- Delivers the held units that are in order, as many as `n`. -/
def State.deliverRun (s : State) (i : Nat) : Nat → State
  | 0 => s
  | n + 1 =>
    let p := s.port i
    match tfind p.reorder p.rxE, p.clear p.rxE with
    | some u, some b =>
      let s1 := s.modPort i (fun x => { x with reorder := tdel x.reorder p.rxE, opened := tdel x.opened p.rxE, rxE := (p.rxE + 1) % 4096 })
      (s1.deliver i u.vc (cellOf b)).deliverRun i n
    | _, _ => s

/-- The sequenced unit that 44 raw bytes hold (R315). -/
def unitOf (raw : List Byte) : LinkUnit :=
  { lseq := le raw 0 2 % 4096, vc := bits (le raw 0 2) 12 3, rpl := bit (le raw 0 2) 15, body := (raw.drop 2).take 40 }

/-- The CRC of a raw unit holds (R315). -/
def unitCrcOk (raw : List Byte) : Bool := crc16 0xFFFF (raw.take 42) == le raw 42 2

/-- A sequenced unit has been received since the last LINK_CTL, a duplicate among them: 32 make one due (R327). -/
def State.unitCame (s : State) (port : Nat) : State :=
  s.modPort port (fun x => { x with sinceCtl := x.sinceCtl + 1, ctlDue := x.ctlDue || decide (32 ≤ x.sinceCtl + 1) })

/-- A unit within the receive window that has not come before: it is held, what is now in order and clear is delivered, and
a LINK_CTL is due for a new gap (R322, R327, R329, R340). -/
def State.unitTaken (s : State) (port : Nat) (u : LinkUnit) : State :=
  let s1 := s.modPort port (fun x => { x with reorder := tins x.reorder u.lseq u })
  let s2 := s1.deliverRun port 513
  let g := (s2.port port).gaps
  s2.modPort port (fun x => { x with
    ctlDue := x.ctlDue || g.any (fun q => !x.lastGaps.contains q), lastGaps := g
    peakReorder := max x.peakReorder x.reorder.length })

/-- LINK_UNIT_RECEIVE: a sequenced unit arrives (R315, R322, R329). A unit that overlaps an uncorrectable
codeword is as if its CRC had failed, and each such codeword counts once. With link encryption on, units are held until their TAG unit verifies them (R340). -/
def execLinkUnitReceive (port : Nat) (raw : List Byte) (fec : UnitFec) (s : State) : Out :=
  let p := s.port port
  done (if !(p.state = .active || p.state = .keying) then s
  else match fec with
  | .uncorrectable fresh => (s.countPort port 20 1).countPort port 22 fresh
  | .clean =>
    if !unitCrcOk raw then s.countPort port 20 1
    else
      let u := unitOf raw
      if !p.holds && (cellOf u.body).typ = 0x0 then s
      else
        let d := seqDist u.lseq p.rxE
        let s1 := s.unitCame port
        if 2048 ≤ d || (tfind p.reorder u.lseq).isSome then s1.countPort port 36 1
        else if (if p.holds then 256 else 512) ≤ d then s1.countPort port 38 1
        else s1.unitTaken port u)

/-- LINK_CTL_TIMER: 1/64 heat after an unreported unit (R327). -/
def execLinkCtlTimer (port : Nat) (s : State) : Out :=
  done (if 0 < (s.port port).sinceCtl then s.modPort port (fun p => { p with ctlDue := true }) else s)

/-- The LINK_CTL unit that a port sends now (Table — Link-control payloads). With encryption on, units that await their
TAG unit are not reported. -/
def Port.linkCtl (p : Port) : List Byte :=
  let ackOk := p.rxE != 0 || !p.creditRet.isEmpty
  let sack := maskOf ((List.range 32).filter (fun i => (p.clear ((p.rxE + i) % 4096)).isSome))
  let naks := (p.gaps.take 4).map (fun q => q + 2 ^ 15)
  linkUnit ([0x01, BitVec.ofNat 8 (ofBool ackOk + ofBool (sack ≠ 0) * 2)] ++ leBytes 2 ((p.rxE + 4095) % 4096) ++ leBytes 4 sack ++
    (fit 8 (naks.flatMap (leBytes 2))) ++ ([0, 1, 2, 3, 4].flatMap (fun v => leBytes 2 (tget 0 p.creditRet v % 2 ^ 16))))

/-! ### Acknowledgement and replay (R327–R331) -/

/-- The LSEQ has been sent: it lies before the next one to be sent. -/
def Port.wasSent (p : Port) (q : Nat) : Bool := if p.wrapped then decide (seqDist (p.nextLseq + 4095) q < 2048) else decide (q < p.nextLseq)

/-- The partner's LINK_CTL is applied: credits, acknowledgements and NAKs; one that names a unit that is not held or was
never sent, or asks for a ninth replay, takes the port to RETRAIN (R327, R328, R330, R331). -/
def State.ctlApplied (s : State) (port : Nat) (payload : List Byte) : State :=
  let p := s.port port
  let ack := le payload 2 2 % 4096
  let ackOk := bit (le payload 1 1) 0
  let sacks := if bit (le payload 1 1) 1 then (bitList 32 (le payload 4 4)).map (fun i => (ack + 1 + i) % 4096) else []
  let naks := ((List.range 4).map (fun k => le payload (8 + 2 * k) 2)).filter (bit · 15) |>.map (· % 4096)
  -- credits
  let s1 := s.modPort port (fun x => [0, 1, 2, 3, 4].foldl (fun (y : Port) v =>
    let now := le payload (16 + 2 * v) 2
    { y with credits := tins y.credits v (tget 0 y.credits v + (now + 2 ^ 16 - tget 0 y.lastCredit v) % 2 ^ 16)
             lastCredit := tins y.lastCredit v now }) x)
  -- acknowledgements
  let s2 := s1.modPort port (fun x => { x with replay := x.replay.filter (fun u =>
    !(ackOk && decide (seqDist ack u.1 < 2048)) && !sacks.contains u.1) })
  -- NAKs
  let s3 := (s2.modPort port (fun x => { x with replay := tmap x.replay (fun q u =>
    if naks.contains q || x.resync then { u with due := true } else u), resync := false })).countPort port 34 naks.length
  if naks.any (fun q => !(tfind (s2.port port).replay q).any (fun u => decide (u.replays < 8))) || (ackOk && !p.wasSent ack) || sacks.any (fun q => !p.wasSent q) then s3.startRetrain port
  else s3

/-- LINK_CTL: credits, acknowledgements and NAKs of the partner (R327, R328, R330). -/
def execLinkCtl (port : Nat) (payload : List Byte) (s : State) : Out :=
  let p := s.port port
  done (if !(p.state = .active || p.state = .keying) then s else s.ctlApplied port payload)

/-- REPLAY_TIMER_EXPIRY: the unit is replayed, or after its eighth replay the port retrains (R331). A port in KEYING, which
R337 does not let retrain, replays on. -/
def execReplayTimerExpiry (port lseq : Nat) (s : State) : Out :=
  let p := s.port port
  done (if !(p.state = .active || p.state = .keying) || p.quiet then s
  else match tfind p.replay lseq with
    | none => s
    | some u =>
      let s1 := s.countPort port 30 1
      if 8 ≤ u.replays && p.state = .active then s1.startRetrain port
      else s1.modPort port (fun x => { x with replay := tins x.replay lseq { u with due := true } }))

/-! ### Lanes, width and rate (R332–R335) -/

/-- The operation's code in LANE_CMD. -/
def LaneOp.code : LaneOp → Nat | .width => 1 | .rate => 2 | .retrain => 3

def laneOpOf : Nat → Option LaneOp | 1 => some .width | 2 => some .rate | 3 => some .retrain | _ => none

/-- The LANE_CMD unit of a command. -/
def Port.laneCmdUnit (p : Port) (c : LaneCmd) : List Byte :=
  linkUnit ([0x02, BitVec.ofNat 8 c.id, BitVec.ofNat 8 c.op.code, BitVec.ofNat 8 c.lanes, BitVec.ofNat 8 c.rate, 0, 0, 0] ++ leBytes 8 p.linkId)

/-- This end starts a lane command, unless one is under way. -/
def State.startLane (s : State) (i : Nat) (op : LaneOp) (lanes rate : Nat) : State :=
  let p := s.port i
  if p.state ≠ .active || p.laneCmd.isSome then s
  else
    let c : LaneCmd := { id := p.nextCmdId, op := op, lanes := lanes, rate := rate, own := true, phase := .sent, txDone := false, rxDone := false, resends := 0, heats := 0 }
    (s.modPort i (fun x => { x with laneCmd := some c, nextCmdId := (x.nextCmdId + 1) % 256 })).sendLink i (p.laneCmdUnit c)

/-- A change that is still wanted is requested: a retrain, a rate above the maximum that is in force, or a width (R317, R318, R334,
R336). -/
def State.requestWidth (s : State) (i : Nat) : State :=
  let p := s.port i
  if p.wantRetrain && p.state = .active && p.laneCmd.isNone then
    (s.modPort i (fun x => { x with wantRetrain := false })).startLane i .retrain 0 0
  else if p.state = .active && p.laneCmd.isNone && decide (p.maxRate < p.rate) then s.startLane i .rate 0 p.maxRate
  else if p.wantWidth && p.state = .active && p.laneCmd.isNone then
    let s1 := s.modPort i (fun x => { x with wantWidth := false })
    if p.bestSet = p.txLanes && p.bestSet = p.rxLanes || p.bestSet = 0 then s1 else s1.startLane i .width p.bestSet p.rate
  else s

/-- A lane command ends, and a change that is still wanted follows it. -/
def State.endLane (s : State) (i : Nat) : State := (s.modPort i (fun p => { p with laneCmd := none })).requestWidth i

/-- LANE_ACK to the partner's command; `withdrawn` is the CMD_ID of this end's own command that it gives up (R334). -/
def laneAckUnit (id : Nat) (refuse : Bool) (withdrawn : Option Nat) : List Byte :=
  linkUnit [0x03, BitVec.ofNat 8 id, BitVec.ofNat 8 (ofBool refuse), BitVec.ofNat 8 (ofBool withdrawn.isSome), BitVec.ofNat 8 (withdrawn.getD 0)]

/-- The command that a LANE_CMD payload spells (R332). -/
def laneCmdOf (payload : List Byte) (op : LaneOp) : LaneCmd :=
  { id := le payload 1 1, op := op, lanes := le payload 3 1 % 16, rate := le payload 4 1, own := false, phase := .acked, txDone := false, rxDone := false,
    resends := 0, heats := 0 }

/-- The partner's command is answered: refused when it names a lane set that this end cannot use, or a rate that is not one of R313's two
or lies above this end's maximum, otherwise accepted and under way (R332); `w` is this end's own command that it displaces (R334). -/
def State.laneAnswers (s : State) (port : Nat) (c : LaneCmd) (w : Option Nat) : State :=
  let refuse := (c.op == .width && !(s.port port).setOk c.lanes) || (c.op == .rate && decide ((s.port port).maxRate < c.rate))
  (s.modPort port (fun x => { x with laneCmd := if refuse then none else some c })).sendLink port (laneAckUnit c.id refuse w)

/-- LANE_CMD: the partner's command is answered; one that meets this end's own is decided by R334 (R332). -/
def execLaneCmd (port : Nat) (payload : List Byte) (s : State) : Out :=
  let p := s.port port
  done (match p.state, laneOpOf (le payload 2 1) with
  | .active, some op =>
    let c := laneCmdOf payload op
    match p.laneCmd with
    | none => s.laneAnswers port c none
    | some o =>
      if !o.own then (if o.id = c.id && o.phase == .acked then s.laneAnswers port c none else s)
      else if o.phase != .sent then s
      else
        let own := if o.op == .retrain && op != .retrain then true
          else if op == .retrain && o.op != .retrain then false
          else decide (le payload 8 8 < p.linkId)
        if own then s
        else (s.modPort port (fun x => { x with wantWidth := x.wantWidth || o.op == .width })).laneAnswers port c (some o.id)
  | _, _ => s)

/-- LANE_GO of a command. -/
def laneGoUnit (id : Nat) : List Byte := linkUnit [0x05, BitVec.ofNat 8 id]

/-- LANE_ACK: on acceptance the initiator sends LANE_GO (R332). -/
def execLaneAck (port : Nat) (payload : List Byte) (s : State) : Out :=
  done (match (s.port port).laneCmd with
  | some c =>
    if c.own && c.phase == .sent && c.id == le payload 1 1 then
      (if le payload 2 1 = 0 then
        (s.modPort port (fun p => { p with laneCmd := some { c with phase := .goSent, heats := 0 } })).sendLink port (laneGoUnit c.id)
      else s.endLane port)
    else s
  | none => s)

/-- LANE_GO: the partner's transmitter switches at the next frame boundary, and this end's receiver with it. Before OP
RETRAIN nothing switches, and the partner's end answers with its own LANE_GO at once (R332, R333). -/
def execLaneGo (port : Nat) (payload : List Byte) (s : State) : Out :=
  done (match (s.port port).laneCmd with
  | some c =>
    if c.id != le payload 1 1 then s
    else
      let s1 := s.modPort port (fun p => { p with laneCmd := some { c with phase := .switching } })
      match c.own, c.phase with
      | true, .goSent => s1
      | false, .acked => if c.op == .retrain then s1.sendLink port (laneGoUnit c.id) else s1
      | _, _ => s
  | none => s)

/-- This end's receiver, or its transmitter, is to switch at the next frame boundary: the initiator's transmitter after its
own LANE_GO, a receiver after the partner's, the partner's transmitter after its receiver (R332). -/
def LaneCmd.maySwitch (c : LaneCmd) (receive : Bool) : Bool :=
  if receive then c.phase == .switching && !c.rxDone
  else !c.txDone && (c.phase == .goSent || (c.own && c.phase == .switching))

/-- A lane command whose two directions have switched and locked ends and is counted. -/
def State.laneDone (s : State) (port : Nat) : State :=
  let p := s.port port
  match p.laneCmd with
  | some c => if c.txDone && c.rxDone && !p.quiet then (s.countPort port (if c.op == .width then 49 else 50) 1).endLane port else s
  | none => s

/-- One direction of the port switches (R332). A rate change begins its quiet interval there. -/
def Port.switched (p : Port) (c : LaneCmd) (receive : Bool) : Port :=
  let c1 : LaneCmd := if receive then { c with rxDone := true, phase := if c.own then c.phase else .goSent } else { c with txDone := true }
  let p1 : Port := { p with laneCmd := some c1 }
  match c.op with
  | .width => if receive then { p1 with rxLanes := c.lanes } else { p1 with txLanes := c.lanes }
  | .rate => { p1 with quiet := true, rate := if receive then p.rate else c.rate }
  | .retrain => p1

/-- LANE_SWITCH: at the frame boundary after LANE_GO this end's transmitter, or its receiver after the partner's LANE_GO,
switches; the partner's end sends its own LANE_GO once its receiver has; OP RETRAIN takes the port to RETRAIN (R332, R333). -/
def execLaneSwitch (port : Nat) (receive : Bool) (s : State) : Out :=
  done (match (s.port port).laneCmd with
  | some c =>
    if c.op == .retrain then (if c.phase == .switching then s.startRetrain port else s)
    else if !c.maySwitch receive then s
    else
      let s1 := s.modPort port (fun p => p.switched c receive)
      (if receive && !c.own then s1.sendLink port (laneGoUnit c.id) else s1).laneDone port
  | none => s)

/-- RATE_CHANGE_RELOCK: the receiver has relocked; units and replay timers go on (R332). -/
def execRateChangeRelock (port : Nat) (s : State) : Out :=
  done (if (s.port port).quiet then (s.modPort port (fun p => { p with quiet := false })).laneDone port else s)

/-- LANE_CMD_TIMEOUT: a command not answered within 1 heat, a boundary having passed (R33), is sent again up to three times, then the
port retrains (R335). -/
def execLaneCmdTimeout (port : Nat) (s : State) : Out :=
  done (match (s.port port).laneCmd with
  | some c =>
    if !(c.own && c.phase == .sent && decide (1 ≤ c.heats)) then s
    else if c.resends < 3 then
      (s.modPort port (fun p => { p with laneCmd := some { c with resends := c.resends + 1, heats := 0 } })).sendLink port ((s.port port).laneCmdUnit c)
    else s.startRetrain port
  | none => s)

/-- LANE_GO_TIMEOUT: the partner's LANE_GO has not followed within 1 heat (R335). -/
def execLaneGoTimeout (port : Nat) (s : State) : Out :=
  done (if (s.port port).laneCmd.any (fun c => c.own && c.phase == .goSent && decide (1 ≤ c.heats)) then s.startRetrain port else s)

/-- RETRAIN_COMPLETE: ACTIVE resumes on the widest set of the lanes that have locked, a LINK_CTL is sent at once and the
replays that it leaves open follow (R317, R333). -/
def execRetrainComplete (port txLocked rxLocked rate : Nat) (s : State) : Out :=
  let p := s.port port
  let set := p.widestSet (txLocked &&& rxLocked)
  done (if p.state = .retrain && set != 0 && decide (rate ≤ p.maxRate) then
    (s.modPort port (fun x => { x with
      txLanes := set, rxLanes := set, rate := rate, ctlDue := true, resync := true
      replay := tmap x.replay (fun _ u => { u with replays := 0, due := false }) })).enterActive port
  else s)

/-- RETRAIN_TIMEOUT: not complete 64 heats after entry (R320). -/
def execRetrainTimeout (port : Nat) (s : State) : Out :=
  done (if (s.port port).state = .retrain && decide (64 ≤ (s.port port).stateHeats) then s.goDown port else s)

/-- PARTNER_IDLE: the partner is electrically idle for 4 µs (R320, R338). -/
def execPartnerIdle (port : Nat) (s : State) : Out :=
  done (if (s.port port).state = .disabled || (s.port port).state = .down then s else s.goDown port)

/-! ### Lane health (R317, R318) -/

def State.modLane (s : State) (i l : Nat) (f : Lane → Lane) : State :=
  s.modPort i (fun p => { p with lanes := tmod Lane.reset p.lanes l f })

/-- LANE_LOCK_LOSS: the lane goes out of service and the port retrains without it (R317). -/
def execLaneLockLoss (port lane : Nat) (s : State) : Out :=
  done ((s.modLane port lane (fun l => { l with out := true, badWindows := 0 })).startRetrain port)

/-- FRAME_LOCK_LOSS (R333). -/
def execFrameLockLoss (port : Nat) (s : State) : Out := done (s.startRetrain port)

/-- The error window of one lane ends with the corrected symbols out of those received: a lane above 10⁻⁴ in four
consecutive windows goes out of service and a width change is wanted (R317). -/
def State.laneWindow (s : State) (port : Nat) (corrected symbols : List Nat) (i : Nat) : State :=
  let c := (corrected[i]?).getD 0
  let b := s.modLane port i (fun l => { l with
    lastErrors := min 65535 c, badWindows := if (symbols[i]?).getD 0 < c * 10000 then l.badWindows + 1 else 0 })
  let l := tget Lane.reset (b.port port).lanes i
  if 4 ≤ l.badWindows && !l.out then
    (b.modLane port i (fun x => { x with out := true, badWindows := 0 })).modPort port (fun p => { p with wantWidth := true })
  else b

/-- LANE_ERROR_WINDOW_END: a window of 256 heats, counted at boundaries (R33), ends with the corrected symbols of each lane
out of `symbols` received; a lane above 10⁻⁴ in four consecutive windows is removed by a width change (R317). -/
def execLaneErrorWindowEnd (port : Nat) (corrected symbols : List Nat) (s : State) : Out :=
  done (if (s.port port).errorHeats < 256 then s
  else
    let s1 := (List.range 4).foldl (fun a i => a.laneWindow port corrected symbols i) (s.modPort port (fun p => { p with errorHeats := 0 }))
    (s1.countPort port 24 (corrected.foldl (· + ·) 0)).requestWidth port)

/-- LANE_WARM_UP_END: the PRBS31 test of 4,096 heats ends (R318). -/
def execLaneWarmUpEnd (port lane : Nat) (pass : Bool) (s : State) : Out :=
  let l := tget Lane.reset (s.port port).lanes lane
  done (if l.warm && decide (4096 ≤ l.heats) then
    s.modLane port lane (fun x => if pass then { x with warm := false, admitted := true } else { x with warm := false, retry := true, heats := 0 })
  else s)

/-- LANE_WARM_UP_RETRY: 65,536 heats after a failed warm-up (R318). -/
def execLaneWarmUpRetry (port lane : Nat) (s : State) : Out :=
  let l := tget Lane.reset (s.port port).lanes lane
  done (if l.retry && decide (65536 ≤ l.heats) then s.modLane port lane (fun x => { x with retry := false, heats := 0 }) else s)

/-- The lanes of a port at a boundary: warm-up starts, counts, and passed lanes are admitted (R318). -/
def Port.laneTick (p : Port) : Port :=
  let admitted := p.lanes.any (·.2.admitted)
  { p with
    wantWidth := p.wantWidth || (admitted && !p.holdWidth)
    lanes := tmap p.lanes (fun _ l =>
      if l.admitted then { Lane.reset with lastErrors := l.lastErrors }
      else if l.out && !l.warm && !l.retry then { l with warm := true, heats := 0 }
      else if l.warm || l.retry then { l with heats := l.heats + 1 } else l) }

/-- The heats of a port's state, window, lane command, key exchange and open trains at a boundary. -/
def Port.heatPassed (p : Port) : Port :=
  { p with
    stateHeats := p.stateHeats + 1, errorHeats := p.errorHeats + 1
    laneCmd := p.laneCmd.map (fun c => { c with heats := c.heats + 1 })
    keying := p.keying.map (fun k => { k with heats := k.heats + 1 })
    openTrain := tmap p.openTrain (fun _ o => { o with heats := o.heats + 1 }) }

/-- Every port at a boundary: its lanes, its heats, and those of the output VCs that it holds. -/
def State.linkTick (s : State) : State :=
  let s1 : State := { s with
    ports := tmap s.ports (fun _ p => p.laneTick.heatPassed)
    routing := { s.routing with ports := tmap s.routing.ports (fun _ e => { e with heldVc := tmap e.heldVc (fun _ h => h + 1) }) } }
  (s1.ports.map (·.1)).foldl State.requestWidth s1

/-! ### Sending (R325, R326, R328, R339) -/

/-- The 96-bit nonce of a group: salt, then group counter (R339). -/
def LinkKey.nonce (k : LinkKey) : List Byte := beBytes 4 k.salt ++ beBytes 8 k.counter

/-- AES-256-GCM in counter mode: the text and the key stream, byte by byte (R339). -/
def gcmText (key iv text : List Byte) : List Byte := text.zipIdx.map (fun x => x.1 ^^^ Config.gcmStream key iv x.2)

/-- AES-256-GCM: ciphertext and tag. -/
def gcmSeal (key iv aad plain : List Byte) : List Byte × List Byte :=
  let c := gcmText key iv plain
  (c, fit 16 (Config.gcmTag key iv aad c))

/-- AES-256-GCM: the plaintext of a ciphertext whose tag holds. -/
def gcmOpen (key iv aad cipher tag : List Byte) : Option (List Byte) :=
  if fit 16 (Config.gcmTag key iv aad cipher) = tag then some (gcmText key iv cipher) else none

/-- The additional data and the plaintext of a group's units. -/
def groupAad (us : List LinkUnit) : List Byte := us.flatMap (fun u => leBytes 2 (u.lseq % 4096 + u.vc % 8 * 2 ^ 12))
def groupText (us : List LinkUnit) : List Byte := us.flatMap (fun u => fit 40 u.body)

/-- The body of the newest unit of the open group as it travels. -/
def Port.cipherBody (p : Port) (us : List LinkUnit) : List Byte :=
  match p.txKey with
  | none => ((us.getLast?).map (·.body)).getD []
  | some k => ((gcmText k.key k.nonce (groupText us)).drop (40 * (us.length - 1))).take 40

/-- Sends one sequenced unit: it takes the next LSEQ and enters the replay buffer; a TAG unit spends no credit. -/
def State.sendSequenced (s : State) (i : Nat) (c : Cell) : State :=
  let p := s.port i
  let tag := c.typ = 0x1
  let plain : LinkUnit := { lseq := p.nextLseq, vc := c.cls, rpl := false, body := c.bytes }
  let enc := p.encOn && !tag
  let group := if enc then p.txGroup ++ [plain] else p.txGroup
  let u : LinkUnit := if enc then { plain with body := p.cipherBody group } else plain
  (s.modPort i (fun x => { x with
    nextLseq := (x.nextLseq + 1) % 4096, wrapped := x.wrapped || x.nextLseq == 4095
    replay := tins x.replay u.lseq { unit := u, replays := 0, due := false }
    peakReplay := max x.peakReplay (x.replay.length + 1)
    credits := if tag then x.credits else tins x.credits c.cls (tget 0 x.credits c.cls - 1)
    txGroup := group, lastUnit := u.raw })).countPort i 12 1

/-- Cells of a key exchange message are still to be sent. -/
def Egress.keysLeft (e : Egress) : Bool := e.ctl.any (·.typ == 0x2) || (tget [] e.waiting 0).any (fun x => x.2.typ == 0x2)

/-- The TAG unit that closes the open group (Table — TAG unit payload); the next group takes the next key, if there is
one and the exchange that made it has left under the old one (R342, R469). -/
def State.sendTag (s : State) (i : Nat) : State :=
  let p := s.port i
  match p.txKey with
  | none => s
  | some k =>
    let t := (gcmSeal k.key k.nonce (groupAad p.txGroup) (groupText p.txGroup)).2
    let pl := fit 16 t ++ leBytes 8 k.counter ++ [BitVec.ofNat 8 p.txGroup.length, BitVec.ofNat 8 (ofBool k.epoch)]
    let c : Cell := { typ := 0x1, cls := 0, dst := 0, src := 0, part := 0, tag := 0, seq := 0, payload := fit 32 pl }
    let s1 := s.sendSequenced i c
    match p.txNext.filter (fun _ => !(s.egress i).keysLeft) with
    | some n => (s1.modPort i (fun x => { x with txGroup := [], groupClose := false, txKey := some n, txNext := none, epochs := x.epochs + 1 })).countPort i 57 1
    | none => s1.modPort i (fun x => { x with txGroup := [], groupClose := false, txKey := some { k with counter := k.counter + 1 } })

/-- The oldest unit whose replay is due. -/
def Port.dueReplay (p : Port) : Option (Nat × ReplayUnit) :=
  let d := p.replay.filter (·.2.due)
  match d with
  | [] => none
  | x :: r => some (r.foldl (fun a b => if seqDist (p.nextLseq + 4095) b.1 > seqDist (p.nextLseq + 4095) a.1 then b else a) x)

/-- A delay sample of a cell that leaves (R372–R374). -/
def Egress.sampled (e : Egress) (k delay : Nat) : Egress :=
  let d := min 65535 delay
  if e.split.mode = 1 then
    { e with split := { e.split with
        samples := tmod 0 e.split.samples k (· + 1), maxDelay := tmod 0 e.split.maxDelay k (max d), sumDelay := tmod 0 e.split.sumDelay k (· + d) } }
  else if e.split.mode = 2 then { e with split := { e.split with highDelay := tmod 0 e.split.highDelay k (max d) } }
  else e

/-- A CTL cell has left at time `now`. -/
def Egress.ctlSent (e : Egress) (c : Cell) (now : Nat) : Egress :=
  let o := if c.seq = 0 then (c, 1, trainLength c.typ c.payload) else (e.ctlOpen.getD (c, c.seq, 0)).map id (fun x => (c.seq + 1, x.2))
  let e1 : Egress := { e with ctl := e.ctl.erase c, ctlOpen := if o.2.2 ≤ o.2.1 then none else some o }
  match e1.split.ctlIn.find? (fun x => x.1 == c) with
  | some x => Egress.sampled { e1 with split := { e1.split with ctlIn := e1.split.ctlIn.erase x } } (qkey 0 c.part) (now - x.2)
  | none => e1

/-- The next cell of a queue's head train has left at time `now`. -/
def Egress.cellSent (e : Egress) (k now : Nat) : Egress :=
  match e.queue k with
  | [] => e
  | t :: r =>
    let e1 := match t.stamps.find? (fun x => x.1 == t.sent) with
      | some x => e.sampled k (now - x.2)
      | none => e
    if t.sent + 1 = t.length then ({ e1 with queues := tins e1.queues k r, committed := e1.committed.erase k }).tagHead k
    else { e1 with queues := tins e1.queues k ({ t with sent := t.sent + 1 } :: r) }

/-- Sends the next cell of queue `k`'s train, counting a train that runs past the close of its queue (R365). -/
def State.sendQueued (s : State) (i k nowNs : Nat) : State :=
  match (s.egress i).queue k with
  | [] => s
  | t :: _ =>
    match t.arrived[t.sent]? with
    | none => s
    | some pl =>
      let late := !t.ranPast && !s.queueOpen i (k / 64) (k % 64) (nowNs / 32)
      let marked (e : Egress) : List QTrain := match e.queue k with | x :: r => { x with ranPast := true } :: r | [] => []
      let s0 := if late then (s.countQueue i 10 1).modEgress i (fun e => { e with queues := tins e.queues k (marked e) }) else s
      ((s0.sendSequenced i { t.head with seq := t.sent, payload := pl }).countQueue i (k / 64) 1).modEgress i
        (fun e => e.cellSent k (s.nsNow nowNs)) |>.roomCame i (s.nsNow nowNs)

/-- The queue whose next cell goes: of the trains that have begun, the oldest whose cell is there. A train that freed the port while it
awaited a cell so goes on when the cell has come (R361). -/
def Egress.readyQueue (e : Egress) : Option Nat := e.committed.find? e.ready

/-- The keys of an exchange are in place: the port is ACTIVE with link encryption on (R468). -/
def State.keysIn (s : State) (i : Nat) (tx rx : LinkKey) : State :=
  (s.modPort i (fun p => { p with keying := none, txKey := some tx, rxKey := some rx, txNext := none, rxNext := none, encOn := true, keysDue := false })).enterActive i

/-- The end that sends step 3 of the key exchange encrypts once its last cell has left (R468). -/
def State.keysSent (s : State) (i : Nat) : State :=
  let p := s.port i
  match p.state, p.keying, p.txNext, p.rxNext with
  | .keying, some k, some tx, some rx => if k.step = 3 && !(s.egress i).keysLeft then s.keysIn i tx rx else s
  | _, _, _, _ => s

/-- The last unit that a port sent. -/
def State.sentUnit (s : State) (port : Nat) (u : List Byte) : State := s.modPort port (fun x => { x with lastUnit := u })

/-- The CTL cell that goes next: of the train that holds VC 0 its next cell, which may not have come yet, else the first in order (R325,
R352, R360). -/
def Egress.nextCtl (e : Egress) : Option Cell :=
  match e.ctlOpen with
  | some o => e.ctl.find? (fun c => o.1.sameTrain c && c.seq == o.2.1)
  | none => e.ctl.head?

/-- The CTL cell that a port sends next: in KEYING only those of the key exchange. -/
def State.nextCtl (s : State) (port : Nat) : Option Cell :=
  if (s.port port).state = .keying then Egress.nextCtl { s.egress port with ctl := (s.egress port).ctl.filter (·.typ == 0x2) }
  else (s.egress port).nextCtl

/-- A replay that is due goes out with RPL set (R325, R331). -/
def State.replays (s : State) (port q : Nat) (u : ReplayUnit) : State :=
  (s.modPort port (fun x => { x with
    replay := tins x.replay q { u with replays := u.replays + 1, due := false }, lastUnit := { u.unit with rpl := true }.raw })).countPort port 28 1

/-- A CTL cell goes out as a sequenced unit (R325). -/
def State.sendCtl (s : State) (port nowNs : Nat) (c : Cell) : State :=
  ((((s.sendSequenced port c).countQueue port 0 1).modEgress port (fun x => x.ctlSent c (s.nsNow nowNs))).roomCame port (s.nsNow nowNs)).keysSent port

/-- A unit waits for a credit at this unit boundary: the next CTL cell, or the head train of a queue that is open, that its
shaper allows, and whose VC has credits for less than all of it (R343, R361). -/
def State.creditWait (s : State) (port nowNs : Nat) : Bool :=
  let cr (v : Nat) : Nat := tget 0 (s.port port).credits v
  ((s.nextCtl port).isSome && cr 0 == 0) ||
  ((s.port port).state == .active && (s.egress port).queues.any (fun q => match q.2 with
    | t :: _ => !t.started && !t.stopped && decide (cr (q.1 / 64) < t.length) &&
        s.queueOpen port (q.1 / 64) (q.1 % 64) (nowNs / 32) && s.shaperOk port (q.1 % 64)
    | [] => false))

/-- A sequenced unit of the port's queues, or an idle unit where none can go: a CTL cell first, then the scheduler's train.
Each needs a credit of its VC (R325, R326). -/
def State.sendQueues (s : State) (port nowNs : Nat) : State :=
  let has (v : Nat) : Bool := tget 0 (s.port port).credits v != 0
  match (s.nextCtl port).filter (fun _ => has 0) with
  | some c => s.sendCtl port nowNs c
  | none =>
    match (s.egress port).readyQueue.filter (fun k => (s.port port).state == .active && has (k / 64)) with
    | some k => s.sendQueued port k nowNs
    | none => s.sentUnit port (linkUnit [])

/-- What a port sends where no link message is due: replays first, then the TAG unit of a full or closed group, then a unit
of its queues (R325). -/
def State.sendUnit (s : State) (port nowNs : Nat) : State :=
  let p := s.port port
  match p.dueReplay with
  | some (q, u) => s.replays port q u
  | none =>
    if 1024 ≤ p.replay.length then s.sentUnit port (linkUnit [])
    else if p.encOn && (decide (16 ≤ p.txGroup.length) || (p.groupClose && !p.txGroup.isEmpty)) then s.sendTag port
    else s.sendQueues port nowNs

/-- A unit boundary of a port, seen in `s`, at which a unit waits for a credit is counted, whatever went out (R343). -/
def State.stalls (s : State) (port nowNs : Nat) (a : State) : State := if s.creditWait port nowNs then a.countPort port 44 1 else a

/-- UNIT_BOUNDARY: port `port` sends one unit, by the order of R325, at `nowNs` after the last heat boundary. A boundary at which a unit
waits for a credit is counted, whatever is sent (R343). -/
def execUnitBoundary (port nowNs : Nat) (s : State) : Out :=
  let s := s.atNs nowNs
  let p := s.port port
  done (if !(p.state = .active || p.state = .keying || p.state = .ident) || p.quiet then s
  else if p.state = .ident then
    (match p.linkOut with
    | u :: r => (s.modPort port (fun x => { x with linkOut := r })).sentUnit port u
    | [] => s.sentUnit port (linkUnit []))
  else s.stalls port nowNs (if p.ctlDue then
    ((s.modPort port (fun x => { x with ctlDue := false, sinceCtl := 0 })).sentUnit port p.linkCtl).countPort port 32 (min 4 p.gaps.length)
  else match p.linkOut with
  | u :: r => (s.modPort port (fun x => { x with linkOut := r })).sentUnit port u
  | [] => s.sendUnit port nowNs))

end Sys2Proof.Machine
end

