-- ==== Sys2Proof/Machine/Bellows.lean ====
section
/-! DEFINITION. Bellows (20_bellows_power.md): estimates, readings and energy, throttle reasons, the operating point, the
load-step governor, the coolant stop and the thermal trip. -/

namespace Sys2Proof.Machine

/-! ### Energy, readings and means (R480, R490, R498) -/

def State.modBellows (s : State) (f : Bellows → Bellows) : State := { s with bellows := f s.bellows }

/-- Adds energy in nJ: what is held back is set against it first (R498). -/
def Bellows.addEnergy (b : Bellows) (nj : Nat) : Bellows :=
  let h := min b.energyHeld nj
  let n := b.energyNj + (nj - h)
  { b with energyHeld := b.energyHeld - h, energy := (b.energy + n / 1000) % 2 ^ 64, energyNj := n % 1000 }

/-- The power of the measured rails in use, in W, beside their estimate (R490). -/
def Bellows.rails (b : Bellows) (est : Nat) : Nat :=
  if b.missing then est + est / 10
  else if b.divergence then max est b.reading + b.limit * 5 / 100
  else if b.reading = 0 then est
  else b.reading

/-- The VDD_CORE current in use: the last one read, scaled as the power of the measured rails in use is. -/
def Bellows.amps (b : Bellows) (est : Nat) : Nat := if b.reading = 0 then b.coreAmps else b.coreAmps * b.rails est / b.reading

/-- The mean of a list of powers. -/
def meanOf (l : List Nat) : Nat := l.foldl (· + ·) 0 / max 1 l.length

/-- The heat just ended enters the means: 64 heats at every boundary, a block after 1,024 heats (R480). -/
def Bellows.heatEnded (b : Bellows) (x : Sample) : Bellows :=
  let p := x.estimate - x.railEstimate + b.rails x.railEstimate
  let l := (p :: b.last64).take 64
  let b1 := b.addEnergy (x.estimate * 2048)
  { b1 with
    estimate := x.estimate, railEstimate := x.railEstimate, dieTemp := x.dieTemp, last64 := l, mean64 := meanOf l
    readAge := min 29 (b.readAge + 1)
    blockSum := b.blockSum + p, blockHeats := b.blockHeats + 1, blockDue := b.blockDue || decide (1024 ≤ b.blockHeats + 1) }

/-- A complete block enters the sustained mean: 477 blocks (R480). -/
def Bellows.endBlock (b : Bellows) : Bellows :=
  let l := (b.blockSum / max 1 b.blockHeats :: b.blocks).take 477
  { b with blocks := l, meanSustained := meanOf l, blockSum := 0, blockHeats := 0, blockDue := false }

/-- SUSTAINED_BLOCK_END: a block of 1,024 heats has ended (R480). -/
def execSustainedBlockEnd (s : State) : Out := done (if s.bellows.blockDue then s.modBellows Bellows.endBlock else s)

/-- A reading of `r` W beside an estimate of `e` W over the same 50 µs: the difference is energy, or energy held back (R498);
16 differences in a row of more than 12 % of the limit begin DIVERGENCE, 256 in a row of at most 6 % end it (R490). -/
def Bellows.compare (b : Bellows) (r e : Nat) : Bellows :=
  let d := (r - e) + (e - r)
  let above := if 12 * b.limit < 100 * d then min 16 (b.overRun + 1) else 0
  let below := if 100 * d ≤ 6 * b.limit then min 256 (b.underRun + 1) else 0
  let b1 := if e ≤ r then b.addEnergy ((r - e) * 50000) else { b with energyHeld := b.energyHeld + (e - r) * 50000 }
  { b1 with
    reading := r, railEstimate := e, missing := false, readAge := 0, overRun := above, underRun := below
    divergence := if b.divergence then decide (below < 256) else decide (16 ≤ above) }

/-- AVS_READING: VDD_CORE's voltage and current and the power of the stack rails, beside the estimate (R490, R498). -/
def execAvsReading (coreMv coreAmps stkWatts estimate : Nat) (s : State) : Out :=
  let s1 := s.modBellows (fun b => { b.compare (coreMv * coreAmps / 1000 + stkWatts) estimate with coreAmps := coreAmps, reportedMv := coreMv })
  done (if !s.isReady then s else if s1.bellows.divergence && !s.bellows.divergence then s1.deviceEvent 0x088 else s1)

/-- AVS_READING_MISSING: a reading has not completed 60 µs after the one before it, so that at least 29 boundaries have passed; each
is counted once (R33, R490). -/
def execAvsReadingMissing (s : State) : Out :=
  done (if !s.isReady || s.bellows.missing || s.bellows.readAge < 29 then s else s.modBellows (fun b => { b with missing := true, missingCount := satAdd 16 b.missingCount 1 }))

/-! ### Throttle reasons (R488, R496) -/

/-- The rungs of Table — Throttle rungs: CCLK step, S, stack class floor. -/
def rungStep (t : Nat) : Nat := min t 5

def rungScale (t : Nat) : Nat :=
  match t with
  | 0 => 256 | 1 => 230 | 2 => 205 | 3 => 179 | 4 => 154 | _ => 102

def rungFloor (t : Nat) : Nat := if t < 3 then 0 else if t < 5 then 1 else if t = 5 then 2 else 3

/-- The hold time of a reason in heats, in the order of Table — Throttle reasons. -/
def holdHeats (r : Nat) : Nat := if r = 3 || r = 4 || r = 5 then 256 else 64

/-- A reason has triggered within its hold time. -/
def Reason.active (x : Reason) (hold : Nat) : Bool := x.live && decide (x.quiet < hold)

/-- Counts an onset. -/
def Reason.onset (x : Reason) (heat : Nat) : Reason := { x with onsets := satAdd 16 x.onsets 1, lastOnset := heat }

/-- Adds time to a reason's counter, which saturates (R496). -/
def Reason.addNs (x : Reason) (n : Nat) : Reason := { x with ns := min (1000 * 2 ^ 64 - 1) (x.ns + n) }

/-- A reason is tested at a boundary: it triggers, or its release condition has held for one heat more, or not. -/
def Reason.test (x : Reason) (trigger release : Bool) (hold heat : Nat) : Reason :=
  if trigger then { (if x.active hold then x else x.onset heat) with live := true, quiet := 0 }
  else if x.active hold then { x with quiet := if release then x.quiet + 1 else 0 }
  else x

/-- THROTTLE_HOLD_EXPIRY: the reasons whose hold time has passed are no longer live (R488). -/
def execThrottleHoldExpiry (s : State) : Out :=
  done (s.modBellows (fun b => { b with reasons := tmap b.reasons (fun r x =>
    if decide (r < 8) && x.live && decide (holdHeats r ≤ x.quiet) then { x with live := false, quiet := 0 } else x) }))

/-- What the rung reasons test at a boundary: trigger and release condition, by reason (Table — Throttle reasons). -/
def State.reasonTests (s : State) (x : Sample) : List (Nat × Bool × Bool) :=
  let b := s.bellows
  let amps := b.amps x.railEstimate
  let hot (k : Nat) : Nat := (x.stackTemps[k]?).getD 0
  let brake := !x.pwrBrakeN || !s.pins.pwrBrakeN
  [(0, decide (98 * b.limit < 100 * b.meanSustained) && decide (b.limit < b.mean64), decide (100 * b.mean64 ≤ 95 * b.limit)),
   (1, decide (776 < b.mean64), decide (b.mean64 ≤ 740)),
   (2, decide (570 < amps), decide (amps ≤ 540)),
   (3, decide (103 ≤ x.dieTemp), decide (x.dieTemp < 100)),
   (4, (List.range 8).any (fun k => tget 0 b.thermal k == 3 && decide (95 ≤ hot k)), (List.range 8).all (fun k => decide (hot k < 90))),
   (5, decide (256 < b.stretchNs), b.stretchNs == 0 && !b.stretched),
   (7, brake, !brake)]

/-- Time that the heat just ended adds to the counters (R496). -/
def State.countReasons (s : State) : State :=
  let b := s.bellows
  let hit (r : Nat) (x : Reason) : Bool :=
    if r < 4 then decide (0 < b.rung) && x.active (holdHeats r)
    else if r = 4 then b.thermal.any (fun t => decide (0 < t.2))
    else if r = 6 then !b.held.isEmpty
    else if r = 7 then !s.pins.pwrBrakeN
    else r == 8 && s.coolantStop
  (List.range 9).foldl (fun a r => if hit r (s.reason r) then a.modReason r (fun x => x.addNs 2048) else a) s

/-- The thermal class of a stack at a boundary (THERMAL_STACK). -/
def State.thermalStack (s : State) (k t : Nat) : State :=
  let c := tget 0 s.bellows.thermal k
  let r := tget Reason.reset s.bellows.stackReason k
  let put (a : State) (cls : Nat) (x : Reason) : State :=
    a.modBellows (fun b => { b with thermal := tins b.thermal k cls, stackReason := tins b.stackReason k x })
  if 93 ≤ t then
    let s1 := put s (min 3 (c + 1)) { r with live := true, quiet := 0 }
    if r.live then s1 else (s1.modReason 4 (fun x => x.onset s.heat.count)).postBoth 1 .thermal 0 0 k
  else if !r.live then s
  else
    let q := if t < 90 then r.quiet + 1 else 0
    if 256 ≤ q then put s (c - 1) { r with live := decide (1 < c), quiet := 0 } else put s c { r with quiet := q }

/-- The reasons are tested, and T changes by at most one (R488). -/
def State.throttle (s : State) (x : Sample) : State :=
  let tests := s.reasonTests x
  let heat := s.heat.count
  let hotBefore := (s.reason 3).active 256
  let s1 := tests.foldl (fun a (t : Nat × Bool × Bool) => a.modReason t.1 (fun r =>
    if t.1 = 4 then { (r.test t.2.1 t.2.2 256 heat) with onsets := r.onsets, lastOnset := r.lastOnset }
    else r.test t.2.1 t.2.2 (holdHeats t.1) heat)) s
  let s2 := if tests.any (fun t => t.1 == 3 && t.2.1) && !hotBefore then s1.postBoth 1 .thermal 0 0 256 else s1
  let s3 := (List.range 8).foldl (fun a k => if (a.stack k).populated then a.thermalStack k ((x.stackTemps[k]?).getD 0) else a) s2
  let t := s.bellows.rung
  let up := decide (t < 6) && tests.any (fun y => y.2.1 && (y.1 != 7 || decide (t < 4)))
  let down := decide (0 < t) && !up && !tests.any (fun y => y.2.1 || (s3.reason y.1).active (holdHeats y.1))
  let n := if up then t + 1 else if down then t - 1 else t
  let s4 := s3.modBellows (fun b => { b with rung := n, stretchNs := 0 })
  if t = 0 && n ≠ 0 then s4.deviceEvent 0x088 else s4

/-! ### The operating point (R481–R487) -/

/-- The declared phases of the ACTIVE partitions. -/
def State.activePhases (s : State) : List Nat := (s.parts.parts.filter (fun p => p.2.state == .active)).map (fun p => p.2.phase)

/-- A twin member that serves no partition takes phase 7's point with no anvil enabled (M8). -/
def State.standsBy (s : State) : Bool := s.twin.state == .syncing || s.twin.state == .standby || s.twin.state == .stale

/-- The preferred point: CCLK step and stack class (R484, M8). -/
def State.preferred (s : State) : Nat × Nat :=
  let ps := s.activePhases.map s.phasePoint
  if s.standsBy then ((s.phasePoint 7).step, (s.phasePoint 7).cls)
  else if ps.isEmpty then ((s.phasePoint 0).step, (s.phasePoint 0).cls)
  else (ps.foldl (fun m p => min m p.step) 5, ps.foldl (fun m p => min m p.cls) 3)

/-- The anvils that the preferred point enables in the heat that starts (R484, M8). -/
def State.wantedAnvils (s : State) : Nat :=
  if s.coolantStop || s.standsBy then 0
  else maskOf ((List.range 64).filter (fun a =>
    let p := s.anvils.roster.entry s.heat.count a
    p != 0 && (s.part p).state == .active && bit (s.phasePoint (s.part p).phase).mask a))

/-- Starts and stops that the governor lets through at a boundary: 50 anvils at 2 A each (R491, log entry 62). -/
def changeBudget : Nat := 50

/-- The enable set follows the wanted one as far as the budget allows; the other changes are held back, each counted (R491). -/
def Bellows.govern (b : Bellows) (wanted heat : Nat) : Bellows :=
  let diff := (List.range 64).filter (fun a => bit wanted a != bit b.enable a)
  let held := (diff.drop changeBudget).map (fun a => ({ start := bit wanted a, anvil := a } : HeldChange))
  let fresh := (held.filter (fun h => !b.held.contains h)).length
  { b with
    enable := (diff.take changeBudget).foldl (fun m a => setBit m a (bit wanted a)) b.enable
    held := held
    reasons := if fresh = 0 then b.reasons
               else tmod Reason.reset b.reasons 6 (fun x => { x with onsets := satAdd 16 x.onsets fresh, lastOnset := heat }) }

/-- The voltage of a CCLK step in mV (R487). -/
def Bellows.mvOf (b : Bellows) (step : Nat) : Nat := tget 750 b.stepMv step

/-- CCLK moves by at most one step towards the target: slower at once, faster once the regulator has reported the higher
voltage (R486, R487). -/
def Bellows.moveClock (b : Bellows) (target : Nat) : Bellows :=
  if b.step < target then { b with step := b.step + 1, wanted := none, setMv := b.mvOf (b.step + 1) }
  else if target < b.step then
    (match b.wanted with
     | some k => if b.reportedMv = b.setMv then { b with step := k, wanted := none } else b
     | none => { b with wanted := some (b.step - 1), setMv := b.mvOf (b.step - 1) })
  else if b.wanted.isSome then { b with wanted := none, setMv := b.mvOf b.step }
  else b

/-- Duty 4: the means, the throttle reasons and the point in force of the heat that starts (R31, R480–R488). A voltage
adjustment falls due every 256 heats. -/
def State.dutyBellows (s : State) (x : Sample) : State :=
  let s1 := s.countReasons
  let s2 := (s1.modBellows (fun b => (if b.blockDue then b.endBlock else b).heatEnded x)).throttle x
  let p := s2.preferred
  let t := s2.bellows.rung
  let s3 := s2.modBellows (fun b => (if s2.coolantStop then b else b.moveClock (max p.1 (rungStep t))).govern s2.wantedAnvils s2.heat.count)
  let s4 := s3.modBellows (fun b => { b with
    scale := rungScale t
    classes := (List.range 8).map (fun k => (k, max (max p.2 (rungFloor t)) (tget 0 b.thermal k)))
    adjustDue := b.adjustDue || b.cycle == 255, cycle := (b.cycle + 1) % 256 })
  { s4 with pins := { s4.pins with pwrBrakeN := x.pwrBrakeN } }

/-- VOLTAGE_ADJUST: each step's voltage moves by 5 mV up or down, within 0.65–0.85 V (R487). -/
def execVoltageAdjust (up down : Nat) (s : State) : Out :=
  let move (b : Bellows) (k : Nat) : Nat :=
    if bit up k then min 850 (b.mvOf k + 5) else if bit down k then max 650 (b.mvOf k - 5) else b.mvOf k
  done (if !s.bellows.adjustDue then s
  else s.modBellows (fun b =>
    let b1 := { b with stepMv := (List.range 6).map (fun k => (k, move b k)), adjustDue := false }
    { b1 with setMv := b1.mvOf (b1.wanted.getD b1.step) }))

/-- REGULATOR_VOLTAGE_REPORT: the voltage that the regulator has reached (R487). -/
def execRegulatorVoltageReport (mv : Nat) (s : State) : Out := done (s.modBellows (fun b => { b with reportedMv := mv }))

/-- DROOP_DETECT: every CCLK period is stretched to twice its length (R489). -/
def execDroopDetect (s : State) : Out := done (if s.isReady then s.modBellows (fun b => { b with stretched := true }) else s)

/-- DROOP_STRETCH_END: no droop for 64 cycles; the stretch lasted `ns` (R489, R496). -/
def execDroopStretchEnd (ns : Nat) (s : State) : Out :=
  done (if !s.bellows.stretched then s
  else (s.modBellows (fun b => { b with stretched := false, stretchNs := b.stretchNs + ns })).modReason 5 (fun x => x.addNs ns))

/-- LOAD_STEP_SLOT: the first change that the governor holds back is made (R491). How long it was held in this heat is open. -/
def execLoadStepSlot (s : State) : Out :=
  done (match s.bellows.held with
  | [] => s
  | h :: rest =>
    let s1 := (s.modBellows (fun b => { b with held := rest, enable := setBit b.enable h.anvil h.start })).drawn
    (s1.modReason 6 (fun x => x.addNs (Config.freeValue s.free % 2048))).followRoster h.anvil)

/-- PWR_BRAKE_N_LOW: the pin is sampled low (R492). -/
def execPwrBrakeNLow (s : State) : Out :=
  done (if s.pins.pwrok then { s with pins := { s.pins with pwrBrakeN := false } } else s)

/-! ### The coolant stop and the thermal trip (R493–R495) -/

/-- The stop begins at the next boundary, or at the first one after a boot that has passed step 3 (R540). -/
def State.coolantLow (s : State) : State :=
  if 4 ≤ s.boot.step && !s.coolantStop then s.modBellows (fun b => { b with coolantNext := true }) else s

/-- COOLANT_OK_LOW (R493, R540). -/
def execCoolantOkLow (s : State) : Out :=
  done (({ s with pins := { s.pins with coolantOk := false } } : State).coolantLow)

/-- THERMTRIP: THERMTRIP_N is asserted until PWROK falls, and the stop begins as if COOLANT_OK had fallen (R495). -/
def execThermtrip (s : State) : Out :=
  done (if s.pins.pwrok then ({ s with pins := { s.pins with tripped := true } } : State).coolantLow else s)

/-- The coolant stop at a boundary: C, or one boundary more (R493). -/
def State.coolantTick (s : State) : State :=
  match s.bellows.coolant with
  | some n => s.modBellows (fun b => { b with coolant := some (n + 1), cclkFalls := decide (b.step < 5) })
  | none =>
    if !s.bellows.coolantNext then s
    else
      let s1 := (s.modBellows (fun b => { b with coolant := some 0, coolantNext := false })).modReason 8 (fun x => { x.onset s.heat.count with live := true })
      (s1.deviceEvent 0x088).postBoth 3 .coolant 0 0 0

/-- COOLANT_STOP_CCLK_STEP: one step in each heat from C + 1, down to 1.0 GHz (R493). -/
def execCoolantStopCclkStep (s : State) : Out :=
  done (if s.coolantStop && s.bellows.cclkFalls then
    s.modBellows (fun b => { b with step := b.step + 1, cclkFalls := false, wanted := none, setMv := b.mvOf (b.step + 1) })
  else s)

/-- The link of a head is lost (R392). -/
def State.headLost (s : State) (h : Nat) : State :=
  if (s.head h).link = .active then
    ((s.headReset h).modHead h (fun x => { x with link := .down, width := 0, rate := 0, flit := false })).countHead h 30 1
  else s.modHead h (fun x => { x with link := if x.perst then .perst else .down })

/-- Every fabric port that is up or training goes DOWN, and both heads lose their link. -/
def State.linksStopped (s : State) : State :=
  [0, 1].foldl State.headLost ((List.range 24).foldl (fun a i =>
    if (a.port i).state = .disabled || (a.port i).state = .down then a else a.goDown i) s)

/-- COOLANT_STOP_LINK_IDLE: at C + 6 fabric ports and CXL links go to electrical idle (R493). -/
def execCoolantStopLinkIdle (s : State) : Out :=
  done (if !s.linksIdle then s else s.linksStopped)

/-- COOLANT_STOP_SELF_REFRESH: at C + 7 every unit enters self-refresh, its postponed slots issued first (R128, R493). -/
def execCoolantStopSelfRefresh (s : State) : Out :=
  done (if !s.bellows.coolant.any (fun n => decide (7 ≤ n)) then s
  else { s with dram := { s.dram with units := tmap s.dram.units (fun _ u =>
    if u.state = .absent then u else { u with
      power := .selfRefresh, postponed := 0, refreshing := false, scrubbed := none }) } })

end Sys2Proof.Machine
end

