-- ==== Sys2Proof/Machine/Delivery.lean ====
section
/-! DEFINITION. The deliveries of Starter (R449, R450). -/

namespace Sys2Proof.Machine

/-- The EVENT cell of a delivery of target `t` with winner `k` (Table — Event cell payload). -/
def State.eventCell (s : State) (t k : Nat) : Train :=
  let x := s.target t
  oneCell 0x5 0 x.dest (s.endpoint 35) (if 0x40 ≤ x.binding then 0 else x.binding) 0
    ([1, BitVec.ofNat 8 t] ++ leBytes 2 k ++ [BitVec.ofNat 8 x.firings, 0, 0, 0] ++ leBytes 6 s.heat.count)

/-- What a delivery leaves in its target: unarmed, IDLE and the firings cleared, its heat noted (R448, R449). -/
def Target.delivered (x : Target) (heat : Nat) : Target :=
  { x with armed := false, idle := false, since := some 0, lastHeat := heat, firings := 0 }

/-- DELIVERY: a target whose delivery is due sends it by its path; a cell without a usable route is lost, and counted in UNROUTED as well
(R348, R357, R450). -/
def execDelivery (target : Nat) (s : State) : Out :=
  done (match s.winner target with
  | none => s
  | some k =>
    if !s.deliveryDue target then s
    else
      let s1 := s.modTarget target (fun x => x.delivered s.heat.count)
      match (s.target target).delivery with
      | 0 =>
        let cell := s.eventCell target k
        let s2 := s1.send cell
        if (s1.chooseOut cell.dst cell.src cell.tag).isSome then s2 else s2.modTarget target (fun x => { x with lost := satAdd 16 x.lost 1 })
      | 1 => s1.msix 0 target
      | _ => s1.msix 1 target)

end Sys2Proof.Machine
end

