-- ==== Sys2Proof/Machine/LinkCrypt.lean ====
section
/-! DEFINITION. Link encryption and link key establishment (13_byhiuz_links.md, R339–R342; 19_security.md,
R466–R469), and the IDENT that starts them. -/

namespace Sys2Proof.Machine

/-! ### Fresh randomness (R463) -/

/-- `n` fresh bytes of the DRBG, and the state after the draw. -/
def State.draw (s : State) (n : Nat) : List Byte × State :=
  (fit n (Config.drbg s.sec.draws n), { s with sec := { s.sec with draws := s.sec.draws + 1 } })

/-- The DRBG is reseeded, as it is before each link key is generated (R463). -/
def State.reseeded (s : State) : State := { s with sec := { s.sec with reseeds := s.sec.reseeds + 1 } }

/-! ### Messages (R466) -/

/-- The KEYX trains that carry a message of a KIND: 4,064 bytes of it to a train. -/
def State.keyTrains (s : State) (i kind : Nat) (msg : List Byte) : List Cell :=
  let pieces := chunksN 4064 (msg.length / 4064 + 1) msg
  let dst := (((s.port i).partner).map (·.chip)).getD 0
  pieces.zipIdx.flatMap (fun (p : List Byte × Nat) =>
    let body := cells32 p.1
    let hd : List Byte := [BitVec.ofNat 8 kind, BitVec.ofNat 8 (body.length + 1)] ++ leBytes 2 msg.length ++ leBytes 4 (4064 * p.2)
    ({ typ := 0x2, cls := 0, dst := dst, src := s.endpoint 0, part := 0, tag := 0, cells := fit 32 hd :: body } : Train).toCells)

/-- Queues a key exchange message in the CTL order of its port (R360). -/
def State.sendKey (s : State) (i kind : Nat) (msg : List Byte) : State :=
  ((s.keyTrains i kind msg).foldl (fun a c => a.comeUp i 24 (Config.freeValue s.free) c) s).drawn

/-- The LINK_ID of the partner. -/
def Port.peerId (p : Port) : Nat := (p.partner.map (·.linkId)).getD 0

/-- This end is A: the end with the higher LINK_ID (R466). -/
def Port.isA (p : Port) : Bool := decide (p.peerId < p.linkId)

/-- The device can key a link: an identity that has not failed, and a DRBG that runs (R459, R463). -/
def State.canKey (s : State) : Bool := !s.sec.identityFailed && !s.sec.drbgStopped

/-- Body of step 1. -/
def stepOne (nonce ek pk : List Byte) : List Byte := nonce ++ ek ++ pk

/-- T2 of R466. -/
def tTwo (one nonceB ct pkB : List Byte) (idA idB : Nat) : List Byte :=
  sha256 (one ++ nonceB ++ ct ++ pkB ++ leBytes 8 idA ++ leBytes 8 idB)

/-- The partner's key belongs to its LINK_ID (R467). -/
def Port.keyBelongs (p : Port) (pk : List Byte) : Bool := p.partner.any (fun x => linkIdOf (sha256 pk) x.port == x.linkId)

/-- The 104 bytes of R468 from the input key material, with the direction keys as this end sees them: transmit, receive,
and the chaining secret. -/
def linkKeys (ikm nonceA nonceB : List Byte) (idA idB : Nat) (weAreA epoch : Bool) : LinkKey × LinkKey × List Byte :=
  let k := hkdfExpand (hkdfExtract (nonceA ++ nonceB) ikm) (leBytes 8 idA ++ leBytes 8 idB) 104
  let ab : LinkKey := { key := k.take 32, epoch := epoch, salt := beVal ((k.drop 32).take 4), counter := 0 }
  let ba : LinkKey := { key := (k.drop 36).take 32, epoch := epoch, salt := beVal ((k.drop 68).take 4), counter := 0 }
  (if weAreA then ab else ba, if weAreA then ba else ab, (k.drop 72).take 32)

/-- The end that sends step 1 of an exchange sends it. -/
def State.sendStepOne (s : State) (i : Nat) (rekey : Bool) : State :=
  let n := s.reseeded.draw 32
  let k := n.2.draw 64
  let ek := kemKey k.1
  let one := if rekey then n.1 ++ ek else stepOne n.1 ek s.sec.publicKey
  (k.2.modPort i (fun p => { p with rekeyWanted := false
                                    keying := some { step := 1, rekey := rekey, initiator := true, secret := k.1, nonce := n.1,
                                                     transcript := one, peerKey := [], heats := 0 } })).sendKey i (if rekey then 0x35 else 0x31) one

/-- A port enters KEYING: A sends step 1 (R466). -/
def State.enterKeying (s : State) (i : Nat) : State :=
  let s1 := s.modPort i (fun p => { p with
    state := .keying, stateHeats := 0
    keying := some { step := 0, rekey := false, initiator := false, secret := [], nonce := [], transcript := [], peerKey := [], heats := 0 } })
  if !s.canKey then s1.goDown i
  else if (s.port i).isA then s1.sendStepOne i false else s1

/-- IDENT: the partner's IDENT is checked; the port goes to ACTIVE, to KEYING, or DOWN (R320, R321, R345). -/
def execIdent (port : Nat) (payload : List Byte) (s : State) : Out :=
  let x := identOf payload
  done (if (s.port port).state ≠ .ident then s
  else if s.refusesLink port x then s.goDown port
  else
    let s1 := (s.modPort port (fun p => { p with partner := some x })).checkWiring port
    if (s.port port).wantsEnc x then s1.enterKeying port else s1.enterActive port)

/-- B answers step 1: it encapsulates to A's fresh key, derives the link keys and sends step 2, signed (R466, R467). -/
def State.answerStepOne (s : State) (port : Nat) (m : KeyMsg) : State :=
  let p := s.port port
  let n := s.reseeded.draw 32
  let r := n.2.draw 64
  let c := kemSeal m.kem r.1
  let t2 := tTwo (stepOne m.nonce m.kem m.pk) n.1 c.1 s.sec.publicKey p.peerId p.linkId
  let ks := linkKeys c.2 m.nonce n.1 p.peerId p.linkId false false
  let body := n.1 ++ c.1 ++ s.sec.publicKey ++ identitySign s.sec.identitySecret t2
  (r.2.modPort port (fun x => { x with
    txNext := some ks.1, rxNext := some ks.2.1, chain := ks.2.2
    keying := some { step := 2, rekey := false, initiator := false, secret := c.2, nonce := n.1, transcript := t2, peerKey := m.pk, heats := 0 } })).sendKey port 0x32 body

/-- LINK_KEY_EXCHANGE_1: B receives step 1, encapsulates, and answers with step 2 (R466, R467). -/
def execLinkKeyExchange1 (port : Nat) (m : KeyMsg) (s : State) : Out :=
  let p := s.port port
  done (if !(p.state = .keying && !p.isA && p.keying.any (fun k => k.step == 0)) then s
  else if !p.keyBelongs m.pk || !s.canKey then s.goDown port
  else s.answerStepOne port m)

/-- What A signs and B has signed in step 2 (R467). -/
def State.stepTwoText (s : State) (port : Nat) (k : Keying) (m : KeyMsg) : List Byte :=
  tTwo k.transcript m.nonce m.kem m.pk (s.port port).linkId (s.port port).peerId

/-- A has checked step 2: it derives the link keys and sends step 3, signed (R466–R468). -/
def State.answerStepTwo (s : State) (port : Nat) (k : Keying) (m : KeyMsg) : State :=
  let p := s.port port
  let ks := linkKeys (kemOpen k.secret m.kem) k.nonce m.nonce p.linkId p.peerId true false
  (s.modPort port (fun x => { x with
    txNext := some ks.1, rxNext := some ks.2.1, chain := ks.2.2, keying := some { k with step := 3 } })).sendKey port 0x33
      (identitySign s.sec.identitySecret (sha256 (s.stepTwoText port k m ++ [1])))

/-- LINK_KEY_EXCHANGE_2: A receives step 2, checks it, derives the keys and sends step 3 (R466–R468). -/
def execLinkKeyExchange2 (port : Nat) (m : KeyMsg) (s : State) : Out :=
  let p := s.port port
  done (match p.state, p.keying with
  | .keying, some k =>
    if !(k.initiator && k.step == 1) then s
    else if !p.keyBelongs m.pk || !Config.slhVerify m.pk (s.stepTwoText port k m) m.sig then s.goDown port
    else s.answerStepTwo port k m
  | _, _ => s)

/-- LINK_KEY_EXCHANGE_3: B receives step 3, checks A's signature and installs the keys (R467, R468). -/
def execLinkKeyExchange3 (port : Nat) (m : KeyMsg) (s : State) : Out :=
  let p := s.port port
  done (match p.state, p.keying, p.txNext, p.rxNext with
  | .keying, some k, some tx, some rx =>
    if k.step ≠ 2 then s
    else if !Config.slhVerify k.peerKey (sha256 (k.transcript ++ [1])) m.sig then s.goDown port
    else s.keysIn port tx rx
  | _, _, _, _ => s)

/-- KEYING_TIMEOUT: KEYING has not ended 4,096 heats after it began (R467). -/
def execKeyingTimeout (port : Nat) (s : State) : Out :=
  done (if (s.port port).state = .keying && decide (4096 ≤ (s.port port).stateHeats) then s.goDown port else s)

/-- A rekey can begin on a port: its link is encrypted, no exchange is under way, and its keys have changed since the last one. -/
def State.mayRekey (s : State) (port : Nat) : Bool :=
  let p := s.port port
  p.state == .active && p.encOn && p.keying.isNone && p.txNext.isNone && p.rxNext.isNone && s.canKey

/-- The rekeys that are wanted begin: those that had to wait, and those of keys that have served 2³¹ groups (R342). -/
def State.rekeyTick (s : State) : State :=
  (List.range 24).foldl (fun a i =>
    if (a.mayRekey i) && ((a.port i).rekeyWanted || (a.port i).txKey.any (fun k => decide (2 ^ 31 ≤ k.counter))) then a.sendStepOne i true else a) s

/-- REKEY_TRIGGER: after 2³¹ groups under one key, or at the security block's request, a rekey starts (R342, R469). The spec gives no
condition for that request: it comes as this command, and one that finds an exchange under way is remembered (log entry 81). -/
def execRekeyTrigger (port : Nat) (s : State) : Out :=
  let p := s.port port
  done (if p.state = .active && p.encOn then
    (if s.mayRekey port then s.sendStepOne port true else s.modPort port (fun x => { x with rekeyWanted := true }))
  else s)

/-- The next keys of a rekey: the other epoch bit; the chaining secret joins the new one (R342, R469). -/
def Port.nextKeys (p : Port) (k nonceA nonceB : List Byte) (weAreA : Bool) : LinkKey × LinkKey × List Byte :=
  linkKeys (k ++ p.chain) nonceA nonceB (if weAreA then p.linkId else p.peerId) (if weAreA then p.peerId else p.linkId) weAreA
    (!(p.txKey.any (·.epoch)))

/-- The partner's step 1 of a rekey is answered under the old keys; the next keys are ready (R469). -/
def State.answerRekey (s : State) (port : Nat) (m : KeyMsg) : State :=
  let n := s.reseeded.draw 32
  let r := n.2.draw 64
  let c := kemSeal m.kem r.1
  let ks := (s.port port).nextKeys c.2 m.nonce n.1 false
  (r.2.modPort port (fun x => { x with txNext := some ks.1, rxNext := some ks.2.1, chain := ks.2.2, keying := none })).sendKey port 0x36 (n.1 ++ c.1)

/-- REKEY_EXCHANGE_1: the partner's step 1 is answered under the old keys, and the next keys are ready (R469). Where both
ends have begun one, that of the end with the higher LINK_ID goes on. -/
def execRekeyExchange1 (port : Nat) (m : KeyMsg) (s : State) : Out :=
  let p := s.port port
  done (if !(p.state = .active && p.encOn && s.canKey) || (p.keying.isSome && p.isA) then s else s.answerRekey port m)

/-- REKEY_EXCHANGE_2: the end that began the rekey derives the next keys (R469). -/
def execRekeyExchange2 (port : Nat) (m : KeyMsg) (s : State) : Out :=
  let p := s.port port
  done (match p.state, p.keying with
  | .active, some k =>
    if !(k.rekey && k.step == 1) then s
    else
      let ks := p.nextKeys (kemOpen k.secret m.kem) k.nonce m.nonce true
      s.modPort port (fun x => { x with txNext := some ks.1, rxNext := some ks.2.1, chain := ks.2.2, keying := none })
  | _, _ => s)

/-! ### Groups (R339–R341) -/

/-- GROUP_CLOSE_TIMER: 1/64 heat after a group's first unit, its TAG unit is due (R339). -/
def execGroupCloseTimer (port : Nat) (s : State) : Out :=
  done (if (s.port port).encOn && !(s.port port).txGroup.isEmpty then s.modPort port (fun p => { p with groupClose := true }) else s)

/-- The key that opens groups of an epoch: the current one, or the next one (R340, R342). -/
def Port.epochKey (p : Port) (epoch : Bool) : Option LinkKey :=
  (p.rxKey.filter (fun k => k.epoch == epoch)).orElse (fun _ => p.rxNext.filter (fun k => k.epoch == epoch))

/-- The epoch bit and the group counter of a TAG unit. -/
def tagEpoch (c : Cell) : Bool := bit (le c.payload 25 1) 0
def tagCounter (c : Cell) : Nat := le c.payload 16 8

/-- The group whose TAG unit stands `n` after E, where it is complete, not verified yet, and a key of its epoch is at hand:
its units in order, and the TAG unit's cell. Groups of the next epoch verify at E alone, since the old key goes then. -/
def Port.groupAt (p : Port) (n : Nat) : Option (List LinkUnit × Cell) :=
  let q (d : Nat) : Nat := (p.rxE + d) % 4096
  match tfind p.reorder (q n) with
  | none => none
  | some t =>
    let c := cellOf t.body
    let m := le c.payload 24 1 % 32
    let us := (List.range m).filterMap (fun d => tfind p.reorder (q (n - m + d)))
    if t.vc = 0 && c.typ = 0x1 && c.cls = 0 && c.seq = 0 && 1 ≤ m && m ≤ 16 && m ≤ n && us.length = m && (tfind p.opened (q n)).isNone &&
      (p.epochKey (tagEpoch c)).isSome && (m = n || p.rxKey.any (fun k => k.epoch == tagEpoch c)) then some (us ++ [t], c) else none

/-- The first group that may be verified. -/
def Port.heldGroup (p : Port) : Option (List LinkUnit × Cell) := (List.range 512).findSome? p.groupAt

/-- The text of a held group that its TAG unit opens, under the key of its epoch bit (R340). -/
def Port.opens (p : Port) (us : List LinkUnit) (c : Cell) : Option (List Byte) :=
  let data := us.dropLast
  (p.epochKey (tagEpoch c)).bind (fun k =>
    gcmOpen k.key ({ k with counter := tagCounter c }).nonce (groupAad data) (groupText data) (c.payload.take 16))

/-- A group that verifies: its cells may be reported, which the next LINK_CTL does (R327), and are delivered as their turn comes; the first one under the next key
makes it the current one (R340, R342). -/
def State.groupVerified (s : State) (port : Nat) (us : List LinkUnit) (c : Cell) (plain : List Byte) : State :=
  let cells := us.dropLast.zipIdx.map (fun (u : LinkUnit × Nat) => (u.1.lseq, (plain.drop (40 * u.2)).take 40)) ++
    (us.getLast?.toList.map (fun t => (t.lseq, t.body)))
  let s1 := s.modPort port (fun x => { x with
    opened := cells.foldl (fun o y => tins o y.1 y.2) x.opened
    sinceCtl := max x.sinceCtl cells.length
    groupFails := tdel x.groupFails (2 * tagCounter c + ofBool (tagEpoch c)) })
  let s2 := if (s.port port).rxKey.any (fun k => k.epoch == tagEpoch c) then s1
    else s1.modPort port (fun x => { x with rxKey := x.rxNext, rxNext := none })
  s2.deliverRun port 513

/-- A group that fails is dropped and reported unit by unit; one that fails again takes the port DOWN (R341). -/
def State.groupFailed (s : State) (port : Nat) (us : List LinkUnit) (c : Cell) : State :=
  let g := 2 * tagCounter c + ofBool (tagEpoch c)
  let s1 := (s.countPort port 56 1).modPort port (fun x => { x with
    groupFails := tmod 0 x.groupFails g (· + 1), ctlDue := true
    reorder := x.reorder.filter (fun y => !(us.dropLast.map (·.lseq)).contains y.1) })
  if 2 ≤ tget 0 (s1.port port).groupFails g then (s1.deviceEvent 0x081).goDown port else s1

/-- TAG_UNIT: a TAG unit has completed a group: it is decrypted under the key of its epoch bit and verified. A group that
fails is reported unit by unit; one that fails again takes the port DOWN (R340–R342). -/
def execTagUnit (port : Nat) (s : State) : Out :=
  let p := s.port port
  done (if !p.encOn then s
  else match p.heldGroup with
  | none => s
  | some (us, c) => match p.opens us c with
    | some plain => s.groupVerified port us c plain
    | none => s.groupFailed port us c)

end Sys2Proof.Machine
end

