-- ==== Sys2Proof/Machine/TongsCmd.lean ====
section
/-! DEFINITION. The commands of the tongs (R257–R287): doorbells and posts, the start of each type of descriptor, walks,
the commit of a stroke, responses to write trains, and what resets, invalidations and quenches do to a context. -/

namespace Sys2Proof.Machine

/-! ### Doorbells and posts (R228, R257, R258) -/

/-- A new tail for a context (R257, R258): its engine fetches and translates the new descriptors (R276); a doorbell has READ_IDX read
again while a descriptor is held back (R260). -/
def State.ring (s : State) (c tail : Nat) : State :=
  let x := s.ctx c
  if x.entries < (tail + 2 ^ 32 - x.subHead) % 2 ^ 32 then s.noteTongs c 18 1
  else
    let s1 := s.modCtx c (fun y => { y with subTail := tail % 2 ^ 32 })
    (if x.held then s1.reread c else s1).wake c

/-- The partition whose range holds a context (R254). -/
def State.holdsCtx (s : State) (p c : Nat) : Bool :=
  p != 0 && decide ((s.part p).ctxFirst ≤ c) && decide (c < (s.part p).ctxFirst + (s.part p).ctxCount)

/-- The context that a TREQ posts to: s_B[13:0]. -/
def State.treqCtx (s : State) (o : OpA) : Nat := ((s.anvil o.anvil).regs.rs o.b).toNat % 16384

/-- The slot that a TREQ writes. -/
def State.treqAccess (s : State) (o : OpA) : Access :=
  let x := s.ctx (s.treqCtx o)
  { part := x.part, psa := x.slotPsa x.subTail, len := 64, write := true }

/-- A TREQ completes with a status in s_D. -/
def State.treqAnswers (s : State) (o : OpA) (st : Nat) : State := s.retire o.anvil (fun r => r.ws o.d (BitVec.ofNat 64 st))

/-- The post of a TREQ: the descriptor enters the ring and SUB_TAIL advances; a store that the extent map refuses answers
its status (R228). -/
def State.treqPosts (s : State) (o : OpA) : State :=
  let c := s.treqCtx o
  let x := s.ctx c
  let r := s.pStore 3 x.part (x.slotPsa x.subTail) (bread (s.anvil o.anvil).sram ((s.anvil o.anvil).regs.rs o.a).toNat 64) false
  if r.1 = stOk then ((r.2.ctxUses c [s.treqAccess o]).ring c ((x.subTail + 1) % 2 ^ 32)).treqAnswers o stOk else s.treqAnswers o r.1

/-- TREQ: posts the 64-byte descriptor at SRAM s_A to context s_B[13:0]; s_D ← the status of the post (R228). -/
def execTreq (o : OpA) (s : State) : Out :=
  let v := s.anvil o.anvil
  let a := (v.regs.rs o.a).toNat
  let c := s.treqCtx o
  let x := s.ctx c
  let word := o.word 0x20 0x00
  done (if s.issues o.anvil && s.holdsCtx v.holder c && x.state ≠ .free && !s.allReady [s.treqAccess o] then s.prepareAll 3 [s.treqAccess o]
  else s.instr o.anvil (
    if !sramOk a 64 then .error (sramRange word a)
    else if !s.holdsCtx v.holder c then .error { code := fTongs, user := 0, word := word, addr := 0, status := 0 }
    else if x.state = .free || x.resetting then .ok (s.treqAnswers o stInvalid)
    else if x.entries < (x.subTail + 1 + 2 ^ 32 - x.subHead) % 2 ^ 32 then .ok (s.treqAnswers o stBusy)
    else .ok (s.treqPosts o)))

/-! ### The next descriptor of a context starts -/

/-- COPY: moves LEN bytes. -/
def execCopy (ctx : Nat) (s : State) : Out := done (s.startDesc ctx (· == 1))

/-- TILE: moves ROWS rows of ROW_BYTES. -/
def execTile (ctx : Nat) (s : State) : Out := done (s.startDesc ctx (· == 2))

/-- GATHER: reads indexed elements. -/
def execGather (ctx : Nat) (s : State) : Out := done (s.startDesc ctx (· == 3))

/-- SCATTER: writes indexed elements. -/
def execScatter (ctx : Nat) (s : State) : Out := done (s.startDesc ctx (· == 4))

/-- FILL: writes a pattern. -/
def execFill (ctx : Nat) (s : State) : Out := done (s.startDesc ctx (· == 5))

/-- CAST: converts elements. -/
def execCast (ctx : Nat) (s : State) : Out := done (s.startDesc ctx (· == 6))

/-- SEAL: hashes leaves, and copies them with COPY. -/
def execSeal (ctx : Nat) (s : State) : Out := done (s.startDesc ctx (· == 7))

/-- The context's next stroke is a PUSH train that can go now. -/
def State.pushGoes (s : State) (c : Nat) : Bool :=
  ((s.ctx c).started.find? (fun d => d.status.isNone && decide (d.issued < d.total))).any (fun d => dType d.eff == tPush) &&
    decide (s.inFlight (s.ctx c).engine < 64) && (s.issueStroke c).2

/-- PUSH: sends bytes to a fabric endpoint; a queued push of a melt starts first. A PUSH under way whose train waited for its source goes
on before another starts. -/
def execPush (ctx : Nat) (s : State) : Out :=
  done (if s.pushGoes ctx then (s.pump ctx)
  else s.startDesc ctx (· == 8))

/-- LOOP: repeats the descriptors of its body. -/
def execLoop (ctx : Nat) (s : State) : Out :=
  -- a LOOP under way goes on first
  done (if (s.ctx ctx).started.any Desc.entering then (s.pump ctx)
  else s.startDesc ctx (· == 9))

/-- WAIT: holds the descriptors after it. -/
def execWait (ctx : Nat) (s : State) : Out := done (s.startDesc ctx (· == 10))

/-- SIGNAL: sets a flag, writes a value. -/
def execSignal (ctx : Nat) (s : State) : Out := done (s.startDesc ctx (· == 11))

/-- RESERVED_DESCRIPTOR_TYPE: a descriptor of a reserved TYPE completes with INVALID (R264). -/
def execReservedDescriptorType (ctx : Nat) (s : State) : Out := done (s.startDesc ctx (fun t => t == 0 || decide (11 < t)))

/-! ### WAIT (R271) -/

/-- The condition of a WAIT is met now. An anvil that waits for the flag clears it first, then the lowest context. -/
def State.waitMet (s : State) (c : Nat) (e : List Byte) : Bool :=
  let p := (s.ctx c).part
  let v := dWaitValue e
  match dWaitKind e with
  | 0 => heatReached s.heat.count (v % 2 ^ 48)
  | 1 => (tfind (s.melt (v % 4096)).windows (v / 2 ^ 16 % 2 ^ 32)).any (fun w => w.place == .finalised)
  | _ =>
    let f := v % 64
    let mine (i : Nat) : Bool := (s.ctx i).part == p && (s.ctx i).state != .faulted && (s.ctx i).started.any (fun d => d.waiting && dWaitKind d.eff == 2 &&
      dWaitValue d.eff % 64 == f && bit (le d.eff 9 1) 0)
    s.flag p f && (!bit (le e 9 1) 0 || ((List.range 64).all (fun a => !s.testsFlag p f a) && (s.tongs.ctxs.all (fun x => decide (c ≤ x.1) || !mine x.1))))

/-- A WAIT ends: its flag is cleared with CLEAR, and a WAITING context becomes READY (R271). -/
def State.waitEnds (s : State) (ctx : Nat) (d : Desc) : State :=
  let x := s.ctx ctx
  let s1 := if dWaitKind d.eff = 2 && bit (le d.eff 9 1) 0 then s.setFlag x.part (dWaitValue d.eff) false else s
  let s2 := s1.modDesc ctx d.serial Desc.ended
  let s3 := if x.state = .waiting then (s2.modCtx ctx (fun y => { y with state := .ready })).placeAhead else s2
  s3.pump ctx

/-- WAIT_MET: the WAIT ends, its flag is cleared with CLEAR, and a WAITING context becomes READY. -/
def execWaitMet (ctx : Nat) (s : State) : Out :=
  let x := s.ctx ctx
  done (match x.started.find? Desc.waiting with
  | none => s
  | some d =>
    if !s.waitMet ctx d.eff || x.state = .faulted then s
    else s.waitEnds ctx d)

/-! ### Walks (R277, R280) -/

/-- The descriptor that a walk serves, at the body descriptor it serves. -/
def State.walkFor (s : State) (w : Walk) : Option Desc :=
  let x := s.ctx w.ctx
  ((x.started ++ x.ahead).find? (fun d => d.serial == w.serial && d.status.isNone)).map (fun d => { d with rep := w.rep, body := w.body })

/-- A running walk has read its entries: the leaf enters the caches and the ticket, and the context goes on, or the context faults
(R277, R278, R280). -/
def State.walkDone (s : State) (w : Walk) : State :=
  let gone (y : Walk) : Bool := y.ctx == w.ctx && y.tva == w.tva
  let e := s.walk w.ctx w.tva
  let s1 := State.ctxUses { s with tongs := { s.tongs with walks := s.tongs.walks.filter (fun y => !gone y) } } w.ctx e.reads
  match e with
  | .wait a => s.prepareAll 3 [a]
  | .fault code level _ =>
    (match s.walkFor w with
    | some d => s1.ctxFault w.ctx code level w.tva w.write d
    | none => s1).slotFreed w.forge
  | .leaf psa size r wr tables _ =>
    let l : Leaf := { asid := (s.ctx w.ctx).asid, tva := w.tva / size * size, size := size, psa := psa, r := r, w := wr }
    let k := ticketOf w.rep w.body
    (((s1.keepLeaf w.ctx w.tva l tables).modDesc w.ctx w.serial (fun d => { d with tickets := tins d.tickets k (l :: tget [] d.tickets k) })).pump w.ctx).slotFreed w.forge

/-- TRANSLATION_WALK_COMPLETE: a running walk reads its entries: the leaf enters the ticket and the caches, or the context
faults. -/
def execTranslationWalkComplete (ctx : Nat) (tva : Nat) (s : State) : Out :=
  done (match s.tongs.walks.find? (fun w => w.ctx == ctx && w.tva / 65536 == tva / 65536) with
  | none => s
  | some w => s.walkDone w)

/-! ### The commit of a stroke (R260, R265–R268, R281, R287) -/

/-- The accesses of a stroke in flight. -/
def Stroke.accesses (p : Nat) (k : Stroke) : List Access :=
  k.src.map (fun q => { part := p, psa := q.1, len := q.2, write := false }) ++ k.dst.map (fun q => { part := p, psa := q.1, len := q.2, write := true })

/-- The parts of a piece in one 64-byte location each: PSA and length. -/
def locationParts (q : Nat × Nat) : List (Nat × Nat) :=
  (List.range ((q.1 + q.2 - 1) / 64 + 1 - q.1 / 64)).filterMap (fun i =>
    let lo := max q.1 ((q.1 / 64 + i) * 64)
    let hi := min (q.1 + q.2) ((q.1 / 64 + i + 1) * 64)
    if lo < hi then some (lo, hi - lo) else none)

/-- Bytes of pieces, each with whether it reads as poison (R281). -/
def State.readMarked (s : State) (p : Nat) (l : List (Nat × Nat)) : List (Byte × Bool) :=
  l.flatMap (fun q =>
    let r := s.pRead p q.1 q.2
    if !r.2 then r.1.map (fun b => (b, false))
    else (locationParts q).flatMap (fun k => let y := s.pRead p k.1 k.2; y.1.map (fun b => (b, y.2))))

/-- One piece that a context writes. With a placement target, a whole line of a SHARED_COHERENT extent is a WR_PLACE to it (R308). -/
def State.ctxWrite (s : State) (c psa : Nat) (data : List Byte) (poison : Bool) : State :=
  let p := (s.ctx c).part
  let d := s.dpaOf p psa
  match (s.ctx c).place with
  | none => s.pWrite 3 p psa data poison
  | some g =>
    if data.length = 64 && psa % 64 = 0 && !(s.cohLines d 64).isEmpty then
      s.cohArrive { req := .wrPlace, src := s.endpoint 34, member := 0xFFFF, part := p, tag := 0, psa := psa, line := d / 64, data := data
                    poison := poison, mask := 0, peer := g, port := 0xFFFF, waiter := 0 }
    else s.pWrite 3 p psa data poison

/-- Writes bytes over the pieces of a destination of a context; a location that takes a poisoned byte becomes poison (R114, R281). -/
def State.scatterBytes (s : State) (c : Nat) (dst : List (Nat × Nat)) (data : List (Byte × Bool)) : State :=
  let parts := if data.any (·.2) || (s.ctx c).place.isSome then dst.flatMap locationParts else dst
  (parts.foldl (fun (a : State × List (Byte × Bool)) q =>
    let now := a.2.take q.2
    (a.1.ctxWrite c q.1 (now.map (·.1)) (now.any (·.2)), a.2.drop q.2)) (s, data)).1

/-- The bytes of one piece by 64-byte location: data and poison (R102, R268). -/
def State.locations (s : State) (p : Nat) (q : Nat × Nat) : List (List Byte × Bool) :=
  (List.range (q.2 / 64)).map (fun i => s.sectorView p (s.dpaOf p (q.1 + 64 * i) / 64))

/-- The elements whose images stand together in a CAST: a group of a blocked format, else two elements. -/
def castUnit (src dst : Nat) : Nat :=
  let g (f : Nat) : Nat := if isMx f || isBillet f then groupElems f else 2
  max (g src) (g dst)

/-- The bytes of a CAST's destination, each poison where a byte of its unit's source is (R281, log entry 77). -/
def castMarked (src dst n : Nat) (data : List (Byte × Bool)) (out : List Byte) : List (Byte × Bool) :=
  if !data.any (·.2) then out.map (fun b => (b, false))
  else
    let u := castUnit src dst
    (List.range (ceilDiv n u)).flatMap (fun i =>
      let bad := ((data.drop (fmtBytes src (u * i))).take (fmtBytes src u)).any (·.2)
      ((out.drop (fmtBytes dst (u * i))).take (fmtBytes dst u)).map (fun b => (b, bad)))

/-- What a stroke comes to in its descriptor. -/
def Desc.strokeDone (d : Desc) (k : Stroke) (bytes : Nat) (ev : EventCounts) (bad : Bool) : Desc :=
  ({ d with inFlight := d.inFlight.erase k, committed := d.committed + 1, done := min 0xFFFFFFFF (d.done + bytes)
            poison := d.poison || bad, soiled := d.soiled || bad, escapes := d.escapes + ev.escapes, saturated := d.saturated + ev.saturated
            malformed := d.malformed + ev.malformed, nonfinite := d.nonfinite + ev.nonfinite } : Desc).settle

/-- What a stroke of a SEAL moves: a copy of 4 KiB, kept until its leaf is hashed, or the hash of a leaf (R268). -/
def State.sealMoves (s : State) (c : Nat) (d : Desc) (k : Stroke) : State :=
  let p := (s.ctx c).part
  let bytes := (k.dst.map (·.2)).foldl (· + ·) 0
  let locs := k.src.flatMap (s.locations p)
  if copiesLeaf d.eff k.index then
    let s1 := s.scatterBytes c k.dst (locs.flatMap (fun l => l.1.map (fun b => (b, l.2))))
    s1.modDesc c d.serial (fun y => { y with pieces := tins y.pieces k.index locs }.strokeDone k bytes EventCounts.zero (locs.any (·.2)))
  else
    let leaf := k.index / 17
    let kept := (List.range 16).flatMap (fun j => tget [] d.pieces (17 * leaf + j))
    let all := if dSealCopy d.eff then kept else locs
    -- a leaf of which a copy was refused has no hash
    if dSealCopy d.eff && kept.length < 1024 then s.modDesc c d.serial (fun y => { y with inFlight := y.inFlight.erase k })
    else
    let s1 := s.scatterBytes c k.dst ((leafHash all).map (fun b => (b, false)))
    s1.modDesc c d.serial (fun y => ({ y with pieces := if dSealCopy d.eff then y.pieces.filter (fun q => q.1 / 17 != leaf) else y.pieces } : Desc).strokeDone k
      bytes EventCounts.zero (all.any (·.2)))

/-- What a stroke moves. -/
def State.strokeMoves (s : State) (c : Nat) (d : Desc) (k : Stroke) : State :=
  let e := d.eff
  let p := (s.ctx c).part
  let bytes := (k.dst.map (·.2)).foldl (· + ·) 0
  let commit (z : State) (ev : EventCounts) (bad : Bool) : State := z.modDesc c d.serial (fun y => y.strokeDone k bytes ev bad)
  match dType e with
  | 5 =>
    let pat := (e.drop 32).take 8
    let start := dDst e + 4096 * k.index
    commit (s.scatterBytes c k.dst ((List.range bytes).map (fun i => (byteAt pat ((start + i) % 8), false)))) EventCounts.zero false
  | 6 =>
    let n := piece (dElements e) 1024 k.index
    let data := s.readMarked p k.src
    let r (i : Nat) : Nat := let j := le e 48 8 + 1024 * k.index + i; randomBits (le e 40 8) (j / 10 / 2 ^ 32) 0 (0x40000000 + c) j
    let x := decodeImage (fwFmt (dSrcFmt e)) (dSrcScale e) (data.map (·.1)) n
    let y := encodeImage (dDstFmt e) (dDstScale e) r x.1
    commit (s.scatterBytes c k.dst (castMarked (fwFmt (dSrcFmt e)) (fwFmt (dDstFmt e)) n data y.1)) (x.2.add y.2) (data.any (·.2))
  | 7 => s.sealMoves c d k
  | _ =>
    let data := s.readMarked p k.src
    commit (s.scatterBytes c k.dst data) EventCounts.zero (data.any (·.2))

/-- A stroke in flight commits; one that the extent map refuses writes nothing and ends its descriptor (R265, R266). -/
def State.strokeCommits (s : State) (ctx : Nat) (d : Desc) (k : Stroke) : State :=
  let acc := k.accesses (s.ctx ctx).part
  match (acc.map s.accStatus).find? (· ≠ stOk) with
  | some st => (s.modDesc ctx d.serial (fun y => { y with inFlight := y.inFlight.erase k, status := y.status.orElse (fun _ => some st) })).pump ctx
  | none => ((s.strokeMoves ctx d k).ctxUses ctx acc).pump ctx

/-- A stroke of a descriptor cannot commit before others of it: an element of a SCATTER before the elements before it, the hash of a
SEAL's leaf before its copies (R266, R268). -/
def Desc.strokeHeld (d : Desc) (stroke : Nat) : Bool :=
  (dType d.eff == tScatter && d.inFlight.any (fun j => decide (j.index < stroke))) ||
  (dType d.eff == tSeal && dSealCopy d.eff && stroke % 17 == 16 && d.inFlight.any (fun j => decide (j.index < stroke) && decide (stroke ≤ j.index + 16)))

/-- STROKE_COMMIT: a stroke in flight to pool memory commits; one that the extent map refuses writes nothing and ends its
descriptor. -/
def execStrokeCommit (ctx idx stroke : Nat) (found : List Finding) (s : State) : Out :=
  let x := s.ctx ctx
  done (match x.started.find? (fun d => d.idx == idx && d.push.isNone) with
  | none => s
  | some d => match d.inFlight.find? (fun k => k.index == stroke) with
    | none => s
    | some k =>
      let acc := k.accesses x.part
      if dType d.eff = tPush || d.strokeHeld stroke then s
      else if !s.allReady (acc) then s.prepareAll 3 (acc)
      else (s.foundAll found).strokeCommits ctx d k)

/-! ### Responses to write trains (R260, R272, R505) -/

/-- The PUSH train that a TAG belongs to: context, descriptor and stroke. -/
def State.pushOf (s : State) (tag : Nat) : Option (Nat × Desc × Stroke) :=
  s.tongs.ctxs.findSome? (fun x => x.2.started.findSome? (fun d =>
    if dType d.eff = tPush then (d.inFlight.find? (·.tag == tag)).map (fun k => (x.1, d, k)) else none))

/-- The RSP of a PUSH train: the train is committed, or the PUSH ends with FAULTED. -/
def State.pushAnswered (s : State) (t : Train) : State :=
  match s.pushOf t.tag with
  | none => s
  | some (c, d, k) =>
      let ok := le t.head 3 1 = stOk
      (s.modDesc c d.serial (fun y =>
        let z : Desc := { y with inFlight := y.inFlight.erase k }
        if ok then ({ z with committed := z.committed + 1, done := min 0xFFFFFFFF (z.done + piece (dLen d.eff) 4064 k.index) } : Desc).settle
        else { z with status := z.status.orElse (fun _ => some stFaulted) })).pump c

/-- The twin's WR_CMP for a mirrored write (R505): the completion that it held back goes out, and the transactions of its
lines end. -/
def State.mirrorAnswered (s : State) (tag : Nat) : State :=
  match s.twin.mirrored.find? (·.tag == tag) with
  | none => s
  | some m =>
    let s1 : State := { s with twin := { s.twin with mirrored := s.twin.mirrored.filter (fun y => y.tag != tag) } }
    let s2 := match m.answer with | some a => s1.send a | none => s1
    let ks := (s2.coh.trackers.filter (fun k => k.2.written && decide (k.2.msg.line * 64 < m.dpa + m.len) && decide (m.dpa < k.2.msg.line * 64 + 64))).map (·.1)
    (ks.foldl State.settle s2).runPosts

/-- WR_CMP: the response to a write train of this chip: a PUSH train's, or a mirrored write's. One that answers a train of
this chip within the chip (R357) waits in its loop. -/
def execWrCmp (port : Nat) (t : Train) (s : State) : Out :=
  done (if t.typ ≠ 0x7 || le t.head 0 1 ≠ 0x82 then s
  else
    let s1 : State := if s.routing.loop.contains t then { s with routing := { s.routing with loop := s.routing.loop.erase t } } else s.takeTrain port t
    if t.dst = s.endpoint 34 then
      (match s.pushOf t.tag with
      | some _ => s1.pushAnswered t
      | none => s1)
    else if (port = 22 || port = 23) && (s.egress port).twin then s1.mirrorAnswered t.tag
    else s1)

/-- PUSH_TIMEOUT: no response 64 heats after the train's last cell left (R272). -/
def execPushTimeout (ctx idx : Nat) (s : State) : Out :=
  done (match (s.ctx ctx).started.find? (fun d => d.idx == idx && d.inFlight.any (fun k => k.age.any (fun a => decide (64 ≤ a)))) with
  | none => s
  | some d =>
    if dType d.eff ≠ tPush then s
    else (s.modDesc ctx d.serial (fun y => { y with
      inFlight := y.inFlight.filter (fun k => !k.age.any (fun a => decide (64 ≤ a))), status := y.status.orElse (fun _ => some stTimeout) })).pump ctx)

/-- A PUSH train still waits in an egress queue of this chip. -/
def State.trainQueued (s : State) (tag : Nat) : Bool :=
  s.routing.ports.any (fun e => e.2.allTrains.any (fun q => q.head.src == s.endpoint 34 && q.head.tag == tag && q.head.typ == 0x7))

/-! ### Resets, invalidations, quenches and boundaries (R260, R283–R286) -/

/-- tongs-context-reset at its boundary (R286): descriptors in progress stop and end FAULTED, the others are dropped, with the tickets
and the walks. -/
def State.resetCtx (s : State) (c : Nat) : State :=
  let s1 := (s.ctx c).pushes.foldl (fun a d => match d.push with | some q => a.pushEnded q stFaulted | none => a) s
  (((s1.dropWalks c).modCtx c (fun x => { x with
    resetting := true, ahead := [], fault := none, nextIdx := x.subTail, pushes := []
    started := x.started.map (fun d => { d with tickets := [], status := d.status.orElse (fun _ => some stFaulted) }) })).finishAll c).freedSince s

/-- What CONTEXT_RESET_COMPLETE does once the stopped strokes have committed (R286); the context leaves its engine. -/
def State.endReset (s : State) (c : Nat) : State :=
  ((s.storeAll { part := (s.ctx c).part, cls := 3, stores := [((s.ctx c).cplBase, zeros 12)], ctx := some c }).modCtx c (fun y => { y with
    state := .idle, resetting := false, started := [], ahead := [], subTail := 0, subHead := 0, nextIdx := 0, writeIdx := 0, readIdx := 0
    held := false })).placeAhead

/-- tongs-resume at its boundary (R283). With SKIP the faulting descriptor ends FAULTED: at once where it is next or in progress, else
when its turn comes. -/
def State.resumeCtx (s : State) (c : Nat) (skip : Bool) : State :=
  let k := (s.ctx c).faultSerial
  let s1 := s.modCtx c (fun y => { y with state := .ready, fault := none })
  let s2 := if skip then s1.modDesc c k (fun d => { d with status := d.status.orElse (fun _ => some stFaulted) }) else s1
  let s3 := match (s2.ctx c).ahead with
    | d :: _ => if skip && d.serial = k && (s2.ctx c).hasRoom && (s2.ctx c).started.length < 8 then s2.take c d else s2
    | [] => s2
  ((s3.finishAll c).placeAhead).pump c

/-- Ranges overlap. -/
def inRange (base len a n : Nat) : Bool := len == 0 || (decide (a < base + len) && decide (base < a + n))

/-- A stroke uses a translation of a TVA range. -/
def Stroke.uses (e : List Byte) (ix : List Nat) (k : Stroke) (base len : Nat) : Bool :=
  (!dSpsa e && (strokeSrc e ix k.index).any (fun r => inRange base len r.1 r.2)) ||
  (!dDpsa e && (strokeDst e ix k.index).any (fun r => inRange base len r.1 r.2))

/-- Tickets of a descriptor without the leaves that an invalidation names; the tickets of descriptors not yet started go whole. -/
def Desc.invalidated (d : Desc) (started : Bool) (keep : Leaf → Bool) : Desc :=
  { d with tickets := d.tickets.filterMap (fun t =>
      if t.2.all keep then some t
      else if started && t.1 = ticketOf d.rep d.body then some (t.1, t.2.filter keep)
      else none) }

/-- What an invalidation of a TVA range of a space does at its boundary (R284); length 0 is the whole space. -/
def State.unmapRange (s : State) (asid base len : Nat) (fence : Bool) : State :=
  let keep (l : Leaf) : Bool := !(l.asid == asid && inRange base len l.tva l.size)
  let dropped (x : Ctx) : Nat := ((x.started ++ x.ahead).map (fun d => (d.tickets.filter (fun t => !t.2.all keep)).length)).foldl (· + ·) 0
  let s2 := s.tongs.ctxs.foldl (fun a x => a.noteTongs x.1 21 (dropped x.2)) s
  { s2 with tongs := { s2.tongs with
      cleared := s2.tongs.cleared.filter (fun a => a != asid)
      engineCache := tmap s2.tongs.engineCache (fun _ l => l.filter keep)
      sharedCache := tmap s2.tongs.sharedCache (fun _ l => l.filter keep)
      walkCache := tmap s2.tongs.walkCache (fun _ l => l.filter (fun e => e.asid != asid))
      ctxs := tmap s2.tongs.ctxs (fun _ x => { x with
        ahead := x.ahead.map (fun d => d.invalidated false keep)
        started := x.started.map (fun d0 =>
          let d := d0.invalidated true keep
          if x.asid ≠ asid || !fence then d else { d with
            inFlight := d.inFlight.map (fun k => { k with fenced := k.fenced || (dType d.eff != tPush && k.uses d.eff d.indices base len) }) }) }) } }

/-- An invalidation, counted at every engine unless the space is a confidential partition's (R284, R288). -/
def State.invalidate (s : State) (asid base len : Nat) (fence : Bool) : State :=
  (if (s.part ((tfind s.tongs.spaces asid).map (·.part) |>.getD 0)).confidential then s
    else (List.range 32).foldl (fun a e => a.countTongs e 20 1) s).unmapRange asid base len fence

/-- Strokes of a fenced invalidation of a space are still in flight. -/
def State.fencePending (s : State) (asid : Nat) : Bool :=
  s.tongs.ctxs.any (fun x => x.2.asid == asid && x.2.started.any (fun d => d.inFlight.any (·.fenced)))

/-- The descriptors of a context's ring that have not started, as a quench ends them. -/
def State.quenchRest (s : State) (c : Nat) : Nat → State
  | 0 => s
  | n + 1 =>
    if (s.ctx c).waitingSlots = 0 then s
    else
      let d := s.fetch c
      (((s.take c d).modCtx c (fun y => { y with started := [] })).drawn.complete1 c { d with status := some stQuenched }).quenchRest c n

/-- The contexts of a partition at Bq (R285): every descriptor and every queued push completes with QUENCHED, its record written by the
quench sequencer; tickets and translations go. -/
def State.quenchTongs (s : State) (p : Nat) : State :=
  let mine := (s.tongs.ctxs.filter (fun x => x.2.part == p && x.2.state != .free)).map (·.1)
  let s1 := mine.foldl (fun a c =>
    let b := (a.modCtx c (fun x => { x with
      pushes := [], started := (x.started ++ x.pushes).map (fun d => { d with inFlight := [], tickets := [], status := some stQuenched }) })).finishAll c
    ((b.quenchRest c (b.ctx c).waitingSlots).forcePosts p).modCtx c (fun x => { x with
      state := .idle, started := [], ahead := [], nextIdx := x.subTail, resetting := true })) s
  let asids := (s1.tongs.spaces.filter (fun x => x.2.part == p)).map (·.1)
  let keep (l : Leaf) : Bool := !asids.contains l.asid
  (({ s1 with tongs := { s1.tongs with
      engineCache := tmap s1.tongs.engineCache (fun _ l => l.filter keep)
      sharedCache := tmap s1.tongs.sharedCache (fun _ l => l.filter keep)
      walkCache := tmap s1.tongs.walkCache (fun _ l => l.filter (fun e => !asids.contains e.asid))
      walks := s1.tongs.walks.filter (fun w => !mine.contains w.ctx) } } : State).freedSince s).placeAhead

/-- At a boundary: ages of PUSH trains, READ_IDX of contexts that are held back, and contexts, spaces and fault queues of
partitions in TOMBSTONE, which become FREE (R260, R272, R285). -/
def State.tongsTick (s : State) : State :=
  let gone (p : Nat) : Bool := p != 0 && ((s.part p).state == .tombstone || (s.part p).state == .free)
  let age (k : Stroke) (push : Bool) : Stroke :=
    if !push then k else match k.age with
      | some a => { k with age := some (a + 1) }
      | none => if s.trainQueued k.tag then k else { k with age := some 0 }
  let s0 := (List.range 8).foldl State.slotFreed s
  let s1 := ((s0.tongs.ctxs.filter (fun x => x.2.held && !gone x.2.part)).map (·.1)).foldl State.reread s0
  { s1 with tongs := { s1.tongs with
      ctxs := (tmap s1.tongs.ctxs (fun _ x => { x with
        started := x.started.map (fun d => { d with inFlight := d.inFlight.map (fun k => age k (dType d.eff == tPush)) }) })).filter (fun x => !gone x.2.part)
      spaces := s1.tongs.spaces.filter (fun x => !gone x.2.part)
      faultQueues := s1.tongs.faultQueues.filter (fun x => !gone x.1) } }

end Sys2Proof.Machine
end

