-- ==== Sys2Proof/Machine/Windows.lean ====
section
/-! DEFINITION. The unit-select windows (R76, R77, R129, R195, R248, R288, R343, R394, R405): what each window register
reads, and what a read clears. -/

namespace Sys2Proof.Machine

/-- A counter held to `w` bits. -/
def cnt (t : Tab Nat) (k w : Nat) : Nat := min (tget 0 t k) (2 ^ w - 1)

/-- The two 32-bit counters of a window register, by the first's number and the step to the second. -/
def cntPair (t : Tab Nat) (k d : Nat) : Nat := cnt t k 32 + cnt t (k + d) 32 * 2 ^ 32

/-- Number of the elements that satisfy a predicate. -/
def countIf {α : Type} (l : List α) (p : α → Bool) : Nat := (l.filter p).length

def UnitState.code : UnitState → Nat
  | .absent => 0 | .inService => 1 | .retiring => 2 | .retired => 3 | .warmUp => 4 | .spare => 5 | .failed => 6

/-! ### Forges and memory channels -/

/-- Forge-cache ways reserved for confidential partitions (R472, R522). -/
def State.reservedWays (s : State) : Nat :=
  ((s.parts.parts.filter (fun p => p.2.state != .free && p.2.confidential)).map (fun p => popCount 16 p.2.ways)).foldl (· + ·) 0

/-- Table — Forge select window. -/
def State.forgeWindow (s : State) (f w : Nat) : Nat :=
  let g := s.forge f
  let c := g.counters
  let mine := s.tiers.tags.filter (fun t => t.2.seg % 8 == f && t.2.state != .invalid)
  match w with
  | 0 => f + ofBool (s.stack f).populated * 8 + s.tagWays * 16 + s.reservedWays * 256 + g.trackers.length * 4096
  | 4 => cnt c 16 32
  | 8 => g.threshold + s.tiers.budget * 256
  | 10 => cntPair c 40 2
  | 12 => countIf mine (fun t => t.2.state == .filling || t.2.state == .valid) + countIf mine (fun t => t.2.pin) * 2 ^ 32
  | 13 => g.pinQueue.length + countIf (s.pinnedSegs f) (fun p => (s.tagOf p.1).all (fun i => (s.tag i).state == .filling)) * 2 ^ 32
  | _ =>
    if 16 ≤ w && w ≤ 21 then cnt c (4 * w) 32
    else if w ≤ 15 then cnt c (4 * w) 64 else 0

/-- Most postponed slots of the units from `u` on, `n` of them. -/
def State.postponedMax (s : State) (u n : Nat) : Nat := ((List.range n).map (fun k => (s.unit (u + k)).postponed)).foldl max 0

/-- The physical channels of logical channels `l` to `l + n - 1`, 5 bits each. -/
def State.mapField (s : State) (k l n : Nat) : Nat := ((List.range n).map (fun i => s.physical k (l + i) * 32 ^ i)).foldl (· + ·) 0

/-- Table — Stack select window. -/
def State.stackWindow (s : State) (k w : Nat) : Nat :=
  let x := s.stack k
  if !x.populated then 0
  else match w with
  | 0 => 1 + ofBool x.trained * 2 + ofBool x.spareHeld * 4 + x.spareCh * 256 + s.nLogical * 2 ^ 16 + x.temperature % 256 * 2 ^ 24 +
      ofBool x.doubled * 2 ^ 32 + x.refreshP * 2 ^ 40 + tget 0 s.bellows.classes k * 2 ^ 48
  | 1 => maskOf (((List.range s.nLogical).map (s.physical k)).foldl (fun l c => addSorted c l) [])
  | 2 => x.retired
  | 3 => s.mapField k 0 12
  | 4 => s.mapField k 12 12
  | 5 => s.mapField k 24 8
  | 6 => cnt x.counters 24 64
  | 7 => cnt x.counters 28 64
  | 8 => cnt x.counters 32 64
  | 9 => cnt x.counters 36 32
  | 10 => s.postponedMax (32 * k) 32
  | _ => 0

/-- Pieces of runs on a channel. -/
def piecesOn (c : Nat) (l : List PieceRun) : Nat := ((l.filter (fun r => r.channel == c)).map (·.count)).foldl (· + ·) 0

/-- Table — Bulk channel select window. What training found on a channel that broke the population rule is shown as far as its fields
hold it (R10). DESIGN CHOICE (log entry 73): of two ranks that are retiring SPARE_MIGRATE[2:1] names the lowest-numbered one. -/
def State.bulkWindow (s : State) (k w : Nat) : Nat :=
  let x := s.bulkCh k
  let u (r : Nat) : ServiceUnit := s.unit (256 + 4 * k + r)
  let flags (p : ServiceUnit → Bool) : Nat := maskOf ((List.range 4).filter (fun r => p (u r)))
  let v := s.walker (3 * (k / 2) + 1 + k % 2)
  if !x.populated then (if w = 0 then ofBool x.broke * 4 else 0)
  else match w with
  | 0 => 1 + ofBool x.trained * 2 + ofBool x.broke * 4 + x.mode % 4 * 16 + x.dimms % 4 * 64 + x.ranks % 8 * 256 +
      x.capacity % 1024 * 2 ^ 16 +
      x.temperature % 256 * 2 ^ 32 + ofBool x.doubled * 2 ^ 40 + x.refreshP * 2 ^ 48
  | 1 => ((List.range 4).map (fun r => (u r).state.code * 16 ^ r)).foldl (· + ·) 0
  | 2 => cnt x.counters 8 64
  | 3 => cnt x.counters 12 64
  | 4 => cnt x.counters 16 64
  | 5 => cntPair x.counters 20 2
  | 6 => cntPair x.counters 24 2
  | 7 => v.level + v.step % 2 ^ 27 * 256
  | 8 => match (List.range 4).find? (fun r => (u r).state == .retiring) with
    | some r => 1 + r * 2 + cnt x.counters 34 32 * 2 ^ 32
    | none => cnt x.counters 34 32 * 2 ^ 32
  | 9 => piecesOn k s.dram.spareFree + piecesOn k (s.dram.remaps.flatMap (·.runs)) * 2 ^ 32
  | 10 => flags (fun y => y.power == .powerDown) + flags (fun y => y.power == .selfRefresh) * 16 + s.dram.pdIdle * 2 ^ 16 + s.dram.srIdle * 2 ^ 24
  | 11 => s.postponedMax (256 + 4 * k) 4
  | _ => 0

/-! ### Crucibles, anvils and tongs -/

/-- Staging buffers in use in a crucible. -/
def State.stagingUsed (s : State) (c : Nat) : Nat := countIf s.crucibles.staging (fun t => t.2.cru == c)

/-- Table — Crucible select window. -/
def State.crucibleWindow (s : State) (c w : Nat) : Nat :=
  let t := s.crucibles.counters
  let slots := s.crucibles.slots.filter (fun x => x.1 / 32 == c)
  let k := 32 * c + 2 * w
  match w with
  | 0 => ofBool (bit s.crucibles.passed c) + countIf slots (fun x => x.2 != .lent && x.2 != .free) * 256 + countIf slots (fun x => x.2 == .lent) * 2 ^ 16 +
      tget 0 s.crucibles.peaks c * 2 ^ 24
  | 3 => cntPair t k 1
  | 5 => cntPair t k 1
  | 6 => cnt t k 32
  | 9 => cntPair t k 1
  | 11 => cntPair t k 1
  | 12 => cnt t k 32
  | 13 => if c = 0 then cnt t k 32 else 0
  | _ => if w ≤ 13 then cnt t k 64 else 0

def AnvilMode.code : AnvilMode → Nat
  | .idle => 0 | .program => 1 | .runner => 2 | .saving => 3 | .zeroing => 3 | .restoring => 3 | .held => 4

/-- ANVIL_INFO[18:16]: an anvil that waits for the second boundary of its partition change counts as restoring. -/
def Anvil.stateCode (v : Anvil) : Nat := if v.mode = .held && v.part != 0 && v.change.isSome then 3 else v.mode.code

/-- Table — Anvil select window. -/
def State.anvilWindow (s : State) (a w : Nat) : Nat :=
  let v := s.anvil a
  let c := v.counters
  let shown := s.countsAnvil a
  match w with
  | 0 => ofBool v.passed + ofBool v.enabled * 2 + v.part * 256 + (if shown then v.stateCode * 2 ^ 16 else 0) + v.queue.length * 2 ^ 24 +
      (if shown then ((s.loaded a).map (·.prog)).getD 0 * 2 ^ 32 else 0)
  | 7 => cntPair c 28 2
  | 8 => cntPair c 32 2
  | 9 => cnt c 36 32
  | 10 => cnt c 40 32 + v.lastFault * 2 ^ 32
  | _ => if w ≤ 11 then cnt c (4 * w) 64 else 0

/-- Table — Tongs select window. -/
def State.tongsWindow (s : State) (e w : Nat) : Nat :=
  let t := s.tongs.counters
  let k := 32 * e + 2 * w
  match w with
  | 0 => e + ofBool (bit s.tongs.passed e) * 32 + s.activeOn e * 256 + s.inFlight e * 2 ^ 16 + min (tget 0 s.tongs.peaks e) 3 * 2 ^ 24
  | 6 => cntPair t k 1
  | 8 => cntPair t k 1
  | 9 => cnt t k 32
  | 10 => cntPair t k 1
  | 11 => cnt t k 32
  | _ => if w ≤ 11 then cnt t k 64 else 0

/-! ### Ports and heads -/

def LinkState.code : LinkState → Nat
  | .disabled => 0 | .down => 1 | .train => 2 | .ident => 3 | .keying => 4 | .active => 5 | .retrain => 6

/-- Lanes of a port that satisfy a predicate, as a mask. -/
def Port.laneMask (p : Port) (f : Lane → Bool) : Nat := maskOf ((List.range 4).filter (fun l => f (tget Lane.reset p.lanes l)))

/-- The code of a width in lanes. -/
def widthCode (n : Nat) : Nat := match n with | 0 => 0 | 1 => 1 | 2 => 2 | _ => 3

/-- Table — Port select window. -/
def State.portWindow (s : State) (i w : Nat) : Nat :=
  let p := s.port i
  let c := p.counters
  match w with
  | 0 => p.state.code + widthCode (popCount 4 p.txLanes) * 16 + p.rate * 64 + ofBool p.encOn * 128 + p.txLanes * 256 + p.outLanes * 4096 +
      p.laneMask (·.warm) * 2 ^ 16 + ofBool p.holdWidth * 2 ^ 20 + p.encSetting * 2 ^ 21 + ((p.partner.map (·.chip)).getD 0) * 2 ^ 32 +
      ((p.partner.map (·.port)).getD 0) % 32 * 2 ^ 48
  | 1 => p.linkId
  | 2 => (p.partner.map (·.linkId)).getD 0
  | 5 => cntPair c 20 2
  | 7 => cntPair c 28 2
  | 8 => cntPair c 32 2
  | 9 => cntPair c 36 2
  | 10 => cntPair c 40 2
  | 12 => cnt c 48 16 + cnt c 49 16 * 2 ^ 16 + cnt c 50 16 * 2 ^ 32 + cnt c 51 16 * 2 ^ 48
  | 13 => ((List.range 4).map (fun l => min (tget Lane.reset p.lanes l).lastErrors 0xFFFF * 2 ^ (16 * l))).foldl (· + ·) 0
  | 14 => cnt c 56 16 + cnt c 57 16 * 2 ^ 16 + p.epochs % 2 ^ 32 * 2 ^ 32
  | 15 => maskOf ((List.range 64).filter (s.admits i))
  | 16 => ((List.range 5).map (fun v => tget 0 p.credits v % 512 * 2 ^ (9 * v))).foldl (· + ·) 0
  | 17 => p.peakReplay + p.peakReorder * 2 ^ 16
  | _ => if w ≤ 11 then cnt c (4 * w) 64 else 0

def CxlLink.code : CxlLink → Nat | .down => 0 | .training => 1 | .active => 2 | .perst => 3

/-- Table — CXL port select window. -/
def State.headWindow (s : State) (h w : Nat) : Nat :=
  let x := s.head h
  let c := x.counters
  match w with
  | 0 => x.link.code + x.width % 8 * 16 + x.rate % 8 * 256 + ofBool x.flit * 2048 +
      maskOf ((List.range 8).filter (fun i => (tget HdmDecoder.reset x.decoders i).committed)) * 2 ^ 16 +
      maskOf ((List.range 8).filter (fun r => (tfind s.cxl.regions r).isSome)) * 2 ^ 24 + x.accepted.length * 2 ^ 32 + x.offered.length * 2 ^ 48
  | 1 => cnt c 4 64
  | 2 => cnt c 8 64
  | 3 => cntPair c 12 2
  | 4 => cnt c 16 32
  | 5 => cntPair c 20 2
  | 6 => cnt c 24 16 + cnt c 25 16 * 2 ^ 16 + cnt c 26 16 * 2 ^ 32
  | 7 => cntPair c 28 2
  | 8 => cnt c 32 16 + cnt c 33 16 * 2 ^ 16
  | 9 => cntPair c 36 2
  | _ => 0

/-! ### The select window (R405) -/

/-- The number of units of a class; 0 for a class that is not known. -/
def unitsOf (cls : Nat) : Nat :=
  match cls with | 1 => 8 | 2 => 8 | 3 => 16 | 4 => 24 | 5 => 64 | 6 => 32 | 7 => 8 | 8 => 2 | _ => 0

/-- What window register `w` of a unit reads. -/
def State.window (s : State) (cls i w : Nat) : Nat :=
  match cls with
  | 1 => s.forgeWindow i w
  | 2 => s.stackWindow i w
  | 3 => s.bulkWindow i w
  | 4 => s.portWindow i w
  | 5 => s.anvilWindow i w
  | 6 => s.tongsWindow i w
  | 7 => s.crucibleWindow i w
  | 8 => s.headWindow i w
  | _ => 0

/-- Counters of a window register, cleared: four to a register, or two. -/
def clear4 (t : Tab Nat) (w : Nat) : Tab Nat := t.filter (fun x => x.1 / 4 != w)
def clear2 (t : Tab Nat) (i w : Nat) : Tab Nat := t.filter (fun x => x.1 / 2 != 16 * i + w)

/-- What a read of window register `w` clears (R11, R195, R288, R343). -/
def State.clearWindow (s : State) (cls i w : Nat) : State :=
  match cls with
  | 1 => s.modForge i (fun g => { g with counters := clear4 g.counters w })
  | 2 => if (s.stack i).populated then s.modStack i (fun x => { x with counters := clear4 x.counters w }) else s
  | 3 => if (s.bulkCh i).populated && w ≠ 8 then s.modBulk i (fun x => { x with counters := clear4 x.counters w }) else s
  | 4 => s.modPort i (fun p =>
      if w = 17 then { p with peakReplay := p.replay.length, peakReorder := p.reorder.length } else { p with counters := clear4 p.counters w })
  | 5 => s.modAnvil i (fun v => { v with counters := clear4 v.counters w })
  | 6 => { s with tongs := { s.tongs with
      counters := clear2 s.tongs.counters i w
      peaks := if w = 0 then tins s.tongs.peaks i (countIf s.tongs.walks (fun k => (s.ctx k.ctx).engine == i)) else s.tongs.peaks } }
  | 7 => { s with crucibles := { s.crucibles with
      counters := if w = 13 && i ≠ 0 then s.crucibles.counters else clear2 s.crucibles.counters i w
      peaks := if w = 0 then tins s.crucibles.peaks i (s.stagingUsed i) else s.crucibles.peaks } }
  | 8 => s.modHead i (fun x => { x with counters := clear4 x.counters w })
  | _ => s

end Sys2Proof.Machine
end

