-- ==== Sys2Proof/Machine/Regs.lean ====
section
/-! DEFINITION. The register map (16_hearth_registers.md): the BAR0 of the two heads, the register bridge of the fabric,
the DEV and SEL blocks, the mailbox pages, the Starter target pages and the tongs doorbells. -/

namespace Sys2Proof.Machine

/-! ### The DEV block (R404) -/

/-- DEV_STATUS[3:2] of a core state; the active core's own state is not shown. -/
def CoreState.code : CoreState → Nat
  | .failed => 0 | .warmUp => 1 | .syncing => 2 | .standby => 3 | .active => 3

def State.core (s : State) (c : Nat) : CoreState := if c = 0 then s.hearth.core0 else s.hearth.core1

def State.setCore (s : State) (c : Nat) (x : CoreState) : State :=
  if c = 0 then { s with hearth := { s.hearth with core0 := x } } else { s with hearth := { s.hearth with core1 := x } }

/-- A confidential partition exists from the acceptance of its create until its key is destroyed (R476). -/
def State.confidentialExists (s : State) : Bool :=
  s.parts.parts.any (fun p => p.2.state != .free && p.2.confidential && p.2.keyPresent) ||
  s.hearth.running.any (fun r => match r.wait with
    | .boundary _ (.partitionCreate _ true _ _ _) => true
    | _ => false)

/-- DEV_STATUS[15]: Bellows throttles in this heat (R496). -/
def State.throttling (s : State) : Bool :=
  decide (0 < s.bellows.rung) || s.bellows.thermal.any (fun p => decide (0 < p.2)) || !s.pins.pwrBrakeN

def SyncState.code : SyncState → Nat | .free => 0 | .acquire => 1 | .locked => 2 | .holdover => 3

/-- The registers that Hearth writes: DEV_ID, DEV_REV, DEV_STATUS and REPLACE_STATUS as they stand. -/
def State.liveRegs (s : State) : Nat × Nat × Nat × Nat :=
  (0x0740 + s.sec.config.orderCode * 2 ^ 16 + s.endpoint 0 * 2 ^ 32,
   Config.stepping % 256 + s.sec.cfgVersion % 2 ^ 16 * 2 ^ 16 + s.sec.fwVersion % 2 ^ 32 * 2 ^ 32,
   ofBool s.isReady + s.hearth.active * 2 + (s.core (1 - s.hearth.active)).code * 4 + ofBool s.hearth.switching * 2 ^ 4 +
     ofBool s.hearth.lost * 2 ^ 5 + s.sec.image * 2 ^ 8 + ofBool s.sec.debugUnlocked * 2 ^ 9 +
     ofBool s.confidentialExists * 2 ^ 10 + ofBool s.bulkPresent * 2 ^ 11 + ofBool (s.twin.state != .unpaired) * 2 ^ 12 +
     ofBool s.twin.state.isPrimary * 2 ^ 13 + ofBool s.coolantStop * 2 ^ 14 + ofBool s.throttling * 2 ^ 15 +
     s.heat.sync.code * 2 ^ 16 + countIf s.parts.parts (fun p => p.2.state == .active) % 64 * 2 ^ 24,
   s.boot.replaceStatus)

/-- DEV_ID, DEV_REV, DEV_STATUS and REPLACE_STATUS as they read: while no core writes them, DEV_ID[47:32], DEV_REV,
DEV_STATUS[3:1], DEV_STATUS[29:24] and REPLACE_STATUS hold their last values (R398, R400). -/
def State.devRegs (s : State) : Nat × Nat × Nat × Nat :=
  match s.hearth.heldRegs with
  | none => s.liveRegs
  | some (i, r, st, rep) =>
    let v := s.liveRegs
    (i, r, v.2.2.1 - bits v.2.2.1 1 3 * 2 - bits v.2.2.1 24 6 * 2 ^ 24 + bits st 1 3 * 2 + bits st 24 6 * 2 ^ 24, rep)

/-! ### The map of BAR0 (R401) -/

/-- What an 8-byte register of BAR0 is. -/
inductive Reg where
  | dev (k : Nat)
  | selUnit | selStatus
  | window (n : Nat)
  /-- Offset within the mailbox page of a partition. -/
  | page (p off : Nat)
  | target (t off : Nat)
  | door (c : Nat)
  /-- The CXL device register block of a head, whose contents CXL 3.1 gives and the spec does not. -/
  | cxl
  | reserved
  deriving DecidableEq, Repr

/-- Table — BAR0 map: the register at an 8-byte aligned offset. -/
def regAt (a : Nat) : Reg :=
  if a < 0x10000 then .cxl
  else if a < 0x10040 then .dev ((a - 0x10000) / 8)
  else if a < 0x11000 then .reserved
  else if a < 0x11008 then .selUnit
  else if a < 0x11010 then .selStatus
  else if a < 0x11100 then .reserved
  else if a < 0x11300 then .window ((a - 0x11100) / 8)
  else if a < 0x21000 then .reserved
  else if a < 0x60000 then .page ((a - 0x20000) / 0x1000) (a % 0x1000)
  else if a < 0x64000 then .target ((a - 0x60000) / 0x40) (a % 0x40)
  else if a < 0x80000 then .reserved
  else if a < 0xA0000 then .door ((a - 0x80000) / 8)
  else .reserved

/-- The partition whose range holds a context; 0 for none (R254). -/
def State.ctxPart (s : State) (c : Nat) : Nat := (firstBelow 64 (fun p => s.holdsCtx p c)).getD 0

/-- Head `h` may reach what belongs to partition `p` through BAR0 (R403). -/
def State.headReaches (s : State) (h p : Nat) : Bool :=
  (s.part p).state != .free && !(s.part p).confidential && s.headMember p h

/-- A head's BAR0 admits an access to a register (R403). -/
def State.headAllowed (s : State) (h : Nat) : Reg → Bool
  | .page p _ => s.headReaches h p
  | .target t _ =>
    let b := (s.target t).binding
    if 1 ≤ b && b < 64 then s.headReaches h b else true
  | .door c => decide (256 ≤ c) && s.ctxPart c != 0 && s.headReaches h (s.ctxPart c)
  | _ => true

/-- The region of the registers that partition `p` owns and an offset lies in (R417): its page, its doorbells, one of its
target pages. -/
def State.ownRegion (s : State) (p a : Nat) : Option Nat :=
  match regAt (a / 8 * 8) with
  | .page q _ => if q = p then some 0 else none
  | .door c => if s.holdsCtx p c then some 1 else none
  | .target t _ => if (s.target t).binding = p then some (2 + t) else none
  | _ => none

/-- The bridge's answer to an access of partition `p` from endpoint `src` (R417): OK, DENIED, or INVALID when it crosses
from one region to another. -/
def State.bridgeStatus (s : State) (src p off len : Nat) : Nat :=
  let rs := (List.range (ceilDiv len 4)).map (fun i => s.ownRegion p (off + 4 * i))
  if rs.any Option.isNone || !s.isMember p src then stDenied
  else if rs.all (· == s.ownRegion p off) then stOk
  else stInvalid

/-! ### Reads -/

/-- MBX_STATUS. -/
def Page.statusReg (g : Page) : Nat :=
  g.state + ofBool g.accepted * 4 + ofBool g.timedOut * 8 + g.status * 2 ^ 8 + g.replyLen * 2 ^ 16 + g.seq * 2 ^ 32

/-- The value of the register at an offset of a mailbox page, and the state once an RC field has been read (R408). -/
def State.readPage (s : State) (p off : Nat) : Nat × State :=
  let g := s.page p
  if (s.part p).state = .free then (0, s)
  else match off with
  | 0x008 => (g.statusReg, s)
  | 0x010 => (g.timeout, s)
  | 0x018 => (g.psa, s)
  | 0x020 => (g.stray, s.modPage p (fun x => { x with stray := 0 }))
  | _ => if 0x40 ≤ off then (leVal (bread g.buf off 8), s) else (0, s)

/-- The value of the register at an offset of a target page, and the state after the read (R446, R448). A read that does
not cover bits [31:0] of CLAIM claims nothing. -/
def State.readTarget (s : State) (t off : Nat) (low : Bool) : Nat × State :=
  let x := s.target t
  match off with
  | 0x00 => (x.ctrl, s)
  | 0x08 => (x.binding + ofBool x.armed * 2 ^ 8 + x.firings * 2 ^ 16, s)
  | 0x10 => if low then s.claim t else (0, s)
  | 0x20 => (x.srcSel, s)
  | 0x28 => (s.srcCfgRead t, s)
  | 0x30 =>
    (x.completeStray + x.strayRaise * 2 ^ 16 + x.redeliver * 2 ^ 32 + x.lost * 2 ^ 48,
     s.modTarget t (fun y => { y with completeStray := 0, strayRaise := 0, redeliver := 0, lost := 0 }))
  | 0x38 => (x.lastHeat, s)
  | _ => (0, s)

/-- SEL_STATUS.VALID and INDEX_BAD (R405). -/
def State.selValid (s : State) : Bool := decide (s.hearth.selUnit < unitsOf s.hearth.selClass)
def State.selBad (s : State) : Bool := !s.selValid && decide (0 < unitsOf s.hearth.selClass)

/-- The value of a register of the DEV block and the state after the read. -/
def State.readDev (s : State) (k : Nat) : Nat × State :=
  let v := s.devRegs
  match k with
  | 0 => (v.1, s)
  | 1 => (v.2.1, s)
  | 2 => (v.2.2.1, s)
  | 3 => (s.heat.count % 2 ^ 48, s)
  | 4 => (v.2.2.2, s)
  | 5 => (s.bellows.energy, s)
  | 6 =>
    (s.hearth.accessRefused + s.hearth.denied * 2 ^ 32 + s.hearth.discarded * 2 ^ 48,
     { s with hearth := { s.hearth with accessRefused := 0, denied := 0, discarded := 0 } })
  | _ => (0, s)

/-- A read of a register: its 64 bits and the state after it. A read of any part of an RC register clears all of its RC
fields (R406). -/
def State.readReg (s : State) (low : Bool) : Reg → Nat × State
  | .dev k => s.readDev k
  | .selUnit => (s.hearth.selUnit + s.hearth.selClass * 2 ^ 8, s)
  | .selStatus => (ofBool s.selValid + ofBool s.selBad * 2 + s.hearth.selGen * 2 ^ 16, s)
  | .window n =>
    if s.selValid then
      (s.window s.hearth.selClass s.hearth.selUnit n, s.clearWindow s.hearth.selClass s.hearth.selUnit n)
    else (0, s)
  | .page p off => s.readPage p off
  | .target t off => s.readTarget t off low
  | .cxl => (Config.freeValue s.free % 2 ^ 64, s.drawn)
  | .door _ => (0, s)
  | .reserved => (0, s)

/-- A read of 4 or 8 bytes, aligned, of a register that the access may reach. -/
def State.read8 (s : State) (off size : Nat) : Nat × State :=
  let r := s.readReg (size == 8 || off % 8 == 0) (regAt (off / 8 * 8))
  (if size = 8 then r.1 else if off % 8 = 0 then r.1 % 2 ^ 32 else r.1 / 2 ^ 32 % 2 ^ 32, r.2)

/-! ### Writes -/

/-- The reply bytes of an ICS reply: the header of Table — ICS header and the payload (R419, R420). -/
def icsBytes (opcode flags status tag partition partNo : Nat) (payload : List Byte) : List Byte :=
  leBytes 2 opcode ++ [BitVec.ofNat 8 flags, BitVec.ofNat 8 status] ++ leBytes 4 tag ++
  [BitVec.ofNat 8 partition, BitVec.ofNat 8 partNo, 0, 0] ++ leBytes 2 payload.length ++ [0, 0] ++ payload

/-- A mailbox page ends its command (R409): the reply has been written, MBX_STATUS shows DONE, SEQ advances and source
0x000 + p fires. -/
def State.finishPage (s : State) (p status len : Nat) (timedOut : Bool) : State :=
  (s.modPage p (fun g => { g with
    state := 3, status := status, replyLen := len, timedOut := timedOut, seq := (g.seq + 1) % 2 ^ 32, left := none, due := none, fetch := false })).fire p 0

/-- A mailbox page writes its reply and completes (R408, R409): at 0x040, or at MBX_PSA; a refused write leaves reply
length 0 and status NO_EXTENT, or QUENCHED where that ends the command (R413); a write that has to wait is made at a later boundary, and
the page of an accepted command is RUNNING until then. -/
def State.replyPage (s : State) (p status : Nat) (reply : List Byte) : State :=
  let g := s.page p
  if !g.indirect then
    (s.modPage p (fun x => { x with buf := bwrite x.buf 0x40 reply })).finishPage p status reply.length false
  else if reply.isEmpty then s.finishPage p status 0 false
  else
    let a : Access := { part := p, psa := g.bufPsa, len := reply.length, write := true }
    if s.accStatus a ≠ stOk then s.finishPage p (if status = stQuenched then stQuenched else stNoExtent) 0 false
    else if s.accReady a then (s.pWrite 1 p g.bufPsa reply false).finishPage p status reply.length false
    else (s.accPrepare 1 a).modPage p (fun x => { x with state := if x.accepted then 2 else x.state, due := some (status, reply) })

/-- The header fields of a message held by a page: opcode, TAG and PARTITION. -/
def msgOpcode (m : List Byte) : Nat := le m 0 2
def msgTag (m : List Byte) : Nat := le m 4 4
def msgPart (m : List Byte) : Nat := le m 8 1

/-- A page answers the command it holds without its having been accepted; one whose message has not been read has no reply
header. -/
def State.refusePage (s : State) (p status : Nat) : State :=
  let m := (s.page p).message
  if (s.page p).fetch then s.finishPage p status 0 false
  else s.replyPage p status (icsBytes (msgOpcode m) 1 status (msgTag m) (msgPart m) 0 [])

/-- A submission on a page whose message is known (R409): PENDING, or answered at once while no core takes commands. -/
def State.submit (s : State) (p : Nat) (indirect : Bool) (m : List Byte) : State :=
  let t := (s.page p).timeout
  let s1 := s.modPage p (fun g => { g with
    state := 1, accepted := false, timedOut := false, status := 0, replyLen := 0, message := m, indirect := indirect
    bufPsa := g.psa, left := if t = 0 then none else some t, due := none, fetch := false })
  match s1.hearthRefuses with
  | some st => s1.refusePage p st
  | none => s1

/-- The message of an inline submission: the header and LENGTH bytes of payload, at most 4,016. -/
def Page.inlineMsg (g : Page) : List Byte := bread g.buf 0x40 (16 + min 4016 (leVal (bread g.buf 0x4C 2)))

/-- What answers the submissions of a page before its message is read: no core that takes commands (R398, R400), or the quench of its
partition (R413). -/
def State.pageRefuses (s : State) (p : Nat) : Option Nat :=
  match s.hearthRefuses with
  | some st => some st
  | none => if (s.part p).state = .quenching || (s.part p).state = .tombstone then some stQuenched else none

/-- Reads the indirect buffer of a page whose submission is PENDING (R408): once its lines are there the message is known, or
the command ends with ACCEPTED = 0 where the buffer cannot be read. -/
def State.fetchMsg (s : State) (p : Nat) : State :=
  let g := s.page p
  let a : Access := { part := p, psa := g.bufPsa, len := 4112, write := false }
  match s.pageRefuses p with
  | some st => s.refusePage p st
  | none =>
    if !s.accReady a then s.accPrepare 1 a
    else
    let r := s.pLoad p g.bufPsa 4112
    if r.1 = stOk then
      (s.modPage p (fun x => { x with message := r.2.take (16 + min 4096 (le r.2 12 2)), fetch := false })).useLines 1 [a]
    else (s.finishPage p (if r.1 = stFaulted then stFaulted else stNoExtent) 0 false).useLines 1 [a]

/-- A write of MBX_GO (R409). An indirect submission is PENDING from then on, and its buffer is read as soon as its lines are
there (R289, R408). -/
def State.go (s : State) (p : Nat) (indirect : Bool) : State :=
  let g := s.page p
  if (s.part p).state = .free then s
  else if g.state = 1 || g.state = 2 then s.modPage p (fun x => { x with stray := satAdd 32 x.stray 1 })
  else if !indirect then s.submit p false g.inlineMsg
  else State.fetchMsg (s.modPage p (fun x => { x with
    state := 1, accepted := false, timedOut := false, status := 0, replyLen := 0, message := [], indirect := true
    bufPsa := x.psa, left := if x.timeout = 0 then none else some x.timeout, due := none, fetch := true })) p

/-- A write to a register of a mailbox page: the value of the whole register, the bytes it covers. -/
def State.writePage (s : State) (p off lo n v : Nat) : State :=
  let g := s.page p
  if (s.part p).state = .free then s
  else match off with
  | 0x000 => if lo = 0 && bit v 0 then s.go p (bit v 1) else s
  | 0x010 => if lo = 0 then s.modPage p (fun x => { x with timeout := v % 2 ^ 16 }) else s
  | 0x018 =>
    let w := leVal (putAt (leBytes 8 g.psa) lo (leBytes n (v / 2 ^ (8 * lo))))
    s.modPage p (fun x => { x with psa := w % 2 ^ 48 / 8 * 8 })
  | _ =>
    if off < 0x40 then s
    else if g.state = 1 || g.state = 2 then s.modPage p (fun x => { x with stray := satAdd 32 x.stray 1 })
    else s.modPage p (fun x => { x with buf := bwrite x.buf (off + lo) (leBytes n (v / 2 ^ (8 * lo))) })

/-- A write to a register of a target page (R446–R448). A write that does not cover the low half of COMPLETE, SRC_SEL or
SRC_CFG has no effect. -/
def State.writeTarget (s : State) (t off lo n v : Nat) : State :=
  match off with
  | 0x00 => s.tgtCtrl t (leVal (putAt (leBytes 8 (s.target t).ctrl) lo (leBytes n (v / 2 ^ (8 * lo)))))
  | 0x18 => if lo = 0 then s.complete t v else s
  | 0x20 => if lo = 0 then s.modTarget t (fun x => { x with srcSel := v % 4096 }) else s
  | 0x28 => if lo = 0 then s.srcCfg t v else s
  | _ => s

/-- A write to a doorbell (R414): one of a FREE context is counted in ACCESS_REFUSED, one with bits [63:32] set in
DOORBELL_BAD. -/
def State.writeDoor (s : State) (c v : Nat) : State :=
  if (s.ctx c).state = .free then { s with hearth := { s.hearth with accessRefused := satAdd 32 s.hearth.accessRefused 1 } }
  else if v / 2 ^ 32 ≠ 0 then s.noteTongs c 18 1
  else s.ring c (v % 2 ^ 32)

/-- A write of SEL_UNIT (R405): a reserved class leaves it unchanged and GEN as it is (R10). -/
def State.writeSel (s : State) (v : Nat) : State :=
  if 8 < bits v 8 8 then s
  else { s with hearth := { s.hearth with
    selUnit := v % 256, selClass := bits v 8 8, selGen := (s.hearth.selGen + 1) % 2 ^ 16 } }

/-- A write of 4 or 8 bytes, aligned: `lo` is its first byte in the register, `v` its value in place. A 4-byte write to a
doorbell is an 8-byte write with bits [63:32] zero (R402). -/
def State.write8 (s : State) (off size value : Nat) : State :=
  let lo := off % 8
  let v := value % 2 ^ (8 * size) * 2 ^ (8 * lo)
  match regAt (off / 8 * 8) with
  | .page p o => s.writePage p o lo size v
  | .target t o => s.writeTarget t o lo size v
  | .door c => if lo = 0 then s.writeDoor c v else s
  | .selUnit => if lo = 0 then s.writeSel v else s
  | _ => s

/-! ### The two ways to a register -/

/-- Counts a refused access of BAR0 (R402). -/
def State.refuseBar (s : State) : State :=
  { s with hearth := { s.hearth with accessRefused := satAdd 32 s.hearth.accessRefused 1 } }

/-- An access of 4 or 8 bytes, naturally aligned and inside BAR0 (R402). -/
def sizeOk (off size : Nat) : Bool := (size == 4 || size == 8) && off % size == 0 && decide (off + size ≤ 2 ^ 20)

/-- A read of a register: the value and the state after it (R402, R403, R417). -/
def State.regRead (s : State) (acc : Accessor) (off size : Nat) : Nat × State :=
  match acc with
  | .head h =>
    if !sizeOk off size || !s.headAllowed h (regAt (off / 8 * 8)) then (0, s.refuseBar) else s.read8 off size
  | .fabric src p =>
    if !sizeOk off size || s.bridgeStatus src p off size ≠ stOk then
      (0, { s with hearth := { s.hearth with denied := satAdd 16 s.hearth.denied 1 } })
    else s.read8 off size

/-- A write of a register (R402, R403, R417). -/
def State.regWrite (s : State) (acc : Accessor) (off size value : Nat) : State :=
  match acc with
  | .head h =>
    if !sizeOk off size || !s.headAllowed h (regAt (off / 8 * 8)) then s.refuseBar else s.write8 off size value
  | .fabric src p =>
    if !sizeOk off size || s.bridgeStatus src p off size ≠ stOk then
      { s with hearth := { s.hearth with denied := satAdd 16 s.hearth.denied 1 } }
    else s.write8 off size value

/-- The accessor can send accesses: a head with its link up, or a fabric endpoint through a READY device, in a partition
that is ACTIVE (R85 check 2). -/
def State.accessorUp (s : State) : Accessor → Bool
  | .head h => s.headUp h
  | .fabric _ p => s.isReady && (s.part p).state == .active

/-- A read of a register as a command: the value that a head's host reads is kept (R402). -/
def State.readCmd (s : State) (acc : Accessor) (off size : Nat) : State :=
  if !s.accessorUp acc then s
  else
    let r := s.regRead acc off size
    match acc with
    | .head h => r.2.modHead h (fun x => { x with bar0 := r.1 })
    | .fabric _ _ => r.2

/-- A write of a register as a command. -/
def State.writeCmd (s : State) (acc : Accessor) (off size value : Nat) : State :=
  if !s.accessorUp acc then s else s.regWrite acc off size value

/-- Offsets of a mailbox page, a target page and a doorbell. -/
def pageOffset (p : Nat) : Nat := 0x20000 + p * 0x1000
def targetOffset (t : Nat) : Nat := 0x60000 + t * 0x40
def doorOffset (c : Nat) : Nat := 0x80000 + c * 8

/-! ### The register rows -/

/-- RC_REGISTER_READ: a read of a register (R402, R406). -/
def execRcRegisterRead (acc : Accessor) (offset size : Nat) (s : State) : Out := done (s.readCmd acc offset size)

/-- REGISTER_WRITE: a write of a register (R402). -/
def execRegisterWrite (acc : Accessor) (offset size value : Nat) (s : State) : Out := done (s.writeCmd acc offset size value)

/-- SEL_UNIT: a unit is selected through a head (R405). -/
def execSelUnit (head size value : Nat) (s : State) : Out := done (s.writeCmd (.head head) 0x11000 size value)

/-- CLAIM: a read of CLAIM (R448). -/
def execClaim (acc : Accessor) (target : Nat) (s : State) : Out := done (s.readCmd acc (targetOffset target + 0x10) 8)

/-- COMPLETE: a write of COMPLETE (R448). -/
def execComplete (acc : Accessor) (target value : Nat) (s : State) : Out :=
  done (s.writeCmd acc (targetOffset target + 0x18) 8 value)

/-- SRC_CFG: a write of SRC_CFG without RELEASE (R447). -/
def execSrcCfg (acc : Accessor) (target value : Nat) (s : State) : Out :=
  done (s.writeCmd acc (targetOffset target + 0x28) 8 (setBit value 1 false))

/-- SOURCE_RELEASE: a write of SRC_CFG with RELEASE set (R442). -/
def execSourceRelease (acc : Accessor) (target : Nat) (s : State) : Out :=
  done (s.writeCmd acc (targetOffset target + 0x28) 8 2)

/-- TGT_CTRL: a write of TGT_CTRL (R446, R447). -/
def execTgtCtrl (acc : Accessor) (target value : Nat) (s : State) : Out := done (s.writeCmd acc (targetOffset target) 8 value)

/-- DOORBELL: a write of a tongs doorbell of 4 or 8 bytes (R414). -/
def execDoorbell (acc : Accessor) (ctx size value : Nat) (s : State) : Out := done (s.writeCmd acc (doorOffset ctx) size value)

/-- MBX_SUBMIT: MBX_GO with bit 0 set (R409). -/
def execMbxSubmit (acc : Accessor) (p : Nat) (s : State) : Out := done (s.writeCmd acc (pageOffset p) 8 1)

/-- MBX_SUBMIT_INDIRECT: MBX_GO with INDIRECT set; the message is read at MBX_PSA (R408). -/
def execMbxSubmitIndirect (acc : Accessor) (p : Nat) (s : State) : Out := done (s.writeCmd acc (pageOffset p) 8 3)

/-- A page's command times out: DONE with TIMEOUT, and the command owes it no reply (R411). -/
def State.timeoutPage (s : State) (p : Nat) : State :=
  State.finishPage { s with hearth := { s.hearth with
    running := s.hearth.running.map (fun r => if r.chan = .page p then { r with owed := false } else r) } } p stTimeout 0 true

/-- MAILBOX_TIMEOUT: the T-th boundary after the submission has passed (R411): DONE with TIMEOUT; a command not yet
accepted is withdrawn, an accepted one runs on without a reply. -/
def execMailboxTimeout (p : Nat) (s : State) : Out :=
  let g := s.page p
  done (if g.left = some 0 && (g.state = 1 || g.state = 2) then
    s.timeoutPage p
  else s)

/-! ### The register bridge (R415–R418) -/

/-- The 4- and 8-byte parts of an access: each 8-byte aligned part behaves as an access of BAR0 (R416). -/
def regParts (off len : Nat) : List (Nat × Nat) :=
  (List.range (len / 8 + 2)).filterMap (fun i =>
    let lo := max off ((off / 8 + i) * 8)
    let hi := min (off + len) ((off / 8 + i + 1) * 8)
    if lo < hi then some (lo, hi - lo) else none)

/-- The bridge's reply: SRC and DST exchanged, with the data of a read. -/
def regAnswer (t : Train) (op status len : Nat) (data : List Byte) : Train :=
  let h := [BitVec.ofNat 8 op, 0, 0, BitVec.ofNat 8 status] ++ leBytes 4 len ++ (t.head.drop 8).take 8
  { typ := 0x4, cls := 0, dst := t.src, src := t.dst, part := t.part, tag := t.tag, cells := fit 32 h :: cells32 data }

/-- The form of a REG request (R415): LEN, OFFSET and the number of cells. -/
def regFormOk (t : Train) (write : Bool) : Bool :=
  let len := le t.head 4 4
  let off := le t.head 8 8
  len % 4 == 0 && decide (4 ≤ len) && decide (len ≤ 256) && off % 4 == 0 && decide (off < 2 ^ 20) &&
  t.cells.length == (if write then dataTrainLen len else 1)

/-- A REG train addressed to the bridge. -/
def State.isRegReq (s : State) (t : Train) : Bool := t.typ == 0x4 && t.cls == 0 && t.dst == s.endpoint 32

/-- The status of a REG request at the bridge (R417). -/
def State.regStatus (s : State) (t : Train) (write : Bool) : Nat :=
  if !regFormOk t write then stInvalid else s.bridgeStatus t.src t.part (le t.head 8 8) (le t.head 4 4)

/-- Counts an answer DENIED. -/
def State.noteDenied (s : State) (st : Nat) : State :=
  if st = stDenied then { s with hearth := { s.hearth with denied := satAdd 16 s.hearth.denied 1 } } else s

/-- The bridge reads the registers of a request, in address order: their bytes and the state after it (R416, R418). -/
def State.bridgeReads (s : State) (t : Train) : List Byte × State :=
  (regParts (le t.head 8 8) (le t.head 4 4)).foldl (fun (a : List Byte × State) q =>
    let x := a.2.read8 q.1 q.2
    (a.1 ++ leBytes q.2 x.1, x.2)) ([], s)

/-- The bridge writes the registers of a request, in address order (R416, R418). -/
def State.bridgeWrites (s : State) (t : Train) : State :=
  (regParts (le t.head 8 8) (le t.head 4 4)).foldl (fun a q => a.write8 q.1 q.2 (le t.data (q.1 - le t.head 8 8) q.2)) s

/-- The bridge serves a request: it reads or writes the registers, in address order, and replies (R415–R417). A train with an
operation that is neither RD nor WR is answered INVALID. -/
def State.bridgeServes (s : State) (t : Train) : State :=
  if le t.head 0 1 = 0x02 then
    let st := s.regStatus t true
    if st ≠ stOk then (s.noteDenied st).send (regAnswer t 0x82 st 0 [])
    else (s.bridgeWrites t).send (regAnswer t 0x82 stOk (le t.head 4 4) [])
  else
    let st := if le t.head 0 1 = 0x01 then s.regStatus t false else stInvalid
    if st ≠ stOk then (s.noteDenied st).send (regAnswer t 0x81 st 0 [])
    else (s.bridgeReads t).2.send (regAnswer t 0x81 stOk (le t.head 4 4) (s.bridgeReads t).1)

/-- The longest reply that a request can have, in cells: the data of a read and the head. -/
def bridgeReplyLen (t : Train) : Nat := if le t.head 0 1 = 0x01 then dataTrainLen (min 256 (le t.head 4 4)) else 1

/-- The reply of a request can be queued at once, or has no way out at all (R355, R357). -/
def State.bridgeCanReply (s : State) (t : Train) : Bool :=
  match s.chooseOut t.src t.dst t.tag with
  | some out => (s.egress out).takesTrain 0 t.part (bridgeReplyLen t)
  | none => true

/-- A request that has arrived: served when none waits before it and its reply can be queued at once, else kept in the store of
64, or discarded and counted where that is full (R355, R418). -/
def State.bridgeTakes (s : State) (port : Nat) (t : Train) : State :=
  if s.hearth.bridge.isEmpty && s.bridgeCanReply t then s.bridgeServes t
  else if s.hearth.bridge.length < 64 then { s with hearth := { s.hearth with bridge := s.hearth.bridge ++ [(port, t)] } }
  else { s with hearth := { s.hearth with discarded := satAdd 16 s.hearth.discarded 1 } }

/-- The store's requests, oldest first, as many as `n`, while their replies can be queued (R418). -/
def State.bridgeDrains (s : State) : Nat → State
  | 0 => s
  | n + 1 => match s.hearth.bridge with
    | x :: r => if s.bridgeCanReply x.2 then (State.bridgeServes { s with hearth := { s.hearth with bridge := r } } x.2).bridgeDrains n else s
    | [] => s

/-- A REG train of the bridge passes the admission checks, or is dropped by them (R85). -/
def State.bridgeAdmits (s : State) (port : Nat) (t : Train) : State :=
  if !s.admits port t.part || (s.part t.part).state ≠ .active then s.partDrop port t
  else (State.bridgeDrains (s.takeTrain port t) 64).bridgeTakes port t

/-- REG_RD: the bridge reads registers of the train's partition (R415–R418). -/
def execRegRd (port : Nat) (t : Train) (s : State) : Out :=
  done (if !s.isRegReq t || le t.head 0 1 = 0x02 then s else s.bridgeAdmits port t)

/-- REG_WR: the bridge writes registers of the train's partition, in address order, and answers WR_CMP (R415–R418). -/
def execRegWr (port : Nat) (t : Train) (s : State) : Out :=
  done (if !s.isRegReq t || le t.head 0 1 ≠ 0x02 then s else s.bridgeAdmits port t)

end Sys2Proof.Machine
end

