-- ==== Sys2Proof/Machine/Apply.lean ====
section
/-! DEFINITION. The control-plane changes that accepted commands stage, as they take effect at a boundary (R32, R423): one
operation for each kind of change, and `State.apply` over all of them. -/

namespace Sys2Proof.Machine

/-- What a change answers when it takes effect: the state, the status and the result of its command. -/
structure Applied where
  state : State
  status : Nat
  payload : List Byte
  deriving DecidableEq, Repr

/-- A change that took effect without a result. -/
def State.ok (s : State) : Applied := { state := s, status := stOk, payload := [] }

/-- A change that took effect with a result. -/
def State.okWith (s : State) (l : List Byte) : Applied := { state := s, status := stOk, payload := l }

/-! ### The PSA directory (R84) -/

/-- The directory runs of the partitions that are not FREE, but for `p`: first entry and span. -/
def State.dirRuns (s : State) (p : Nat) : List (Nat × Nat) :=
  (s.parts.parts.filter (fun x => x.1 != p && x.2.state != .free)).map (fun x => (x.2.dirOff, x.2.span))

/-- Directory entries in use by every partition but `p`. -/
def State.dirUsed (s : State) (p : Nat) : Nat := ((s.dirRuns p).map (·.2)).foldl (· + ·) 0

/-- The lowest run of free directory entries of a length. -/
def State.freeRun (s : State) (p span : Nat) : Option Nat :=
  let rs := s.dirRuns p
  let fits (o : Nat) : Bool := decide (o + span ≤ 65536) && rs.all (fun r => decide (o + span ≤ r.1) || decide (r.1 + r.2 ≤ o))
  ((0 :: rs.map (fun r => r.1 + r.2)).filter fits).foldl (fun b o => match b with
    | none => some o
    | some q => some (min q o)) none

/-- Where a partition's run starts once the runs below it have been moved together. -/
def State.packedOff (s : State) (p q : Nat) : Nat :=
  (((s.dirRuns p).filter (fun r => decide (r.1 < (s.part q).dirOff))).map (·.2)).foldl (· + ·) 0

/-- Every run but that of `p` moved to the low end of the directory, in order; each keeps its entries (R84). -/
def State.packRuns (s : State) (p : Nat) : State :=
  let owner (i : Nat) : Option Nat := (s.parts.parts.find? (fun x =>
    x.1 != p && x.2.state != .free && decide (x.2.dirOff ≤ i) && decide (i < x.2.dirOff + x.2.span))).map (·.1)
  { s with parts := { s.parts with
      dir := s.parts.dir.map (fun e => match owner e.1 with
        | some q => (s.packedOff p q + (e.1 - (s.part q).dirOff), e.2)
        | none => e)
      parts := tmap s.parts.parts (fun q x => if q != p && x.state != .free then { x with dirOff := s.packedOff p q } else x) } }

/-- A run for partition `p`: the lowest free one, after the other runs have been moved when none is long enough. -/
def State.placeRun (s : State) (p span : Nat) : State × Nat :=
  match s.freeRun p span with
  | some o => (s, o)
  | none => (s.packRuns p, s.dirUsed p)

/-- Sets or clears the directory entry of a PSA block. -/
def State.setDir (s : State) (p blk : Nat) (n : Option Nat) : State :=
  let i := (s.part p).dirOff + (blk - (s.part p).psaBase)
  { s with parts := { s.parts with dir := match n with
    | some e => tins s.parts.dir i e
    | none => tdel s.parts.dir i } }

/-! ### Partitions -/

/-- An entry of the attestation log (Table — Attestation log entry). -/
def logEntry (kind arg len liveMax heat : Nat) (digest : List Byte) : List Byte :=
  [BitVec.ofNat 8 kind, BitVec.ofNat 8 arg, 0, 0] ++ leBytes 4 len ++ leBytes 4 liveMax ++ leBytes 6 heat ++ zeros 14 ++ fit 32 digest

/-- Appends an entry to a partition's log: LOG_DIGEST becomes the hash of itself and the entry (R460). -/
def AttLog.append (l : AttLog) (e : List Byte) : AttLog :=
  { entries := l.entries ++ [e], digest := sha256 (fit 32 l.digest ++ e) }

def State.attLog (s : State) (p : Nat) : AttLog := tget { entries := [], digest := zeros 32 } s.sec.logs p

def State.appendLog (s : State) (p : Nat) (e : List Byte) : State :=
  { s with sec := { s.sec with logs := tins s.sec.logs p ((s.attLog p).append e) } }

/-- A new XTS key pair goes into a key slot (R464). -/
def State.newKey (s : State) (slot : Nat) : State :=
  { s with sec := { s.sec with draws := s.sec.draws + 1, memKeys := tins s.sec.memKeys slot (fit 64 (Config.drbg s.sec.draws 64)) } }

/-- The DRBG is reseeded and draws a memory key for a key slot (R463, R464). -/
def State.drawKey (s : State) (slot : Nat) : State :=
  { s with sec := { s.sec with reseeds := s.sec.reseeds + 1 } }.newKey slot

/-- The ways that a new confidential partition reserves: the lowest neither reserved nor used by the tag cache (R472). -/
def State.newWays (s : State) : Nat :=
  maskOf (((List.range (16 - s.tagWays)).filter (fun w =>
    !s.parts.parts.any (fun p => p.2.state != .free && bit p.2.ways w))).take s.sec.config.confWays)

/-- partition-create (R80, R84, R362, R460, R472). -/
def State.createPartition (s : State) (p : Nat) (conf : Bool) (psaBase span quota : Nat) : State :=
  let w := if conf then s.newWays else 0
  let r := s.placeRun p span
  let s1 := (r.1.drawKey p).modPart p (fun _ => { Partition.reset with
    state := .active, confidential := conf, keyPresent := true, psaBase := psaBase, span := span, dirOff := r.2, sealQuota := quota
    createHeat := s.heat.count, stateHeat := s.heat.count, group := if conf then none else some 0, ways := w })
  (s1.appendLog p (logEntry 1 (ofBool conf) 0 0 s.heat.count [])).remask

/-- A block leaves the heads that hold or await it (R385): a forced Release Capacity record on each head that has accepted
it; offers of it are cancelled. -/
def State.takeFromHeads (s : State) (ns : List Nat) : State :=
  [0, 1].foldl (fun a h =>
    let x := a.head h
    let held := ns.filter (fun n => x.accepted.contains n || x.accepting.contains n)
    let open_ := ns.filter (fun n => x.offered.contains n)
    let b := a.postDc h .releaseCapacity held
    let c := b.postDc h .offerCancelled open_
    let keep (n : Nat) : Bool := !ns.contains n
    c.modHead h (fun y => { y with
      offered := y.offered.filter keep, accepted := y.accepted.filter keep, accepting := y.accepting.filter keep
      releasing := y.releasing.filter keep })) s

/-- The MSG cell FENCE to a member (R96 step 5). -/
def State.fenceCell (s : State) (p ep : Nat) : Train := oneCell 0x6 0 ep (s.endpoint 32) 0 0 [0x20, BitVec.ofNat 8 p]

/-- Bq of a quench (R96 steps 1, 2, 5; R452; R385). -/
def State.beginQuench (s : State) (p : Nat) : State :=
  let mine := (s.parts.extents.filter (fun e => e.2.part == p && e.2.dcValid)).map (·.1)
  let s0 := ((s.quenchTongs p).quenchMelts p).quenchAnvils p
  let s1 : State := { s0 with anvils := { s0.anvils with
    stores := tdel s0.anvils.stores p, programs := s0.anvils.programs.filter (fun g => g.1 / 16 != p) } }
  let heads := (List.range (s1.part p).members.length).filter (fun i => match (s1.part p).members[i]? with
    | some m => s1.isHeadEndpoint m.ep
    | none => false)
  let s2 := s1.modPart p (fun x => { x with
    state := .quenching, stateHeat := s1.heat.count, fenceComplete := false, zeroingComplete := false
    quench := some { age := 0, acked := heads, drained := false, keyGone := false } })
  let s3 := ((s2.part p).members.filter (fun m => !s2.isHeadEndpoint m.ep)).foldl (fun a m => a.send (a.fenceCell p m.ep)) s2
  let s4 := if (s3.silentMembers p).isEmpty then s3.fenceDone p else s3
  let kept (h : Nat) : List Nat := mine.filter (fun n => (s.head h).accepted.contains n)
  (([0, 1].foldl (fun a h => a.modHead h (fun x => { x with removed := x.removed ++ (kept h).filter (fun n => !x.removed.contains n) }))
    ((s4.starterQuench p).takeFromHeads mine))).postBoth 0 .quenched 0 0 p

/-- A member list takes effect (R83, R161). -/
def State.setMembers (s : State) (p : Nat) (l : List Member) : State :=
  ((s.modPart p (fun x => { x with members := l })).disableContributors p).remask

/-- member-set: a list that removes a caching member or its flag waits for the sweep (R305). -/
def State.changeMembers (s : State) (p : Nat) (l : List Member) : State :=
  if (sweptMembers (s.part p).members l).isEmpty then s.setMembers p l
  else s.modCoh (fun c => { c with sweeps := c.sweeps ++ [(p, 0, l, false)] })

/-- partition-span-set (R84): the run moves, its entries stay with their PSA blocks. -/
def State.changeSpan (s : State) (p psaBase span : Nat) : Applied :=
  let x := s.part p
  let mine (e : Nat × Nat) : Bool := decide (x.dirOff ≤ e.1) && decide (e.1 < x.dirOff + x.span)
  let blocks := (s.parts.dir.filter mine).map (fun e => (x.psaBase + (e.1 - x.dirOff), e.2))
  let s1 : State := { s with parts := { s.parts with dir := s.parts.dir.filter (fun e => !mine e) } }
  let r := s1.placeRun p span
  let s2 := r.1.modPart p (fun y => { y with psaBase := psaBase, span := span, dirOff := r.2 })
  (blocks.foldl (fun a b => a.setDir p b.1 (some b.2)) s2).okWith (leBytes 2 r.2 ++ [0, 0])

/-! ### Extents and seals -/

/-- extent-release: the release point (R92, R385). -/
def State.beginRelease (s : State) (n : Nat) : State :=
  (s.modExt n (fun e => { e with state := .releasing, drain := some 0, unmapOnly := false })).takeFromHeads [n]

/-- A block of device memory that may be assigned, by number: inside the tier and outside the stack spare reserve, the
cache region, the bulk spare region and the twin undo area (R90, R437). -/
def State.blockUsable (s : State) (b : Nat) : Bool :=
  let lo := b * 2 ^ 28
  if lo < bulkBase then decide (lo + 2 ^ 28 ≤ s.stackUsable - s.regionBytes)
  else decide (lo + 2 ^ 28 ≤ bulkBase + s.bulkBytes - s.spareBytes - s.undoBytes)

def State.blockFree (s : State) (b : Nat) : Bool := s.blockUsable b && !s.parts.extents.any (fun e => e.2.dpaBlk == b)

/-- The lowest free block of a tier. -/
def State.lowestBlock (s : State) (bulk : Bool) : Option Nat :=
  if bulk then (firstBelow ((s.bulkBytes - s.spareBytes - s.undoBytes) / 2 ^ 28) (fun i => s.blockFree (bulkBase / 2 ^ 28 + i))).map (bulkBase / 2 ^ 28 + ·)
  else firstBelow ((s.stackUsable - s.regionBytes) / 2 ^ 28) s.blockFree

/-- The lowest free extent number. -/
def State.lowestExtent (s : State) : Option Nat := firstBelow 32768 (fun n => (tfind s.parts.extents n).isNone)

/-- The hash blocks of a seal of `e` extents: their leaves at 32 bytes each (R99). -/
def hashBlocksOf (e : Nat) : Nat := ceilDiv (4096 * e) 8388608

/-- Takes one free bulk block for a seal (R101). -/
def State.takeSealBlock (s : State) (sid p : Nat) : State × Option Nat :=
  match s.lowestExtent, s.lowestBlock true with
  | some n, some b =>
    (s.modExt n (fun _ => { Extent.reset with
      dpaBlk := b, part := p, state := .active, tier := 1, place := 2, ro := true, sealId := sid }), some n)
  | _, _ => (s, none)

/-- Free bulk blocks for `k` seal blocks. -/
def State.takeSealBlocks (s : State) (sid p : Nat) : Nat → State × List Nat
  | 0 => (s, [])
  | k + 1 =>
    let r := s.takeSealBlocks sid p k
    match r.1.takeSealBlock sid p with
    | (t, some n) => (t, r.2 ++ [n])
    | (_, none) => r

/-- seal-create at the seal boundary (R100, R101). -/
def State.createSeal (s : State) (sid p : Nat) (extents psaBlks : List Nat) : Applied :=
  let h := hashBlocksOf extents.length
  let r := s.takeSealBlocks sid p (extents.length + h)
  if r.2.length < extents.length + h then { state := s, status := stNoResource, payload := [] }
  else
    let s1 := extents.foldl (fun a n => a.modExt n (fun e => { e with capture := true, sealId := sid })) r.1
    (s1.modSeal sid (fun _ => { Seal.reset with
      part := p, state := .capturing, extents := extents, psaBlks := psaBlks, blocks := r.2, hashBlocks := h
      sealHeat := s.heat.count })).okWith [BitVec.ofNat 8 sid, 0, 0, 0]

/-- seal-release: mapped blocks drain under R92, the others are scrubbed at once (R105). -/
def State.releaseSeal (s : State) (sid : Nat) : State :=
  let s1 := s.modSeal sid (fun x => { x with state := .releasing })
  (s.seal sid).blocks.foldl (fun a n =>
    if (a.ext n).mapped then a.modExt n (fun e => { e with state := .releasing, drain := some 0, unmapOnly := false })
    else a.modExt n (fun e => { e with state := .scrubbing, unitsDone := [], endNext := false })) s1

/-! ### Hints (R72–R74) -/

/-- What is left of a range beside another range: the part below it and the part above it. -/
def HintRange.without (r : HintRange) (base len : Nat) : List HintRange :=
  let hi := r.base + r.len
  (if r.base < base then [{ r with len := min hi base - r.base }] else []) ++
  (if base + len < hi then [{ r with base := max r.base (base + len), len := hi - max r.base (base + len) }] else [])

/-- The ranges of a partition once a hint has replaced the older ones over its addresses. -/
def hintRanges (l : List HintRange) (base len hint order : Nat) (skip : List Nat) : List HintRange :=
  let rest := l.flatMap (fun r => r.without base len)
  if hint = 0 then rest else rest ++ [{ base := base, len := len, hint := hint, order := order, skip := skip }]

/-- hint-set (R72–R74, R438). -/
def State.setHint (s : State) (p base len hint : Nat) : Applied :=
  let put (a : State) (skip : List Nat) : State :=
    ({ a with tiers := { a.tiers with
      hints := tins a.tiers.hints p (hintRanges (tget [] a.tiers.hints p) base len hint a.tiers.hintOrder skip)
      hintOrder := a.tiers.hintOrder + 1 } }).repin p
  if hint ≠ 6 then (put s []).ok
  else
    let segs := s.cachedSegs p base len
    let bare : State := { s with tiers := { s.tiers with hints := tins s.tiers.hints p (hintRanges (tget [] s.tiers.hints p) base len 0 0 []) } }
    let skip := bare.unpinnable segs []
    { state := put s skip, status := if skip.isEmpty then stOk else stPartial, payload := leBytes 4 (segs.length - skip.length) }

/-! ### Fabric -/

/-- Every port's wiring is checked again. -/
def State.recheck (s : State) : State := (List.range 24).foldl State.checkWiring s

/-- port-set (R320, R336): a change of the encryption setting takes effect through a retrain from DOWN. A new maximum rate
below the rate in use is reached with OP RATE (log entry 40). -/
def State.setPort (s : State) (i : Nat) (enable hold : Bool) (rate enc : Nat) : State :=
  let p := s.port i
  let s1 := s.modPort i (fun x => { x with enabled := enable, holdWidth := hold, maxRate := rate, encSetting := enc })
  if !enable then (if p.state = .disabled then s1 else s1.leaveLink i .disabled)
  else if p.state = .disabled then s1.enterDown i
  else if p.encSetting ≠ enc then (if p.state = .down then s1 else s1.goDown i)
  else s1.requestWidth i

/-- port-retrain requests OP RETRAIN, once the lane command under way has ended (R336, R337). -/
def State.retrainPort (s : State) (i : Nat) : State :=
  if (s.port i).state = .active then (s.modPort i (fun p => { p with wantRetrain := true })).requestWidth i else s

/-- transit-mask-set: bits that Hearth holds at 0 stay 0 (R353, R470). -/
def State.setTransit (s : State) (i mask : Nat) : State :=
  s.modEgress i (fun e => { e with transitMask := maskOf ((bitList 64 mask).filter (fun p => !s.heldOff i p)) })

/-- heat-sync-set (R40, R42): a parent port leads from FREE to ACQUIRE, and from another state there again. -/
def State.setSync (s : State) (role : SyncRole) : State :=
  let s1 := s.modHeat (fun h => { h with role := role, goodRun := 0, noRsp := 0, t1 := none, offset := none })
  match role with
  | .child _ => s1.toAcquire
  | _ => s1.modHeat (fun h => { h with sync := .free, hop := 0 })

/-- The ports that a port mask names for weights and shapers: a twin port takes neither (M6). -/
def State.maskPorts (s : State) (mask : Nat) : List Nat := (bitList 24 mask).filter (fun i => !(s.egress i).twin)

/-- shaper-set: RATE and BURST now, the tokens in place of the coming refill (R370). -/
def State.setShaper (s : State) (ports p : Nat) (full : Bool) (rate burst : Nat) : State :=
  (s.maskPorts ports).foldl (fun a i => a.modEgress i (fun e => { e with
    shapers := tmod Shaper.reset e.shapers p (fun x => { x with rate := rate, burst := burst, pendingReset := some full }) })) s

/-- gate-set: a list with start heat 0 starts at this boundary (R364). -/
def State.setGates (s : State) (i : Nat) (l : Option GateList) : State :=
  s.modEgress i (fun e => { e with gates := (l.filter (fun g => !g.entries.isEmpty)).map (fun g => if g.start = 0 then { g with start := s.heat.count } else g) })

/-! ### Rings and the tongs complex -/

/-- A ring with the named fields of its control block written: indices and count 0, and ENTRIES (R212, R282). -/
def State.newRing (s : State) (cls p base entries : Nat) : State :=
  s.storeAll { part := p, cls := cls, stores := [(base, zeros 12 ++ leBytes 4 entries)] }

/-- tongs-context-set (R255); the whole control block is written as 0 but for ENTRIES (R259). -/
def State.setCtx (s : State) (c p asid sub cpl entries forge : Nat) : State :=
  (s.storeAll { part := p, cls := 3, stores := [(cpl, zeros 12 ++ leBytes 4 entries ++ zeros 48)] }).modCtx c (fun _ => { Ctx.reset with
    state := .idle, part := p, asid := asid, subBase := sub, cplBase := cpl, entries := entries, forge := forge })

/-- tongs-space-set (R275): a new root acts as a fenced invalidation of the whole space. -/
def State.setSpace (s : State) (asid p root : Nat) : State :=
  let old := (tfind s.tongs.spaces asid).isSome
  let s1 : State := { s with tongs := { s.tongs with spaces := tins s.tongs.spaces asid { part := p, root := some root } } }
  if old then s1.invalidate asid 0 0 true else s1

/-- tongs-space-free (R275): no cached translation of the space is left. -/
def State.freeSpace (s : State) (asid : Nat) : State :=
  let s1 := s.unmapRange asid 0 0 false
  { s1 with tongs := { s1.tongs with spaces := tdel s1.tongs.spaces asid } }

/-! ### Anvil stores (R240) -/

/-- anvil-store-set: the extent leaves the directory. -/
def State.setStore (s : State) (p n : Nat) : State :=
  let s1 := s.setDir p (s.ext n).psaBlk none
  let s2 := s1.modExt n (fun e => { e with mapped := false })
  { s2 with anvils := { s2.anvils with stores := tins s2.anvils.stores p n } }

/-- anvil-store-release: the extent is mapped again. -/
def State.releaseStore (s : State) (p n blk : Nat) : State :=
  let s1 := (s.setDir p blk (some n)).modExt n (fun e => { e with mapped := true, psaBlk := blk })
  { s1 with anvils := { s1.anvils with stores := tdel s1.anvils.stores p } }

/-! ### Twin pairs -/

/-- The free segments of the undo area (R507). -/
def State.undoFree (s : State) : Nat :=
  s.undoBytes / 65536 - ((s.twin.epochs.map (fun e => e.2.reserved)).foldl (· + ·) 0 + s.twin.restore.length)

/-- The two twin ports lose gate list, shapers and split selection (M6). -/
def State.bareTwinPorts (s : State) (on : Bool) : State :=
  [22, 23].foldl (fun a i => a.modEgress i (fun e =>
    if on then { e with twin := true, gates := none, shapers := [], split := Split.reset } else { e with twin := false })) s

/-- A twin port whose present partner is not the pair's goes DOWN (R499). -/
def State.dropForeign (s : State) : State :=
  [22, 23].foldl (fun a i => match (a.port i).partner with
    | some x => if a.refusesLink i x then a.goDown i else a
    | none => a) s

/-- A member's state changes: source 0x089 (Table — Twin member states). -/
def State.twinTo (s : State) (x : TwinState) : State :=
  if s.twin.state = x then s else ({ s with twin := { s.twin with state := x } }).deviceEvent 0x089

/-- The MSG cell TWIN_SWITCH to a member endpoint (R509). -/
def State.switchCell (s : State) (p ep : Nat) : Train :=
  oneCell 0x6 0 ep (s.endpoint 32) 0 0 ([0x44, BitVec.ofNat 8 p, 0, 0] ++ leBytes 6 s.heat.count)

/-- A block that returns to FREE without scrub: its lines leave the forge cache and its tags become INVALID, without writeback. -/
def State.forgetBlock (s : State) (e : Extent) : State :=
  let s1 := s.dropLinesIn (e.dpaBlk * 2 ^ 28) ((e.dpaBlk + 1) * 2 ^ 28)
  if e.place = 1 then (List.range 4096).foldl (fun a k => a.forgetTag (segOf (e.dpaBlk * 2 ^ 28 + 65536 * k))) s1 else s1

/-- Removes extents: their entries and directory entries go, without scrub (R509 step 2). -/
def State.removeExtents (s : State) (ns : List Nat) : State :=
  let s1 := ns.foldl (fun a n => a.forgetBlock (s.ext n)) (s.takeFromHeads ns)
  { s1 with parts := { s1.parts with
      extents := s1.parts.extents.filter (fun e => !ns.contains e.1)
      dir := s1.parts.dir.filter (fun e => !ns.contains e.2) } }

/-- A saved segment is put back at its address; reads are served from the undo area from D on, so its content is that of D. -/
def State.putBack (s : State) (x : Saved) : State :=
  let p := s.partAt (x.seg * 65536)
  let s1 := s.engineStore 4 p (x.seg * 65536) x.bytes false
  x.poison.foldl (fun a k => a.engineStore 4 p (x.seg * 65536 + 64 * k) (zeros 64) true) s1

/-- The takeover at boundary D (R509, R510): extents without a mirror and seals go, what is not mirrored is empty, epochs in
progress are rolled back from the undo area, and every member endpoint is told. -/
def State.takeOver (s : State) : State :=
  let gone := (s.parts.extents.filter (fun e => e.2.mirror == 0)).map (·.1)
  let parts := (s.parts.parts.filter (fun p => p.2.state == .active)).map (·.1)
  let s1 := parts.foldl (fun a p => ((s.part p).members.filter (fun m => !s.isHeadEndpoint m.ep)).foldl (fun b m => b.send (b.switchCell p m.ep)) a) s
  let s2 := s1.postBoth 0 .twinSwitch 0 0 s.heat.count
  let s3 := s2.removeExtents gone
  let undo := s3.twin.epochs.flatMap (fun e => e.2.undo)
  let s4a := undo.foldl State.putBack s3
  let s4 : State := { s4a with
    parts := { s4a.parts with seals := [] }
    twin := { s4a.twin with
      heatD := s.heat.count, sinceD := 0, restore := undo.map (·.seg), mirrored := []
      epochs := tmap s4a.twin.epochs (fun _ e => { e with reserved := 0, undo := [], frozen := [], copying := false }) }
    anvils := { s4a.anvils with instances := [], stores := [], programs := [], barriers := [], flags := [] }
    coh := { Coh.reset with counters := s4a.coh.counters }
    tongs := { s4a.tongs with walks := [], ctxs := tmap s4a.tongs.ctxs (fun _ c =>
      if c.state = .free then c else { c with
        state := .idle, started := [], ahead := [], pushes := [], nextIdx := c.subHead, subTail := c.subHead, held := false, resetting := false }) }
    starter := { s4a.starter with sources := [], targets := [] }
    hearth := { s4a.hearth with pages := [] } }
  let armed := (s4.crucibles.melts.filter (fun m => m.2.state == .armed || m.2.state == .final)).map (·.1)
  let s5 := armed.foldl State.stopStep s4
  (gone.foldl (fun a _ => a.deviceEvent 0x086) s5).twinTo .takeover

/-- twin-set at its boundary (R499, Table — Twin member states). A member becomes primary only while BATON_IN is low
(R504). -/
def State.setTwin (s : State) (role : Nat) (partner : List Byte) : State :=
  let s1 : State := if role = 3 then s else { s with twin := { s.twin with role := role, partnerH := partner } }
  match role with
  | 0 =>
    let s2 := (s1.twinTo .unpaired).bareTwinPorts false
    (s2.twin.mirrored.filterMap (·.answer)).foldl State.send { s2 with twin := { s2.twin with mirrored := [], epochs := [], resync := [], restore := [] } }
  | 3 => if s1.twin.state = .stale && !s1.twin.batonIn then s1.takeOver else s1
  | r =>
    let s2 := (s1.bareTwinPorts true).dropForeign
    if r = 1 && s2.twin.state = .unpaired && !s2.twin.batonIn then s2.twinTo .solo else s2

/-- This member's own values of M7. -/
def State.pairValues (s : State) : PairValues :=
  let c := s.sec.config
  { stackSpares := c.stackSpares, cacheRegion := c.cacheRegion, bulkSpare := c.bulkSpare, twinUndo := c.twinUndo
    confWays := c.confWays, orderCode := c.orderCode, bulkBytes := s.bulkBytes }

/-- The first table copy of SYNCING brings the primary's values: a joining member that differs returns to UNPAIRED, source 0x089, and
joins no more until a twin-set names its role again (M7, log entry 76). -/
def State.joinPair (s : State) (v : PairValues) : State :=
  if s.twin.state = .syncing && s.pairValues ≠ v then
    ({ s with twin := { s.twin with role := 0 } } : State).twinTo .unpaired
  else s

/-- twin-epoch at the epoch boundary (R507, R508): the dirty set is frozen and EPOCH_BEGIN sent; too few free undo segments
end the epoch with NO_RESOURCE; in SOLO it completes with the number unchanged. -/
def State.beginEpoch (s : State) (p : Nat) : Applied :=
  let e := s.epoch p
  if s.twin.state ≠ .primary then s.okWith (leBytes 4 e.number)
  else if s.undoFree < e.dirty.length then { state := s, status := stNoResource, payload := [] }
  else
    let n := e.number + 1
    let s1 := s.modEpoch p (fun x => { x with number := n, frozen := x.dirty, dirty := [], copying := true, reserved := e.dirty.length })
    let t (i : Nat) : Train := oneCell 0x6 0 (i + (s.endpoint 0)) (s.endpoint 32) 0 0
      ([0x41, BitVec.ofNat 8 p, 0, 0] ++ leBytes 4 n ++ leBytes 4 e.dirty.length)
    let s2 := match s1.twinPort with
      | some i => s1.sendOn i (t i)
      | none => s1
    s2.okWith (leBytes 4 n)

/-! ### All changes -/

/-- A change takes effect (R32, R423). -/
def State.apply (s : State) (c : Change) : Applied :=
  match c with
  | .partitionCreate p conf b n q => (s.createPartition p conf b n q).ok
  | .partitionDestroy p => (s.beginQuench p).ok
  | .spanSet p b n => s.changeSpan p b n
  | .memberSet p l => (s.changeMembers p l).ok
  | .coherenceSet p g t => (s.modPart p (fun x => { x with grip := g, snoopTimeout := t })).ok
  | .contextRange p f n => (s.modPart p (fun x => { x with ctxFirst := if n = 0 then 0 else f, ctxCount := n })).ok
  | .starterBind t b => (s.rebind t b).ok
  | .extentAdd n e => (s.modExt n (fun _ => { e with state := .filling })).ok
  | .extentRelease n => (s.beginRelease n).ok
  | .regionSet r b n =>
    ({ s with cxl := { s.cxl with regions := if n = 0 then tdel s.cxl.regions r else tins s.cxl.regions r (b, n) } } : State).ok
  | .cxlOffer hs ns =>
    ((bitList 2 hs).foldl (fun a h => (a.modHead h (fun x => { x with
      offered := x.offered ++ ns.filter (fun n => !x.offered.contains n) })).postDc h .addCapacity ns) s).ok
  | .cxlWithdraw hs ns =>
    ((bitList 2 hs).foldl (fun a h => a.modHead h (fun x => { x with offered := x.offered.filter (fun n => !ns.contains n) })) s).ok
  | .dcTagSet i t => ({ s with cxl := { s.cxl with tags := tins s.cxl.tags i t } } : State).ok
  | .sealQuota p q => (s.modPart p (fun x => { x with sealQuota := q })).ok
  | .sealCreate sid p ns bs => s.createSeal sid p ns bs
  | .sealMap n blk => ((s.setDir (s.ext n).part blk (some n)).modExt n (fun e => { e with mapped := true, psaBlk := blk })).ok
  | .sealUnmap n => (s.modExt n (fun e => { e with state := .releasing, drain := some 0, unmapOnly := true })).ok
  | .sealRelease sid => (s.releaseSeal sid).ok
  | .hintSet p b n h => s.setHint p b n h
  | .budgetSet n => ({ s with tiers := { s.tiers with budget := n } } : State).ok
  | .coordinate x y => ({ s with routing := { s.routing with x := x, y := y } } : State).recheck.remask.ok
  | .neighbour i nb => ((s.modEgress i (fun e => { e with expected := nb })).checkWiring i).remask.ok
  | .routeSet f es =>
    ({ s with routing := { s.routing with table := es.zipIdx.foldl (fun t e => tset 0 t (f + e.2) e.1) s.routing.table } } : State).remask.ok
  | .portSet i en hold rate enc => (s.setPort i en hold rate enc).ok
  | .portRetrain i => (s.retrainPort i).ok
  | .transitMask i m => (s.setTransit i m).ok
  | .heatSync r => (s.setSync r).ok
  | .queueSet i g q o => ((s.modEgress i (fun e => { e with guard := g, qcap := q, overhead := o })).roomCame i (s.nsNow 0)).ok
  | .groupSet p g => (s.modPart p (fun x => { x with group := some g })).ok
  | .gateSet i l => (s.setGates i l).ok
  | .weightSet ports k p w =>
    ((s.maskPorts ports).foldl (fun a i => a.modEgress i (fun e => { e with weights := tins e.weights (qkey k p) w })) s).ok
  | .shaperSet ports p full rate burst => (s.setShaper ports p full rate burst).ok
  | .splitSet i m n w => (s.modEgress i (fun e => { e with split := { Split.reset with mode := m, interval := n, watched := w } })).ok
  | .ageLimits a b d e => ({ s with dram := { s.dram with limit1 := a, limit2 := b, limit3 := d, limit4 := e } } : State).ok
  | .meltOpen m p d =>
    (s.modMelt m (fun _ => { Melt.reset with state := .idle, part := p, desc := d, minFmt := le d 2 1 })).okWith (leBytes 2 m ++ [0, 0])
  | .meltContributors m t => (s.modMelt m (fun x => { x with contributors := t, tableSet := true })).ok
  | .meltArm m f => let s1 := s.armMelt m f; s1.okWith (leBytes 8 (s1.melt m).step)
  | .meltClose m =>
    let t := (s.forgetPours m).forgetPushes m
    ({ t with crucibles := { t.crucibles with melts := tdel t.crucibles.melts m } } : State).ok
  | .meltAbort m => let r := s.abortStep m; { state := r.1, status := if r.2 then stOk else stBusy, payload := [] }
  | .ringSet p r b n =>
    let s1 := s.newRing 2 p b n
    ({ s1 with crucibles := { s1.crucibles with
      rings := tins s1.crucibles.rings (16 * p + r) { base := b, entries := n, writeIdx := 0, dropped := 0 } } } : State).ok
  | .rosterSet r => ({ s with anvils := { s.anvils with roster := if r.start = 0 then { r with start := s.heat.count } else r } } : State).ok
  | .storeSet p n => (s.setStore p n).ok
  | .storeRelease p n blk => (s.releaseStore p n blk).ok
  | .programStart p g m a => (s.startProgram p g m a).ok
  | .programStop p g m => (s.stopProgram p g m).ok
  | .ctxSet c p a sub cpl n f => (s.setCtx c p a sub cpl n f).ok
  | .ctxReset c => (s.resetCtx c).ok
  | .ctxResume c skip => (s.resumeCtx c skip).ok
  | .spaceSet a p r => (s.setSpace a p r).okWith (leBytes 2 a ++ [0, 0])
  | .spaceFree a => (s.freeSpace a).ok
  | .invalidate a b n f => (s.invalidate a b n f).ok
  | .placeSet c m => (s.modCtx c (fun x => { x with place := m })).ok
  | .faultQueue p b n =>
    let s1 := s.newRing 3 p b n
    ({ s1 with tongs := { s1.tongs with
      faultQueues := tins s1.tongs.faultQueues p { base := b, entries := n, writeIdx := 0, dropped := 0 } } } : State).ok
  | .powerLimit w => ({ s with bellows := { s.bellows with limit := w } } : State).ok
  | .phaseDeclare p ph => (if (s.part p).state = .active then s.modPart p (fun x => { x with phase := ph }) else s).ok
  | .phaseSet ph pt => ({ s with bellows := { s.bellows with phases := tins s.bellows.phases ph pt } } : State).ok
  | .dramPower pd sr => ({ s with dram := { s.dram with pdIdle := pd, srIdle := sr } } : State).ok
  | .debugUnlock =>
    { state := { s with sec := { s.sec with debugUnlocked := true } }
      status := if s.sec.config.gpio0Fn = 1 then stPartial else stOk, payload := [] }
  | .debugLock => ({ s with sec := { s.sec with debugUnlocked := false } } : State).ok
  | .scrubFloor n =>
    ({ s with dram := { s.dram with
        scrubFloor := n
        walkers := tmap s.dram.walkers (fun _ w =>
          if w.level < n then { w with level := n, window := 0, corrected := 0, clean := 0, windowEnd := true } else w) } } : State).ok
  | .unitReturn u =>
    (s.modUnit u (fun x => { x with
      state := .warmUp, before := x.state, testUnits := 0, failing := false, dead := false, caError := false, retraining := false })).ok
  | .hearthReturn k => (if s.core k = .failed then (s.setCore k .warmUp).deviceEvent 0x087 else s).ok
  | .twinSet r h => (s.setTwin r h).ok
  | .twinEpoch p => s.beginEpoch p
  | .pairValues v => (s.joinPair v).ok

end Sys2Proof.Machine
end

