-- ==== Sys2Proof/Machine/Ics.lean ====
section
/-! DEFINITION. How Hearth serves a command (17_command_set.md): messages and their parts, the checks of Table — Command
checks, acceptance, the journal, and completion at a boundary or an event. -/

namespace Sys2Proof.Machine

/-! ### Messages and channels (R419, R424) -/

/-- The message that 16 header bytes and a payload spell. A LENGTH that the message does not hold is kept as a reserved
field that is not 0, so that it fails check 2. -/
def parseMsg (b : List Byte) : IcsMsg :=
  { opcode := le b 0 2, flags := le b 2 1, status := le b 3 1, tag := le b 4 4, partition := le b 8 1, partNo := le b 9 1
    reserved := le b 10 2 + le b 14 2 + (if b.length < 16 + le b 12 2 then 1 else 0), payload := (b.drop 16).take (le b 12 2) }

/-- The partition of a channel: that of a page, else 0 (R430). -/
def Chan.part : Chan → Nat
  | .page p => p
  | _ => 0

/-- A channel can carry a message that comes with its bytes: a head's mailbox while its link is active. -/
def State.chanUp (s : State) : Chan → Bool
  | .primary h => decide (h < 2) && (s.head h).link == .active
  | .secondary h => decide (h < 2) && (s.head h).link == .active
  | .sideband _ => false
  | .page _ => false

/-- The place of a channel in the rotation: the mailboxes of the heads, the sideband, the pages (R410). -/
def Chan.place : Chan → Nat
  | .primary h => h
  | .secondary h => 2 + h
  | .sideband _ => 4
  | .page p => 4 + p

/-- A submission waits on a page for Hearth to take it. -/
def Page.waits (g : Page) : Bool := g.state == 1 && g.due.isNone && !g.fetch

/-- It is the turn of a channel: no submission waits on a page that comes before it in rotation, after the channel served last
(R410). A message of another channel whose turn has not come stays with its sender. -/
def State.chanTurn (s : State) (ch : Chan) : Bool :=
  let dist (q : Nat) : Nat := (q + 67 - s.hearth.turn) % 68
  s.hearth.pages.all (fun g => !(g.2.waits && decide (dist (4 + g.1) < dist ch.place)))

/-- The message that a row's operand names, in its turn: one sent on a channel, one of the sideband that follows the device's enterprise
number (R425), or the one submitted on a page (R409, R410). -/
def State.icsTake (s : State) : IcsArg → Option (Chan × IcsMsg)
  | .direct ch m => if s.chanUp ch && s.chanTurn ch then some (ch, m) else none
  | .sideband r v m => if v = s.sec.config.sbVendorId && s.chanTurn (.sideband r) then some (.sideband r, m) else none
  | .page p => if (s.page p).waits && s.chanTurn (.page p) then some (.page p, parseMsg (s.page p).message) else none

/-- The roles that a channel admits (R427). -/
def State.admitted (s : State) (ch : Chan) : List Role :=
  let fm := if s.hearth.binding = some ch then [Role.fm] else []
  match ch with
  | .primary _ => fm ++ [.any]
  | .secondary _ => [.any, .mon]
  | .sideband _ => fm ++ [.any, .mon, .bmc]
  | .page _ => [.pr, .any]

/-- The payload bytes that one reply on a channel carries (R408, R421). -/
def State.replyRoom (s : State) : Chan → Nat
  | .page p => if (s.page p).indirect then 4096 else 4016
  | _ => 4096

/-! ### Replies (R420, R421) -/

/-- The flags of a reply. -/
def replyFlags (accepted more : Bool) : Nat := 1 + ofBool accepted * 2 + ofBool more * 8

/-- An ICS reply in a CXL mailbox: the CXL return code is success, and the ICS status travels in the reply's header (R390). -/
def IcsReply.overCxl (r : IcsReply) : CxlReply :=
  { opcode := r.opcode, code := rcSuccess, payload := icsBytes r.opcode r.flags r.status r.tag r.partition r.partNo r.payload }

/-- Writes a reply on a channel: a page completes, another channel holds it as its last reply. -/
def State.writeReply (s : State) (ch : Chan) (r : IcsReply) : State :=
  match ch with
  | .page p =>
    (s.modPage p (fun g => { g with accepted := bit r.flags 1 })).replyPage p r.status
      (icsBytes r.opcode r.flags r.status r.tag r.partition r.partNo r.payload)
  | .primary h => ((s.modChan ch (fun c => { c with reply := some r })).modHead h (fun x => { x with primary := some r.overCxl })).countHead h 36 1
  | .secondary h => ((s.modChan ch (fun c => { c with reply := some r })).modHead h (fun x => { x with secondary := some r.overCxl })).countHead h 38 1
  | .sideband _ => s.modChan ch (fun c => { c with reply := some r })

/-- Answers a command: only OK and PARTIAL carry a result; one that is longer than the reply goes out in parts. -/
def State.answerIcs (s : State) (ch : Chan) (opcode tag partition : Nat) (accepted : Bool) (status : Nat) (payload : List Byte) : State :=
  let room := s.replyRoom ch
  let pay := if status = stOk || status = stPartial then payload else []
  let r : IcsReply := { opcode := opcode, flags := replyFlags accepted (decide (room < pay.length)), status := status, tag := tag
                        partition := partition, partNo := 0, payload := pay.take room }
  let s1 := s.writeReply ch r
  if room < pay.length then s1.modChan ch (fun c => { c with result := some {
      opcode := opcode, tag := tag, partition := partition, status := status, accepted := accepted
      rest := pay.drop room, next := 1, heatsLeft := 64 } })
  else s1

/-- Refuses a message before acceptance. -/
def State.refuseIcs (s : State) (ch : Chan) (m : IcsMsg) (status : Nat) : State :=
  s.answerIcs ch m.opcode m.tag m.partition false status []

/-! ### The checks (R422) -/

/-- What the catalogue gives of a command: opcode, roles, form of its payload, the partitions that the payload names, and
what R421, R422 and R557 allow it. -/
structure IcsCmd where
  opcode : Nat
  roles : List Role
  form : List Byte → Bool
  names : List Byte → List Nat := fun _ => []
  clear : Bool := false
  /-- A FREE partition may be named (R557); a quenched one may be named (R81). -/
  freeOk : Bool := false
  quenchOk : Bool := false
  /-- The channels that the command's row allows beside its roles. -/
  channels : Chan → Bool := fun _ => true

/-- The opcodes of the catalogue (R433). -/
def catalogue : List Nat :=
  [0xC000, 0xC001, 0xC002, 0xC100, 0xC101, 0xC102, 0xC103, 0xC104, 0xC105, 0xC106, 0xC107,
   0xC200, 0xC201, 0xC202, 0xC203, 0xC204, 0xC205, 0xC206, 0xC207, 0xC210, 0xC211, 0xC212, 0xC213, 0xC214,
   0xC300, 0xC301, 0xC302, 0xC400, 0xC401, 0xC402, 0xC403, 0xC404, 0xC405, 0xC406, 0xC407] ++
  [0xC500, 0xC501, 0xC502, 0xC503, 0xC504, 0xC505, 0xC506, 0xC507,
   0xC600, 0xC601, 0xC602, 0xC603, 0xC604, 0xC605, 0xC606, 0xC610, 0xC611, 0xC620, 0xC621, 0xC622, 0xC623, 0xC624,
   0xC630, 0xC631, 0xC632, 0xC633, 0xC634, 0xC635, 0xC636, 0xC637, 0xC638] ++
  [0xC700, 0xC701, 0xC702, 0xC703, 0xC704, 0xC800, 0xC801, 0xC810, 0xC811, 0xC812, 0xC820, 0xC821,
   0xC900, 0xC901, 0xC902, 0xC903, 0xC904, 0xC910, 0xC911, 0xC912, 0xCA00, 0xCA01, 0xCA02, 0xCB00, 0xCB01, 0xCB02]

/-- Check 1: no core takes commands. In ROM recovery the sideband answers the firmware commands and nothing else (R456). On the page of a
QUENCHING or TOMBSTONE partition every submission but partition-information is QUENCHED (R413). -/
def State.coreRefuses (s : State) (ch : Chan) (opcode : Nat) : Option Nat :=
  if s.sec.recovery then
    (match ch with
     | .sideband _ => if 0xCB00 ≤ opcode && opcode ≤ 0xCB02 then none else some stFaulted
     | _ => some stFaulted)
  else match ch with
    | .page p => if opcode = 0xC102 then s.hearthRefuses else s.pageRefuses p
    | _ => s.hearthRefuses

/-- A twin member that is not primary refuses the commands that change tables it receives in the stream (R502). -/
def State.twinRefuses (s : State) (opcode : Nat) : Bool :=
  (s.twin.state == .syncing || s.twin.state == .standby || s.twin.state == .stale) &&
  ((decide (0xC100 ≤ opcode) && decide (opcode < 0xC700)) || opcode == 0xC911)

/-- Header fields that check 2 requires of a message whose part flags are allowed: reserved fields, STATUS, REPLY, ACCEPTED
and the unused flags are 0, CLEAR only where the command has it. -/
def IcsMsg.headerOk (m : IcsMsg) (clear : Bool) : Bool :=
  m.reserved == 0 && m.status == 0 && bits m.flags 0 2 == 0 && bits m.flags 5 3 == 0 && (clear || !bit m.flags 2) && decide (m.partition < 64)

/-- Check 4 for a channel and the partitions that a payload names (R430). -/
def partitionsOk (ch : Chan) (m : IcsMsg) (names : List Nat) : Bool :=
  m.partition == ch.part && (match ch with
    | .page p => names.all (· == p)
    | _ => true)

/-- Check 5 on the state that the commands accepted so far will produce (R81, R557). -/
def State.partitionRefuses (s : State) (cmd : IcsCmd) (l : List Nat) : Option Nat :=
  if !cmd.quenchOk && l.any (fun p => (s.part p).state == .quenching || (s.part p).state == .tombstone) then some stQuenched
  else if !cmd.freeOk && l.any (fun p => (s.part p).state == .free) then some stInvalid
  else none

/-- Sideband requesters served now, but for one (R425). -/
def State.otherRequesters (s : State) (ch : Chan) : Nat :=
  countIf s.hearth.chans (fun c => c.1 != ch && c.2.awaiting.isSome && (match c.1 with
    | .sideband _ => true
    | _ => false))

/-- Check 6: the channel awaits the reply of another command; a fifth requester of the sideband is BUSY. -/
def State.channelBusy (s : State) (ch : Chan) : Bool :=
  (s.chan ch).awaiting.isSome || (match ch with
    | .sideband _ => decide (4 ≤ s.otherRequesters ch)
    | _ => false)

/-- A change whose start heat lies ahead of the coming boundary (R234). -/
def Change.startOf : Change → Nat
  | .gateSet _ (some g) => g.start
  | .rosterSet r => r.start
  | _ => 0

/-- A change takes effect at a boundary whose heat is `h`: its start heat is that heat or has passed (R234). -/
def Change.due (c : Change) (h : Nat) : Bool := c.startOf == 0 || heatDiff c.startOf h == 0 || decide (2 ^ 47 ≤ heatDiff c.startOf h)

/-- What is known of the end of a command that waits for an event: a program will be loaded, a member list in force (R242, R305). -/
def State.projectEvent (s : State) : EventKey → State
  | .digest p g _ n live => { s with anvils := { s.anvils with programs := tins s.anvils.programs (16 * p + g) { length := n, liveMax := live, digest := [] } } }
  | .sweep p => ((s.coh.sweeps.find? (fun w => w.1 == p)).map (fun w => s.setMembers p w.2.2.1)).getD s
  | _ => s

/-- The state as it will stand when every command accepted so far has taken effect (R423). The other events leave an object in a
state that its commands answer with BUSY. -/
def State.projected (s : State) : State :=
  s.hearth.running.foldl (fun a r => match r.wait with
    | .boundary _ c => (a.apply c).state
    | .event k => a.projectEvent k
    | .ended _ _ => a) s

/-- Checks 1–6: the status of the first that fails; `proj` is the projected state. -/
def State.icsRefuses (s : State) (proj : State) (ch : Chan) (m : IcsMsg) (cmd : IcsCmd) : Option Nat :=
  match s.coreRefuses ch m.opcode with
  | some st => some st
  | none =>
    let names := cmd.names m.payload
    if !m.headerOk cmd.clear || !cmd.form m.payload then some stInvalid
    else if !cmd.roles.any (fun r => (s.admitted ch).contains r) || !cmd.channels ch || s.twinRefuses m.opcode then some stDenied
    else if !partitionsOk ch m names then some stDenied
    else match proj.partitionRefuses cmd (names ++ (if ch.part = 0 then [] else [ch.part])) with
    | some st => some st
    | none => if s.channelBusy ch then some stBusy else none

/-! ### Acceptance (R396, R423) -/

/-- What a command's own rules are decided on. -/
structure IcsReq where
  chan : Chan
  /-- The whole payload. -/
  pay : List Byte
  flags : Nat
  /-- The device as it stands, and as the commands accepted so far will leave it. -/
  now : State
  proj : State

/-- The partition of the caller. -/
def IcsReq.part (q : IcsReq) : Nat := q.chan.part

/-- How a command's own rules decide it: refused; done at acceptance with a reply; staged for the next boundary; or started,
to end with an event. `held` answers a step that is not accepted as a command and yet leaves something behind (R428).
`objs` are what it changes (R423). -/
inductive Decision where
  | refuse (status : Nat)
  | held (status : Nat) (s : State)
  | reply (status : Nat) (payload : List Byte) (s : State)
  | stage (objs : List Obj) (c : Change)
  | start (objs : List Obj) (k : EventKey) (s : State)

/-- The settings of a partition that a change of the partition as a whole conflicts with (R423). -/
def Obj.settingOf : Obj → Option Nat
  | .memberList p => some p
  | .coherence p => some p
  | .contextRange p => some p
  | .sealQuota p => some p
  | .gateGroup p => some p
  | _ => none

/-- Two changes touch one object. -/
def Obj.meets (a b : Obj) : Bool :=
  a == b ||
  (match a with
   | .partition p => b.settingOf == some p
   | _ => false) ||
  (match b with
   | .partition p => a.settingOf == some p
   | _ => false)

/-- A start heat other than 0 that has not passed at boundary `b`. -/
def startAhead (start b : Nat) : Bool := start != 0 && decide (heatDiff start b < 2 ^ 47)

/-- A roster or gate list that waits for its start boundary, up to that boundary, is replaced by a later command for the same table
(R234). -/
def State.replaced (s : State) (c : Change) (r : Running) : Bool :=
  match r.wait, c with
  | .boundary _ (.gateSet i (some g)), .gateSet j _ => i == j && startAhead g.start (s.heat.count + 1)
  | .boundary _ (.rosterSet x), .rosterSet _ => startAhead x.start (s.heat.count + 1)
  | _, _ => false

/-- A change of an object that an earlier accepted command is still changing (R423). -/
def State.conflicts (s : State) (objs : List Obj) (skip : Running → Bool) : Bool :=
  s.hearth.running.any (fun r => !skip r && (match r.wait with
    | .ended _ _ => false
    | _ => r.objs.any (fun o => objs.any o.meets)))

/-- Enters an accepted command in the journal; its channel awaits the reply. -/
def State.journal (s : State) (ch : Chan) (m : IcsMsg) (objs : List Obj) (w : Wait) : State :=
  let id := s.hearth.nextId
  let r : Running := { id := id, chan := ch, opcode := m.opcode, tag := m.tag, partition := m.partition, owed := true, objs := objs, wait := w }
  let s1 : State := { s with hearth := { s.hearth with running := s.hearth.running ++ [r], nextId := id + 1 } }
  match ch with
  | .page p => s1.modPage p (fun g => { g with state := 2, accepted := true })
  | _ => s1.modChan ch (fun c => { c with awaiting := some id })

/-- A channel has the reply of the command that it awaited; a page shows that in its own registers. -/
def State.answered (s : State) (ch : Chan) : State :=
  if (s.chan ch).awaiting.isNone then s else s.modChan ch (fun c => { c with awaiting := none })

/-- Writes the reply of an accepted command that has ended, unless it is no longer owed or no core can write it: then it
stays in the journal as ended (R397, R400). -/
def State.endRunning (s : State) (r : Running) (status : Nat) (payload : List Byte) : State :=
  let drop (x : State) : State := { x with hearth := { x.hearth with running := x.hearth.running.filter (fun y => y.id != r.id) } }
  if !r.owed then drop s
  else if s.hearthRefuses.isSome && !s.sec.recovery then
    { s with hearth := { s.hearth with running := s.hearth.running.map (fun y => if y.id = r.id then { y with wait := .ended status payload } else y) } }
  else ((drop s).answerIcs r.chan r.opcode r.tag r.partition true status payload).answered r.chan

/-- The commands that an accepted change replaces end with BUSY (R234). -/
def State.superseded (s : State) (c : Change) : State :=
  (s.hearth.running.filter (s.replaced c)).foldl (fun a r => a.endRunning r stBusy []) s

/-- What a decision does. -/
def State.carryOut (s : State) (ch : Chan) (m : IcsMsg) : Decision → State
  | .refuse st => s.refuseIcs ch m st
  | .held st t => t.refuseIcs ch m st
  | .reply st pay t => t.answerIcs ch m.opcode m.tag m.partition true st pay
  | .stage objs c =>
    if s.conflicts objs (s.replaced c) then s.refuseIcs ch m stBusy
    else (s.superseded c).journal ch m objs (.boundary 1 c)
  | .start objs k t =>
    if s.conflicts objs (fun _ => false) then s.refuseIcs ch m stBusy else t.journal ch m objs (.event k)

/-! ### Parts (R421) -/

/-- Hearth has taken a command from a channel: the turn moves on (R410). -/
def State.turned (s : State) (ch : Chan) : State := { s with hearth := { s.hearth with turn := ch.place } }

/-- A message whose OPCODE or TAG differs from those of the command held discards what the channel holds. -/
def State.dropHeld (s0 : State) (ch : Chan) (m : IcsMsg) : State :=
  let s := s0.turned ch
  let c := s.chan ch
  if c.parts.isNone && c.result.isNone then s
  else s.modChan ch (fun x => { x with
    parts := x.parts.filter (fun h => h.opcode == m.opcode && h.tag == m.tag)
    result := x.result.filter (fun h => h.opcode == m.opcode && h.tag == m.tag) })

/-- The payload of a message that is the last part of a command, or the whole of it; none when its PART_NO is not the next. -/
def State.wholePayload (s : State) (ch : Chan) (m : IcsMsg) : Option (List Byte) :=
  if 4096 < m.payload.length then none
  else match (s.chan ch).parts with
  | some h => if m.partNo = h.next && h.got.length + m.payload.length ≤ 65536 then some (h.got ++ m.payload) else none
  | none => if m.partNo = 0 then some m.payload else none

/-- A message that is the whole or the last part of a command is taken: its channel holds no request parts any more. -/
def State.taken (s : State) (ch : Chan) (m : IcsMsg) : State := (s.dropHeld ch m).modChan ch (fun c => { c with parts := none })

/-- Serves a command that is not split, or whose last part this is (R421–R423). A message that sets MORE or CONTINUE is
another row's. -/
def State.serve (s : State) (arg : IcsArg) (cmd : IcsCmd) (rules : IcsReq → Decision) : State :=
  match s.icsTake arg with
  | none => s
  | some (ch, m) =>
    if m.opcode ≠ cmd.opcode || bits m.flags 3 2 ≠ 0 then s
    else
      let s2 := s.taken ch m
      match (s.dropHeld ch m).wholePayload ch m with
      | none => s2.refuseIcs ch m ((s2.coreRefuses ch m.opcode).getD stInvalid)
      | some pay =>
        let whole : IcsMsg := { m with payload := pay }
        let proj := s2.projected
        match s2.icsRefuses proj ch whole cmd with
        | some st => s2.refuseIcs ch m st
        | none => s2.carryOut ch m (rules { chan := ch, pay := pay, flags := m.flags, now := s2, proj := proj })

/-- The commands that take request parts. -/
def takesParts (opcode : Nat) : Bool := opcode == 0xC210 || opcode == 0xC601 || opcode == 0xC610

/-- ICS_REQUEST_PART: a part that is not the last is held and answered OK. A message that check 2 refuses fails with INVALID and changes
nothing; a part out of order fails with INVALID, and the parts held are discarded (R421). -/
def execIcsRequestPart (arg : IcsArg) (s : State) : Out :=
  done (match s.icsTake arg with
  | none => s
  | some (ch, m) =>
    if !bit m.flags 3 then s
    else
      let s1 := s.dropHeld ch m
      match s1.coreRefuses ch m.opcode with
      | some st => s1.refuseIcs ch m st
      | none =>
        let held := (s1.chan ch).parts
        let got := (held.map (·.got)).getD []
        if bit m.flags 4 || !takesParts m.opcode || !m.headerOk false || 4096 < m.payload.length then s1.refuseIcs ch m stInvalid
        else if m.partNo ≠ (held.map (·.next)).getD 0 || 65536 < got.length + m.payload.length || 15 ≤ m.partNo then
          (s1.modChan ch (fun c => { c with parts := none })).refuseIcs ch m stInvalid
        else
          (s1.modChan ch (fun c => { c with parts := some {
            opcode := m.opcode, tag := m.tag, got := got ++ m.payload, next := m.partNo + 1, heatsLeft := 64 } })).refuseIcs ch m stOk)

/-- ICS_CONTINUE: the next part of a held result; anything else fails with INVALID and changes nothing (R421). -/
def execIcsContinue (arg : IcsArg) (s : State) : Out :=
  done (match s.icsTake arg with
  | none => s
  | some (ch, m) =>
    if bits m.flags 3 2 ≠ 2 then s
    else
      let s1 := s.dropHeld ch m
      match s1.coreRefuses ch m.opcode with
      | some st => s1.refuseIcs ch m st
      | none =>
        match (s1.chan ch).result with
        | none => s1.refuseIcs ch m stInvalid
        | some h =>
          if !m.headerOk false || !m.payload.isEmpty || m.partNo ≠ h.next then s1.refuseIcs ch m stInvalid
          else if m.partition ≠ ch.part then s1.refuseIcs ch m stDenied
          else
            let room := s1.replyRoom ch
            let more := decide (room < h.rest.length)
            let s2 := s1.modChan ch (fun c => { c with
              result := if more then some { h with rest := h.rest.drop room, next := h.next + 1, heatsLeft := 64 } else none })
            s2.writeReply ch {
              opcode := m.opcode, flags := replyFlags h.accepted more, status := h.status, tag := m.tag
              partition := m.partition, partNo := m.partNo, payload := h.rest.take room })

/-- ICS_HELD_PARTS_EXPIRY: 64 heats after the last part, what a channel holds is discarded (R421). -/
def execIcsHeldPartsExpiry (chan : Chan) (s : State) : Out :=
  done (if (s.chan chan).parts.any (fun h => h.heatsLeft == 0) || (s.chan chan).result.any (fun h => h.heatsLeft == 0) then
    s.modChan chan (fun c => { c with
      parts := c.parts.filter (fun h => h.heatsLeft != 0), result := c.result.filter (fun h => h.heatsLeft != 0) })
  else s)

/-- RESERVED_ICS_OPCODE: an opcode that the catalogue does not list fails check 2 (R422, R433). -/
def execReservedIcsOpcode (arg : IcsArg) (s : State) : Out :=
  done (match s.icsTake arg with
  | none => s
  | some (ch, m) =>
    if catalogue.contains m.opcode || bits m.flags 3 2 ≠ 0 then s
    else
      let s1 := s.taken ch m
      s1.refuseIcs ch m ((s1.coreRefuses ch m.opcode).getD stInvalid))

/-! ### Completion (R431, R432) -/

/-- What a command goes on to wait for once its change has taken effect with result `pay`, and whether it is async: its reply is then
written at the boundary. -/
def State.followUp (s : State) (pay : List Byte) : Change → Option (EventKey × Bool)
  | .extentAdd n _ => some (.extentActive n, false)
  | .extentRelease n => some (.extentFree n, false)
  | .memberSet p _ => if s.coh.sweeps.any (·.1 == p) then some (.sweep p, false) else none
  | .sealUnmap n => some (.unmapDrain n, false)
  | .sealRelease sid => some (.sealFree sid, false)
  | .ctxReset c => if (s.ctx c).resetting then some (.contextReset c, false) else none
  | .invalidate a _ _ true => if s.fencePending a then some (.fence a pay, false) else none
  | .spaceSet a _ _ => if s.fencePending a then some (.fence a pay, false) else none
  | .unitReturn u => some (.unitReturn u, true)
  | .hearthReturn k => some (.hearthReturn k, true)
  | .twinEpoch p => if (s.epoch p).copying then some (.twinEpoch p, true) else none
  | _ => none

/-- The end of what a command waits for: its status and result once it has come. -/
def State.eventDone (s : State) : EventKey → Option (Nat × List Byte)
  | .extentActive n => if (s.ext n).state = .active then some (stOk, leBytes 2 (s.ext n).dpaBlk ++ leBytes 2 n) else none
  | .extentFree n => if (tfind s.parts.extents n).isNone then some (stOk, []) else none
  | .sweep p => if s.coh.sweeps.any (·.1 == p) then none else some (stOk, [])
  | .unmapDrain n => if (s.ext n).unmapOnly then none else some (stOk, [])
  | .sealFree sid => if (tfind s.parts.seals sid).isNone then some (stOk, []) else none
  | .contextReset c => if (s.ctx c).resetting then none else some (stOk, [])
  | .fence a pay => if s.tongs.cleared.contains a then some (stOk, pay) else none
  | .unitReturn u => if (s.unit u).state = .warmUp then none else some (stOk, [])
  | .hearthReturn k => if s.core k = .warmUp || s.core k = .syncing then none else some (stOk, [])
  | .hearthSwitch => if s.hearth.switching then none else some (stOk, [])
  | .twinEpoch p => if (s.epoch p).copying then none else some (stOk, [])
  | .digest _ _ _ _ _ => none
  | .report => none
  | .programmed => none
  | .verified _ => none

/-- The commands that are async: their end raises device event 0x0A0 (R432). -/
def asyncOp (opcode : Nat) : Bool := opcode == 0xC902 || opcode == 0xC903 || opcode == 0xC904 || opcode == 0xC911

/-- A command ends: its reply where one is still owed, and device event 0x0A0 where it is async (R432). -/
def State.concludes (s : State) (r : Running) (status : Nat) (payload : List Byte) : State :=
  if asyncOp r.opcode then (s.endRunning r status payload).deviceEvent 0x0A0 else s.endRunning r status payload

/-- A command whose change has taken effect: it ends, or waits for an event; an async one replies now. -/
def State.afterApply (s : State) (r : Running) (c : Change) (a : Applied) : State :=
  if a.status ≠ stOk && a.status ≠ stPartial then s.concludes r a.status []
  else match s.followUp a.payload c with
  | none => s.concludes r a.status a.payload
  | some (k, async) =>
    let wait (x : State) (owed : Bool) : State := { x with hearth := { x.hearth with
      running := x.hearth.running.map (fun y => if y.id = r.id then { y with wait := .event k, owed := owed } else y) } }
    if async then
      let s1 := wait s false
      if !r.owed then s1
      else if s.hearthRefuses.isNone then (s1.answerIcs r.chan r.opcode r.tag r.partition true a.status a.payload).answered r.chan
      else { s1 with hearth := { s1.hearth with
        running := s1.hearth.running ++ [{ r with id := s1.hearth.nextId, objs := [], wait := .ended a.status a.payload }]
        nextId := s1.hearth.nextId + 1 } }
    else wait s r.owed

/-- Commands whose event has come end; commands that ended while no core could reply are answered (R397). While no core
serves commands, nothing of this happens (R400). -/
def State.resolve (s : State) : State :=
  if s.hearthRefuses.isSome then s
  else s.hearth.running.foldl (fun a r => match r.wait with
    | .event k => match a.eventDone k with
      | some (st, pay) => a.concludes r st pay
      | none => a
    | .ended st pay => a.endRunning r st pay
    | .boundary _ _ => a) s

/-- A command concerns a partition: it came from its page, or changes something of it. -/
def State.concerns (s : State) (p : Nat) (r : Running) : Bool :=
  r.chan == .page p || r.objs.any (fun o => match o with
    | .partition q => q == p
    | .extent n => (s.ext n).part == p
    | .psaBlock q _ => q == p
    | .sealObj n => (s.seal n).part == p
    | _ => o.settingOf == some p)

/-- At Bq the commands of the partition that still run complete with QUENCHED, one whose reply waits to be written among them (R95,
R413). -/
def State.quenchCommands (s : State) (p : Nat) : State :=
  let s1 := if (s.page p).state = 2 && (s.page p).due.isSome then s.finishPage p stQuenched 0 false else s
  s1.hearth.running.foldl (fun a r => match r.wait with
    | .event _ => if s.concerns p r then a.concludes r stQuenched [] else a
    | .boundary _ _ => if r.chan = .page p then a.concludes r stQuenched [] else a
    | .ended _ _ => if r.chan = .page p then a.endRunning r stQuenched [] else a) s1

/-- One accepted command at a boundary: its change takes effect when it is due (R32, R234). -/
def State.runChange (s : State) (r : Running) : State :=
  match s.hearth.running.find? (fun y => y.id == r.id) with
  | none => s
  | some y => match y.wait with
    | .boundary _ c =>
      if !c.due s.heat.count then s
      else
        let a := s.apply c
        let s1 := a.state.afterApply y c a
        match c with
        | .partitionDestroy p => s1.quenchCommands p
        | _ => s1
    | _ => s

/-- The changes of accepted commands at a boundary, in the order of acceptance (R423). -/
def State.runChanges (s : State) : State :=
  let s1 := s.hearth.staged.foldl (fun a x => if x.1 ≤ 1 then (a.apply x.2).state else a) s
  let s2 : State := { s1 with hearth := { s1.hearth with
    staged := s.hearth.staged.filterMap (fun x => if x.1 ≤ 1 then none else some (x.1 - 1, x.2)) } }
  s.hearth.running.foldl State.runChange s2

/-- A boundary at the channels: timeouts of the pages and of what channels hold, replies that waited for their buffer, those of accepted
commands only while a core is active (R397, R400), messages that waited for it, and the requests that the register bridge holds (R408, R411, R418, R421, R428). -/
def State.chansTick (s : State) : State :=
  let s1 : State := { s with hearth := { s.hearth with
    pages := tmap s.hearth.pages (fun _ g => { g with left := g.left.map (· - 1) })
    chans := s.hearth.chans.map (fun c => (c.1, { c.2 with
      parts := c.2.parts.map (fun h => { h with heatsLeft := h.heatsLeft - 1 })
      result := c.2.result.map (fun h => { h with heatsLeft := h.heatsLeft - 1 })
      nonce := c.2.nonce.map (fun n => (n.1, n.2 - 1)) })) } }
  let s2 := s1.hearth.pages.foldl (fun a g => match g.2.due with
    | some (st, l) => if g.2.accepted && s1.hearthRefuses.isSome then a else a.replyPage g.1 st l
    | none => if g.2.fetch then a.fetchMsg g.1 else a) s1
  s2.bridgeDrains 64

/-! ### Events that end a command between boundaries -/

/-- CONTEXT_RESET_COMPLETE: the strokes of the stopped descriptors have committed (R286). -/
def execContextResetComplete (ctx : Nat) (s : State) : Out :=
  let x := s.ctx ctx
  done (if x.state = .free || !x.resetting || (s.part x.part).state ≠ .active || !x.started.all (fun d => d.inFlight.isEmpty) then s
  else (s.endReset ctx).resolve)

/-- The fenced invalidations that commands wait for and that a boundary finds with no stroke of theirs in flight (R284). -/
def State.clearFences (s : State) : State :=
  let asids := s.hearth.running.filterMap (fun r => match r.wait with
    | .event (.fence a _) => if s.fencePending a then none else some a
    | _ => none)
  { s with tongs := { s.tongs with cleared := asids } }

/-- INVALIDATION_FENCE_COMPLETE: the last stroke issued before the invalidation has committed; the command completes at the boundary
that follows it (R284), so between that commit and the boundary nothing happens yet. -/
def execInvalidationFenceComplete (asid : Nat) (s : State) : Out :=
  done (if s.tongs.cleared.contains asid then s.resolve else s)

end Sys2Proof.Machine
end

