-- ==== Sys2Proof/Machine/HearthCmd.lean ====
section
/-! DEFINITION. The Hearth pair (16_hearth_registers.md): failure of the active core, the switch-over, the return of a core,
REPLACE_STATUS, and the events that take a fabric-manager nonce or binding away. -/

namespace Sys2Proof.Machine

/-! ### REPLACE_STATUS (R515) -/

/-- Stacks with a channel marked failed, one bit each. -/
def State.failedStacks (s : State) : Nat :=
  maskOf ((List.range 8).filter (fun k => (List.range 32).any (fun c => (s.unit (32 * k + c)).state == .failed || (s.unit (32 * k + c)).serving)))

/-- The bulk spare region is used up (R122): the pieces that a rank could still take count. -/
def State.spareUsedUp (s : State) : Bool :=
  s.dram.rankFailed ||
  (s.dram.spareDrawn && decide ((((s.freeRuns 1024).map (·.count)).foldl (· + ·) 0) * 131072 < s.largestRank * 2 ^ 30))

/-- Anvils that failed self-test at the last boot. -/
def State.failedAnvils (s : State) : Nat := 64 - countIf s.anvils.anvils (fun a => a.2.passed)

/-- Ports that meet the port criterion. -/
def State.poorPorts (s : State) : Nat :=
  ((List.range 24).filter (fun i => ((s.egress i).expected != .none || (s.egress i).twin) &&
    ((s.port i).state == .down || ((s.port i).txLanes != 0 && decide (popCount 4 (s.port i).txLanes ≤ 1))))).length

/-- A core is FAILED, or in WARM-UP or SYNCING after a failure. -/
def State.coreWanting (s : State) : Bool := [s.hearth.core0, s.hearth.core1].any (fun c => c != .active && c != .standby)

/-- The value of REPLACE_STATUS by its criteria. -/
def State.replaceValue (s : State) : Nat :=
  ofBool (s.failedStacks != 0) + ofBool s.spareUsedUp * 2 + ofBool (decide (4 < s.failedAnvils)) * 4 +
  ofBool (decide (2 < s.poorPorts)) * 8 + ofBool s.coreWanting * 16 +
  s.failedStacks * 2 ^ 8 + s.failedAnvils * 2 ^ 16 + s.poorPorts * 2 ^ 24

/-- REPLACE_STATUS is evaluated: a change fires source 0x084, and the assertion of REPLACE_N posts a Warning record. While no
core writes registers it holds its value (R398). -/
def State.evalReplace (s : State) : State :=
  let v := s.replaceValue
  if v = s.boot.replaceStatus || s.hearth.heldRegs.isSome then s
  else
    let s1 := ({ s with boot := { s.boot with replaceStatus := v } } : State).deviceEvent 0x084
    if s.boot.replaceStatus % 32 = 0 && v % 32 ≠ 0 then s1.postBoth 1 .replace 0 0 v else s1

/-! ### The switch-over (R397–R400) -/

/-- What a switch-over discards on the channels: held parts, held results, and commands posted and not yet accepted (R398,
R421). -/
def State.clearChannels (s : State) : State :=
  let s1 : State := { s with hearth := { s.hearth with
    chans := s.hearth.chans.map (fun c => (c.1, { c.2 with parts := none, result := none })) } }
  s1.hearth.pages.foldl (fun a g => if g.2.state = 1 && g.2.due.isNone then a.refusePage g.1 stBusy else a) s1

/-- A switch-over begins: SWITCHING is set, and the registers that Hearth writes hold their values (R397, R398). -/
def State.beginSwitch (s : State) (planned : Bool) : State :=
  State.clearChannels { s with hearth := { s.hearth with
    switching := true, switchLeft := 2, planned := planned, heldRegs := some s.devRegs } }

/-- The other core can take the active role. -/
def State.otherStands (s : State) : Bool := s.core (1 - s.hearth.active) == .standby

/-- The role passes to the other core (R397, R399). -/
def State.passRole (s : State) : State :=
  let a := s.hearth.active
  let s1 := (s.setCore (1 - a) .active).setCore a (if s.hearth.planned then .standby else .failed)
  { s1 with hearth := { s1.hearth with active := 1 - a, switching := false, planned := false, heldRegs := none } }

/-- The cores have their roles, from step 4 of the boot on, and one is active or takes over (R395, R400). -/
def State.coresServe (s : State) : Bool := decide (4 ≤ s.boot.step) && s.pins.pwrok && s.pins.sysRstN && !s.sec.recovery && !s.hearth.lost

/-- HEARTH_FAILURE_DETECTED: the switch-over starts, or, with no standby, the way to HEARTH_LOST (R397, R400). A failure
during a planned switch-over makes it an unplanned one. -/
def execHearthFailureDetected (s : State) : Out :=
  done (if !s.coresServe then s
  else if s.hearth.switching then { s with hearth := { s.hearth with planned := false } }
  else s.beginSwitch false)

/-- HEARTH_SWITCH_COMPLETE: boundary n + 2 (R397, R399). -/
def execHearthSwitchComplete (s : State) : Out :=
  done (if !s.hearth.switching || s.hearth.switchLeft ≠ 0 then s
  else if s.otherStands then (s.passRole.evalReplace.deviceEvent 0x087).resolve
  else if s.hearth.planned then
    State.resolve { s with hearth := { s.hearth with switching := false, planned := false, heldRegs := none } }
  else s)

/-- HEARTH_LOST: the second boundary after a failure that no standby takes over (R400). -/
def execHearthLost (s : State) : Out :=
  done (if !s.hearth.switching || s.hearth.switchLeft ≠ 0 || s.hearth.planned || s.otherStands then s
  else
    let s1 := s.setCore s.hearth.active .failed
    ({ s1 with hearth := { s1.hearth with switching := false, lost := true } } : State).deviceEvent 0x087)

/-- HEARTH_WARM_UP_END: the self-test of a returning core ends (R399). -/
def execHearthWarmUpEnd (core : Nat) (pass : Bool) (s : State) : Out :=
  done (if 1 < core || s.core core ≠ .warmUp then s
  else if pass then (s.setCore core .syncing).deviceEvent 0x087
  else ((s.setCore core .failed).deviceEvent 0x087).resolve)

/-- The active core has failed, and none is active (R397, R400). -/
def State.coreless (s : State) : Bool := s.hearth.lost || s.hearth.switching && !s.hearth.planned

/-- HEARTH_SYNC_COMPLETE: the copy of the tables is complete; the core is STANDBY at the next boundary (R399). It copies from
the active core, so there is none once that has failed. -/
def execHearthSyncComplete (core : Nat) (s : State) : Out :=
  done (if 1 < core || s.core core ≠ .syncing || s.coreless || s.hearth.synced.contains core then s
  else { s with hearth := { s.hearth with synced := addSorted core s.hearth.synced } })

/-- STANDBY_FAILURE_DETECTED: the standby core fails (R399). -/
def execStandbyFailureDetected (s : State) : Out :=
  done (if !s.coresServe || !s.otherStands then s
  else ((s.setCore (1 - s.hearth.active) .failed).evalReplace).deviceEvent 0x087)

/-- The Hearth pair at a boundary: the switch-over counts, a core that is in step becomes STANDBY (R397, R399), unless the active core
failed while it was SYNCING (R400). -/
def State.hearthTick (s : State) : State :=
  let s1 : State := { s with hearth := { s.hearth with switchLeft := s.hearth.switchLeft - 1, synced := [] } }
  if s.coreless then s1
  else s.hearth.synced.foldl (fun a c => if a.core c = .syncing then (a.setCore c .standby).deviceEvent 0x087 else a) s1

/-! ### The fabric-manager binding (R428, R429) -/

/-- FM_CHALLENGE_EXPIRY: 64 heats after it was issued, a nonce lapses (R428). -/
def execFmChallengeExpiry (chan : Chan) (s : State) : Out :=
  done (if (s.chan chan).nonce.any (fun n => n.2 == 0) then s.modChan chan (fun c => { c with nonce := none, bindPart := none }) else s)

/-- I3C_BUS_RESET: an endpoint reassignment or bus reset drops a binding of the sideband (R429). -/
def execI3cBusReset (s : State) : Out :=
  done (match s.hearth.binding with
  | some (.sideband _) => { s with hearth := { s.hearth with binding := none } }
  | _ => s)

end Sys2Proof.Machine
end

