-- ==== Sys2Proof/Machine/IcsParts.lean ====
section
/-! DEFINITION. The command groups 0xC0xx to 0xC3xx (17_command_set.md): device and information, partitions, extents and
seals, placement and hints; with the rules of 03, 04, 12, 15, 18 and 19 that decide them. -/

namespace Sys2Proof.Machine

/-! ### Forms of payloads -/

/-- A payload of `n` bytes whose reserved fields (offset, length) are 0 (R10, R440). -/
def fixedForm (n : Nat) (reserved : List (Nat × Nat)) (l : List Byte) : Bool :=
  l.length == n && reserved.all (fun r => zeroField l r.1 r.2)

/-- A field of a payload that holds a PSA block: bits [31:20] are reserved. -/
def psaBlkOk (l : List Byte) (off : Nat) : Bool := decide (le l off 4 < 2 ^ 20)

/-- An address field of 8 bytes with [63:48] zero. -/
def addrField (l : List Byte) (off : Nat) : Bool := decide (le l off 8 < 2 ^ 48)

/-- A partition ID that a payload may name. -/
def partId (p : Nat) : Bool := decide (1 ≤ p) && decide (p < 64)

/-- The first of some rules that is broken decides the refusal; else the decision stands. -/
def firstBroken : List (Bool × Nat) → Decision → Decision
  | [], d => d
  | (true, st) :: _, _ => .refuse st
  | (false, _) :: r, d => firstBroken r d

/-- A command that answers at its acceptance from the state as it stands. -/
def IcsReq.answer (q : IcsReq) (l : List Byte) : Decision := .reply stOk l q.now

/-- Serves a command that changes nothing but its reply. -/
def State.serveDone (s : State) (arg : IcsArg) (cmd : IcsCmd) (rules : IcsReq → Decision) : Out := done (s.serve arg cmd rules)

/-! ### Device and information (0xC0xx) -/

/-- Table — Device information (R434). -/
def State.deviceInfo (s : State) : List Byte :=
  leBytes 8 s.devRegs.1 ++ leBytes 8 s.devRegs.2.1 ++
  [BitVec.ofNat 8 s.sec.config.orderCode, BitVec.ofNat 8 (countIf s.dram.stackTab (fun k => k.2.populated)),
   BitVec.ofNat 8 s.sec.config.stackSpares, BitVec.ofNat 8 s.sec.config.bulkSpare] ++
  leBytes 2 s.sec.config.cacheRegion ++
  [BitVec.ofNat 8 (if s.bulkPresent then (s.bulkCh 0).mode else 0), BitVec.ofNat 8 (countIf s.anvils.anvils (fun a => a.2.passed))] ++
  leBytes 4 (s.bulkBytes / gib) ++ leBytes 4 (s.stackUsable / 2 ^ 20) ++
  [BitVec.ofNat 8 (popCount 8 s.crucibles.passed), BitVec.ofNat 8 (pop64 s.tongs.passed), BitVec.ofNat 8 s.hearth.active, 0] ++
  leBytes 4 s.sec.fwVersion ++ leBytes 4 s.sec.cfgVersion ++ leBytes 4 s.sec.fwFloor ++ fit 32 s.sec.identityHash ++ zeros 48

/-- The row of deviceInformation in the catalogue (R433). -/
def deviceInformationCmd : IcsCmd := { opcode := 0xC000, roles := [.any], form := fixedForm 0 [] }

/-- DEVICE_INFORMATION (R434). -/
def execDeviceInformation (arg : IcsArg) (s : State) : Out :=
  s.serveDone arg deviceInformationCmd (fun q => q.answer q.now.deviceInfo)

/-- The row of configRecordRead in the catalogue (R433). -/
def configRecordReadCmd : IcsCmd := { opcode := 0xC001, roles := [.fm, .bmc], form := fixedForm 8 [] }

/-- The rules of configRecordRead itself, in their order, with the status of each. -/
def configRecordReadRules (q : IcsReq) : List (Bool × Nat) :=
  let off := le q.pay 0 4
  let n := le q.pay 4 4
  [(n == 0 || decide (4096 < n) || decide (tget 0 q.now.sec.flash.lengths 3 < off + n), stInvalid)]

/-- CONFIG_RECORD_READ: bytes of the signed configuration record in force, within what is stored of it. -/
def execConfigRecordRead (arg : IcsArg) (s : State) : Out :=
  s.serveDone arg configRecordReadCmd (fun q =>
    let off := le q.pay 0 4
    let n := le q.pay 4 4
    firstBroken (configRecordReadRules q) (q.answer (bread (tget [] q.now.sec.flash.objects 3) off n)))

/-- The row of certificateChainRead in the catalogue (R433). -/
def certificateChainReadCmd : IcsCmd := { opcode := 0xC002, roles := [.any], form := fixedForm 8 [] }

/-- The rules of certificateChainRead itself, in their order, with the status of each. -/
def certificateChainReadRules (q : IcsReq) : List (Bool × Nat) :=
  let off := le q.pay 0 4
  let n := le q.pay 4 4
  [(n == 0 || decide (4096 < n) || decide (0x40000 < off + n), stInvalid)]

/-- CERTIFICATE_CHAIN_READ: bytes of the flash range of the identity certificate chain (R459). -/
def execCertificateChainRead (arg : IcsArg) (s : State) : Out :=
  s.serveDone arg certificateChainReadCmd (fun q =>
    let off := le q.pay 0 4
    let n := le q.pay 4 4
    firstBroken (certificateChainReadRules q) (q.answer (bread q.now.sec.flash.chain off n)))

/-! ### Partitions (0xC1xx) -/

/-- Every change of the member lists, settings and window of a partition names it in byte 0. -/
def nameAt0 (l : List Byte) : List Nat := [le l 0 1]

/-- The window lies within the PSA space (R84) and SPAN is allowed. -/
def windowOk (psaBase span : Nat) : Bool := decide (1 ≤ span) && decide (span ≤ 32768) && decide (psaBase + span ≤ 2 ^ 20)

/-- Seal blocks that a partition uses. -/
def State.sealUsed (s : State) (p : Nat) : Nat := countIf s.parts.extents (fun e => e.2.part == p && e.2.ro)

/-- Table — Partition record (R78): of a FREE partition, the ID and nothing else (R557). -/
def State.partRecord (s : State) (p : Nat) : List Byte :=
  let x := s.part p
  let code := match x.state with
    | .free => 0 | .active => 1 | .quenching => 2 | .tombstone => 3
  if x.state = .free then BitVec.ofNat 8 p :: zeros 63
  else
    [BitVec.ofNat 8 p, BitVec.ofNat 8 code, BitVec.ofNat 8 (ofBool x.confidential),
     BitVec.ofNat 8 (ofBool x.keyPresent + ofBool x.fenceComplete * 2 + ofBool x.zeroingComplete * 4)] ++
    leBytes 4 x.psaBase ++ leBytes 2 x.span ++ leBytes 2 x.dirOff ++
    leBytes 2 (countIf s.parts.extents (fun e => e.2.part == p && !e.2.ro)) ++
    leBytes 2 (countIf s.parts.extents (fun e => e.2.part == p && e.2.coh == 1)) ++
    leBytes 2 x.sealQuota ++ leBytes 2 (s.sealUsed p) ++ leBytes 2 x.members.length ++ zeros 2 ++
    leBytes 8 x.createHeat ++ leBytes 8 x.stateHeat ++ zeros 24

/-- The row of partitionCreate in the catalogue (R433). -/
def partitionCreateCmd : IcsCmd := { opcode := 0xC100, roles := [.fm], form := fun l => fixedForm 16 [(2, 2), (12, 4)] l && psaBlkOk l 4, names := nameAt0, freeOk := true }

/-- The rules of partitionCreate itself, in their order, with the status of each. -/
def partitionCreateRules (q : IcsReq) : List (Bool × Nat) :=
  let p := le q.pay 0 1
  let conf := le q.pay 1 1 == 1
  let base := le q.pay 4 4
  let span := le q.pay 8 2
  [
    (!partId p || decide (1 < le q.pay 1 1) || !windowOk base span, stInvalid),
    ((q.proj.part p).state != .free, stInvalid),
    (conf && q.proj.sec.debugUnlocked, stDenied),
    (q.now.sec.drbgStopped || (conf && q.now.sec.identityFailed), stFaulted),
    (conf && decide (12 - q.proj.tagWays < q.proj.reservedWays + q.proj.sec.config.confWays), stNoResource),
    (decide (65536 < q.proj.dirUsed p + span), stNoResource)]

/-- PARTITION_CREATE (R79–R81, R84, R435, R459, R463, R472, R522). -/
def execPartitionCreate (arg : IcsArg) (s : State) : Out :=
  s.serveDone arg partitionCreateCmd (fun q =>
    let p := le q.pay 0 1
    let conf := le q.pay 1 1 == 1
    let base := le q.pay 4 4
    let span := le q.pay 8 2
    firstBroken (partitionCreateRules q) (.stage [.partition p] (.partitionCreate p conf base span (le q.pay 10 2))))

/-- The row of partitionDestroy in the catalogue (R433). -/
def partitionDestroyCmd : IcsCmd := { opcode := 0xC101, roles := [.fm], form := fixedForm 4 [(1, 3)], names := nameAt0 }

/-- PARTITION_DESTROY: the quench begins at Bq (R96). -/
def execPartitionDestroy (arg : IcsArg) (s : State) : Out :=
  s.serveDone arg partitionDestroyCmd (fun q => .stage [.partition (le q.pay 0 1)] (.partitionDestroy (le q.pay 0 1)))

/-- The row of partitionInformation in the catalogue (R433). -/
def partitionInformationCmd : IcsCmd := { opcode := 0xC102, roles := [.fm, .pr], form := fixedForm 4 [(1, 3)], names := nameAt0, freeOk := true, quenchOk := true }

/-- The rules of partitionInformation itself, in their order, with the status of each. -/
def partitionInformationRules (q : IcsReq) : List (Bool × Nat) :=
  [(!partId (le q.pay 0 1), stInvalid)]

/-- PARTITION_INFORMATION (R78, R81, R557). -/
def execPartitionInformation (arg : IcsArg) (s : State) : Out :=
  s.serveDone arg partitionInformationCmd (fun q =>
    firstBroken (partitionInformationRules q) (q.answer (q.now.partRecord (le q.pay 0 1))))

/-- An extent of partition `p` that holds PSA block `blk`: mapped, filling, or leaving it (R88, R95). -/
def State.extAt (s : State) (p blk : Nat) : Option (Nat × Extent) :=
  s.parts.extents.find? (fun e => e.2.part == p && e.2.psaBlk == blk &&
    (e.2.mapped || (!e.2.ro && (e.2.state == .filling || e.2.state == .releasing || e.2.state == .scrubbing))))

/-- A PSA block lies in the window of a partition. -/
def State.inWindow (s : State) (p blk : Nat) : Bool :=
  decide ((s.part p).psaBase ≤ blk) && decide (blk < (s.part p).psaBase + (s.part p).span)

/-- The row of partitionSpanSet in the catalogue (R433). -/
def partitionSpanSetCmd : IcsCmd := { opcode := 0xC103, roles := [.fm], form := fun l => fixedForm 12 [(1, 3), (10, 2)] l && psaBlkOk l 4, names := nameAt0 }

/-- The rules of partitionSpanSet itself, in their order, with the status of each. -/
def partitionSpanSetRules (q : IcsReq) : List (Bool × Nat) :=
  let p := le q.pay 0 1
  let base := le q.pay 4 4
  let span := le q.pay 8 2
  let held (e : Nat × Extent) : Bool := e.2.part == p && (q.proj.extAt p e.2.psaBlk).any (·.1 == e.1)
  [
    (!windowOk base span, stInvalid),
    (q.proj.parts.extents.any (fun e => held e && !(decide (base ≤ e.2.psaBlk) && decide (e.2.psaBlk < base + span))), stInvalid),
    (decide (65536 < q.proj.dirUsed p + span), stNoResource)]

/-- PARTITION_SPAN_SET (R84). -/
def execPartitionSpanSet (arg : IcsArg) (s : State) : Out :=
  s.serveDone arg partitionSpanSetCmd (fun q =>
    let p := le q.pay 0 1
    let base := le q.pay 4 4
    let span := le q.pay 8 2
    firstBroken (partitionSpanSetRules q) (.stage [.partition p] (.spanSet p base span)))

/-- The entries of a member list. -/
def memberList (l : List Byte) (n : Nat) : List Member :=
  (List.range n).map (fun i => { ep := le l (4 + 4 * i) 2, caching := bit (le l (6 + 4 * i) 1) 0, unresponsive := false })

/-- The local index of a member is one that R436 allows. -/
def memberIndexOk (ep : Nat) : Bool := decide (ep % 64 < 24) || ep % 64 == 40 || ep % 64 == 41

/-- The form of member-set: a count, then as many entries with their reserved bits 0. -/
def memberForm (l : List Byte) : Bool :=
  decide (4 ≤ l.length) && zeroField l 1 1 && l.length == 4 + 4 * le l 2 2 &&
  (List.range (le l 2 2)).all (fun i => decide (le l (6 + 4 * i) 1 < 2) && zeroField l (7 + 4 * i) 1)

/-- The row of memberSet in the catalogue (R433). -/
def memberSetCmd : IcsCmd := { opcode := 0xC104, roles := [.fm], names := nameAt0, form := memberForm }

/-- The rules of memberSet itself, in their order, with the status of each. -/
def memberSetRules (q : IcsReq) : List (Bool × Nat) :=
  let ms := memberList q.pay (le q.pay 2 2)
  [(decide (256 < le q.pay 2 2) || !(ms.map (·.ep)).Nodup || !ms.all (fun m => memberIndexOk m.ep), stInvalid)]

/-- MEMBER_SET (R305, R436). -/
def execMemberSet (arg : IcsArg) (s : State) : Out :=
  s.serveDone arg memberSetCmd (fun q =>
    let p := le q.pay 0 1
    let ms := memberList q.pay (le q.pay 2 2)
    firstBroken (memberSetRules q) (.stage [.memberList p] (.memberSet p ms)))

/-- The row of coherenceSet in the catalogue (R433). -/
def coherenceSetCmd : IcsCmd := { opcode := 0xC105, roles := [.fm], form := fixedForm 8 [(1, 1), (5, 3)], names := nameAt0 }

/-- The rules of coherenceSet itself, in their order, with the status of each. -/
def coherenceSetRules (q : IcsReq) : List (Bool × Nat) :=
  [(decide (4095 < le q.pay 2 2) || le q.pay 4 1 == 0, stInvalid)]

/-- COHERENCE_SET (R310). -/
def execCoherenceSet (arg : IcsArg) (s : State) : Out :=
  s.serveDone arg coherenceSetCmd (fun q =>
    let p := le q.pay 0 1
    firstBroken (coherenceSetRules q) (.stage [.coherence p] (.coherenceSet p (le q.pay 2 2) (le q.pay 4 1))))

/-- The row of contextRangeSet in the catalogue (R433). -/
def contextRangeSetCmd : IcsCmd := { opcode := 0xC106, roles := [.fm], form := fixedForm 8 [(1, 1), (6, 2)], names := nameAt0 }

/-- The rules of contextRangeSet itself, in their order, with the status of each. -/
def contextRangeSetRules (q : IcsReq) : List (Bool × Nat) :=
  let p := le q.pay 0 1
  let f := le q.pay 2 2
  let n := le q.pay 4 2
  let x := q.proj.part p
  let stays (c : Nat) : Bool := decide (f ≤ c) && decide (c < f + n)
  [
    (n != 0 && (f % 16 != 0 || n % 16 != 0 || decide (f < 256) || decide (16384 < f + n)), stInvalid),
    (n != 0 && q.proj.parts.parts.any (fun y => y.1 != p && y.2.ctxCount != 0 && decide (y.2.ctxFirst < f + n) &&
    decide (f < y.2.ctxFirst + y.2.ctxCount)), stInvalid),
    (q.proj.tongs.ctxs.any (fun c => c.2.state != .free && decide (x.ctxFirst ≤ c.1) && decide (c.1 < x.ctxFirst + x.ctxCount) &&
    !stays c.1), stBusy)]

/-- CONTEXT_RANGE_SET (R254). -/
def execContextRangeSet (arg : IcsArg) (s : State) : Out :=
  s.serveDone arg contextRangeSetCmd (fun q =>
    let p := le q.pay 0 1
    let f := le q.pay 2 2
    let n := le q.pay 4 2
    firstBroken (contextRangeSetRules q) (.stage [.contextRange p] (.contextRange p f n)))

/-- The row of starterBind in the catalogue (R433). -/
def starterBindCmd : IcsCmd := { opcode := 0xC107, roles := [.fm], form := fixedForm 4 [(2, 2)], names := fun l => if partId (le l 1 1) then [le l 1 1] else [] }

/-- The rules of starterBind itself, in their order, with the status of each. -/
def starterBindRules (q : IcsReq) : List (Bool × Nat) :=
  let b := le q.pay 1 1
  [(decide (0x41 < b), stInvalid)]

/-- STARTER_BIND (R445). -/
def execStarterBind (arg : IcsArg) (s : State) : Out :=
  s.serveDone arg starterBindCmd (fun q =>
    let b := le q.pay 1 1
    firstBroken (starterBindRules q) (.stage [.target (le q.pay 0 1)] (.starterBind (le q.pay 0 1) b)))

/-! ### Extents (0xC2xx) -/

/-- Table — Extent table entry, 16 bytes (R87). -/
def Extent.entry (e : Extent) : List Byte :=
  let code := match e.state with
    | .free => 0 | .filling => 1 | .active => 2 | .releasing => 3 | .scrubbing => 4
  leBytes 16 (e.dpaBlk + (if e.mapped then e.psaBlk else 0) * 2 ^ 16 + e.part * 2 ^ 36 + code * 2 ^ 42 + e.tier * 2 ^ 45 + e.place * 2 ^ 46 +
    e.mirror * 2 ^ 48 + e.coh * 2 ^ 50 + ofBool e.mapped * 2 ^ 51 + ofBool e.ro * 2 ^ 52 + ofBool e.capture * 2 ^ 53 +
    ofBool e.dcValid * 2 ^ 54 + e.dcRegion * 2 ^ 55 + e.dcTag * 2 ^ 58 + e.sealId * 2 ^ 66)

/-- What a PSA block that a command needs free is refused for (R88): outside the window; held by a filling or active extent;
held by one that is leaving. -/
def State.blockTaken (s : State) (p blk : Nat) : List (Bool × Nat) :=
  let at_ := s.extAt p blk
  [(!s.inWindow p blk, stInvalid),
   (at_.any (fun e => e.2.state == .filling || e.2.state == .active), stInvalid),
   (at_.isSome, stBusy)]

/-- An extent lies wholly within a region (R380). -/
def State.regionHolds (s : State) (r blk : Nat) : Bool :=
  match tfind s.cxl.regions r with
  | some (b, n) => decide (b ≤ blk) && decide (blk < b + n)
  | none => false

/-- The form of extent-add. -/
def extentForm (l : List Byte) : Bool :=
  fixedForm 32 [(2, 2), (17, 15)] l && psaBlkOk l 4 && decide (le l 1 1 < 2)

/-- The row of extentAdd in the catalogue (R433). -/
def extentAddCmd : IcsCmd := { opcode := 0xC200, roles := [.fm], names := nameAt0, form := extentForm }

/-- The rules of extentAdd itself, in their order, with the status of each. -/
def extentAddRules (q : IcsReq) : List (Bool × Nat) :=
  let x := q.pay
  let p := le x 0 1
  let blk := le x 4 4
  let tier := le x 10 1
  let place := le x 11 1
  let mirror := le x 12 1
  let coh := le x 13 1
  let dc := le x 14 1 == 1
  let conf := (q.proj.part p).confidential
  let given := bit (le x 1 1) 0
  let dpa := if given then some (le x 8 2) else q.proj.lowestBlock (tier == 1)
  let inTier := if tier = 0 then decide (le x 8 2 < bulkBase / 2 ^ 28) else decide (bulkBase / 2 ^ 28 ≤ le x 8 2)
  [
    (decide (1 < tier) || decide (2 < place) || decide (2 < mirror) || decide (1 < coh) || decide (1 < le x 14 1) || decide (7 < le x 15 1), stInvalid),
    ((tier == 0) != (place == 0), stInvalid),
    (mirror != 0 && q.proj.twin.state == .unpaired, stInvalid),
    (mirror != 0 && conf && !((q.proj.port 22).encSetting == 2 && (q.proj.port 23).encSetting == 2), stDenied),
    (dc && conf, stDenied),
    (coh == 1 && decide (256 ≤ countIf q.proj.parts.extents (fun y => y.2.part == p && y.2.coh == 1)), stNoResource)] ++
    q.proj.blockTaken p blk ++ [
    (tier == 1 && !q.now.bulkPresent, stNoResource),
    (given && !(inTier && q.proj.blockFree (le x 8 2)), stInvalid),
    (dpa.isNone || q.proj.lowestExtent.isNone, stNoResource),
    (dc && !q.proj.regionHolds (le x 15 1) (dpa.getD 0), stInvalid)]

/-- The entry that extent-add makes: FILLING, at the block given or the lowest free one of its tier (R87, R90). -/
def IcsReq.newExtent (q : IcsReq) : Extent :=
  let x := q.pay
  let dpa := if bit (le x 1 1) 0 then some (le x 8 2) else q.proj.lowestBlock (le x 10 1 == 1)
  { Extent.reset with
    dpaBlk := dpa.getD 0, psaBlk := le x 4 4, part := le x 0 1, state := .filling, tier := le x 10 1, place := le x 11 1
    mirror := le x 12 1, coh := le x 13 1, dcValid := le x 14 1 == 1, dcRegion := le x 15 1, dcTag := le x 16 1 }

/-- EXTENT_ADD (R49, R88–R90, R380, R437, R470). -/
def execExtentAdd (arg : IcsArg) (s : State) : Out :=
  s.serveDone arg extentAddCmd (fun q =>
    let n := (q.proj.lowestExtent).getD 0
    firstBroken (extentAddRules q) (.stage [.extent n, .psaBlock (le q.pay 0 1) (le q.pay 4 4)] (.extentAdd n q.newExtent)))

/-- What a PSA block that a command names is refused for (R95): outside the window; no extent there. -/
def State.blockMissing (s : State) (p blk : Nat) : List (Bool × Nat) :=
  [(!s.inWindow p blk, stInvalid), ((s.extAt p blk).isNone, stNoExtent)]

/-- The row of extentRelease in the catalogue (R433). -/
def extentReleaseCmd : IcsCmd := { opcode := 0xC201, roles := [.fm], form := fun l => fixedForm 8 [(1, 3)] l && psaBlkOk l 4, names := nameAt0 }

/-- The rules of extentRelease itself, in their order, with the status of each. -/
def extentReleaseRules (q : IcsReq) : List (Bool × Nat) :=
  let p := le q.pay 0 1
  let blk := le q.pay 4 4
  let found := q.proj.extAt p blk
  q.proj.blockMissing p blk ++ [
    (found.any (fun e => e.2.ro), stInvalid),
    (found.any (fun e => e.2.state != .active), stBusy)]

/-- EXTENT_RELEASE (R92, R95). A mapped seal block is no extent that this command releases (log entry 60). -/
def execExtentRelease (arg : IcsArg) (s : State) : Out :=
  s.serveDone arg extentReleaseCmd (fun q =>
    let p := le q.pay 0 1
    let blk := le q.pay 4 4
    let found := q.proj.extAt p blk
    let n := (found.map (·.1)).getD 0
    firstBroken (extentReleaseRules q) (.stage [.extent n] (.extentRelease n)))

/-- The row of extentInformation in the catalogue (R433). -/
def extentInformationCmd : IcsCmd := { opcode := 0xC202, roles := [.fm, .pr], form := fun l => fixedForm 8 [(1, 3)] l && psaBlkOk l 4, names := nameAt0 }

/-- The rules of extentInformation itself, in their order, with the status of each. -/
def extentInformationRules (q : IcsReq) : List (Bool × Nat) :=
  let p := le q.pay 0 1
  let blk := le q.pay 4 4
  q.now.blockMissing p blk

/-- EXTENT_INFORMATION (R87, R95). -/
def execExtentInformation (arg : IcsArg) (s : State) : Out :=
  s.serveDone arg extentInformationCmd (fun q =>
    let p := le q.pay 0 1
    let blk := le q.pay 4 4
    firstBroken (extentInformationRules q) (q.answer (((q.now.extAt p blk).map (fun e => e.2.entry)).getD [])))

/-- The row of cxlRegionSet in the catalogue (R433). -/
def cxlRegionSetCmd : IcsCmd := { opcode := 0xC203, roles := [.fm], form := fixedForm 8 [(1, 3)] }

/-- The rules of cxlRegionSet itself, in their order, with the status of each. -/
def cxlRegionSetRules (q : IcsReq) : List (Bool × Nat) :=
  let r := le q.pay 0 1
  let b := le q.pay 4 2
  let n := le q.pay 6 2
  let lo := b * 2 ^ 28
  let hi := (b + n) * 2 ^ 28
  let populated := decide (hi ≤ q.now.stackUsable) || (decide (bulkBase ≤ lo) && decide (hi ≤ bulkBase + q.now.bulkBytes))
  [
    (decide (7 < r), stInvalid),
    (n != 0 && !populated, stInvalid),
    (n != 0 && q.proj.cxl.regions.any (fun x => x.1 != r && decide (x.2.1 < b + n) && decide (b < x.2.1 + x.2.2)), stInvalid),
    (q.proj.parts.extents.any (fun e => e.2.dcValid && e.2.dcRegion == r), stBusy)]

/-- CXL_REGION_SET (R379). -/
def execCxlRegionSet (arg : IcsArg) (s : State) : Out :=
  s.serveDone arg cxlRegionSetCmd (fun q =>
    let r := le q.pay 0 1
    let b := le q.pay 4 2
    let n := le q.pay 6 2
    firstBroken (cxlRegionSetRules q) (.stage [.table "regions"] (.regionSet r b n)))

/-- The form of cxl-offer and cxl-withdraw. -/
def offerForm (l : List Byte) : Bool :=
  decide (4 ≤ l.length) && decide (le l 0 1 < 4) && l.length == 4 + 4 * le l 2 2 &&
  (List.range (le l 2 2)).all (fun i => psaBlkOk l (4 + 4 * i))

/-- The PSA blocks of a list that follows 4 bytes. -/
def blockList (l : List Byte) (n : Nat) : List Nat := (List.range n).map (fun i => le l (4 + 4 * i) 4)

/-- The row of cxlOffer in the catalogue (R433). -/
def cxlOfferCmd : IcsCmd := { opcode := 0xC204, roles := [.fm], form := offerForm, names := fun l => [le l 1 1] }

/-- The rules of cxlOffer itself, in their order, with the status of each. -/
def cxlOfferRules (q : IcsReq) : List (Bool × Nat) :=
  let p := le q.pay 1 1
  let heads := bitList 2 (le q.pay 0 1)
  let bs := blockList q.pay (le q.pay 2 2)
  let es := bs.filterMap (q.proj.extAt p)
  let caching (h : Nat) : Bool := (q.proj.part p).members.any (fun m => m.caching && m.ep == q.proj.endpoint (40 + h))
  [
    (heads.isEmpty || bs.isEmpty || decide (256 < bs.length), stInvalid),
    (!bs.all (q.proj.inWindow p), stInvalid),
    (es.length != bs.length, stNoExtent),
    (!es.all (fun e => e.2.dcValid), stInvalid),
    (es.any (fun e => e.2.coh == 1) && !heads.all caching, stInvalid),
    (!es.all (fun e => e.2.state == .active), stBusy)]

/-- CXL_OFFER (R380, R382). -/
def execCxlOffer (arg : IcsArg) (s : State) : Out :=
  s.serveDone arg cxlOfferCmd (fun q =>
    let p := le q.pay 1 1
    let bs := blockList q.pay (le q.pay 2 2)
    let es := bs.filterMap (q.proj.extAt p)
    firstBroken (cxlOfferRules q) (.stage (es.map (fun e => .extent e.1)) (.cxlOffer (le q.pay 0 1) (es.map (·.1)))))

/-- The row of cxlWithdraw in the catalogue (R433). -/
def cxlWithdrawCmd : IcsCmd := { opcode := 0xC205, roles := [.fm], form := offerForm, names := fun l => [le l 1 1] }

/-- The rules of cxlWithdraw itself, in their order, with the status of each. -/
def cxlWithdrawRules (q : IcsReq) : List (Bool × Nat) :=
  let p := le q.pay 1 1
  let bs := blockList q.pay (le q.pay 2 2)
  let es := bs.filterMap (q.proj.extAt p)
  [
    (le q.pay 0 1 == 0 || bs.isEmpty || decide (256 < bs.length), stInvalid),
    (!bs.all (q.proj.inWindow p), stInvalid),
    (es.length != bs.length, stNoExtent)]

/-- CXL_WITHDRAW (R382). -/
def execCxlWithdraw (arg : IcsArg) (s : State) : Out :=
  s.serveDone arg cxlWithdrawCmd (fun q =>
    let p := le q.pay 1 1
    let bs := blockList q.pay (le q.pay 2 2)
    let es := bs.filterMap (q.proj.extAt p)
    firstBroken (cxlWithdrawRules q) (.stage (es.map (fun e => .extent e.1)) (.cxlWithdraw (le q.pay 0 1) (es.map (·.1)))))

/-- The row of dcTagSet in the catalogue (R433). -/
def dcTagSetCmd : IcsCmd := { opcode := 0xC206, roles := [.fm], form := fixedForm 32 [(1, 15)] }

/-- The rules of dcTagSet itself, in their order, with the status of each. -/
def dcTagSetRules (q : IcsReq) : List (Bool × Nat) :=
  let i := le q.pay 0 1
  [(q.proj.parts.extents.any (fun e => e.2.dcValid && e.2.dcTag == i), stBusy)]

/-- DC_TAG_SET. -/
def execDcTagSet (arg : IcsArg) (s : State) : Out :=
  s.serveDone arg dcTagSetCmd (fun q =>
    let i := le q.pay 0 1
    firstBroken (dcTagSetRules q) (.stage [.table "tags"] (.dcTagSet i (q.pay.drop 16))))

/-! ### Seals -/

/-- The row of sealQuotaSet in the catalogue (R433). -/
def sealQuotaSetCmd : IcsCmd := { opcode := 0xC207, roles := [.fm], form := fixedForm 4 [(1, 1)], names := nameAt0 }

/-- The rules of sealQuotaSet itself, in their order, with the status of each. -/
def sealQuotaSetRules (q : IcsReq) : List (Bool × Nat) :=
  let p := le q.pay 0 1
  [(decide (le q.pay 2 2 < q.proj.sealUsed p), stInvalid)]

/-- SEAL_QUOTA_SET. -/
def execSealQuotaSet (arg : IcsArg) (s : State) : Out :=
  s.serveDone arg sealQuotaSetCmd (fun q =>
    let p := le q.pay 0 1
    firstBroken (sealQuotaSetRules q) (.stage [.sealQuota p] (.sealQuota p (le q.pay 2 2))))

/-- The lowest free seal ID. -/
def State.lowestSeal (s : State) : Option Nat := firstBelow 256 (fun n => (tfind s.parts.seals n).isNone)

/-- Free blocks of the bulk tier. -/
def State.bulkBlocksFree (s : State) : Nat :=
  (s.bulkBytes - s.spareBytes - s.undoBytes) / 2 ^ 28 - countIf s.parts.extents (fun e => e.2.tier == 1)

/-- The form of seal-create. -/
def sealForm (l : List Byte) : Bool :=
  decide (4 ≤ l.length) && zeroField l 2 2 && l.length == 4 + 4 * le l 0 2 &&
  (List.range (le l 0 2)).all (fun i => psaBlkOk l (4 + 4 * i))

/-- The row of sealCreate in the catalogue (R433). -/
def sealCreateCmd : IcsCmd := { opcode := 0xC210, roles := [.pr], form := sealForm }

/-- The rules of sealCreate itself, in their order, with the status of each. An extent that is not ACTIVE (FILLING, RELEASING,
SCRUBBING), CAPTURED, or read-only answers BUSY, which the spec leaves open: the model's choice (log entry 27). -/
def sealCreateRules (q : IcsReq) : List (Bool × Nat) :=
  let p := q.part
  let bs := blockList q.pay (le q.pay 0 2)
  let es := bs.filterMap (q.proj.extAt p)
  let need := bs.length + hashBlocksOf bs.length
  [
    (bs.isEmpty || decide (4096 < bs.length), stInvalid),
    (es.length != bs.length, stDenied),
    (!bs.Nodup, stInvalid),
    (es.any (fun e => e.2.capture || e.2.ro || e.2.state != .active), stBusy),
    (!q.now.bulkPresent || q.proj.lowestSeal.isNone, stNoResource),
    (decide ((q.proj.part p).sealQuota < q.proj.sealUsed p + need), stNoResource),
    (decide (q.proj.bulkBlocksFree < need) || decide (32768 < q.proj.parts.extents.length + need), stNoResource)]

/-- SEAL_CREATE (R99–R101). -/
def execSealCreate (arg : IcsArg) (s : State) : Out :=
  s.serveDone arg sealCreateCmd (fun q =>
    let p := q.part
    let bs := blockList q.pay (le q.pay 0 2)
    let es := bs.filterMap (q.proj.extAt p)
    let sid := (q.proj.lowestSeal).getD 0
    firstBroken (sealCreateRules q) (.stage (.sealObj sid :: es.map (fun e => .extent e.1)) (.sealCreate sid p (es.map (·.1)) bs)))

/-- Table — Seal record (R103). -/
def State.sealRecord (s : State) (sid : Nat) : List Byte :=
  let x := s.seal sid
  let code := match x.state with
    | .free => 0 | .capturing => 1 | .sealed => 2 | .aborted => 3 | .releasing => 4
  [BitVec.ofNat 8 sid, BitVec.ofNat 8 x.part, BitVec.ofNat 8 code,
   BitVec.ofNat 8 (ofBool x.rootValid + ofBool x.abortFault * 2 + ofBool x.abortReset * 4 + ofBool x.hasPoison * 8)] ++
  leBytes 2 x.extents.length ++ leBytes 2 x.hashBlocks ++ leBytes 8 x.sealHeat ++ leBytes 4 (4096 * x.extents.length) ++
  leBytes 4 x.leaves.length ++ (if x.rootValid then fit 32 x.root else zeros 32) ++ zeros 8

/-- What a seal that a command names is refused for: it is FREE (INVALID, which R105 leaves open: the model's choice, log entry 27);
it is another partition's; its partition is quenched. -/
def IcsReq.sealRules (q : IcsReq) (s : State) (sid : Nat) : List (Bool × Nat) :=
  [((tfind s.parts.seals sid).isNone, stInvalid),
   (q.part != 0 && (s.seal sid).part != q.part, stDenied),
   ((s.part (s.seal sid).part).state != .active, stQuenched)]

/-- The row of sealInformation in the catalogue (R433). -/
def sealInformationCmd : IcsCmd := { opcode := 0xC211, roles := [.fm, .pr], form := fixedForm 4 [(1, 3)] }

/-- The rules of sealInformation itself, in their order, with the status of each. -/
def sealInformationRules (q : IcsReq) : List (Bool × Nat) :=
  let sid := le q.pay 0 1
  q.sealRules q.now sid

/-- SEAL_INFORMATION (R103). -/
def execSealInformation (arg : IcsArg) (s : State) : Out :=
  s.serveDone arg sealInformationCmd (fun q =>
    let sid := le q.pay 0 1
    firstBroken (sealInformationRules q) (q.answer (q.now.sealRecord sid ++ (q.now.seal sid).psaBlks.flatMap (leBytes 4))))

/-- The row of sealMap in the catalogue (R433). -/
def sealMapCmd : IcsCmd := { opcode := 0xC212, roles := [.pr], form := fun l => fixedForm 8 [(1, 1)] l && psaBlkOk l 4 }

/-- The rules of sealMap itself, in their order, with the status of each. -/
def sealMapRules (q : IcsReq) : List (Bool × Nat) :=
  let sid := le q.pay 0 1
  let i := le q.pay 2 2
  let blk := le q.pay 4 4
  let x := q.proj.seal sid
  let n := (x.blocks[i]?).getD 0
  q.sealRules q.proj sid ++ [
    (decide (x.blocks.length ≤ i) || x.state == .aborted, stInvalid),
    (x.state != .sealed || (q.proj.ext n).mapped || (q.proj.ext n).state != .active, stBusy)] ++ q.proj.blockTaken q.part blk

/-- SEAL_MAP (R104). -/
def execSealMap (arg : IcsArg) (s : State) : Out :=
  s.serveDone arg sealMapCmd (fun q =>
    let sid := le q.pay 0 1
    let i := le q.pay 2 2
    let blk := le q.pay 4 4
    let x := q.proj.seal sid
    let n := (x.blocks[i]?).getD 0
    firstBroken (sealMapRules q) (.stage [.extent n, .psaBlock q.part blk, .sealObj sid] (.sealMap n blk)))

/-- The row of sealUnmap in the catalogue (R433). -/
def sealUnmapCmd : IcsCmd := { opcode := 0xC213, roles := [.pr], form := fun l => fixedForm 4 [] l && psaBlkOk l 0 }

/-- The rules of sealUnmap itself, in their order, with the status of each. -/
def sealUnmapRules (q : IcsReq) : List (Bool × Nat) :=
  let blk := le q.pay 0 4
  let found := q.proj.extAt q.part blk
  q.proj.blockMissing q.part blk ++ [
    (found.any (fun e => !e.2.ro), stInvalid),
    (found.any (fun e => e.2.state != .active), stBusy)]

/-- SEAL_UNMAP: a mapping of a seal block drains (R92, R104). -/
def execSealUnmap (arg : IcsArg) (s : State) : Out :=
  s.serveDone arg sealUnmapCmd (fun q =>
    let blk := le q.pay 0 4
    let found := q.proj.extAt q.part blk
    let n := (found.map (·.1)).getD 0
    firstBroken (sealUnmapRules q) (.stage [.extent n, .psaBlock q.part blk] (.sealUnmap n)))

/-- The row of sealRelease in the catalogue (R433). -/
def sealReleaseCmd : IcsCmd := { opcode := 0xC214, roles := [.fm, .pr], form := fixedForm 4 [(1, 3)] }

/-- The rules of sealRelease itself, in their order, with the status of each. -/
def sealReleaseRules (q : IcsReq) : List (Bool × Nat) :=
  let sid := le q.pay 0 1
  let x := q.proj.seal sid
  q.sealRules q.proj sid ++ [
    (x.state == .capturing || x.state == .releasing || x.blocks.any (fun n => (q.proj.ext n).state != .active), stBusy)]

/-- SEAL_RELEASE (R105). -/
def execSealRelease (arg : IcsArg) (s : State) : Out :=
  s.serveDone arg sealReleaseCmd (fun q =>
    let sid := le q.pay 0 1
    let x := q.proj.seal sid
    firstBroken (sealReleaseRules q) (.stage (.sealObj sid :: x.blocks.map .extent) (.sealRelease sid)))

/-! ### Placement and hints (0xC3xx) -/

/-- The row of hintSet in the catalogue (R433). -/
def hintSetCmd : IcsCmd := { opcode := 0xC300, roles := [.pr], form := fun l => fixedForm 16 [(15, 1)] l && addrField l 0 }

/-- The rules of hintSet itself, in their order, with the status of each. -/
def hintSetRules (q : IcsReq) : List (Bool × Nat) :=
  let p := q.part
  let base := le q.pay 0 8
  let n := le q.pay 8 6
  let h := le q.pay 14 1
  let x := q.proj.part p
  let cachedIn := q.proj.parts.extents.any (fun e => e.2.part == p && e.2.place == 1 && (q.proj.extAt p e.2.psaBlk).any (·.1 == e.1) &&
    decide (e.2.psaBlk * 2 ^ 28 < base + n) && decide (base < (e.2.psaBlk + 1) * 2 ^ 28))
  [
    (decide (6 < h) || base % 65536 != 0 || n % 65536 != 0 || n == 0, stInvalid),
    (decide (base < x.psaBase * 2 ^ 28) || decide ((x.psaBase + x.span) * 2 ^ 28 < base + n), stInvalid),
    (h == 6 && q.proj.regionBytes == 0, stNoResource),
    (h == 6 && !cachedIn, stInvalid),
    (decide (256 < (hintRanges (tget [] q.proj.tiers.hints p) base n h 0 []).length), stNoResource)]

/-- HINT_SET (R72–R74, R438). -/
def execHintSet (arg : IcsArg) (s : State) : Out :=
  s.serveDone arg hintSetCmd (fun q =>
    let p := q.part
    let base := le q.pay 0 8
    let n := le q.pay 8 6
    let h := le q.pay 14 1
    firstBroken (hintSetRules q) (.stage [.item p "hints"] (.hintSet p base n h)))

/-- Puts a range into a list of ranges in increasing order of their bases. -/
def putRange (r : HintRange) : List HintRange → List HintRange
  | [] => [r]
  | x :: l => if r.base < x.base then r :: x :: l else x :: putRange r l

/-- The row of hintList in the catalogue (R433). -/
def hintListCmd : IcsCmd := { opcode := 0xC301, roles := [.pr], form := fixedForm 0 [] }

/-- HINT_LIST: the ranges held, in increasing PSA (R438). -/
def execHintList (arg : IcsArg) (s : State) : Out :=
  s.serveDone arg hintListCmd (fun q =>
    let l := (tget [] q.now.tiers.hints q.part).foldl (fun a r => putRange r a) []
    q.answer (l.flatMap (fun r => leBytes 8 r.base ++ leBytes 6 r.len ++ [BitVec.ofNat 8 r.hint, 0])))

/-- The row of migrationBudgetSet in the catalogue (R433). -/
def migrationBudgetSetCmd : IcsCmd := { opcode := 0xC302, roles := [.fm], form := fixedForm 4 [(1, 3)] }

/-- The rules of migrationBudgetSet itself, in their order, with the status of each. -/
def migrationBudgetSetRules (q : IcsReq) : List (Bool × Nat) :=
  [(!([0, 1, 2, 4, 8] : List Nat).contains (le q.pay 0 1), stInvalid)]

/-- MIGRATION_BUDGET_SET (R70). -/
def execMigrationBudgetSet (arg : IcsArg) (s : State) : Out :=
  s.serveDone arg migrationBudgetSetCmd (fun q =>
    firstBroken (migrationBudgetSetRules q) (.stage [.table "budget"] (.budgetSet (le q.pay 0 1))))

end Sys2Proof.Machine
end

