-- ==== Sys2Proof/Machine/IcsFabric.lean ====
section
/-! DEFINITION. The command groups 0xC4xx and 0xC5xx (17_command_set.md): fabric and routes, scheduling; with the rules of 02,
05, 13, 14 and 22 that decide them. -/

namespace Sys2Proof.Machine

/-! ### Fabric and routes (0xC4xx) -/

/-- The row of coordinateSet in the catalogue (R433). -/
def coordinateSetCmd : IcsCmd := { opcode := 0xC400, roles := [.fm], form := fixedForm 4 [(2, 2)] }

/-- The rules of coordinateSet itself, in their order, with the status of each. -/
def coordinateSetRules (q : IcsReq) : List (Bool × Nat) :=
  [(decide (31 < le q.pay 0 1) || decide (31 < le q.pay 1 1), stInvalid)]

/-- COORDINATE_SET (R344, R345). -/
def execCoordinateSet (arg : IcsArg) (s : State) : Out :=
  s.serveDone arg coordinateSetCmd (fun q =>
    firstBroken (coordinateSetRules q) (.stage [.table "coordinate"] (.coordinate (le q.pay 0 1) (le q.pay 1 1))))

/-- The directions of R345, from a chip at (x, y) to a neighbour chip. -/
inductive Dir where | west | east | north | south
  deriving DecidableEq, Repr

/-- The direction of a port with an expected neighbour: −X, +X, +Y or −Y. -/
def dirOf (x y : Nat) : Neighbour → Option Dir
  | .chip a b =>
    if b = y && a + 1 = x then some .west
    else if b = y && a = x + 1 then some .east
    else if a = x && b = y + 1 then some .north
    else if a = x && b + 1 = y then some .south
    else none
  | _ => none

/-- A chip entry's valid port goes towards its destination (R350, rules 2 to 4). -/
def routeStep (x y dx dy : Nat) (d : Dir) : Bool :=
  if dx < x then d == .west
  else if x < dx then d == .east || (decide (y < dy) && d == .north) || (decide (dy < y) && d == .south)
  else (decide (y < dy) && d == .north) || (decide (dy < y) && d == .south)

/-- The valid ports of a route entry. -/
def entryPorts (e : Nat) : List Nat := (if bit e 5 then [bits e 0 5] else []) ++ (if bit e 11 then [bits e 6 5] else [])

/-- A route entry obeys R346, R347 and R350. No port has a direction that leads to the chip's own coordinate, so its entry has no valid
port. -/
def State.routeOk (s : State) (i e : Nat) : Bool :=
  let ps := entryPorts e
  let nb (p : Nat) : Neighbour := (s.egress p).expected
  let x := s.routing.x
  let y := s.routing.y
  let shape := decide (e < 2 ^ 13) && ps.all (fun p => decide (p < 24)) &&
    (!bit e 12 || (ps.length == 2 && nb (bits e 0 5) == nb (bits e 6 5)))
  e == 0 || (shape &&
    (if 1024 ≤ i then decide (i < 1048) && ps.all (fun p => nb p == .leaf)
     else ps.all (fun p => !(s.egress p).twin &&
       (match dirOf x y (nb p) with
        | some d => routeStep x y (i / 32) (i % 32) d
        | none => false))))

/-- The whole route table obeys its rules. -/
def State.tableOk (s : State) : Bool := s.routing.table.all (fun e => s.routeOk e.1 e.2)

/-- The expected neighbour that port-neighbour-set names. -/
def neighbourOf (l : List Byte) : Neighbour :=
  match le l 1 1 with
  | 0 => .none
  | 1 => .leaf
  | _ => .chip (le l 2 1) (le l 3 1)

/-- The row of portNeighbourSet in the catalogue (R433). -/
def portNeighbourSetCmd : IcsCmd := { opcode := 0xC401, roles := [.fm], form := fixedForm 4 [] }

/-- The rules of portNeighbourSet itself, in their order, with the status of each. -/
def portNeighbourSetRules (q : IcsReq) : List (Bool × Nat) :=
  let i := le q.pay 0 1
  let nb := neighbourOf q.pay
  let adjacent := (dirOf q.proj.routing.x q.proj.routing.y nb).isSome && decide (le q.pay 2 1 < 32) && decide (le q.pay 3 1 < 32)
  [
    (decide (23 < i) || decide (2 < le q.pay 1 1), stInvalid),
    (le q.pay 1 1 == 2 && !adjacent, stInvalid),
    (!((q.proj.modEgress i (fun e => { e with expected := nb })).tableOk), stInvalid)]

/-- PORT_NEIGHBOUR_SET (R345, R350). -/
def execPortNeighbourSet (arg : IcsArg) (s : State) : Out :=
  s.serveDone arg portNeighbourSetCmd (fun q =>
    let i := le q.pay 0 1
    let nb := neighbourOf q.pay
    firstBroken (portNeighbourSetRules q) (.stage [.port i] (.neighbour i nb)))

/-- The form of route-set: bits [15:13] of an entry are reserved. -/
def routeForm (l : List Byte) : Bool :=
  decide (4 ≤ l.length) && l.length == 4 + 2 * le l 2 2 && (leList 2 (le l 2 2) (l.drop 4)).all (fun e => decide (e < 2 ^ 13))

/-- The row of routeSet in the catalogue (R433). -/
def routeSetCmd : IcsCmd := { opcode := 0xC402, roles := [.fm], form := routeForm }

/-- The rules of routeSet itself, in their order, with the status of each. -/
def routeSetRules (q : IcsReq) : List (Bool × Nat) :=
  let f := le q.pay 0 2
  let n := le q.pay 2 2
  let es := leList 2 n (q.pay.drop 4)
  let after := (q.proj.apply (.routeSet f es)).state
  [
    (decide (1088 < f + n), stInvalid),
    (n != 0 && decide (f < 1062) && decide (1056 < f + n), stInvalid),
    (!after.tableOk, stInvalid)]

/-- ROUTE_SET (R346, R347, R350, R351). -/
def execRouteSet (arg : IcsArg) (s : State) : Out :=
  s.serveDone arg routeSetCmd (fun q =>
    let f := le q.pay 0 2
    let n := le q.pay 2 2
    let es := leList 2 n (q.pay.drop 4)
    firstBroken (routeSetRules q) (.stage [.table "routes"] (.routeSet f es)))

/-- The row of routeRead in the catalogue (R433). -/
def routeReadCmd : IcsCmd := { opcode := 0xC403, roles := [.fm, .mon], form := fixedForm 4 [] }

/-- The rules of routeRead itself, in their order, with the status of each. -/
def routeReadRules (q : IcsReq) : List (Bool × Nat) :=
  let f := le q.pay 0 2
  let n := le q.pay 2 2
  [(n == 0 || decide (1088 < f + n), stInvalid)]

/-- ROUTE_READ (R346): local entries 24 to 63 read 0. -/
def execRouteRead (arg : IcsArg) (s : State) : Out :=
  s.serveDone arg routeReadCmd (fun q =>
    let f := le q.pay 0 2
    let n := le q.pay 2 2
    firstBroken (routeReadRules q) (q.answer ((List.range n).flatMap (fun k => leBytes 2 (if 1048 ≤ f + k then 0 else tget 0 q.now.routing.table (f + k))))))

/-- The row of portSet in the catalogue (R433). -/
def portSetCmd : IcsCmd := { opcode := 0xC404, roles := [.fm], form := fun l => fixedForm 4 [] l && decide (le l 1 1 < 4) }

/-- The rules of portSet itself, in their order, with the status of each. -/
def portSetRules (q : IcsReq) : List (Bool × Nat) :=
  let i := le q.pay 0 1
  [(decide (23 < i) || decide (1 < le q.pay 2 1) || decide (2 < le q.pay 3 1), stInvalid)]

/-- PORT_SET (R336). -/
def execPortSet (arg : IcsArg) (s : State) : Out :=
  s.serveDone arg portSetCmd (fun q =>
    let i := le q.pay 0 1
    let f := le q.pay 1 1
    firstBroken (portSetRules q) (.stage [.port i] (.portSet i (bit f 0) (bit f 1) (le q.pay 2 1) (le q.pay 3 1))))

/-- A port number in byte 0 that does not exist. -/
def badPort (l : List Byte) : Bool := decide (23 < le l 0 1)

/-- The row of portRetrain in the catalogue (R433). -/
def portRetrainCmd : IcsCmd := { opcode := 0xC405, roles := [.fm], form := fixedForm 4 [(1, 3)] }

/-- The rules of portRetrain itself, in their order, with the status of each. -/
def portRetrainRules (q : IcsReq) : List (Bool × Nat) :=
  [(badPort q.pay, stInvalid)]

/-- PORT_RETRAIN (R336). -/
def execPortRetrain (arg : IcsArg) (s : State) : Out :=
  s.serveDone arg portRetrainCmd (fun q =>
    firstBroken (portRetrainRules q) (.stage [.port (le q.pay 0 1)] (.portRetrain (le q.pay 0 1))))

/-- The row of transitMaskSet in the catalogue (R433). -/
def transitMaskSetCmd : IcsCmd := { opcode := 0xC406, roles := [.fm], form := fixedForm 16 [(1, 7)] }

/-- The rules of transitMaskSet itself, in their order, with the status of each. -/
def transitMaskSetRules (q : IcsReq) : List (Bool × Nat) :=
  [(badPort q.pay, stInvalid)]

/-- TRANSIT_MASK_SET (R353, R470). -/
def execTransitMaskSet (arg : IcsArg) (s : State) : Out :=
  s.serveDone arg transitMaskSetCmd (fun q =>
    firstBroken (transitMaskSetRules q) (.stage [.port (le q.pay 0 1)] (.transitMask (le q.pay 0 1) (le q.pay 8 8))))

/-- The row of heatSyncSet in the catalogue (R433). -/
def heatSyncSetCmd : IcsCmd := { opcode := 0xC407, roles := [.fm], form := fixedForm 4 [(2, 2)] }

/-- The rules of heatSyncSet itself, in their order, with the status of each. -/
def heatSyncSetRules (q : IcsReq) : List (Bool × Nat) :=
  let r := le q.pay 0 1
  [(decide (2 < r) || (r == 2 && decide (23 < le q.pay 1 1)), stInvalid)]

/-- HEAT_SYNC_SET (R40, R42). -/
def execHeatSyncSet (arg : IcsArg) (s : State) : Out :=
  s.serveDone arg heatSyncSetCmd (fun q =>
    let r := le q.pay 0 1
    let role : SyncRole := if r = 0 then .free else if r = 1 then .reference else .child (le q.pay 1 1)
    firstBroken (heatSyncSetRules q) (.stage [.table "sync"] (.heatSync role)))

/-! ### Scheduling (0xC5xx) -/

/-- The row of queueSet in the catalogue (R433). -/
def queueSetCmd : IcsCmd := { opcode := 0xC500, roles := [.fm], form := fixedForm 8 [(5, 3)] }

/-- The rules of queueSet itself, in their order, with the status of each. -/
def queueSetRules (q : IcsReq) : List (Bool × Nat) :=
  [(badPort q.pay || decide (128 < le q.pay 1 1) || decide (le q.pay 2 2 < 64) || decide (4096 < le q.pay 2 2), stInvalid)]

/-- QUEUE_SET (R359, R365, R369). -/
def execQueueSet (arg : IcsArg) (s : State) : Out :=
  s.serveDone arg queueSetCmd (fun q =>
    let i := le q.pay 0 1
    firstBroken (queueSetRules q) (.stage [.port i] (.queueSet i (le q.pay 1 1) (le q.pay 2 2) (le q.pay 4 1))))

/-- The other partitions in a gate group. -/
def State.inGroup (s : State) (p g : Nat) : List (Nat × Partition) :=
  s.parts.parts.filter (fun x => x.1 != p && x.2.state != .free && x.2.group == some g)

/-- The row of groupSet in the catalogue (R433). -/
def groupSetCmd : IcsCmd := { opcode := 0xC501, roles := [.fm], form := fixedForm 4 [(2, 2)], names := nameAt0 }

/-- The rules of groupSet itself, in their order, with the status of each. -/
def groupSetRules (q : IcsReq) : List (Bool × Nat) :=
  let p := le q.pay 0 1
  let g := le q.pay 1 1
  let others := q.proj.inGroup p g
  [
    (decide (15 < g), stInvalid),
    ((q.proj.part p).confidential && !others.isEmpty, stInvalid),
    (!(q.proj.part p).confidential && others.any (fun x => x.2.confidential), stInvalid)]

/-- GROUP_SET (R362). -/
def execGroupSet (arg : IcsArg) (s : State) : Out :=
  s.serveDone arg groupSetCmd (fun q =>
    let p := le q.pay 0 1
    let g := le q.pay 1 1
    firstBroken (groupSetRules q) (.stage [.gateGroup p] (.groupSet p g)))

/-- An entry that opens the group of a confidential partition opens no other group (R366). -/
def State.gateEntryOk (s : State) (mask : Nat) : Bool :=
  let gs := openGroups mask
  gs.length ≤ 1 || gs.all (fun g => !(s.inGroup 0 g).any (fun x => x.2.confidential))

/-- A start heat that lies too far ahead of the boundary at which a change would otherwise take effect (R234). -/
def State.tooFar (s : State) (start : Nat) : Bool :=
  let d := heatDiff start (s.heat.count + 1)
  start != 0 && decide (2 ^ 32 ≤ d) && decide (d < 2 ^ 47)

/-- The form of gate-set. -/
def gateForm (l : List Byte) : Bool :=
  decide (16 ≤ l.length) && zeroField l 1 1 && zeroField l 12 4 && l.length == 16 + 16 * le l 10 2 &&
  (List.range (le l 10 2)).all (fun i => zeroField l (26 + 16 * i) 6)

/-- The row of gateSet in the catalogue (R433). -/
def gateSetCmd : IcsCmd := { opcode := 0xC502, roles := [.fm], form := gateForm }

/-- The entries that gate-set gives, and its list: none where it gives none (R363). -/
def gateEntriesOf (l : List Byte) : List GateEntry :=
  (List.range (le l 10 2)).map (fun k => { mask := le l (16 + 16 * k) 8, duration := le l (24 + 16 * k) 2 })

def gateListOf (l : List Byte) : Option GateList :=
  some { lap := le l 2 2, start := le l 4 6, entries := gateEntriesOf l }

/-- The rules of gateSet itself, in their order, with the status of each. -/
def gateSetRules (q : IcsReq) : List (Bool × Nat) :=
  let i := le q.pay 0 1
  let lap := le q.pay 2 2
  let n := le q.pay 10 2
  let es := gateEntriesOf q.pay
  [
    (badPort q.pay || (q.proj.egress i).twin || decide (64 < n), stInvalid),
    (n != 0 && (lap == 0 || decide (256 < lap) || es.any (fun e => e.duration == 0 || decide (16384 < e.duration)) ||
    (es.map (·.duration)).foldl (· + ·) 0 != 64 * lap), stInvalid),
    (!es.all (fun e => q.proj.gateEntryOk e.mask), stInvalid),
    (q.now.tooFar (le q.pay 4 6), stInvalid)]

/-- GATE_SET (R234, R363, R364, R366, M6). -/
def execGateSet (arg : IcsArg) (s : State) : Out :=
  s.serveDone arg gateSetCmd (fun q =>
    firstBroken (gateSetRules q) (.stage [.port (le q.pay 0 1)] (.gateSet (le q.pay 0 1) (gateListOf q.pay))))

/-- The row of weightSet in the catalogue (R433). -/
def weightSetCmd : IcsCmd := { opcode := 0xC503, roles := [.fm], form := fixedForm 8 [(3, 1), (7, 1)], names := fun l => [le l 5 1], freeOk := true }

/-- The rules of weightSet itself, in their order, with the status of each. -/
def weightSetRules (q : IcsReq) : List (Bool × Nat) :=
  let c := le q.pay 4 1
  let p := le q.pay 5 1
  [(c == 0 || decide (4 < c) || !partId p || le q.pay 6 1 == 0, stInvalid)]

/-- WEIGHT_SET (R367, R557). -/
def execWeightSet (arg : IcsArg) (s : State) : Out :=
  s.serveDone arg weightSetCmd (fun q =>
    let c := le q.pay 4 1
    let p := le q.pay 5 1
    firstBroken (weightSetRules q) (.stage ((bitList 24 (le q.pay 0 3)).map .port) (.weightSet (le q.pay 0 3) c p (le q.pay 6 1))))

/-- The row of shaperSet in the catalogue (R433). -/
def shaperSetCmd : IcsCmd := { opcode := 0xC504, roles := [.fm], form := fun l => fixedForm 16 [(3, 1), (6, 2), (15, 1)] l && decide (le l 5 1 < 2), names := fun l => [le l 4 1], freeOk := true }

/-- The rules of shaperSet itself, in their order, with the status of each. -/
def shaperSetRules (q : IcsReq) : List (Bool × Nat) :=
  let p := le q.pay 4 1
  [(!partId p, stInvalid)]

/-- SHAPER_SET (R369, R370, R557). -/
def execShaperSet (arg : IcsArg) (s : State) : Out :=
  s.serveDone arg shaperSetCmd (fun q =>
    let p := le q.pay 4 1
    firstBroken (shaperSetRules q) (.stage ((bitList 24 (le q.pay 0 3)).map .port) (.shaperSet (le q.pay 0 3) p (bit (le q.pay 5 1) 0) (le q.pay 8 4) (le q.pay 12 3))))

/-- The watched queues that split-set names: class and partition. -/
def watchedPairs (l : List Byte) : List (Nat × Nat) := (List.range (min 8 (le l 4 1))).map (fun i => (le l (8 + 2 * i) 1, le l (9 + 2 * i) 1))

/-- The row of splitSet in the catalogue (R433). -/
def splitSetCmd : IcsCmd := { opcode := 0xC505, roles := [.fm], form := fixedForm 24 [(5, 3)], names := fun l => (watchedPairs l).map (·.2) }

/-- The rules of splitSet itself, in their order, with the status of each. -/
def splitSetRules (q : IcsReq) : List (Bool × Nat) :=
  let i := le q.pay 0 1
  let m := le q.pay 1 1
  let n := le q.pay 2 2
  let w := watchedPairs q.pay
  [
    (badPort q.pay || (q.proj.egress i).twin || decide (1 < m) || decide (8 < le q.pay 4 1), stInvalid),
    (m == 0 && !(List.range 16).any (fun k => n == 2 ^ k), stInvalid),
    (w.any (fun x => decide (4 < x.1) || !partId x.2), stInvalid)]

/-- SPLIT_SET (R372, R373, M6). -/
def execSplitSet (arg : IcsArg) (s : State) : Out :=
  s.serveDone arg splitSetCmd (fun q =>
    let i := le q.pay 0 1
    let m := le q.pay 1 1
    let n := le q.pay 2 2
    let w := watchedPairs q.pay
    firstBroken (splitSetRules q) (.stage [.port i] (.splitSet i (m + 1) n (w.map (fun x => qkey x.1 x.2)))))

/-- Table — Sampled split record. -/
def SplitRec.bytes (r : SplitRec) : List Byte :=
  leBytes 6 r.heat ++ [BitVec.ofNat 8 r.cls, BitVec.ofNat 8 r.part] ++ leBytes 2 r.depth ++ leBytes 2 r.samples ++ leBytes 2 r.maxDelay ++ leBytes 2 r.meanDelay

/-- The reply of split-read on a port and the split state after it (R373, R374). The queues of a confidential partition
read as 0 (R372). -/
def State.splitRead (s : State) (i : Nat) : List Byte × State :=
  let e := s.egress i
  if e.split.mode = 2 then
    let ks := (List.range 5).flatMap (fun c => (List.range 63).map (fun p => qkey c (p + 1)))
    (ks.flatMap (fun k => if (s.part (k % 64)).confidential then zeros 4
        else leBytes 2 (min 65535 (tget 0 e.split.highDepth k)) ++ leBytes 2 (tget 0 e.split.highDelay k)),
     s.modEgress i (fun x => { x with split := { x.split with
       highDepth := (ks.filter (fun k => x.depth k != 0)).map (fun k => (k, x.depth k)), highDelay := [] } }))
  else
    let rs := e.split.ring.take 252
    (leBytes 4 (min (2 ^ 32 - 1) e.split.lost) ++ leBytes 2 rs.length ++ zeros 10 ++ rs.flatMap SplitRec.bytes,
     s.modEgress i (fun x => { x with split := { x.split with ring := x.split.ring.drop 252, lost := 0 } }))

/-- The row of splitRead in the catalogue (R433). -/
def splitReadCmd : IcsCmd := { opcode := 0xC506, roles := [.fm, .mon], form := fixedForm 4 [(1, 3)] }

/-- The rules of splitRead itself, in their order, with the status of each. -/
def splitReadRules (q : IcsReq) : List (Bool × Nat) :=
  [(badPort q.pay, stInvalid)]

/-- SPLIT_READ (R373, R374). -/
def execSplitRead (arg : IcsArg) (s : State) : Out :=
  s.serveDone arg splitReadCmd (fun q =>
    let r := q.now.splitRead (le q.pay 0 1)
    firstBroken (splitReadRules q) (.reply stOk r.1 r.2))

/-- The row of ageLimitSet in the catalogue (R433). -/
def ageLimitSetCmd : IcsCmd := { opcode := 0xC507, roles := [.fm], form := fixedForm 8 [(7, 1)] }

/-- The rules of ageLimitSet itself, in their order, with the status of each. -/
def ageLimitSetRules (q : IcsReq) : List (Bool × Nat) :=
  let a := le q.pay 0 4
  let b := le q.pay 4 1
  let c := le q.pay 5 1
  let d := le q.pay 6 1
  [
    (decide (a < 64) || decide (4000 < a) || [b, c, d].any (fun x => x == 0 || decide (64 < x)), stInvalid),
    (decide (b * 2048 < a) || decide (c < b) || decide (d < c), stInvalid)]

/-- AGE_LIMIT_SET (R110). A class's limit must not be below that of a lower-numbered class. -/
def execAgeLimitSet (arg : IcsArg) (s : State) : Out :=
  s.serveDone arg ageLimitSetCmd (fun q =>
    let a := le q.pay 0 4
    let b := le q.pay 4 1
    let c := le q.pay 5 1
    let d := le q.pay 6 1
    firstBroken (ageLimitSetRules q) (.stage [.table "ages"] (.ageLimits a b c d)))

end Sys2Proof.Machine
end

