-- ==== Sys2Proof/Machine/IcsCompute.lean ====
section
/-! DEFINITION. The command group 0xC6xx (17_command_set.md): melts and rings, the roster, anvil stores and programs, the tongs
complex; with the rules of 07, 08, 09 and 11 that decide them. -/

namespace Sys2Proof.Machine

/-! ### Melts -/

/-- A melt ID of 12 bits in bytes 0 and 1. -/
def meltId (l : List Byte) : Nat := le l 0 2

/-- The form of a command that names a melt and nothing else. -/
def meltForm (l : List Byte) : Bool := fixedForm 4 [(2, 2)] l && decide (meltId l < 4096)

/-- What a melt that a command names is refused for (R163): not open; another partition's. -/
def IcsReq.meltRules (q : IcsReq) (s : State) (m : Nat) : List (Bool × Nat) :=
  [((s.melt m).state == .free, stInvalid), ((s.melt m).part != q.part, stDenied)]

/-- The lowest free melt ID; one freed by a quench is held until TOMBSTONE (R157, R193). -/
def State.lowestMelt (s : State) : Option Nat :=
  firstBelow 4096 (fun m => (tfind s.crucibles.melts m).isNone && !s.crucibles.heldIds.any (·.1 == m))

/-- The reserved bits of a melt descriptor are 0. -/
def meltOpenForm (l : List Byte) : Bool :=
  fixedForm 128 [(89, 1), (96, 32)] l && decide (le l 0 1 < 64) && decide (le l 1 1 < 4) && decide (le l 2 1 < 32) && decide (le l 90 2 < 2 ^ 14) &&
  decide (le l 92 2 < 2 ^ 10) && [32, 40, 48, 56, 64, 72, 80].all (addrField l)

/-- The rules of Table — Melt descriptor (R155, R157, R245). -/
def meltDescOk (l : List Byte) : Bool :=
  let e := le l 8 4
  let r := le l 3 1
  crucibleFmt (le l 2 1) && decide (r < 4) && formatWordOk (le l 4 2) && le l 6 2 != 0 && e != 0 &&
  (!bit (le l 1 1) 1 || e % 128 == 0) && decide (1 ≤ le l 12 2) && decide (le l 12 2 ≤ 256) && decide (1 ≤ le l 14 2) && decide (le l 14 2 ≤ 256) &&
  (r == 0 || le l 40 8 != 0) && (r != 2 || le l 48 8 != 0) && decide (le l 88 1 < 16)

/-- The row of meltOpen in the catalogue (R433). -/
def meltOpenCmd : IcsCmd := { opcode := 0xC600, roles := [.pr], form := meltOpenForm, names := nameAt0 }

/-- The rules of meltOpen itself, in their order, with the status of each. -/
def meltOpenRules (q : IcsReq) : List (Bool × Nat) :=
  [
    (!meltDescOk q.pay || (tfind q.proj.crucibles.rings (16 * q.part + le q.pay 88 1)).isNone, stInvalid),
    (q.proj.lowestMelt.isNone, stNoResource)]

/-- MELT_OPEN (R157, R211, R245). -/
def execMeltOpen (arg : IcsArg) (s : State) : Out :=
  s.serveDone arg meltOpenCmd (fun q =>
    let m := (q.proj.lowestMelt).getD 0
    firstBroken (meltOpenRules q) (.stage [.melt m] (.meltOpen m q.part q.pay)))

/-- The form of melt-contributors: its count gives its length, and the reserved bits are 0, HINT[7:2] among them. -/
def contributorForm (l : List Byte) : Bool :=
  decide (16 ≤ l.length) && decide (meltId l < 4096) && zeroField l 4 12 && l.length == 16 + 16 * le l 2 2 &&
  (List.range (le l 2 2)).all (fun i => decide (le l (18 + 16 * i) 1 < 2) && decide (le l (19 + 16 * i) 1 < 4) &&
    zeroField l (20 + 16 * i) 4 && addrField l (24 + 16 * i))

/-- The entries of a contributor table. -/
def contributorList (l : List Byte) : List Contributor :=
  (List.range (le l 2 2)).map (fun i =>
    { ep := le l (16 + 16 * i) 2, pushEn := bit (le l (18 + 16 * i) 1) 0, hint := le l (19 + 16 * i) 1, pushBase := le l (24 + 16 * i) 8
      disabled := false })

/-- The row of meltContributors in the catalogue (R433). -/
def meltContributorsCmd : IcsCmd := { opcode := 0xC601, roles := [.pr], form := contributorForm }

/-- The rules of meltContributors itself, in their order, with the status of each. -/
def meltContributorsRules (q : IcsReq) : List (Bool × Nat) :=
  let m := meltId q.pay
  let x := q.proj.melt m
  let t := contributorList q.pay
  q.meltRules q.proj m ++ [
    (!x.resting, stBusy),
    (t.length != x.contrib || !(t.map (·.ep)).Nodup || !t.all (fun c => decide (c.hint < 3) && q.proj.isMember q.part c.ep), stInvalid)]

/-- MELT_CONTRIBUTORS (R160). -/
def execMeltContributors (arg : IcsArg) (s : State) : Out :=
  s.serveDone arg meltContributorsCmd (fun q =>
    let m := meltId q.pay
    let t := contributorList q.pay
    firstBroken (meltContributorsRules q) (.stage [.melt m] (.meltContributors m t)))

/-- The form of melt-arm. -/
def meltArmForm (l : List Byte) : Bool :=
  fixedForm 4 [(3, 1)] l && decide (meltId l < 4096) && decide (le l 2 1 < 32)

/-- The row of meltArm in the catalogue (R433). -/
def meltArmCmd : IcsCmd := { opcode := 0xC602, roles := [.pr], form := meltArmForm }

/-- The rules of meltArm itself, in their order, with the status of each. -/
def meltArmRules (q : IcsReq) : List (Bool × Nat) :=
  let m := meltId q.pay
  let f := le q.pay 2 1
  q.meltRules q.proj m ++ [
    (!(q.proj.melt m).resting, stBusy),
    (!(q.proj.melt m).tableSet || (f != 0x1F && !crucibleFmt f), stInvalid)]

/-- MELT_ARM (R160, R163). -/
def execMeltArm (arg : IcsArg) (s : State) : Out :=
  s.serveDone arg meltArmCmd (fun q =>
    let m := meltId q.pay
    let f := le q.pay 2 1
    firstBroken (meltArmRules q) (.stage [.melt m] (.meltArm m f)))

/-- The row of meltClose in the catalogue (R433). -/
def meltCloseCmd : IcsCmd := { opcode := 0xC603, roles := [.pr], form := meltForm }

/-- The rules of meltClose itself, in their order, with the status of each. -/
def meltCloseRules (q : IcsReq) : List (Bool × Nat) :=
  q.meltRules q.proj (meltId q.pay) ++ [(!(q.proj.melt (meltId q.pay)).resting, stBusy)]

/-- MELT_CLOSE (R163). -/
def execMeltClose (arg : IcsArg) (s : State) : Out :=
  s.serveDone arg meltCloseCmd (fun q =>
    firstBroken (meltCloseRules q) (.stage [.melt (meltId q.pay)] (.meltClose (meltId q.pay))))

/-- The row of meltAbortStep in the catalogue (R433). -/
def meltAbortStepCmd : IcsCmd := { opcode := 0xC604, roles := [.pr], form := meltForm }

/-- The rules of meltAbortStep itself, in their order, with the status of each. -/
def meltAbortStepRules (q : IcsReq) : List (Bool × Nat) :=
  q.meltRules q.proj (meltId q.pay) ++ [((q.proj.melt (meltId q.pay)).state != .armed, stBusy)]

/-- MELT_ABORT_STEP (R163, R194). -/
def execMeltAbortStep (arg : IcsArg) (s : State) : Out :=
  s.serveDone arg meltAbortStepCmd (fun q =>
    firstBroken (meltAbortStepRules q) (.stage [.melt (meltId q.pay)] (.meltAbort (meltId q.pay))))

/-- Table — Contributor entry. -/
def Contributor.bytes (c : Contributor) : List Byte :=
  leBytes 2 c.ep ++ [BitVec.ofNat 8 (ofBool c.pushEn), BitVec.ofNat 8 c.hint, 0, 0, 0, 0] ++ leBytes 8 c.pushBase

/-- Table — Melt state block (R163). -/
def Melt.stateBlock (x : Melt) : List Byte :=
  let code := match x.state with
    | .free => 0 | .idle => if x.ending then 3 else 1 | .armed => 2 | .final => 3
  [BitVec.ofNat 8 code, BitVec.ofNat 8 x.minFmt] ++ leBytes 2 (countIf x.windows (fun w => w.2.place.slot.isSome)) ++ leBytes 4 x.closedCount ++
  leBytes 8 x.step ++ leBytes 8 x.armHeat ++ leBytes 4 x.finalised ++ leBytes 4 x.spilledCount

/-- The row of meltInformation in the catalogue (R433). -/
def meltInformationCmd : IcsCmd := { opcode := 0xC605, roles := [.pr], form := meltForm }

/-- The rules of meltInformation itself, in their order, with the status of each. -/
def meltInformationRules (q : IcsReq) : List (Bool × Nat) :=
  q.meltRules q.now (meltId q.pay)

/-- MELT_INFORMATION (R163, R440). -/
def execMeltInformation (arg : IcsArg) (s : State) : Out :=
  s.serveDone arg meltInformationCmd (fun q =>
    let x := q.now.melt (meltId q.pay)
    firstBroken (meltInformationRules q) (q.answer (fit 128 x.desc ++ x.stateBlock ++ leBytes 2 x.contributors.length ++ zeros 14 ++ x.contributors.flatMap (·.bytes))))

/-- A number is a power of two between two bounds. -/
def pow2In (n lo hi : Nat) : Bool := decide (lo ≤ n) && decide (n ≤ hi) && (List.range 17).any (fun k => n == 2 ^ k)

/-- Every byte of a range of a partition's memory lies in an ACTIVE extent (R558). -/
def State.rangeActive (s : State) (p psa len : Nat) : Bool := s.rangeStatus p psa len false == stOk

/-- The row of statusRingSet in the catalogue (R433). -/
def statusRingSetCmd : IcsCmd := { opcode := 0xC606, roles := [.pr], form := fun l => fixedForm 16 [(1, 3)] l && addrField l 8 }

/-- The rules of statusRingSet itself, in their order, with the status of each. -/
def statusRingSetRules (q : IcsReq) : List (Bool × Nat) :=
  let p := q.part
  let r := le q.pay 0 1
  let n := le q.pay 4 4
  let b := le q.pay 8 8
  [
    (decide (15 < r) || !pow2In n 16 65536 || b % 4096 != 0, stInvalid),
    (!q.proj.rangeActive p b (64 + 64 * n), stNoExtent),
    (q.proj.crucibles.melts.any (fun m => m.2.state != .free && m.2.part == p && m.2.ring == r), stBusy)]

/-- STATUS_RING_SET (R211, R558). -/
def execStatusRingSet (arg : IcsArg) (s : State) : Out :=
  s.serveDone arg statusRingSetCmd (fun q =>
    let p := q.part
    let r := le q.pay 0 1
    let n := le q.pay 4 4
    let b := le q.pay 8 8
    firstBroken (statusRingSetRules q) (.stage [.item p ("ring" ++ toString r)] (.ringSet p r b n)))

/-! ### The roster (R233–R235) -/

/-- A run of one partition, counted cyclically over the lap, that is shorter than 4 heats (R235). -/
def shortRun (lap : Nat) (f : Nat → Nat) : Bool :=
  let ks := List.range lap
  let starts (k : Nat) : Bool := f k != f ((k + lap - 1) % lap)
  ks.any (fun k => f k != 0 && starts k && [1, 2, 3].any (fun j => f ((k + j) % lap) != f k))

/-- The form of roster-set: its lap gives its length, and the reserved bits of its entries are 0. -/
def rosterForm (l : List Byte) : Bool :=
  decide (8 ≤ l.length) && l.length == 8 + 64 * le l 0 2 && (l.drop 8).all (fun b => decide (b.toNat < 64))

/-- The entries of a roster that name a partition, by 64 × position + anvil. -/
def rosterEntries (l : List Byte) : Tab Nat := ((l.drop 8).zipIdx.map (fun e => (e.2, e.1.toNat))).filter (fun e => e.2 != 0)

/-- The row of rosterSet in the catalogue (R433). -/
def rosterSetCmd : IcsCmd := { opcode := 0xC610, roles := [.fm], form := rosterForm }

/-- The rules of rosterSet itself, in their order, with the status of each. -/
def rosterSetRules (q : IcsReq) : List (Bool × Nat) :=
  let lap := le q.pay 0 2
  [
    (lap == 0 || decide (256 < lap), stInvalid),
    ((List.range 64).any (fun a => shortRun lap (fun k => le q.pay (8 + 64 * k + a) 1)), stInvalid),
    (q.now.tooFar (le q.pay 2 6), stInvalid)]

/-- ROSTER_SET (R233–R236, R557). -/
def execRosterSet (arg : IcsArg) (s : State) : Out :=
  s.serveDone arg rosterSetCmd (fun q =>
    let lap := le q.pay 0 2
    firstBroken (rosterSetRules q) (.stage [.table "roster"] (.rosterSet { lap := lap, start := le q.pay 2 6, entries := rosterEntries q.pay })))

/-- The bytes of a roster; a partition's runtime sees other partitions as 0. -/
def Roster.bytes (r : Roster) (p : Nat) : List Byte :=
  leBytes 2 r.lap ++ leBytes 6 r.start ++
  (List.range (64 * r.lap)).map (fun i => let e := tget 0 r.entries i; BitVec.ofNat 8 (if p = 0 || e = p then e else 0))

/-- The row of rosterRead in the catalogue (R433). -/
def rosterReadCmd : IcsCmd := { opcode := 0xC611, roles := [.fm, .mon, .pr], form := fixedForm 0 [] }

/-- ROSTER_READ. -/
def execRosterRead (arg : IcsArg) (s : State) : Out :=
  s.serveDone arg rosterReadCmd (fun q => q.answer (q.now.anvils.roster.bytes q.part))

/-! ### Anvil stores and programs (R240–R243) -/

/-- The form of a command whose payload is one PSA block. -/
def blkForm (l : List Byte) : Bool := fixedForm 4 [] l && psaBlkOk l 0

/-- The row of anvilStoreSet in the catalogue (R433). -/
def anvilStoreSetCmd : IcsCmd := { opcode := 0xC620, roles := [.pr], form := blkForm }

/-- The rules of anvilStoreSet itself, in their order, with the status of each. -/
def anvilStoreSetRules (q : IcsReq) : List (Bool × Nat) :=
  let p := q.part
  let blk := le q.pay 0 4
  let found := q.proj.extAt p blk
  q.proj.blockMissing p blk ++ [
    (found.any (fun e => e.2.state != .active || e.2.place != 0 || e.2.coh != 0 || e.2.mirror != 0), stInvalid),
    ((tfind q.proj.anvils.stores p).isSome, stBusy)]

/-- ANVIL_STORE_SET (R240). -/
def execAnvilStoreSet (arg : IcsArg) (s : State) : Out :=
  s.serveDone arg anvilStoreSetCmd (fun q =>
    let p := q.part
    let blk := le q.pay 0 4
    let found := q.proj.extAt p blk
    let n := (found.map (·.1)).getD 0
    firstBroken (anvilStoreSetRules q) (.stage [.extent n, .psaBlock p blk, .item p "store"] (.storeSet p n)))

/-- A program-load of the partition is under way. -/
def State.loading (s : State) (p : Nat) : Bool :=
  s.hearth.running.any (fun r => match r.wait with
    | .event (.digest q _ _ _ _) => q == p
    | _ => false)

/-- The row of anvilStoreRelease in the catalogue (R433). -/
def anvilStoreReleaseCmd : IcsCmd := { opcode := 0xC621, roles := [.pr], form := blkForm }

/-- The rules of anvilStoreRelease itself, in their order, with the status of each. -/
def anvilStoreReleaseRules (q : IcsReq) : List (Bool × Nat) :=
  let p := q.part
  let blk := le q.pay 0 4
  [
    ((tfind q.proj.anvils.stores p).isNone, stInvalid),
    (q.proj.anvils.programs.any (fun g => g.1 / 16 == p) || q.now.loading p, stBusy)] ++ q.proj.blockTaken p blk

/-- ANVIL_STORE_RELEASE (R240). -/
def execAnvilStoreRelease (arg : IcsArg) (s : State) : Out :=
  s.serveDone arg anvilStoreReleaseCmd (fun q =>
    let p := q.part
    let blk := le q.pay 0 4
    let n := (tfind q.proj.anvils.stores p).getD 0
    firstBroken (anvilStoreReleaseRules q) (.stage [.extent n, .psaBlock p blk, .item p "store"] (.storeRelease p n blk)))

/-- An instance of a program slot exists. -/
def State.hasInstance (s : State) (p prog : Nat) : Bool := s.anvils.instances.any (fun i => i.1 % 64 == p && i.2.prog == prog)

/-- The row of programLoad in the catalogue (R433). -/
def programLoadCmd : IcsCmd := { opcode := 0xC622, roles := [.pr], form := fun l => fixedForm 20 [(1, 3)] l && addrField l 8 }

/-- The rules of programLoad itself, in their order, with the status of each. -/
def programLoadRules (q : IcsReq) : List (Bool × Nat) :=
  let p := q.part
  let g := le q.pay 0 1
  let n := le q.pay 4 4
  let psa := le q.pay 8 8
  let live := le q.pay 16 4
  [
    (decide (15 < g) || n == 0 || n % 8 != 0 || decide (65536 < n) || live % 4096 != 0 || decide (393216 < live), stInvalid),
    ((tfind q.proj.anvils.stores p).isNone, stInvalid),
    (q.proj.hasInstance p g, stBusy),
    (decide (256 ≤ (q.now.attLog p).entries.length), stNoResource),
    (!q.proj.rangeActive p psa n, stNoExtent)]

/-- PROGRAM_LOAD (R242, R460): the image is copied and measured when MEASUREMENT_APPENDED comes. -/
def execProgramLoad (arg : IcsArg) (s : State) : Out :=
  s.serveDone arg programLoadCmd (fun q =>
    let p := q.part
    let g := le q.pay 0 1
    let n := le q.pay 4 4
    let psa := le q.pay 8 8
    let live := le q.pay 16 4
    firstBroken (programLoadRules q) (.start [.programSlot p g] (.digest p g psa n live) q.now))

/-- The form of program-start and program-stop. -/
def programForm (n : Nat) (l : List Byte) : Bool := fixedForm n [(1, 7)] l

/-- The row of programStart in the catalogue (R433). -/
def programStartCmd : IcsCmd := { opcode := 0xC623, roles := [.pr], form := programForm 80 }

/-- The rules of programStart itself, in their order, with the status of each. -/
def programStartRules (q : IcsReq) : List (Bool × Nat) :=
  let p := q.part
  let g := le q.pay 0 1
  let mask := le q.pay 8 8
  [
    (decide (15 < g) || (tfind q.proj.anvils.programs (16 * p + g)).isNone, stInvalid),
    ((bitList 64 mask).any (fun a => (tfind q.proj.anvils.instances (64 * a + p)).isSome), stBusy)]

/-- PROGRAM_START (R243). -/
def execProgramStart (arg : IcsArg) (s : State) : Out :=
  s.serveDone arg programStartCmd (fun q =>
    let p := q.part
    let g := le q.pay 0 1
    let mask := le q.pay 8 8
    firstBroken (programStartRules q) (.stage [.programSlot p g] (.programStart p g mask (leList 8 8 (q.pay.drop 16)))))

/-- The row of programStop in the catalogue (R433). -/
def programStopCmd : IcsCmd := { opcode := 0xC624, roles := [.pr], form := programForm 16 }

/-- The rules of programStop itself, in their order, with the status of each. -/
def programStopRules (q : IcsReq) : List (Bool × Nat) :=
  let g := le q.pay 0 1
  [(decide (15 < g), stInvalid)]

/-- PROGRAM_STOP (R243). -/
def execProgramStop (arg : IcsArg) (s : State) : Out :=
  s.serveDone arg programStopCmd (fun q =>
    let g := le q.pay 0 1
    firstBroken (programStopRules q) (.stage [.programSlot q.part g] (.programStop q.part g (le q.pay 8 8))))

/-! ### The tongs complex -/

/-- What a context that a command names is refused for: outside the range of the caller's partition (R255). -/
def IcsReq.ctxRules (q : IcsReq) (s : State) (c : Nat) : List (Bool × Nat) := [(!s.holdsCtx q.part c, stDenied)]

/-- A context number of 14 bits in bytes 0 and 1. -/
def ctxForm (n : Nat) (reserved : List (Nat × Nat)) (l : List Byte) : Bool := fixedForm n reserved l && decide (le l 0 2 < 2 ^ 14)

/-- An address space of a partition. -/
def State.ownSpace (s : State) (p a : Nat) : Bool :=
  match tfind s.tongs.spaces a with
  | some x => x.part == p
  | none => false

/-- The form of tongs-context-set. -/
def ctxSetForm (l : List Byte) : Bool :=
  ctxForm 32 [(25, 7)] l && decide (le l 2 2 < 2 ^ 12) && addrField l 8 && addrField l 16

/-- The row of tongsContextSet in the catalogue (R433). -/
def tongsContextSetCmd : IcsCmd := { opcode := 0xC630, roles := [.pr], form := ctxSetForm }

/-- The rules of tongsContextSet itself, in their order, with the status of each. -/
def tongsContextSetRules (q : IcsReq) : List (Bool × Nat) :=
  let p := q.part
  let c := le q.pay 0 2
  let a := le q.pay 2 2
  let n := le q.pay 4 4
  let sub := le q.pay 8 8
  let cpl := le q.pay 16 8
  let f := le q.pay 24 1
  let st := (q.proj.ctx c).state
  q.ctxRules q.proj c ++ [
    (!q.proj.ownSpace p a || !pow2In n 64 65536 || sub % 4096 != 0 || cpl % 4096 != 0 || (decide (7 < f) && f != 0xFF), stInvalid),
    (!q.proj.rangeActive p sub (64 * n) || !q.proj.rangeActive p cpl (64 + 32 * n), stNoExtent),
    (st != .free && st != .idle, stBusy)]

/-- TONGS_CONTEXT_SET (R255, R258, R259, R558). -/
def execTongsContextSet (arg : IcsArg) (s : State) : Out :=
  s.serveDone arg tongsContextSetCmd (fun q =>
    let p := q.part
    let c := le q.pay 0 2
    let a := le q.pay 2 2
    let n := le q.pay 4 4
    let sub := le q.pay 8 8
    let cpl := le q.pay 16 8
    let f := le q.pay 24 1
    firstBroken (tongsContextSetRules q) (.stage [.context c] (.ctxSet c p a sub cpl n f)))

/-- The row of tongsContextReset in the catalogue (R433). -/
def tongsContextResetCmd : IcsCmd := { opcode := 0xC631, roles := [.pr], form := ctxForm 4 [(2, 2)] }

/-- The rules of tongsContextReset itself, in their order, with the status of each. -/
def tongsContextResetRules (q : IcsReq) : List (Bool × Nat) :=
  let c := le q.pay 0 2
  q.ctxRules q.proj c ++ [((q.proj.ctx c).state == .free, stInvalid)]

/-- TONGS_CONTEXT_RESET (R286). -/
def execTongsContextReset (arg : IcsArg) (s : State) : Out :=
  s.serveDone arg tongsContextResetCmd (fun q =>
    let c := le q.pay 0 2
    firstBroken (tongsContextResetRules q) (.stage [.context c] (.ctxReset c)))

/-- The code of a context state. -/
def CtxState.code : CtxState → Nat
  | .free => 0 | .idle => 1 | .ready => 2 | .active => 3 | .waiting => 4 | .faulted => 5

/-- The row of tongsContextStatus in the catalogue (R433). -/
def tongsContextStatusCmd : IcsCmd := { opcode := 0xC632, roles := [.pr], form := ctxForm 4 [(2, 2)] }

/-- The rules of tongsContextStatus itself, in their order, with the status of each. -/
def tongsContextStatusRules (q : IcsReq) : List (Bool × Nat) :=
  let c := le q.pay 0 2
  q.ctxRules q.now c

/-- TONGS_CONTEXT_STATUS (R282, R440). -/
def execTongsContextStatus (arg : IcsArg) (s : State) : Out :=
  s.serveDone arg tongsContextStatusCmd (fun q =>
    let c := le q.pay 0 2
    let x := q.now.ctx c
    firstBroken (tongsContextStatusRules q) (q.answer ([BitVec.ofNat 8 x.state.code, BitVec.ofNat 8 (ofBool x.fault.isSome), 0, 0] ++ leBytes 4 x.subHead ++ fit 32 (x.fault.getD []))))

/-- The row of tongsResume in the catalogue (R433). -/
def tongsResumeCmd : IcsCmd := { opcode := 0xC633, roles := [.pr], form := ctxForm 4 [(3, 1)] }

/-- The rules of tongsResume itself, in their order, with the status of each. -/
def tongsResumeRules (q : IcsReq) : List (Bool × Nat) :=
  let c := le q.pay 0 2
  q.ctxRules q.proj c ++ [(decide (1 < le q.pay 2 1) || (q.proj.ctx c).state != .faulted, stInvalid)]

/-- TONGS_RESUME (R283). -/
def execTongsResume (arg : IcsArg) (s : State) : Out :=
  s.serveDone arg tongsResumeCmd (fun q =>
    let c := le q.pay 0 2
    firstBroken (tongsResumeRules q) (.stage [.context c] (.ctxResume c (le q.pay 2 1 == 1))))

/-- The lowest address space that is not allocated. -/
def State.lowestSpace (s : State) : Option Nat := firstBelow 4096 (fun a => (tfind s.tongs.spaces a).isNone)

/-- The row of tongsSpaceSet in the catalogue (R433). -/
def tongsSpaceSetCmd : IcsCmd := { opcode := 0xC634, roles := [.pr], form := fun l => fixedForm 16 [(2, 6)] l && addrField l 8 }

/-- The rules of tongsSpaceSet itself, in their order, with the status of each. -/
def tongsSpaceSetRules (q : IcsReq) : List (Bool × Nat) :=
  let given := le q.pay 0 2
  [
    (given != 0xFFFF && !q.proj.ownSpace q.part given, stInvalid),
    (given == 0xFFFF && q.proj.lowestSpace.isNone, stNoResource)]

/-- TONGS_SPACE_SET (R275). -/
def execTongsSpaceSet (arg : IcsArg) (s : State) : Out :=
  s.serveDone arg tongsSpaceSetCmd (fun q =>
    let given := le q.pay 0 2
    let a := if given = 0xFFFF then (q.proj.lowestSpace).getD 0 else given
    firstBroken (tongsSpaceSetRules q) (.stage [.space a] (.spaceSet a q.part (le q.pay 8 8))))

/-- The row of tongsSpaceFree in the catalogue (R433). -/
def tongsSpaceFreeCmd : IcsCmd := { opcode := 0xC635, roles := [.pr], form := fixedForm 4 [(2, 2)] }

/-- The rules of tongsSpaceFree itself, in their order, with the status of each. -/
def tongsSpaceFreeRules (q : IcsReq) : List (Bool × Nat) :=
  let a := le q.pay 0 2
  [
    (!q.proj.ownSpace q.part a, stInvalid),
    (q.proj.tongs.ctxs.any (fun c => c.2.state != .free && c.2.asid == a), stBusy)]

/-- TONGS_SPACE_FREE (R275). -/
def execTongsSpaceFree (arg : IcsArg) (s : State) : Out :=
  s.serveDone arg tongsSpaceFreeCmd (fun q =>
    let a := le q.pay 0 2
    firstBroken (tongsSpaceFreeRules q) (.stage [.space a] (.spaceFree a)))

/-- The row of tongsInvalidate in the catalogue (R433). -/
def tongsInvalidateCmd : IcsCmd := { opcode := 0xC636, roles := [.pr], form := fun l => fixedForm 24 [(3, 5)] l && decide (le l 2 1 < 2) && addrField l 8 }

/-- The rules of tongsInvalidate itself, in their order, with the status of each. -/
def tongsInvalidateRules (q : IcsReq) : List (Bool × Nat) :=
  let a := le q.pay 0 2
  let b := le q.pay 8 8
  let n := le q.pay 16 8
  [(!q.proj.ownSpace q.part a || b % 65536 != 0 || n % 65536 != 0 || decide (2 ^ 48 < b + n), stInvalid)]

/-- TONGS_INVALIDATE (R284). -/
def execTongsInvalidate (arg : IcsArg) (s : State) : Out :=
  s.serveDone arg tongsInvalidateCmd (fun q =>
    let a := le q.pay 0 2
    let b := le q.pay 8 8
    let n := le q.pay 16 8
    firstBroken (tongsInvalidateRules q) (.stage [.space a] (.invalidate a b n (bit (le q.pay 2 1) 0))))

/-- The row of tongsPlaceSet in the catalogue (R433). -/
def tongsPlaceSetCmd : IcsCmd := { opcode := 0xC637, roles := [.pr], form := ctxForm 4 [] }

/-- The rules of tongsPlaceSet itself, in their order, with the status of each. -/
def tongsPlaceSetRules (q : IcsReq) : List (Bool × Nat) :=
  let c := le q.pay 0 2
  let m := le q.pay 2 2
  q.ctxRules q.proj c ++ [
    ((q.proj.ctx c).state == .free || (m != 0xFFFF && decide ((q.proj.part q.part).members.length ≤ m)), stInvalid)]

/-- TONGS_PLACE_SET (R308). -/
def execTongsPlaceSet (arg : IcsArg) (s : State) : Out :=
  s.serveDone arg tongsPlaceSetCmd (fun q =>
    let c := le q.pay 0 2
    let m := le q.pay 2 2
    firstBroken (tongsPlaceSetRules q) (.stage [.context c] (.placeSet c (if m = 0xFFFF then none else some m))))

/-- The row of faultQueueSet in the catalogue (R433). -/
def faultQueueSetCmd : IcsCmd := { opcode := 0xC638, roles := [.pr], form := fun l => fixedForm 16 [(4, 4)] l && addrField l 8 }

/-- The rules of faultQueueSet itself, in their order, with the status of each. -/
def faultQueueSetRules (q : IcsReq) : List (Bool × Nat) :=
  let n := le q.pay 0 4
  let b := le q.pay 8 8
  [
    (!pow2In n 16 4096 || b % 4096 != 0, stInvalid),
    (!q.proj.rangeActive q.part b (64 + 32 * n), stNoExtent)]

/-- FAULT_QUEUE_SET (R282, R558). -/
def execFaultQueueSet (arg : IcsArg) (s : State) : Out :=
  s.serveDone arg faultQueueSetCmd (fun q =>
    let n := le q.pay 0 4
    let b := le q.pay 8 8
    firstBroken (faultQueueSetRules q) (.stage [.item q.part "faults"] (.faultQueue q.part b n)))

/-! ### The end of a program-load -/

/-- The program-load that awaits its measurement. -/
def State.pendingLoad (s : State) (p slot : Nat) : Option (Running × Nat × Nat × Nat) :=
  s.hearth.running.findSome? (fun r => match r.wait with
    | .event (.digest q g psa n live) => if q = p && g = slot then some (r, psa, n, live) else none
    | _ => none)

/-- The image is copied into its slot and measured (R242): the entry of the log, the loaded program, the reply. An image that
cannot be read ends the command with the status of the read. -/
def State.measure (s : State) (p slot : Nat) (r : Running) (psa n live : Nat) : State :=
  let x := s.pLoad p psa n
  match s.programSlot p slot with
  | none => s.endRunning r stInvalid []
  | some d =>
    if x.1 ≠ stOk then s.endRunning r x.1 []
    else
      let h := sha256 x.2
      let s1 := (s.engineStore 3 p d x.2 false).appendLog p (logEntry 2 slot n live s.heat.count h)
      let s2 : State := { s1 with anvils := { s1.anvils with
        programs := tins s1.anvils.programs (16 * p + slot) { length := n, liveMax := live, digest := h } } }
      s2.endRunning r stOk h

/-- MEASUREMENT_APPENDED: Hearth has copied and measured a program image (R242). -/
def execMeasurementAppended (p slot : Nat) (s : State) : Out :=
  done (match s.pendingLoad p slot with
  | none => s
  | some (r, psa, n, live) =>
    let acc : List Access := [{ part := p, psa := psa, len := n, write := false }]
    if s.hearthRefuses.isSome then s
    else if !s.allReady acc then s.prepareAll 3 acc
    else (s.useLines 3 acc).measure p slot r psa n live)

end Sys2Proof.Machine
end

