-- ==== Sys2Proof/Machine/IcsSystem.lean ====
section
/-! DEFINITION. The command groups 0xC7xx to 0xCBxx (17_command_set.md): power, security, reliability and twin, telemetry and
firmware; with the rules of 05, 16, 19, 20, 21 and 23 that decide them. -/

namespace Sys2Proof.Machine

/-! ### Power (0xC7xx) -/

/-- The row of powerLimitSet in the catalogue (R433). -/
def powerLimitSetCmd : IcsCmd := { opcode := 0xC700, roles := [.fm], form := fixedForm 4 [(2, 2)] }

/-- The rules of powerLimitSet itself, in their order, with the status of each. -/
def powerLimitSetRules (q : IcsReq) : List (Bool × Nat) :=
  let w := le q.pay 0 2
  [(decide (w < 350) || decide (700 < w), stInvalid)]

/-- POWER_LIMIT_SET (R480). -/
def execPowerLimitSet (arg : IcsArg) (s : State) : Out :=
  s.serveDone arg powerLimitSetCmd (fun q =>
    let w := le q.pay 0 2
    firstBroken (powerLimitSetRules q) (.stage [.table "power limit"] (.powerLimit w)))

/-- The row of phaseDeclare in the catalogue (R433). -/
def phaseDeclareCmd : IcsCmd := { opcode := 0xC701, roles := [.pr], form := fixedForm 4 [(1, 3)] }

/-- The rules of phaseDeclare itself, in their order, with the status of each. -/
def phaseDeclareRules (q : IcsReq) : List (Bool × Nat) :=
  let ph := le q.pay 0 1
  [(decide (7 < ph), stInvalid)]

/-- PHASE_DECLARE (R483). -/
def execPhaseDeclare (arg : IcsArg) (s : State) : Out :=
  s.serveDone arg phaseDeclareCmd (fun q =>
    let ph := le q.pay 0 1
    firstBroken (phaseDeclareRules q) (.stage [.item q.part "phase"] (.phaseDeclare q.part ph)))

/-- The row of phaseSet in the catalogue (R433). -/
def phaseSetCmd : IcsCmd := { opcode := 0xC702, roles := [.fm], form := fixedForm 16 [(3, 5)] }

/-- The rules of phaseSet itself, in their order, with the status of each. -/
def phaseSetRules (q : IcsReq) : List (Bool × Nat) :=
  let ph := le q.pay 0 1
  let pt : PhasePoint := { step := le q.pay 1 1, cls := le q.pay 2 1, mask := le q.pay 8 8 }
  [(decide (7 < ph) || decide (5 < pt.step) || decide (3 < pt.cls), stInvalid)]

/-- PHASE_SET: a reserved step code or class fails (R482). -/
def execPhaseSet (arg : IcsArg) (s : State) : Out :=
  s.serveDone arg phaseSetCmd (fun q =>
    let ph := le q.pay 0 1
    let pt : PhasePoint := { step := le q.pay 1 1, cls := le q.pay 2 1, mask := le q.pay 8 8 }
    firstBroken (phaseSetRules q) (.stage [.table "phases"] (.phaseSet ph pt)))

/-- The row of dramPowerSet in the catalogue (R433). -/
def dramPowerSetCmd : IcsCmd := { opcode := 0xC703, roles := [.fm], form := fixedForm 4 [(1, 1)] }

/-- The rules of dramPowerSet itself, in their order, with the status of each. -/
def dramPowerSetRules (q : IcsReq) : List (Bool × Nat) :=
  let sr := le q.pay 2 2
  [(sr != 0 && decide (sr < 256), stInvalid)]

/-- DRAM_POWER_SET (R127). -/
def execDramPowerSet (arg : IcsArg) (s : State) : Out :=
  s.serveDone arg dramPowerSetCmd (fun q =>
    let sr := le q.pay 2 2
    firstBroken (dramPowerSetRules q) (.stage [.table "DRAM power"] (.dramPower (le q.pay 0 1) sr)))

/-- A reason's record of power-status: microseconds, heat of the last onset, onsets (R497). -/
def Reason.bytes (r : Reason) : List Byte := leBytes 8 (r.ns / 1000) ++ leBytes 6 r.lastOnset ++ leBytes 2 r.onsets

/-- Table — Power status, then the nine reason records (R497). -/
def State.powerBytes (s : State) : List Byte :=
  let b := s.bellows
  leBytes 2 b.limit ++ leBytes 2 800 ++ leBytes 2 600 ++ [BitVec.ofNat 8 b.step, BitVec.ofNat 8 b.rung] ++ leBytes 8 b.enable ++
  (List.range 8).map (fun k => BitVec.ofNat 8 (tget 0 b.classes k)) ++ leBytes 2 b.scale ++ leBytes 2 b.meanSustained ++
  leBytes 2 b.mean64 ++ leBytes 2 b.reading ++ leBytes 2 b.railEstimate ++
  [BitVec.ofNat 8 b.dieTemp, BitVec.ofNat 8 (((List.range 8).map (fun k => (s.stack k).temperature)).foldl max 0),
   BitVec.ofNat 8 (ofBool s.throttling + ofBool b.divergence * 2 + ofBool b.missing * 4 + ofBool (!s.pins.pwrBrakeN) * 8 +
     ofBool s.coolantStop * 16 + ofBool s.pins.tripped * 32), 0] ++
  leBytes 2 b.reportedMv ++ leBytes 2 b.coreAmps ++ leBytes 2 b.missingCount ++ zeros 20 ++
  (List.range 9).flatMap (fun r => (s.reason r).bytes)

/-- The row of powerStatus in the catalogue (R433). -/
def powerStatusCmd : IcsCmd := { opcode := 0xC704, roles := [.any], form := fixedForm 0 [] }

/-- POWER_STATUS (R497). -/
def execPowerStatus (arg : IcsArg) (s : State) : Out :=
  s.serveDone arg powerStatusCmd (fun q => q.answer q.now.powerBytes)

/-! ### Security (0xC8xx) -/

/-- The seals that an attestation-report names. -/
def reportSeals (l : List Byte) : List Nat := (List.range (le l 32 1)).map (fun i => le l (40 + i) 1)

/-- The row of attestationReport in the catalogue (R433). -/
def attestationReportCmd : IcsCmd := { opcode := 0xC800, roles := [.fm, .bmc, .pr], form := fixedForm 48 [(33, 7)] }

/-- The rules of attestationReport itself, in their order, with the status of each. -/
def attestationReportRules (q : IcsReq) : List (Bool × Nat) :=
  (decide (8 < le q.pay 32 1), stInvalid) :: (q.now.sec.identityFailed, stFaulted) :: (reportSeals q.pay).flatMap (q.sealRules q.now)

/-- ATTESTATION_REPORT: the request is held until the report is signed; the last report of the channel is held no longer
(R433, R459, R462). -/
def execAttestationReport (arg : IcsArg) (s : State) : Out :=
  s.serveDone arg attestationReportCmd (fun q =>
    firstBroken (attestationReportRules q) (.start [] .report (q.now.modChan q.chan (fun c => { c with report := none, unsigned := some q.pay }))))

/-- The partitions whose logs a report holds, rising (R462). -/
def State.reportParts (s : State) (ch : Chan) (seals : List Nat) : List Nat :=
  match ch with
  | .page p => [p]
  | _ => (List.range 64).filter (fun p => seals.any (fun n => (s.seal n).part == p))

/-- A log section (R461). -/
def State.logSection (s : State) (p : Nat) : List Byte :=
  let l := s.attLog p
  [BitVec.ofNat 8 p, BitVec.ofNat 8 (ofBool (s.part p).confidential)] ++ leBytes 2 l.entries.length ++ leBytes 6 (s.part p).createHeat ++
  zeros 6 ++ fit 32 l.digest ++ l.entries.flatten

/-- A seal section: the record, with ROOT_VALID 0 and no root for a seal that is not SEALED, then its extent list (R461). -/
def State.sealSection (s : State) (n : Nat) : List Byte :=
  (if (s.seal n).state = .sealed then s else s.modSeal n (fun x => { x with rootValid := false })).sealRecord n ++
    (s.seal n).psaBlks.flatMap (leBytes 4)

/-- The report of a request, but for its signature (R461, Table — Attestation report header). -/
def State.reportBody (s : State) (ch : Chan) (req : List Byte) : List Byte :=
  let seals := reportSeals req
  let parts := s.reportParts ch seals
  let secs := parts.flatMap s.logSection ++ seals.flatMap s.sealSection
  leBytes 4 1 ++ leBytes 4 (256 + secs.length + 17088) ++ fit 32 req ++ fit 32 s.sec.identityHash ++
  [BitVec.ofNat 8 s.sec.config.orderCode, BitVec.ofNat 8 s.sec.image,
   BitVec.ofNat 8 (ofBool s.sec.debugUnlocked + ofBool s.sec.floorAbsent * 2 + ofBool s.confidentialExists * 4), BitVec.ofNat 8 ch.part] ++
  leBytes 4 s.sec.romVersion ++ leBytes 4 s.sec.fwVersion ++ leBytes 4 s.sec.cfgVersion ++ leBytes 4 s.sec.fwFloor ++
  leBytes 4 s.sec.cfgFloor ++ fit 32 s.sec.fwDigest ++ fit 32 s.sec.cfgDigest ++ leBytes 6 s.heat.count ++
  [BitVec.ofNat 8 parts.length, BitVec.ofNat 8 seals.length] ++ zeros 88 ++ secs

/-- The report with its signature by the identity key. -/
def State.signedReport (s : State) (ch : Chan) (req : List Byte) : List Byte :=
  let b := s.reportBody ch req
  b ++ identitySign s.sec.identitySecret b

/-- REPORT_SIGNED: the report is held for its channel, and its length is returned (R461). -/
def execReportSigned (chan : Chan) (s : State) : Out :=
  done (match (s.chan chan).unsigned, s.hearth.running.find? (fun r => r.chan == chan && r.wait == .event .report) with
  | some req, some r =>
    if s.hearthRefuses.isSome then s
    else
      let b := s.signedReport chan req
      (s.modChan chan (fun c => { c with report := some b, unsigned := none })).endRunning r stOk (leBytes 4 b.length)
  | _, _ => s)

/-- The row of attestationRead in the catalogue (R433). -/
def attestationReadCmd : IcsCmd := { opcode := 0xC801, roles := [.fm, .bmc, .pr], form := fixedForm 8 [] }

/-- The rules of attestationRead itself, in their order, with the status of each. -/
def attestationReadRules (q : IcsReq) : List (Bool × Nat) :=
  let off := le q.pay 0 4
  let n := le q.pay 4 4
  let b := (q.now.chan q.chan).report
  [(n == 0 || decide (4096 < n) || b.isNone || decide ((b.getD []).length < off + n), stInvalid)]

/-- ATTESTATION_READ: bytes of the report that the channel holds (R433). -/
def execAttestationRead (arg : IcsArg) (s : State) : Out :=
  s.serveDone arg attestationReadCmd (fun q =>
    let off := le q.pay 0 4
    let n := le q.pay 4 4
    let b := (q.now.chan q.chan).report
    firstBroken (attestationReadRules q) (q.answer (((b.getD []).drop off).take n)))

/-- The channels on which the fabric manager may bind: the primary mailboxes and the sideband, and their code (R428). -/
def Chan.bindCode : Chan → Option Nat
  | .primary h => some h
  | .sideband _ => some 2
  | _ => none

/-- The row of fmChallenge in the catalogue (R433). -/
def fmChallengeCmd : IcsCmd := { opcode := 0xC810, roles := [.any], form := fixedForm 0 [], channels := fun c => c.bindCode.isSome }

/-- The rules of fmChallenge itself, in their order, with the status of each. -/
def fmChallengeRules (q : IcsReq) : List (Bool × Nat) :=
  [(q.now.sec.drbgStopped, stFaulted)]

/-- FM_CHALLENGE: a nonce drawn from the DRBG (R428, R463). -/
def execFmChallenge (arg : IcsArg) (s : State) : Out :=
  s.serveDone arg fmChallengeCmd (fun q =>
    let d := q.now.draw 32
    firstBroken (fmChallengeRules q) (.reply stOk (fit 32 d.1) (d.2.modChan q.chan (fun c => { c with nonce := some (fit 32 d.1, 64), bindPart := none }))))

/-- The form of fm-bind: its two parts have a length each. -/
def bindForm (l : List Byte) : Bool :=
  zeroField l 1 3 && ((le l 0 1 == 0 && l.length == 4004) || (le l 0 1 == 1 && l.length == 3892))

/-- The signed bind verifies: the key is the one of FM_KEY_HASH, and its signature covers nonce, channel code and H (R428). -/
def State.bindOk (s : State) (code : Nat) (nonce part0 part1 : List Byte) : Bool :=
  let pk := part0.take 32
  sha256 pk == fit 32 s.sec.config.fmKeyHash &&
  Config.slhVerify pk (nonce ++ [BitVec.ofNat 8 code] ++ fit 32 s.sec.identityHash) (part0.drop 32 ++ part1)

/-- The row of fmBind in the catalogue (R433). -/
def fmBindCmd : IcsCmd := { opcode := 0xC811, roles := [.any], form := bindForm, channels := fun c => c.bindCode.isSome }

/-- FM_BIND: part 0 is kept; part 1 decides. A failed bind consumes the nonce, a successful one moves the binding (R428, R429). -/
def execFmBind (arg : IcsArg) (s : State) : Out :=
  s.serveDone arg fmBindCmd (fun q =>
    let c := q.now.chan q.chan
    let spent := q.now.modChan q.chan (fun x => { x with nonce := none, bindPart := none })
    match c.nonce with
    | none => .refuse stDenied
    | some (nonce, left) =>
      if left = 0 then .refuse stDenied
      else if le q.pay 0 1 = 0 then .held stOk (q.now.modChan q.chan (fun x => { x with bindPart := some (q.pay.drop 4) }))
      else match c.bindPart with
      | none => .refuse stInvalid
      | some part0 =>
        if q.now.bindOk (q.chan.bindCode.getD 0) nonce part0 (q.pay.drop 4) then
          .reply stOk [] { spent with hearth := { spent.hearth with binding := some q.chan } }
        else .held stDenied spent)

/-- The row of fmUnbind in the catalogue (R433). -/
def fmUnbindCmd : IcsCmd := { opcode := 0xC812, roles := [.fm], form := fixedForm 0 [] }

/-- FM_UNBIND (R429). -/
def execFmUnbind (arg : IcsArg) (s : State) : Out :=
  s.serveDone arg fmUnbindCmd (fun q =>
    .reply stOk [] { q.now with hearth := { q.now.hearth with binding := none } })

/-- The row of debugUnlock in the catalogue (R433). -/
def debugUnlockCmd : IcsCmd := { opcode := 0xC820, roles := [.fm], form := fixedForm 0 [] }

/-- The rules of debugUnlock itself, in their order, with the status of each. -/
def debugUnlockRules (q : IcsReq) : List (Bool × Nat) :=
  [(q.proj.confidentialExists || q.now.confidentialExists, stBusy)]

/-- DEBUG_UNLOCK (R475, R476). -/
def execDebugUnlock (arg : IcsArg) (s : State) : Out :=
  s.serveDone arg debugUnlockCmd (fun q =>
    firstBroken (debugUnlockRules q) (.stage [.table "debug"] .debugUnlock))

/-- The row of debugLock in the catalogue (R433). -/
def debugLockCmd : IcsCmd := { opcode := 0xC821, roles := [.fm], form := fixedForm 0 [] }

/-- DEBUG_LOCK (R475). -/
def execDebugLock (arg : IcsArg) (s : State) : Out :=
  s.serveDone arg debugLockCmd (fun _ => .stage [.table "debug"] .debugLock)

/-! ### Reliability and twin (0xC9xx) -/

/-- The service units of a stack (kind 0) or of a bulk channel (kind 1), and its walker. -/
def State.unitsAt (s : State) (kind i : Nat) : List Nat :=
  if kind = 0 then (if (s.stack i).populated then (List.range 32).map (32 * i + ·) else [])
  else (List.range (min 4 (s.bulkCh i).ranks)).map (256 + 4 * i + ·)

def walkerOf (kind i : Nat) : Nat := if kind = 0 then 3 * i else 3 * (i / 2) + 1 + i % 2

/-- The unit of a list whose retirement began first. -/
def State.firstRetiring (s : State) (us : List Nat) : Option Nat :=
  (us.filter (fun u => (s.unit u).state == .retiring)).foldl (fun b u => match b with
    | none => some u
    | some v => if (s.unit u).order < (s.unit v).order then some u else some v) none

/-- The result of memory-health (R440). -/
def State.healthBytes (s : State) (kind i : Nat) : List Byte :=
  let us := s.unitsAt kind i
  let moving := s.firstRetiring us
  let tested := us.find? (fun u => (s.unit u).state == .warmUp)
  [BitVec.ofNat 8 kind, BitVec.ofNat 8 i, BitVec.ofNat 8 (s.walker (walkerOf kind i)).level, BitVec.ofNat 8 us.length] ++
  leBytes 16 ((us.zipIdx.map (fun u => (s.unit u.1).state.code * 2 ^ (4 * u.2))).foldl (· + ·) 0) ++
  leBytes 4 ((moving.map (fun u => (s.unit u).pieces)).getD 0) ++ leBytes 4 ((moving.map s.unitPieces).getD 0) ++
  leBytes 4 ((tested.map (fun u => (s.unit u).testUnits)).getD 0)

/-- The row of memoryHealth in the catalogue (R433). -/
def memoryHealthCmd : IcsCmd := { opcode := 0xC900, roles := [.any], form := fixedForm 4 [(2, 2)] }

/-- The rules of memoryHealth itself, in their order, with the status of each. -/
def memoryHealthRules (q : IcsReq) : List (Bool × Nat) :=
  let k := le q.pay 0 1
  let i := le q.pay 1 1
  [(decide (1 < k) || decide ((if k = 0 then 7 else 15) < i), stInvalid)]

/-- MEMORY_HEALTH (R440). -/
def execMemoryHealth (arg : IcsArg) (s : State) : Out :=
  s.serveDone arg memoryHealthCmd (fun q =>
    let k := le q.pay 0 1
    let i := le q.pay 1 1
    firstBroken (memoryHealthRules q) (q.answer (q.now.healthBytes k i)))

/-- The row of scrubFloorSet in the catalogue (R433). -/
def scrubFloorSetCmd : IcsCmd := { opcode := 0xC901, roles := [.fm], form := fixedForm 4 [(1, 3)] }

/-- The rules of scrubFloorSet itself, in their order, with the status of each. -/
def scrubFloorSetRules (q : IcsReq) : List (Bool × Nat) :=
  [(decide (3 < le q.pay 0 1), stInvalid)]

/-- SCRUB_FLOOR_SET (R118). -/
def execScrubFloorSet (arg : IcsArg) (s : State) : Out :=
  s.serveDone arg scrubFloorSetCmd (fun q =>
    firstBroken (scrubFloorSetRules q) (.stage [.table "scrub floor"] (.scrubFloor (le q.pay 0 1))))

/-- The row of unitReturn in the catalogue (R433). -/
def unitReturnCmd : IcsCmd := { opcode := 0xC902, roles := [.fm], form := fixedForm 4 [(3, 1)] }

/-- The rules of unitReturn itself, in their order, with the status of each. -/
def unitReturnRules (q : IcsReq) : List (Bool × Nat) :=
  let cls := le q.pay 0 1
  let i := le q.pay 1 1
  let k := le q.pay 2 1
  let u := if cls = 2 then 32 * i + k else 256 + 4 * i + k
  let st := (q.proj.unit u).state
  [
    (!((cls == 2 && decide (i < 8) && decide (k < 32)) || (cls == 3 && decide (i < 16) && decide (k < 4))), stInvalid),
    (st != .retired && st != .failed && !(q.proj.unit u).serving, stInvalid),
    (q.proj.holdsData u, stBusy)]

/-- UNIT_RETURN: a retired or failed unit goes into warm-up; one that still holds data is BUSY (R126). -/
def execUnitReturn (arg : IcsArg) (s : State) : Out :=
  s.serveDone arg unitReturnCmd (fun q =>
    let cls := le q.pay 0 1
    let i := le q.pay 1 1
    let k := le q.pay 2 1
    let u := if cls = 2 then 32 * i + k else 256 + 4 * i + k
    firstBroken (unitReturnRules q) (.stage [.item 0 ("unit " ++ toString u)] (.unitReturn u)))

/-- The row of hearthReturn in the catalogue (R433). -/
def hearthReturnCmd : IcsCmd := { opcode := 0xC903, roles := [.fm, .bmc], form := fixedForm 4 [(1, 3)] }

/-- The rules of hearthReturn itself, in their order, with the status of each. -/
def hearthReturnRules (q : IcsReq) : List (Bool × Nat) :=
  let k := le q.pay 0 1
  [(decide (1 < k), stInvalid), (q.proj.core k != .failed, stBusy)]

/-- HEARTH_RETURN (R399). -/
def execHearthReturn (arg : IcsArg) (s : State) : Out :=
  s.serveDone arg hearthReturnCmd (fun q =>
    let k := le q.pay 0 1
    firstBroken (hearthReturnRules q) (.stage [.core] (.hearthReturn k)))

/-- The row of hearthSwitch in the catalogue (R433). -/
def hearthSwitchCmd : IcsCmd := { opcode := 0xC904, roles := [.fm, .bmc], form := fixedForm 0 [] }

/-- The rules of hearthSwitch itself, in their order, with the status of each. -/
def hearthSwitchRules (q : IcsReq) : List (Bool × Nat) :=
  [(!q.proj.otherStands || q.now.conflicts [.core] (fun _ => false), stBusy)]

/-- HEARTH_SWITCH: a planned switch-over from its acceptance (R399); it is BUSY without a standby. The core that takes the role replies
(R397, R432). -/
def execHearthSwitch (arg : IcsArg) (s : State) : Out :=
  s.serveDone arg hearthSwitchCmd (fun q =>
    firstBroken (hearthSwitchRules q) (.start [.core] .hearthSwitch (q.now.beginSwitch true)))

/-- The route table names one of the twin ports. -/
def State.routesTwin (s : State) : Bool := s.routing.table.any (fun e => (entryPorts e.2).any (fun p => p == 22 || p == 23))

/-- The row of twinSet in the catalogue (R433). -/
def twinSetCmd : IcsCmd := { opcode := 0xC910, roles := [.fm], form := fixedForm 40 [(1, 7)] }

/-- The rules of twinSet itself, in their order, with the status of each. -/
def twinSetRules (q : IcsReq) : List (Bool × Nat) :=
  let r := le q.pay 0 1
  [
    (decide (3 < r) || q.proj.routesTwin || [22, 23].any (fun i => (q.proj.egress i).expected != .none), stInvalid),
    (r == 3 && q.now.twin.batonIn, stInvalid),
    (r == 0 && q.proj.parts.extents.any (fun e => e.2.mirror != 0), stBusy)]

/-- TWIN_SET (R499). -/
def execTwinSet (arg : IcsArg) (s : State) : Out :=
  s.serveDone arg twinSetCmd (fun q =>
    let r := le q.pay 0 1
    firstBroken (twinSetRules q) (.stage [.table "twin"] (.twinSet r ((q.pay.drop 8).take 32))))

/-- The row of twinEpoch in the catalogue (R433). -/
def twinEpochCmd : IcsCmd := { opcode := 0xC911, roles := [.pr], form := fixedForm 0 [] }

/-- The rules of twinEpoch itself, in their order, with the status of each. -/
def twinEpochRules (q : IcsReq) : List (Bool × Nat) :=
  [((q.proj.epoch q.part).copying, stBusy)]

/-- TWIN_EPOCH: one epoch of a partition runs at a time (R507). -/
def execTwinEpoch (arg : IcsArg) (s : State) : Out :=
  s.serveDone arg twinEpochCmd (fun q =>
    firstBroken (twinEpochRules q) (.stage [.item q.part "epoch"] (.twinEpoch q.part)))

/-- Table — Twin status; the epoch fields are those of partition `p`, 0 for the callers that have none (R516). -/
def State.twinBytes (s : State) (p : Nat) : List Byte :=
  let e := if p = 0 then Epoch.reset else s.epoch p
  let act (i : Nat) : Nat := ofBool ((s.port i).state == .active)
  [BitVec.ofNat 8 s.twin.state.code, BitVec.ofNat 8 s.twin.partnerState,
   BitVec.ofNat 8 (ofBool (s.baton == some true) + ofBool s.twin.batonIn * 2 + act 22 * 4 + act 23 * 8), 0] ++
  leBytes 6 s.twin.lastHeard ++ leBytes 6 s.twin.heatD ++ leBytes 4 e.committed ++
  leBytes 4 (if e.copying then e.frozen.length else e.reserved - e.frozen.length) ++ leBytes 4 s.undoFree ++ leBytes 4 s.twin.resync.length

/-- The row of twinStatus in the catalogue (R433). -/
def twinStatusCmd : IcsCmd := { opcode := 0xC912, roles := [.any, .pr], form := fixedForm 0 [] }

/-- TWIN_STATUS (R516). -/
def execTwinStatus (arg : IcsArg) (s : State) : Out :=
  s.serveDone arg twinStatusCmd (fun q => q.answer (q.now.twinBytes q.part))

/-! ### Telemetry (0xCAxx) -/

/-- The row of unitRead in the catalogue (R433). -/
def unitReadCmd : IcsCmd := { opcode := 0xCA00, roles := [.fm, .mon], form := fixedForm 4 [(2, 2)] }

/-- The rules of unitRead itself, in their order, with the status of each. -/
def unitReadRules (q : IcsReq) : List (Bool × Nat) :=
  let c := le q.pay 0 1
  let i := le q.pay 1 1
  [(decide (unitsOf c ≤ i), stInvalid)]

/-- UNIT_READ: the 64 window registers of a unit; nothing is cleared (R407). -/
def execUnitRead (arg : IcsArg) (s : State) : Out :=
  s.serveDone arg unitReadCmd (fun q =>
    let c := le q.pay 0 1
    let i := le q.pay 1 1
    firstBroken (unitReadRules q) (q.answer ((List.range 64).flatMap (fun w => leBytes 8 (q.now.window c i w)))))

/-- The eight records of Table — Coherence counters (R311). -/
def State.coherenceBytes (s : State) : List Byte :=
  (List.range 8).flatMap (fun f => (List.range 15).flatMap (fun k => leBytes 4 (cnt s.coh.counters (16 * f + k) 32)) ++ zeros 4)

/-- The row of coherenceStatistics in the catalogue (R433). -/
def coherenceStatisticsCmd : IcsCmd := { opcode := 0xCA01, roles := [.fm, .mon], form := fixedForm 0 [], clear := true }

/-- COHERENCE_STATISTICS: with CLEAR the counters are cleared as they are read (R311). -/
def execCoherenceStatistics (arg : IcsArg) (s : State) : Out :=
  s.serveDone arg coherenceStatisticsCmd (fun q =>
    .reply stOk q.now.coherenceBytes
      (if bit q.flags 2 then { q.now with coh := { q.now.coh with counters := [] } } else q.now))

/-- The twenty-four records of Table — Queue statistics (R375). -/
def State.queueBytes (s : State) : List Byte :=
  (List.range 24).flatMap (fun i => (List.range 5).flatMap (fun k => leBytes 8 (cnt (s.egress i).stats k 64)) ++
    (List.range 6).flatMap (fun k => leBytes 4 (cnt (s.egress i).stats (5 + k) 32)))

/-- The row of queueStatistics in the catalogue (R433). -/
def queueStatisticsCmd : IcsCmd := { opcode := 0xCA02, roles := [.fm, .mon], form := fixedForm 0 [], clear := true }

/-- QUEUE_STATISTICS: with CLEAR the counters are cleared as they are read (R375). -/
def execQueueStatistics (arg : IcsArg) (s : State) : Out :=
  s.serveDone arg queueStatisticsCmd (fun q =>
    .reply stOk q.now.queueBytes
      (if bit q.flags 2 then (List.range 24).foldl (fun a i => a.modEgress i (fun e => { e with stats := [] })) q.now else q.now))

/-! ### Firmware (0xCBxx) -/

/-- The bytes stored of a flash object: 0 image A, 1 image B, 2 the staging copy, 3 the record in force. -/
def Flash.object (f : Flash) (k : Nat) : Tab Byte := tget [] f.objects k

/-- The result of firmware-info (R440). -/
def State.firmwareBytes (s : State) : List Byte :=
  let ver (k : Nat) : Nat := if tget 0 s.sec.flash.lengths k = 0 then 0 else Config.imageVersion (s.sec.flash.object k)
  leBytes 4 (ver 0) ++ leBytes 4 (ver 1) ++ leBytes 4 s.sec.fwFloor ++ [BitVec.ofNat 8 s.sec.image, 0, 0, 0]

/-- The row of firmwareInfo in the catalogue (R433). -/
def firmwareInfoCmd : IcsCmd := { opcode := 0xCB00, roles := [.any], form := fixedForm 0 [] }

/-- FIRMWARE_INFO. -/
def execFirmwareInfo (arg : IcsArg) (s : State) : Out :=
  s.serveDone arg firmwareInfoCmd (fun q => q.answer q.now.firmwareBytes)

/-- The form of firmware-write (R439). -/
def firmwareForm (l : List Byte) : Bool :=
  decide (16 ≤ l.length) && zeroField l 1 3 && zeroField l 12 4 && l.length == 16 + le l 8 4

/-- The most bytes that a target holds (R439). -/
def targetSize (t : Nat) : Nat := if t = 2 then 65536 else 25165824

/-- The row of firmwareWrite in the catalogue (R433). -/
def firmwareWriteCmd : IcsCmd := { opcode := 0xCB01, roles := [.fm, .bmc], form := firmwareForm }

/-- The rules of firmwareWrite itself, in their order, with the status of each. The running image is never written (R439, R453). -/
def firmwareWriteRules (q : IcsReq) : List (Bool × Nat) :=
  let t := le q.pay 0 1
  let off := le q.pay 4 4
  let n := le q.pay 8 4
  [
    (off % 16 != 0 || n % 16 != 0 || n == 0 || decide (4080 < n), stInvalid),
    (decide (2 < t) || decide (targetSize t < off + n), stInvalid),
    (!q.now.sec.recovery && t == q.now.sec.image && decide (t < 2), stBusy)]

/-- FIRMWARE_WRITE: programmed when FLASH_PROGRAMMED comes (R439). -/
def execFirmwareWrite (arg : IcsArg) (s : State) : Out :=
  s.serveDone arg firmwareWriteCmd (fun q =>
    let t := le q.pay 0 1
    let off := le q.pay 4 4
    firstBroken (firmwareWriteRules q) (.start [.table "boot flash"] .programmed { q.now with sec := { q.now.sec with programming := some (t, off, q.pay.drop 16) } }))

/-- The row of firmwareActivate in the catalogue (R433). -/
def firmwareActivateCmd : IcsCmd := { opcode := 0xCB02, roles := [.fm, .bmc], form := fixedForm 4 [(1, 3)] }

/-- The rules of firmwareActivate itself, in their order, with the status of each. -/
def firmwareActivateRules (q : IcsReq) : List (Bool × Nat) :=
  let t := le q.pay 0 1
  [(decide (2 < t), stInvalid)]

/-- FIRMWARE_ACTIVATE: decided when ACTIVATION_VERIFIED comes (R433, R529). -/
def execFirmwareActivate (arg : IcsArg) (s : State) : Out :=
  s.serveDone arg firmwareActivateCmd (fun q =>
    let t := le q.pay 0 1
    firstBroken (firmwareActivateRules q) (.start [.table "boot flash"] (.verified t) { q.now with sec := { q.now.sec with activating := some t } }))

/-- The command that waits for an event. -/
def State.waiting (s : State) (k : EventKey) : Option Running := s.hearth.running.find? (fun r => r.wait == .event k)

/-- No core runs that could end a command: Hearth is lost or switches over. In ROM recovery the ROM serves the sideband. -/
def State.noCore (s : State) : Bool := s.hearthRefuses.isSome && !s.sec.recovery

/-- FLASH_PROGRAMMED: the data stands in the boot flash (R439). A configuration record is written to the staging copy. -/
def execFlashProgrammed (s : State) : Out :=
  done (match s.sec.programming, s.waiting .programmed with
  | some (t, off, d), some r =>
    if s.noCore then s
    else
      let f := s.sec.flash
      let s1 : State := { s with sec := { s.sec with
        programming := none
        flash := { f with objects := tins f.objects t (bwrite (f.object t) off d), lengths := tins f.lengths t (max (tget 0 f.lengths t) (off + d.length)) } } }
      s1.endRunning r stOk []
  | _, _ => s)

/-- A field of the configuration record lies in its range (R530). -/
def configFieldsOk (b : List Byte) : Bool :=
  let code := le b 8 1
  le b 0 4 == 1 && decide (code < 2) && decide (le b 9 1 < 2) && decide (le b 10 1 < 5) && decide (1 ≤ le b 11 1) && decide (le b 11 1 < 5) &&
  le b 12 2 % 8 == 0 && decide (le b 12 2 ≤ (if code = 0 then 512 else 384)) && le b 14 2 % 4 == 0 && decide (le b 14 2 ≤ 256) &&
  decide (le b 16 1 ≤ 16) && decide (le b 17 1 < 3) && (List.range 24).all (fun i => decide (bits (le b (56 + i) 1) 2 2 < 3))

/-- A configuration record passes the checks of R454 and R455: the carried key, the signature over everything else, the
ranges of its fields, and its version against the configuration floor. -/
def configChecks (m : Tab Byte) (floor : Nat) : Bool :=
  let body := bread m 0 4096
  let pk := bread m 4096 48
  sha256 pk == fit 32 Config.romKeyHash && Config.slhVerify pk (body ++ pk) (bread m 4144 16224) && configFieldsOk body && decide (floor ≤ le body 4 4)

/-- The target of a firmware-activate verifies against the floors recorded at this boot (R454, R457). -/
def State.targetOk (s : State) (t : Nat) : Bool :=
  if tget 0 s.sec.flash.lengths t = 0 then false
  else if t = 2 then configChecks (s.sec.flash.object 2) s.sec.cfgFloor
  else Config.imageChecks (s.sec.flash.object t) && decide (s.sec.fwFloor ≤ Config.imageVersion (s.sec.flash.object t))

/-- ACTIVATION_VERIFIED: ACTIVE_IMAGE or CFG_PENDING is written, or the command fails INVALID (R433, R529). -/
def execActivationVerified (s : State) : Out :=
  done (match s.sec.activating with
  | some t =>
    match s.waiting (.verified t) with
    | some r =>
      if s.noCore then s
      else
        let s1 : State := { s with sec := { s.sec with activating := none } }
        if !s.targetOk t then s1.endRunning r stInvalid []
        else
          let f := s.sec.flash
          let s2 : State := { s1 with sec := { s1.sec with flash := if t = 2 then { f with cfgPending := true } else { f with activeImage := t } } }
          s2.endRunning r stOk []
    | none => s
  | none => s)

end Sys2Proof.Machine
end

