-- ==== Sys2Proof/Machine/Twin.lean ====
section
/-! DEFINITION. The twin monitor (21_twin_redundancy.md): heartbeats and member states, mirrored writes at the partner, epochs,
takeover and the return of a partner. -/

namespace Sys2Proof.Machine

def State.modTwin (s : State) (f : Twin → Twin) : State := { s with twin := f s.twin }

/-- The code of a member state as a HEARTBEAT carries it (Table — Twin messages). -/
def stateSolo : Nat := TwinState.solo.code
def stateSyncing : Nat := TwinState.syncing.code
def stateStandby : Nat := TwinState.standby.code
def stateStale : Nat := TwinState.stale.code

/-! ### Member states (R503–R508) -/

/-- Every 64 KiB segment of the mirrored extents. -/
def State.mirroredSegs (s : State) : List Nat :=
  (s.parts.extents.filter (fun e => e.2.mirror != 0)).flatMap (fun e => (List.range 4096).map (4096 * e.2.dpaBlk + ·))

/-- SOLO is entered: writes that await WR_CMP complete and mark the resync set; an epoch in progress ends, its uncopied
segments marked likewise (R505, R508). -/
def State.enterSolo (s : State) : State :=
  let waits := s.twin.mirrored
  let open_ := s.twin.epochs.flatMap (fun e => if e.2.copying then e.2.frozen ++ e.2.dirty else [])
  let marks := waits.flatMap (fun m => segsOf m.dpa m.len) ++ open_
  let s1 := (waits.map (·.tag)).foldl State.mirrorAnswered s
  let s2 := s1.modTwin (fun t => { t with
    resync := marks.foldl (fun l g => addSorted g l) t.resync
    epochs := tmap t.epochs (fun _ e => if e.copying then { e with copying := false, frozen := [], reserved := 0 } else e) })
  ((s2.twinTo .solo).releaseHeld).resolve

/-- A member's state after a heartbeat of its partner that shows state `st` (Table — Twin member states). -/
def State.heartbeatMoves (s : State) (st : Nat) : State :=
  match s.twin.state with
  | .unpaired => if s.twin.role = 2 && st = stateSolo then (s.modTwin (fun t => { t with kept := false })).twinTo .syncing else s
  | .stale => if st = stateSolo then (s.modTwin (fun t => { t with kept := true })).twinTo .syncing else s
  | .solo =>
    if st = stateStandby then s.twinTo .primary
    else if st = stateSyncing && s.twin.partnerState ≠ stateSyncing && s.twin.partnerState ≠ stateStale then
      s.modTwin (fun t => { t with resync := s.mirroredSegs })
    else s
  | .primary => if st = stateStandby then s else s.enterSolo
  | _ => s

/-- A MSG cell of Table — Twin messages on a twin port. -/
def State.twinMsg (s : State) (port kind : Nat) (c : Cell) : Bool :=
  s.isReady && (s.egress port).twin && c.typ == 0x6 && c.cls == 0 && le c.payload 0 1 == kind

/-- HEARTBEAT (R506). -/
def execHeartbeat (port : Nat) (cell : Cell) (s : State) : Out :=
  done (if !s.twinMsg port 0x40 cell then s
  else
    let st := le cell.payload 1 1
    let s1 := ((s.takeCells port 0 [cell]).heartbeatMoves st)
    s1.modTwin (fun t => { t with heardThisHeat := true, partnerState := st, lastHeard := le cell.payload 4 6 }))

/-- LOST_HEATS: four consecutive heats without a heartbeat (R506, R509). A heartbeat that has come since the boundary came in its cycle,
and the expiry has no effect (R46). -/
def execLostHeats (s : State) : Out :=
  done (if s.twin.lost < 4 || s.twin.heardThisHeat then s
  else match s.twin.state with
    | .primary => s.enterSolo
    | .syncing => s.twinTo .stale
    | .standby => if s.twin.batonIn then s.twinTo .stale else s.takeOver
    | _ => s)

/-- TAKEOVER_END: boundary D + 2 (R509). -/
def execTakeoverEnd (s : State) : Out :=
  done (if s.twin.state = .takeover && 2 ≤ s.twin.sinceD then s.twinTo .solo else s)

/-- RESYNC_COMPLETE: the copy of a SYNCING member is complete; it is STANDBY at the next boundary (R503, R512). -/
def execResyncComplete (s : State) : Out :=
  done (if s.twin.state = .syncing then s.modTwin (fun t => { t with resyncDone := true }) else s)

/-! ### Epochs (R507) -/

/-- EPOCH_DONE goes out: the epoch is committed at the standby, its reservation freed. -/
def State.commitEpoch (s : State) (port p : Nat) : State :=
  let e := s.epoch p
  let s1 := s.modEpoch p (fun x => { x with committed := x.number, reserved := 0, undo := [], frozen := [] })
  s1.sendOn port (oneCell 0x6 0 (s.endpoint port) (s.endpoint 32) 0 0 ([0x42, BitVec.ofNat 8 p, 0, 0] ++ leBytes 4 e.number))

/-- EPOCH_BEGIN: the standby reserves the segments in its undo area; an epoch without segments is committed at once. -/
def execEpochBegin (port : Nat) (cell : Cell) (s : State) : Out :=
  let p := le cell.payload 1 1
  let n := le cell.payload 8 4
  done (if !s.twinMsg port 0x41 cell then s
  else
    let s0 := s.takeCells port 0 [cell]
    if s.twin.state ≠ .standby || s.undoFree < n then s0
    else
      let s1 := s0.modEpoch p (fun e => { e with number := le cell.payload 4 4, reserved := n, undo := [], frozen := [] })
      if n = 0 then s1.commitEpoch port p else s1)

/-- EPOCH_DONE: the primary reports the epoch committed; the segments reserved for it in the undo area are free. -/
def execEpochDone (port : Nat) (cell : Cell) (s : State) : Out :=
  let p := le cell.payload 1 1
  done (if !s.twinMsg port 0x42 cell then s
  else
    let s0 := s.takeCells port 0 [cell]
    if !(s.epoch p).copying || (s.epoch p).number ≠ le cell.payload 4 4 then s0
    else ((s0.modEpoch p (fun e => { e with committed := e.number, copying := false, frozen := [], reserved := 0 })).releaseHeld).resolve)

/-- The content of a segment, cut into pieces with the poison of each location. -/
def State.segPieces (s : State) (g : Nat) : List (Nat × List Byte × Bool) :=
  (List.range 1024).map (fun k => let v := s.sectorView (s.partAt (65536 * g)) (1024 * g + k); (65536 * g + 64 * k, v.1, v.2))

/-- A segment goes to the partner: trains of 2 KiB, a poisoned location in a train of its own (R501). -/
def State.sendSegment (s0 : State) (g : Nat) : State :=
  let s := (s0.poisonIn (65536 * g) 65536).foldl (fun a l => a.countPoisonRead (a.unitOf (l * 64)))
    (s0.moveCounted (s0.partAt (65536 * g)) (65536 * g) 65536 false)
  let ps := s.segPieces g
  if ps.any (fun p => p.2.2) then ps.foldl (fun a p => a.sendMirror p.1 p.2.1 p.2.2 true none) s
  else (List.range 32).foldl (fun a i => a.sendMirror (65536 * g + 2048 * i) (((ps.drop (32 * i)).take 32).flatMap (fun p => p.2.1)) false true none) s

/-- The unit of a forge that copies or restores a segment has its turn at the controllers (R111). -/
def State.twinGoes (s : State) (forge g : Nat) : Bool := s.unitGoes forge 4 (s.unitsHit [(65536 * g, 65536)])

/-- TWIN_EPOCH_COPY_UNIT_COMPLETE: a frozen segment has been read, checked, and copied to the standby, or one of a partner's copy; the
writes that waited for it go on (R115, R507, R512). -/
def execTwinEpochCopyUnitComplete (x : TwinCopy) (s : State) : Out :=
  done (match (s.background x.forge).twin with
  | none => s
  | some g =>
    if s.restoring g || !s.twinGoes x.forge g then s
    else
      let s1 := ((s.foundAll x.found).modBackground x.forge (fun b => { b with twin := none })).sendSegment g
      (s1.modTwin (fun t => { t with
        resync := t.resync.erase g
        epochs := tmap t.epochs (fun _ e => if e.copying then { e with frozen := e.frozen.erase g } else e) })).releaseHeld)

/-- UNDO_RESTORE_UNIT_COMPLETE: a segment is restored from the undo area; writes to it wait no longer (R509). -/
def execUndoRestoreUnitComplete (forge : Nat) (s : State) : Out :=
  done (match (s.background forge).twin with
  | none => s
  | some g =>
    if !s.restoring g || !s.twinGoes forge g then s
    else (((s.modBackground forge (fun b => { b with twin := none })).wakeUnits (s.unitsHit [(65536 * g, 65536)])).modTwin (fun t =>
      { t with restore := t.restore.erase g })).releaseHeld)

/-! ### Mirrored writes and copies at the partner (R501, R505, R507) -/

/-- The old content of a segment is saved before an epoch's copy overwrites it. -/
def State.saveOld (s : State) (p g : Nat) : State :=
  if (s.epoch p).undo.any (·.seg == g) then s
  else
    let ps := s.segPieces g
    let x : Saved := { seg := g, bytes := ps.flatMap (fun q => q.2.1), poison := (ps.zipIdx.filter (fun q => q.1.2.2)).map (·.2) }
    s.modEpoch p (fun e => { e with undo := e.undo ++ [x] })

/-- A write that belongs to a running epoch: old content saved, segments counted, the last one commits. -/
def State.epochWrite (s : State) (port p d : Nat) (data : List Byte) (poison : Bool) : State :=
  let g := d / 65536
  let s1 := (s.saveOld p g).homeWrite 1 (s.partAt d) d data poison
  let s2 := if d + data.length = 65536 * (g + 1) then s1.modEpoch p (fun e => { e with frozen := addSorted g e.frozen }) else s1
  if (s2.epoch p).reserved ≤ (s2.epoch p).frozen.length then s2.commitEpoch port p else s2

/-- A write of the primary is applied at the partner: for a mirror-epoch extent whose epoch is open, with its undo image;
otherwise as the home applies a write (R505, R507). -/
def State.twinStore (s : State) (port d : Nat) (data : List Byte) (poison : Bool) : State :=
  match s.extentAt d with
  | some n =>
    let e := s.ext n
    if e.mirror = 2 && 0 < (s.epoch e.part).reserved then s.epochWrite port e.part d data poison
    else s.homeWrite 1 e.part d data poison
  | none => s.homeWrite 1 0 d data poison

/-- TWIN_MEM_WR: the partner applies a write that arrives on a twin port, in class LATENCY as every fabric write, and answers WR_CMP (R109).
One for whose lines no way is free stays at its port (R56). -/
def execTwinMemWr (port : Nat) (t : Train) (s : State) : Out :=
  let d := le t.head 8 8 % 2 ^ 44
  let len := le t.head 4 4
  let poison := bit (le t.head 1 1) 0
  done (if !s.isReady || !(s.egress port).twin || t.typ ≠ 0x7 || t.cls ≠ 1 || t.part ≠ 0 || le t.head 0 1 ≠ 0x02 then s
  else
    let s0 := s.takeTrain port t
    let say (a : State) (st n : Nat) : State := a.sendOn port (memAnswer t.cell0 0x82 0 st n [])
    if s.twin.state ≠ .syncing && s.twin.state ≠ .standby then say s0 stBusy 0
    else if !s.rangeFree (s.partAt d) d len then s
    else
      say (s0.twinStore port d (t.data.take len) poison) stOk len)

/-! ### The table stream (R502, R510) -/

/-- A change of one of the tables that the stream carries. -/
def Change.streamed : Change → Bool
  | .partitionCreate .. | .partitionDestroy _ | .spanSet .. | .memberSet .. | .coherenceSet .. | .contextRange .. | .sealQuota ..
  | .groupSet .. | .extentAdd .. | .extentRelease _ | .hintSet .. | .routeSet .. | .gateSet .. | .shaperSet .. | .rosterSet _
  | .meltOpen .. | .meltContributors .. | .meltClose _ | .ctxSet .. | .spaceSet .. | .spaceFree _ | .placeSet .. | .pairValues _ => true
  | _ => false

/-- TABLE_STREAM: a table change of the primary, staged for the same boundary (R502). -/
def execTableStream (c : Change) (s : State) : Out :=
  done (if c.streamed && s.isReady && (s.twin.state == .syncing || s.twin.state == .standby) then
    s.modTwin (fun t => { t with stream := t.stream ++ [c] })
  else s)

/-- The staged changes of the stream take effect. -/
def State.runStream (s : State) : State :=
  s.twin.stream.foldl (fun a c => (a.apply c).state) (s.modTwin (fun t => { t with stream := [] }))

/-! ### A boundary (R503, R506) -/

/-- The HEARTBEAT of this boundary. -/
def State.heartbeatCell (s : State) (port : Nat) : Train :=
  oneCell 0x6 0 (s.endpoint port) (s.endpoint 32) 0 0
    ([0x40, BitVec.ofNat 8 s.twin.state.code, BitVec.ofNat 8 (ofBool (s.baton == some true) + ofBool s.twin.batonIn * 2), 0] ++ leBytes 6 s.heat.count)

/-- The twin monitor at a boundary: the lost heats, the moves that fall due, and the heartbeats. -/
def State.twinTick (s : State) (batonIn : Bool) : State :=
  let s1 := s.modTwin (fun t => { t with
    batonIn := batonIn, lost := if t.heardThisHeat then 0 else min 255 (t.lost + 1), heardThisHeat := false
    sinceD := if t.state = .takeover then t.sinceD + 1 else t.sinceD })
  let s2 := if s1.twin.state = .syncing && s1.twin.resyncDone then (s1.modTwin (fun t => { t with resyncDone := false })).twinTo .standby else s1
  let s3 := if s2.twin.state = .unpaired && s2.twin.role = 1 && !batonIn then s2.twinTo .solo else s2
  [22, 23].foldl (fun a i => if (a.egress i).twin && a.usable i then a.sendOn i (s3.heartbeatCell i) else a) s3

end Sys2Proof.Machine
end

