-- ==== Sys2Proof/Machine/Boot.lean ====
section
/-! DEFINITION. Reset and boot (23_bringup.md): the power and reset inputs, the entry of a warm reset, and the steps of Table —
Boot sequence. `boot.step` is the step in progress: 0 in reset, 7 once READY. -/

namespace Sys2Proof.Machine

/-! ### Power and the reset inputs (R527) -/

/-- The block without power: everything is lost but the boot flash and the levels of the input pins (R527). -/
def State.unpowered (s : State) : State :=
  { State.reset with
    pending := s.pending
    free := s.free
    pins := { State.reset.pins with sysRstN := s.pins.sysRstN, coolantOk := s.pins.coolantOk, pwrBrakeN := s.pins.pwrBrakeN }
    sec := { State.reset.sec with flash := s.sec.flash }
    cxl := { State.reset.cxl with heads := tmap s.cxl.heads (fun _ h =>
      { Head.reset with perst := h.perst, link := if h.perst then .perst else .down }) }
    twin := { State.reset.twin with batonIn := s.twin.batonIn } }

/-- PWROK_FALL: everything is lost (R527, R540). -/
def execPwrokFall (s : State) : Out := done (if s.pins.pwrok then s.unpowered else s)

/-- PWROK_RISE: a cold boot begins, or waits for SYS_RST_N to rise (R527). -/
def execPwrokRise (sysRstN coolantOk : Bool) (s : State) : Out :=
  done (if s.pins.pwrok then s
  else { s with
    pins := { s.pins with pwrok := true, sysRstN := sysRstN, coolantOk := coolantOk }
    boot := { s.boot with step := if sysRstN then 1 else 0, cold := true } })

/-! ### Warm reset entry (R536) -/

/-- What a warm reset leaves of a port: its settings (R537). Its link is down and electrically idle. -/
def Port.idle (p : Port) : Port :=
  { Port.reset with enabled := p.enabled, maxRate := p.maxRate, holdWidth := p.holdWidth, encSetting := p.encSetting }

/-- What a warm reset leaves of the egress side of a port (R537). -/
def Egress.idle (e : Egress) : Egress :=
  { Egress.reset with
    expected := e.expected, transitMask := e.transitMask, admitMask := e.admitMask, qcap := e.qcap, guard := e.guard
    overhead := e.overhead, gates := e.gates, lapPos := e.lapPos, weights := e.weights, shapers := e.shapers }

/-- A head at a warm reset (R392, R393): its offers are cancelled, its accepted blocks and its logs stay. -/
def State.headIdle (s : State) (h : Nat) : State :=
  (s.headReset h).modHead h (fun x => { Head.reset with
    perst := x.perst, link := if x.perst then .perst else .down
    accepted := (x.accepted ++ x.accepting.filter (fun n => !x.accepted.contains n)).filter (fun n => !x.releasing.contains n)
    logs := x.logs, nextHandle := x.nextHandle, policy := x.policy, poisonList := x.poisonList
    poisonOverflow := x.poisonOverflow, overflowTime := x.overflowTime, timestamp := x.timestamp })

/-- Steps 1–3 of a warm reset entry (R536): READY and BATON_OUT fall, links go idle, the keys of confidential partitions are
destroyed. The mailboxes, Starter and the twin role are lost (R413, R452, R517). -/
def State.enterWarm (s : State) : State :=
  let s1 := (s.headIdle 0).headIdle 1
  { s1 with
    pins := { s1.pins with sysRstN := false }
    boot := { s1.boot with step := 0, cold := false, flushing := true, held := false, batonLow := true, first := false }
    ports := tmap s1.ports (fun _ p => p.idle)
    routing := { s1.routing with ports := tmap s1.routing.ports (fun _ e => e.idle), loop := [] }
    hearth := { Hearth.reset with core0 := s1.hearth.core0, core1 := s1.hearth.core1, active := s1.hearth.active }
    starter := Starter.reset
    twin := { Twin.reset with batonIn := s1.twin.batonIn }
    parts := { s1.parts with parts := tmap s1.parts.parts (fun _ p => { p with keyPresent := p.keyPresent && !p.confidential }) }
    sec := { s1.sec with memKeys := s1.sec.memKeys.filter (fun k => !(s1.part k.1).confidential) } }

/-- SYS_RST_N_LOW: the warm reset entry; before the first READY after a cold boot it is handled as a cold one (R536, R540).
THERMTRIP_N stays latched until PWROK falls (R495). -/
def execSysRstNLow (s : State) : Out :=
  done (if !s.pins.pwrok || !s.pins.sysRstN then s
  else if s.boot.wasReady then s.enterWarm
  else
    let t := s.unpowered
    { t with
      pins := { t.pins with pwrok := true, sysRstN := false, tripped := s.pins.tripped }
      boot := { t.boot with batonLow := true } })

/-- BATON_OUT_RELEASE: 1 µs after the entry BATON_OUT goes to high impedance (R536). -/
def execBatonOutRelease (s : State) : Out := done { s with boot := { s.boot with batonLow := false } }

/-- SYS_RST_N_RISE: the boot starts once the entry flush has completed (R527, R536). -/
def execSysRstNRise (coolantOk : Bool) (s : State) : Out :=
  done (if !s.pins.pwrok || s.pins.sysRstN then s
  else { s with
    pins := { s.pins with sysRstN := true, coolantOk := coolantOk }
    boot := { s.boot with step := if s.boot.flushing then 0 else 1 } })

/-! ### Steps 4 and 5 of the entry, and what a warm reset keeps (R517, R534, R536, R537) -/

/-- Memory of a partition that a warm reset does not keep. -/
def State.crypted (s : State) (p : Nat) : Bool := (s.part p).confidential

/-- Lines with an open transaction are written at home as poison under their mirror class, their entries set SHARED with OVF; the next
request for one invalidates every caching member, whether or not its set had room for an entry (R312). -/
def State.poisonOpen (s : State) : State :=
  (s.coh.trackers.map (·.2)).foldl (fun a t =>
    let l := t.msg.line
    if a.crypted t.msg.part then a
    else ((a.lineWrite t.msg.part l (a.lineData t.msg.part l).1 true).putEntry t.msg (fun e => { e with state := .shared, ovf := true })).modCoh (fun c =>
      { c with stale := addSorted l c.stale })) s

/-- The forge cache writes back its dirty sectors but those of confidential partitions, waiting partial writes merged; it is
empty then (R536). -/
def State.flushLines (s : State) : State :=
  let lines := s.tiers.forges.flatMap (fun f => f.2.lines.map (·.2))
  let s1 := lines.foldl (fun a l =>
    if a.crypted l.part then a
    else
      let full := (bitList 4 l.pending).foldl (fun (m : Line) k =>
        if m.merges.any (fun w => w.1 / 64 == k) then
          let v := a.sectorBelow (4 * l.addr + k)
          m.fill k v.1 v.2
        else m) l
      a.writeBack l.addr full) s
  { s1 with tiers := { s1.tiers with forges := tmap s1.tiers.forges (fun _ _ => Forge.reset), waiters := [] } }

/-- Queued DRAM writes reach their DRAM, those that waited for a granule's copy among them, but those of confidential partitions;
every queue is empty then. -/
def State.flushQueues (s0 : State) : State :=
  let s := (s0.dram.copyWaits.filter (fun w => !s0.crypted w.part)).foldl State.routeWrite { s0 with dram := { s0.dram with copyWaits := [] } }
  let ws := s.dram.queues.flatMap (fun q => q.2.writes ++ q.2.heldWrites)
  let s1 := (ws.filter (fun w => !s.crypted w.part)).foldl State.applyWrite s
  { s1 with dram := { s1.dram with queues := [] } }

/-- Dirty segments are copied home, but those of confidential partitions; the tags are INVALID then, in the tag store too (R536). -/
def State.flushTags (s : State) : State :=
  let s1 := s.tiers.tags.foldl (fun a t =>
    if a.crypted t.2.part || (t.2.state != .valid && t.2.state != .evicting) then a
    else (bitList 16 t.2.dirty).foldl (fun b j => b.copyMem t.2.part (b.frame t.1 + 4096 * j) (bulkBase + t.2.seg * 65536 + 4096 * j) 4096) a) s
  -- the frames of confidential partitions are scrubbed with their extents
  let s1a := (s.tiers.tags.filter (fun t => s.crypted t.2.part && t.2.state != .invalid)).foldl (fun a t =>
    match a.extentAt (bulkBase + 65536 * t.2.seg) with
    | some n => a.modExt n (fun e => { e with frames := e.frames ++ [t.1] })
    | none => a) s1
  let s2 := if s1.regionSets = 0 then s1a
    else (s1a.modMem (fun m => m.clear s1.regionBase (128 * s1.regionSets))).encrypt s1.regionBase (128 * s1.regionSets) 0
  { s2 with tiers := { s2.tiers with tags := [], budgetAge := 0 } }

/-- Every stack channel and rank enters self-refresh; the DRAM controllers keep maps, remap records, unit states and the counts of
migrated units (R125). -/
def State.restUnits (s : State) : State :=
  { s with dram := { s.dram with
      background := []
      walkers := tmap s.dram.walkers (fun _ _ => { Walker.reset with level := s.dram.scrubFloor })
      stackTab := tmap s.dram.stackTab (fun _ k => { k with refreshP := 0, doubled := false, cool := 0, counters := k.counters.filter (·.1 == 30) })
      bulk := tmap s.dram.bulk (fun _ k => { k with refreshP := 0, doubled := false, cool := 0, counters := k.counters.filter (·.1 == 34) })
      units := tmap s.dram.units (fun _ u => if u.state = .absent then u else { u with
        power := .selfRefresh, scrubbed := none, idle := 0, touched := false, inRefresh := false, postponed := 0, refreshing := false, parity := 0, testUnits := 0, admitNext := false }) } }

/-- What a warm reset leaves of a tongs context: its configuration, IDLE (R537). -/
def Ctx.idled (x : Ctx) : Ctx :=
  if x.state = .free then x
  else { Ctx.reset with
    state := .idle, part := x.part, asid := x.asid, subBase := x.subBase, cplBase := x.cplBase, entries := x.entries, forge := x.forge
    subTail := x.subHead, subHead := x.subHead, nextIdx := x.subHead, writeIdx := x.writeIdx, readIdx := x.readIdx, place := x.place }

/-- What a warm reset leaves of Bellows: limit, phases, voltages and the power counters (R496, R517, R537). -/
def Bellows.kept (b : Bellows) : Bellows :=
  { Bellows.reset with
    limit := b.limit, phases := b.phases, stepMv := b.stepMv, missingCount := b.missingCount, energy := b.energy
    energyNj := b.energyNj, energyHeld := b.energyHeld
    reasons := tmap b.reasons (fun _ r => { r with live := false, quiet := 0 }) }

/-- The units lose their work, the tables keep what R517, R534 and R537 keep. -/
def State.keepTables (s : State) : State :=
  let std (p : Nat) : Bool := !s.crypted p
  { s with
    crucibles := { Crucibles.reset with
      melts := s.crucibles.melts.filter (fun m => std m.2.part), rings := s.crucibles.rings.filter (fun r => std (r.1 / 16))
      heldIds := s.crucibles.heldIds, passed := s.crucibles.passed, armOrder := s.crucibles.armOrder }
    anvils := { Anvils.reset with
      roster := s.anvils.roster, stores := s.anvils.stores.filter (fun x => std x.1)
      anvils := tmap s.anvils.anvils (fun _ a => { Anvil.reset with passed := a.passed }) }
    tongs := { Tongs.reset with
      ctxs := tmap (s.tongs.ctxs.filter (fun c => std c.2.part)) (fun _ c => c.idled)
      spaces := s.tongs.spaces.filter (fun x => std x.2.part)
      faultQueues := s.tongs.faultQueues.filter (fun q => std q.1), passed := s.tongs.passed }
    coh := { Coh.reset with dir := s.coh.dir, stale := s.coh.stale }
    sec := { s.sec with
      drbgStopped := false, reseedDue := false, reseedHeats := 0, debugUnlocked := false, floorSeen := false, floorAbsent := false, fwFloor := 0
      cfgFloor := 0, scrubKeyDue := false, programming := none, activating := none }
    bellows := s.bellows.kept
    heat := { s.heat with
      sync := .free, hop := 0, length := 16384, goodRun := 0, noRsp := 0, t1 := none, offset := none, cycle := 0, pulse := false, decayDone := false } }

/-- Step 4 of the entry: captures end, and lines, queued writes and dirty segments reach their memory (R536). -/
def State.flushed (s : State) : State :=
  let caps := (s.parts.seals.filter (fun x => x.2.state == .capturing)).map (·.1)
  ((((caps.foldl (fun a n => a.abortSeal n true) s).poisonOpen).flushLines).flushQueues).flushTags

/-- WARM_RESET_FLUSH_COMPLETE: admitted writes have completed and memory is in self-refresh; the ROM may start (R536). -/
def execWarmResetFlushComplete (s : State) : Out :=
  done (if !s.boot.flushing then s
  else
    let s1 := s.flushed.restUnits.keepTables
    { s1 with
      starter := Starter.reset
      boot := { s1.boot with flushing := false, step := if s1.pins.sysRstN then 1 else 0 } })

/-! ### Steps 1 and 2: the boot ROM (R454–R459, R529, R530) -/

/-- The fields of a configuration record (Table — Configuration record). -/
def cfgRecordOf (b : List Byte) : CfgRecord :=
  { version := le b 4 4, orderCode := le b 8 1, stackSpares := le b 9 1, bulkSpare := le b 10 1, confWays := le b 11 1
    cacheRegion := le b 12 2, twinUndo := le b 14 2, slotLend := le b 16 1, gpio0Fn := le b 17 1, sbVendorId := le b 20 4
    fmKeyHash := (b.drop 24).take 32, portBoot := (List.range 24).map (fun i => (i, le b (56 + i) 1)) }

/-- A staged record that was activated is verified at a cold boot, and at the next boot out of recovery: it is written over
the record in force when it passes (R456, R529). -/
def Flash.takeStaged (f : Flash) (now : Bool) : Flash :=
  if !now || !f.cfgPending then f
  else if configChecks (f.object 2) 0 then
    { f with cfgPending := false, objects := tins f.objects 3 (f.object 2), lengths := tins f.lengths 3 (tget 0 f.lengths 2) }
  else { f with cfgPending := false }

/-- The device stays in ROM recovery (R456). -/
def State.toRecovery (s : State) : State := { s with sec := { s.sec with recovery := true } }

/-- The secret that a start-up state of the PUF gives with the helper data of the flash (R458). -/
def State.pufSecret (s : State) (sram : List Byte) : List Byte := fit 32 (Config.pufSecret sram (bread s.sec.flash.helper 0 65536))

/-- What the boot ROM does first: it reconstructs the secret from the start-up state of the PUF, derives the identity from it, and reads
the configuration record (R454 steps 1 and 2, R458, R459, R319). -/
def State.romStarted (s : State) (sram : List Byte) : State :=
  let secret := s.pufSecret sram
  let pk := identityKey secret
  let h := sha256 pk
  let bad := pk != fit 32 (Config.certificateKey s.sec.flash.chain)
  let f := s.sec.flash.takeStaged (s.boot.cold || s.sec.recovery)
  let good := configChecks (f.object 3) 0
  let s1 : State := { s with
    boot := { s.boot with step := 2 }
    ports := (List.range 24).map (fun i => (i, { s.port i with linkId := linkIdOf h i }))
    sec := { s.sec with
      romVersion := Config.romVersion, identitySecret := secret, publicKey := pk, identityHash := h, identityFailed := bad, flash := f
      recovery := false, reseeds := s.sec.reseeds + 1
      config := if good then cfgRecordOf (bread (f.object 3) 0 4096) else s.sec.config } }
  let s2 := if bad then s1.deviceEvent 0x082 else s1
  if good then s2 else s2.toRecovery

/-- ROM_START: step 2 begins, with the start-up state that the PUF shows (R458, R529). -/
def execRomStart (sram : List Byte) (s : State) : Out := done (if s.boot.step ≠ 1 then s else s.romStarted sram)

/-- FLOOR_RECORD: the tray's floors (R455). A message that is no floor record of this tray changes nothing. -/
def execFloorRecord (vendor kind firmware config : Nat) (s : State) : Out :=
  done (if s.boot.step ≠ 2 || s.sec.floorSeen || s.sec.recovery || vendor ≠ s.sec.config.sbVendorId || kind ≠ 0xF1 then s
  else { s with sec := { s.sec with fwFloor := firmware % 2 ^ 32, cfgFloor := config % 2 ^ 32, floorAbsent := false, floorSeen := true } })

/-- FLOOR_WAIT_EXPIRY: after 2 s the floors are 0, and their absence is recorded (R455). -/
def execFloorWaitExpiry (s : State) : Out :=
  done (if s.boot.step ≠ 2 || s.sec.floorSeen || s.sec.recovery then s
  else { s with sec := { s.sec with fwFloor := 0, cfgFloor := 0, floorAbsent := true, floorSeen := true } })

/-- An image passes the two checks and its version meets the firmware floor (R454). -/
def State.imageOk (s : State) (k : Nat) : Bool :=
  Config.imageChecks (s.sec.flash.object k) && decide (s.sec.fwFloor ≤ Config.imageVersion (s.sec.flash.object k))

/-- The image to boot: the one that the last firmware-activate named, else the other; only one that passes its checks runs (R453, R454). -/
def State.bootImage (s : State) : Option Nat :=
  let a := s.sec.flash.activeImage % 2
  if s.imageOk a then some a else if s.imageOk (1 - a) then some (1 - a) else none

/-- Step 3 begins with image `k`: the measurements of the record and of the image are written (R457). -/
def State.measured (s : State) (k : Nat) : State :=
  let f := s.sec.flash
  { s with
    boot := { s.boot with step := 3 }
    sec := { s.sec with
      cfgDigest := sha256 (bread (f.object 3) 0 20368), cfgVersion := s.sec.config.version
      fwDigest := sha256 (bread (f.object k) 0 (tget 0 f.lengths k)), fwVersion := Config.imageVersion (f.object k), image := k } }

/-- ROM_CHECKS_COMPLETE: the version of the record and an image pass, and the measurements are written; or the device stays
in ROM recovery (R454–R457). -/
def execRomChecksComplete (s : State) : Out :=
  done (if s.boot.step ≠ 2 || !s.sec.floorSeen || s.sec.recovery then s
  else if s.sec.config.version < s.sec.cfgFloor then s.toRecovery
  else match s.bootImage with
    | none => s.toRecovery
    | some k => s.measured k)

/-! ### Step 3: self-test; the Hearth cores (R395, R399, R534, R540) -/

/-- The core that a boot makes active: core 0 where it passes its self-test, else core 1 (R395). -/
def bootCore (core0 core1 : Bool) : Option Nat := if core0 then some 0 else if core1 then some 1 else none

/-- The state of a core that a boot does not make active: one that was FAILED goes to WARM-UP, one on its way back goes on (R399). -/
def restState (pass : Bool) (was : CoreState) : CoreState :=
  if !pass then .failed
  else match was with
    | .active => .standby
    | .standby => .standby
    | .failed => .warmUp
    | .warmUp => .warmUp
    | .syncing => .syncing

/-- The boot goes on to step 4, unless it is held for coolant (R540). -/
def State.leaveSelfTest (s : State) : State :=
  if s.pins.coolantOk && !s.pins.tripped then { s with boot := { s.boot with step := 4, held := false } }
  else { s with boot := { s.boot with held := true } }

/-- The Hearth cores take the roles that their self-test leaves them (R395, R399, R400). -/
def State.coresTested (s : State) (core0 core1 : Bool) : State :=
  match bootCore core0 core1 with
  | none => State.deviceEvent { s with hearth := { s.hearth with core0 := .failed, core1 := .failed, lost := true } } 0x087
  | some a =>
    let c0 := if a = 0 then .active else restState core0 s.hearth.core0
    let c1 := if a = 1 then .active else restState core1 s.hearth.core1
    let s1 : State := { s with hearth := { s.hearth with core0 := c0, core1 := c1, active := a, lost := false } }
    if c0 != .failed && c1 != .failed && c0 != .warmUp && c1 != .warmUp && c0 != .syncing && c1 != .syncing then s1 else s1.deviceEvent 0x087

/-- SRAM_SELF_TEST_COMPLETE: the cores that passed take their roles (R395, R399, R534). With neither, Hearth is lost (R400). -/
def execSramSelfTestComplete (core0 core1 : Bool) (s : State) : Out :=
  done (if s.boot.step ≠ 3 || s.boot.held || s.sec.recovery then s else (s.coresTested core0 core1).leaveSelfTest)

/-- BOOT_RESUME: COOLANT_OK is high and THERMTRIP_N is deasserted (R540). -/
def execBootResume (s : State) : Out :=
  done (if s.boot.held && !s.pins.tripped then ({ s with pins := { s.pins with coolantOk := true } } : State).leaveSelfTest else s)

/-! ### Step 4: memory training (R47–R49, R121, R125, R531) -/

/-- A channel's DIMMs follow Table — Bulk population modes. -/
def BulkFound.allowed (b : BulkFound) : Bool :=
  let cap := b.rankGiB.foldl (· + ·) 0
  (b.mode == 1 && b.dimms == 1 || b.mode == 2 && b.dimms == 2) && decide (b.rankGiB.length ≤ 4) && decide (cap ≤ 512)

/-- No DIMM is populated. -/
def BulkFound.empty (b : BulkFound) : Bool := b.rankGiB.isEmpty

def BulkFound.capacity (b : BulkFound) : Nat := b.rankGiB.foldl (· + ·) 0

/-- The channel departs from channel 0, or from the allowed modes (R49). -/
def BulkFound.breaks (b ref : BulkFound) : Bool :=
  if ref.empty then !b.empty else b.empty || !b.allowed || b.mode != ref.mode || b.capacity != ref.capacity

/-- Stack `k` as training found it: spare channel 31 where STACK_SPARES is 1 (R47, R48). -/
def State.foundStack (s : State) (k : Nat) (f : StackFound) : State :=
  let spares := s.sec.config.stackSpares == 1
  let s1 := s.modStack k (fun _ => { Stack.reset with populated := f.populated, trained := f.trained, spareHeld := spares, spareCh := 31 })
  (List.range 32).foldl (fun a c => a.modUnit (32 * k + c) (fun _ =>
    { ServiceUnit.reset with state := if spares && c == 31 then .spare else .inService, exitRefresh := true })) s1

/-- DDR5 channel `c` as training found it (R49, R121). -/
def State.foundBulk (s : State) (c : Nat) (b : BulkFound) (broke : Bool) : State :=
  let s1 := s.modBulk c (fun _ => { BulkChannel.reset with
    populated := !b.empty, trained := !b.empty && decide (popCount b.rankGiB.length b.failed < b.rankGiB.length), broke := broke
    mode := b.mode, dimms := b.dimms, ranks := b.rankGiB.length, capacity := b.capacity, rankGiB := b.rankGiB })
  let s2 := (List.range (min 4 b.rankGiB.length)).foldl (fun a r => a.modUnit (256 + 4 * c + r) (fun _ =>
    { ServiceUnit.reset with state := .inService, exitRefresh := true })) s1
  if broke then s2.deviceEvent 0x083 else s2

/-- A unit that training failed at a cold boot is retired at once, with nothing to copy, or marked failed (R125). -/
def State.retireNow (s : State) (u : Nat) : State :=
  let s1 := s.beginRetire u
  if (s1.unit u).state = .retiring then s1.finishRetire u else s1

/-- The spare pool of a cold boot: the top of every channel, an equal share each (R121). -/
def State.makePool (s : State) (failed : Nat → Nat) : State :=
  let ranks := (List.range 16).flatMap (fun c => (s.bulkCh c).rankGiB.zipIdx.map (fun r => if bit (failed c) r.2 then 0 else r.1))
  let size := if s.bulkPresent then ceilDiv (s.sec.config.bulkSpare * ranks.foldl max 0) 4 * 4 else 0
  let share := size * 8192 / 16
  { s with dram := { s.dram with
      spareGiB := size
      spareFree := if share = 0 then [] else
        (List.range 16).map (fun c => { channel := c, first := (s.bulkCh c).capacity * 8192 - share, count := share }) } }

/-- Training at a cold boot decides afresh which units serve (R125). DESIGN CHOICE (log entry 73): of several channels of a stack that fail
the highest-numbered one takes the stack's one spare. -/
def State.trainCold (s : State) (hbm : List StackFound) (ddr : List BulkFound) : State :=
  let stack (k : Nat) : StackFound := (hbm[k]?).getD { populated := false, trained := false, failed := 0 }
  let chan (c : Nat) : BulkFound := (ddr[c]?).getD { mode := 0, dimms := 0, rankGiB := [], failed := 0 }
  let s1 := (List.range s.nStacks).foldl (fun a k => a.foundStack k (stack k)) s
  let s2 := (List.range 16).foldl (fun a c => a.foundBulk c (chan c) ((chan c).breaks (chan 0))) s1
  let s3 := s2.makePool (fun c => (chan c).failed)
  let s4 := (List.range s.nStacks).foldl (fun a k =>
    ((bitList 32 (stack k).failed).reverse.map (32 * k + ·)).foldl State.retireNow a) s3
  -- no rank that failed takes the data of another
  let ranks := if s4.bulkPresent then (List.range 16).flatMap (fun c =>
    (bitList (min 4 (chan c).rankGiB.length) (chan c).failed).map (256 + 4 * c + ·)) else []
  let s5 := ranks.foldl State.retireNow (ranks.foldl (fun a u => a.modUnit u (fun x => { x with failing := true })) s4)
  let walkers := (List.range 8).flatMap (fun f =>
    (if f < s.nStacks then [3 * f] else []) ++ (if s5.bulkPresent then [3 * f + 1, 3 * f + 2] else []))
  { s5 with dram := { s5.dram with walkers := walkers.map (fun w => (w, Walker.reset)) } }

/-- Training at a warm reset: memory leaves self-refresh; a unit in service that fails begins to retire at the first boundary,
a retired or failed one that passes enters warm-up, in which a failed one that holds data goes on serving it, untested (R126, log entry
73). -/
def State.trainWarm (s : State) (hbm : List StackFound) (ddr : List BulkFound) : State :=
  let fails (u : Nat) : Bool :=
    if u < 256 then bit (((hbm[u / 32]?).map (·.failed)).getD 0) (u % 32) else bit (((ddr[(u - 256) / 4]?).map (·.failed)).getD 0) ((u - 256) % 4)
  { s with dram := { s.dram with units := tmap s.dram.units (fun k u =>
      let v := { u with power := .active, exitRefresh := true }
      match u.state with
      | .absent => u
      | .inService => { v with failing := u.failing || fails k }
      | .spare => { v with failing := u.failing || fails k }
      | .retired => if fails k then v else { v with state := .warmUp, before := .retired, testUnits := 0 }
      | .failed => if fails k then v else if s.holdsData k then
          { v with state := .warmUp, before := .failed, testUnits := 0, serving := true, dead := false, retraining := false, caError := false }
        else { v with state := .warmUp, before := .failed, testUnits := 0 }
      | .retiring => v
      | .warmUp => if fails k then { v with state := u.before, serving := false } else v) } }

/-- The ports take their settings: those of PORT_BOOT at a cold boot, those in force at a warm one; the enabled ones go DOWN (R320, R532). -/
def State.bootPorts (s : State) : State :=
  (List.range 24).foldl (fun a i =>
    let b := tget 0 s.sec.config.portBoot i
    let t := a.modPort i (fun p =>
      { (if s.boot.cold then { p with enabled := bit b 0, maxRate := ofBool (bit b 1), encSetting := bits b 2 2 } else p) with state := .disabled })
    if (t.port i).enabled then t.enterDown i else t) s

/-- Exactly the stacks of the ordering code are there, and each trains (R531). -/
def State.stacksFound (s : State) (hbm : List StackFound) : Bool :=
  (List.range 8).all (fun k => match hbm[k]? with
    | some f => if k < s.nStacks then f.populated && f.trained else !f.populated
    | none => decide (s.nStacks ≤ k))

/-- The training of links and heads starts (R532, R539). -/
def State.linksStart (s : State) : State :=
  [0, 1].foldl (fun a h => a.modHead h (fun x => { x with link := if x.perst then .perst else .training })) s.bootPorts

/-- MEMORY_TRAINING_COMPLETE: step 5 starts, with it the training of links and heads (R531, R532, R539). A stack of the
ordering code that does not train, or one outside it, leaves the device in ROM recovery. -/
def execMemoryTrainingComplete (hbm : List StackFound) (ddr : List BulkFound) (s : State) : Out :=
  done (if s.boot.step ≠ 4 || s.sec.recovery then s
  else if s.boot.cold && !s.stacksFound hbm then s.toRecovery
  else
    let s1 := (if s.boot.cold then s.trainCold hbm ddr else s.trainWarm hbm ddr).linksStart
    { s1 with boot := { s1.boot with step := 5 } })

/-! ### Steps 5–7 (R487, R533, R535, R538) -/

/-- The voltage in mV that the self-test fits to a CCLK step, within 0.65–0.85 V: open (R487). -/
def fitMv (k : Nat) : Nat := 650 + 5 * (Config.freeValue k % 41)

/-- Step 6 begins: memory is zero under a fresh key, the units that passed are noted, and the step voltages are fitted. -/
def State.memoryReady (s : State) (anvils crucibles engines : Nat) : State :=
  let s1 := (List.range 64).foldl (fun a i => a.modAnvil i (fun v => { v with passed := bit anvils i })) s
  let mv := (List.range 6).map (fun k => (k, fitMv (s1.free + k)))
  { s1.drawKey 0 with
    boot := { s1.boot with step := 6 }
    free := s1.free + 6
    tiers := Tiers.reset
    crucibles := { s1.crucibles with passed := crucibles % 256 }
    tongs := { s1.tongs with passed := engines % 2 ^ 32 }
    bellows := { s1.bellows with stepMv := mv, setMv := tget 750 mv 0 } }

/-- MEMORY_INITIALISATION_COMPLETE: every location holds zeros under a device memory key drawn now, and the self-tests of
anvils, crucibles and engines have ended (R464, R533). -/
def execMemoryInitialisationComplete (anvils crucibles engines : Nat) (s : State) : Out :=
  done (if s.boot.step ≠ 5 || !s.boot.cold || s.sec.recovery then s
  else s.memoryReady anvils crucibles engines)

/-- Steps that a warm reset stopped in ARMED or FINAL end ABORTED (R537). -/
def State.abortedSteps (s : State) : State :=
  ((s.crucibles.melts.filter (fun m => m.2.state == .armed || m.2.state == .final)).map (·.1)).foldl (fun a m =>
    a.stopStep m) s

/-- HEAT_START: the heat starts or resumes, and READY rises (R535, R537, R538). After a warm reset step 5 brings up links and
heads only. -/
def execHeatStart (s : State) : Out :=
  done (if s.sec.recovery || !(s.boot.step == 6 || (s.boot.step == 5 && !s.boot.cold)) then s
  else
    let s1 : State := { s with
      heat := { s.heat with running := true }
      boot := { s.boot with step := 7, wasReady := true, first := true } }
    s1.abortedSteps)

end Sys2Proof.Machine
end

