-- ==== Sys2Proof/Machine/Boundary.lean ====
section
/-! DEFINITION. The boundary (02_heat.md): the duties of Table — Boundary duties in their order, the table changes that take
effect with them, and everything else of the device that counts boundaries. -/

namespace Sys2Proof.Machine

/-! ### While the device is in reset or boots (R538) -/

/-- A period of 256 HREF cycles before READY: the intervals of the links, which train from step 5 on, go on (R538). -/
def State.idleLinks (s : State) : State := if 5 ≤ s.boot.step then s.linkTick else s

/-- A boundary between step 1 of a warm reset entry and READY: no duty runs; the count and the intervals that include the
heats spent in reset go on. -/
def State.idleBoundary (s0 : State) : State :=
  let s := s0.idleLinks
  State.hearthTick { s with
    heat := { s.heat with count := heatMod (s.heat.count + 1), cycle := 0, time := s.heat.time + s.heat.length, pulse := false }
    parts := { s.parts with parts := tmap s.parts.parts (fun _ p =>
      { p with
        tombAge := if p.state = .tombstone then min 512 (p.tombAge + 1) else p.tombAge
        quench := p.quench.map (fun q => { q with age := q.age + 1 }) }) }
    cxl := { s.cxl with heads := tmap s.cxl.heads (fun _ h => { h with timestamp := if h.timestamp = 0 then 0 else h.timestamp + 2048 }) } }

/-- A confidential partition whose key a warm reset destroyed: QUENCHING from the first boundary, at step 7 (R80, R97). -/
def State.cryptoErase (s : State) (p : Nat) : State :=
  let mine := (s.parts.extents.filter (fun e => e.2.part == p)).map (·.1)
  let s1 := (s.modPart p (fun x => { x with
    stateHeat := if x.state = .active then s.heat.count else x.stateHeat
    state := .quenching, keyPresent := false, zeroingComplete := true
    quench := some { age := 0, acked := [], drained := true, keyGone := true } })).fenceDone p
  let s2 : State := { s1 with
    parts := { s1.parts with seals := tmap s1.parts.seals (fun _ z => if z.part = p then { z with state := .releasing, urgent := [] } else z) }
    anvils := { s1.anvils with stores := tdel s1.anvils.stores p } }
  mine.foldl (fun a n =>
    let lo := (a.ext n).dpaBlk * 2 ^ 28
    let b := if (a.ext n).coh = 1 then a.dropDirIn lo (lo + 2 ^ 28) else a
    b.modExt n (fun e =>
      if e.state = .scrubbing then e
      else { e with state := .scrubbing, unitsDone := [], endNext := false, drain := none, capture := false })) s2

/-- The first boundary after step 6: erased partitions, and a chip with a parent leaves FREE (R42, R80, R537). -/
def State.firstBoundary (s : State) : State :=
  if !s.boot.first then s
  else
    let erased := (s.parts.parts.filter (fun p => p.2.confidential && !p.2.keyPresent &&
      (p.2.state == .active || (p.2.state == .quenching && !p.2.quench.any (·.keyGone))))).map (·.1)
    let s1 := erased.foldl State.cryptoErase { s with boot := { s.boot with first := false } }
    match s1.heat.role with
    | .child _ => if s1.heat.sync = .free then s1.toAcquire else s1
    | _ => s1

/-! ### The duties of this file (R31) -/

/-- Duty 2: each port with a gate list places itself in its lap (R364). -/
def State.dutyGates (s : State) : State :=
  { s with routing := { s.routing with ports := tmap s.routing.ports (fun _ e =>
      match e.gates with
      | some l => { e with lapPos := 64 * (heatDiff s.heat.count l.start % max 1 l.lap) }
      | none => e) } }

/-- Duty 3: the shaper buckets are refilled under the scale of the last duty 4 (R31, R369, R371). -/
def State.dutyShapers (s : State) : State :=
  { s with routing := { s.routing with ports := tmap s.routing.ports (fun _ e =>
      { e with shapers := tmap e.shapers (fun _ x => x.refill s.bellows.scale) }) } }

/-- Duty 6: refresh, units that change at a boundary, decay, and the background units of every forge (R34, R37, R68, R521). -/
def State.dutyMemory (s : State) (x : Sample) : State :=
  let s1 := ((s.refreshDuty x.stackTemps x.dimmTemps x.refreshing).dramTick).unitsAtBoundary
  let s2 := if s1.heat.count % 256 = 0 && !s1.heat.decayDone then s1.decay else s1
  let s3 := s2.modHeat (fun h => { h with decayDone := false })
  let s4 := (List.range 8).foldl State.issueForge s3
  let allowed := s4.tiers.budget != 0 && decide (s4.tiers.budget ≤ s4.tiers.budgetAge + 1)
  { s4 with tiers := { s4.tiers with
      budgetAge := if allowed then 0 else s4.tiers.budgetAge + 1
      forges := tmap s4.tiers.forges (fun _ g => { g with activity := tmap g.activity (fun _ a => { a with now := false }) }) } }

/-- The sampled record of queue `k` for the heat `h` that ends (Table — Sampled split record); the queues of a confidential
partition read as 0 (R372). -/
def Egress.splitRecord (e : Egress) (h k : Nat) (conf : Bool) : SplitRec :=
  let n := tget 0 e.split.samples k
  if conf then { heat := h, cls := k / 64, part := k % 64, depth := 0, samples := 0, maxDelay := 0, meanDelay := 0 }
  else { heat := h, cls := k / 64, part := k % 64, depth := e.depth k, samples := n, maxDelay := tget 0 e.split.maxDelay k
         meanDelay := if n = 0 then 0 else tget 0 e.split.sumDelay k / n }

/-- Duty 8 on one port: one record for each watched queue enters the ring of 1,024; the oldest are overwritten (R373). -/
def Egress.closeSplit (e : Egress) (h : Nat) (conf : Nat → Bool) : Egress :=
  if e.split.mode ≠ 1 then e
  else
    let all := e.split.ring ++ e.split.watched.map (fun k => e.splitRecord h k (conf (k % 64)))
    { e with split := { e.split with
        ring := all.drop (all.length - 1024), lost := e.split.lost + (all.length - 1024), samples := [], maxDelay := [], sumDelay := [] } }

/-- Duty 8 of the heat `h` that has ended. -/
def State.dutySplit (s : State) (h : Nat) : State :=
  { s with routing := { s.routing with ports := tmap s.routing.ports (fun _ e => e.closeSplit h (fun p => (s.part p).confidential)) } }

/-! ### What else falls on a boundary -/

/-- A function-level reset of head `h` takes effect (R391): what its mailboxes hold goes, the replies of commands that run are
discarded, MSI-X and the mailboxes return to their reset values, and its binding is lost (R429). -/
def State.functionReset (s : State) (h : Nat) : State :=
  if !(s.head h).flr then s
  else
    let s1 := ((s.modHead h (fun x => { x with flr := false, primary := none, secondary := none })).countHead h 32 1).unbindHead h
    { s1 with
      hearth := { s1.hearth with
        chans := s1.hearth.chans.filter (fun c => !c.1.ofHead h)
        running := s1.hearth.running.map (fun r => if r.chan.ofHead h then { r with owed := false } else r) }
      starter := { s1.starter with
        msixTable := s1.starter.msixTable.filter (fun m => m.1 / 1024 != h), msixPend := s1.starter.msixPend.filter (fun m => m.1 / 256 != h) } }

/-- The intervals of the security block: a scrub key when the count is divisible by 256, a reseed every 65,536 heats (R463,
R464). -/
def State.securityTick (s : State) : State :=
  let n := s.sec.reseedHeats + 1
  { s with sec := { s.sec with
      scrubKeyDue := s.sec.scrubKeyDue || s.heat.count % 256 == 0
      reseedDue := s.sec.reseedDue || n == 65536, reseedHeats := n % 65536 } }

/-- Starter's targets count the boundaries since their last delivery (R449). -/
def State.starterTick (s : State) : State :=
  { s with starter := { s.starter with targets := tmap s.starter.targets (fun _ t => { t with since := t.since.map (· + 1) }) } }

/-- A window waits and no crucible that serves it has a free slot (R165, R523). -/
def State.slotWanted (s : State) (c : Nat) : Bool := !s.waitingMelts.isEmpty && (s.freeSlot c).isNone

/-- How many anvils of forge `c` save or restore now: each stages in one lent slot, the lowest-numbered ones (R523; which slots a
staging takes, and how many, the rule leaves open: DESIGN CHOICE, log entry 85). -/
def State.stagings (s : State) (c : Nat) : Nat :=
  ((List.range 8).filter (fun k => (s.anvil (8 * c + k)).mode == .saving || (s.anvil (8 * c + k)).mode == .restoring)).length

/-- Lending of the slots of crucible `c` (R523): when a window waits, every lent one without a staging in progress is reclaimed, else
slots that have been FREE for 256 heats are lent, up to SLOT_LEND. -/
def State.lendSlots (s : State) (c : Nat) : State :=
  let use (k : Nat) : SlotUse := tget SlotUse.free s.crucibles.slots (32 * c + k)
  let free := (List.range 32).filter (fun k => use k == .free)
  let lent := (List.range 32).filter (fun k => use k == .lent)
  let aged : Tab Nat := (List.range 32).foldl (fun t k =>
    tset 0 t (32 * c + k) (if use k = .free then min 256 (tget 0 t (32 * c + k) + 1) else 0)) s.crucibles.freeHeats
  if !bit s.crucibles.passed c then s
  else if s.slotWanted c then
    { s with crucibles := { s.crucibles with
        freeHeats := aged, slots := (lent.drop (s.stagings c)).foldl (fun t k => tdel t (32 * c + k)) s.crucibles.slots } }
  else
    let take := (free.filter (fun k => decide (256 ≤ tget 0 s.crucibles.freeHeats (32 * c + k)))).take (s.sec.config.slotLend - lent.length)
    { s with crucibles := { s.crucibles with
        freeHeats := aged, slots := take.foldl (fun t k => tins t (32 * c + k) .lent) s.crucibles.slots } }

/-- The boundary of a device that is READY. `x` holds what was sampled at the end of the heat before. -/
def State.boundary (s0 : State) (x : Sample) : State :=
  -- the snoops sent in the heat that ends are one boundary older; those sent below are not (R303)
  let s := s0.cohTick
  let h := s.heat.count
  -- duty 1, and the changes of the tables
  let swept := s.sweptLists.map (·.1)
  let s1 := swept.foldl State.disableContributors s.dutySync.partsTick
  let s2 := s1.firstBoundary
  let s3 := (s2.coolantTick.runChanges).runStream
  -- duties 2 to 5
  let s4 := ((s3.dutyGates.dutyShapers).dutyBellows x).anvilsTick
  -- duties 6 to 8
  let s5 := (s4.dutyMemory x).dutySplit h
  -- everything else that counts boundaries
  let s6 := ((s5.meltTick.tongsTick).linkTick).headTick
  let s7 := (((s6.functionReset 0).functionReset 1).releaseHeld).runPosts
  let s8 := (List.range 8).foldl State.lendSlots s7.syncRequest
  let s9 := (((s8.rekeyTick.securityTick).starterTick).chansTick).resolve
  let s10 := (s9.hearthTick.evalReplace).twinTick x.batonIn
  s10.clearFences.modHeat (fun y => { y with cycle := 0, pulse := true })

/-- HEAT_BOUNDARY: the count advances and the duties run in order (R28, R31); while the device is not READY only the count and
its intervals do, and before the heat first starts the end of 256 HREF cycles counts in the intervals alone (R538). -/
def execHeatBoundary (x : Sample) (s : State) : Out :=
  done (if !s.pins.pwrok then s
  else if !s.heat.running then s.idleLinks
  else if s.isReady then s.boundary x
  else s.idleBoundary)

end Sys2Proof.Machine
end

