-- ==== Sys2Proof/Machine/Mac.lean ====
section
/-! DEFINITION. The MAC array of an anvil (R223, R224). -/

namespace Sys2Proof.Machine

/-- Twice the elements of K per cycle of an operand format (Table — MAC array rates); 0 for a format the array does not
accept (R155). -/
def macRate (f : Nat) : Nat :=
  match f with
  | 0x01 => 1
  | 0x03 => 2 | 0x04 => 2 | 0x05 => 2 | 0x06 => 2 | 0x07 => 2 | 0x08 => 2 | 0x0A => 2 | 0x0B => 2
  | 0x09 => 4 | 0x0C => 4 | 0x10 => 4 | 0x11 => 4
  | 0x12 => 8
  | _ => 0

/-- Bytes from one row of an operand to the next: a row starts on a 32-byte boundary. A Billet operand is one sequence of
blocks, row after row, in groups. -/
def macStride (f k : Nat) : Nat := ceilDiv (fmtBytes f k) 32 * 32

/-- Bytes of an operand of `n` rows. -/
def macBytes (f n k : Nat) : Nat := if isBillet f then fmtBytes f (n * k) else n * macStride f k

/-- The `n` rows of an operand in SRAM, decoded to FP32, with the events. An integer element is its integer value. -/
def macRows (sram : Tab Byte) (addr f n k : Nat) : List (List Half) × EventCounts :=
  if isBillet f then
    let d := decodeImage f 0x3F800000 (bread sram addr (macBytes f n k)) (n * k)
    ((List.range n).map (fun i => (d.1.drop (k * i)).take k), d.2)
  else
    let r := (List.range n).map (fun i => decodeImage f 0x3F800000 (bread sram (addr + macStride f k * i) (fmtBytes f k)) k)
    (r.map (·.1), sumEvents (r.map (·.2)))

/-- One cycle of one cell of the array: the products are summed and added to the accumulator, rounded once. `k` numbers
an open value. -/
def macStep (k : Nat) (acc : Half) (xs ys : List Half) : Half × Nat :=
  let ps := (List.zip xs ys).map (fun p => fpProduct (f32 p.1) (f32 p.2))
  let sum := ps.foldl (fun (t : Option Fp) p =>
    match t, p with
    | some (.fin a n d), some (.fin b m c) => let q := qadd a n d b m c; some (.fin q.1 q.2.1 q.2.2)
    | some (.inf a), some (.inf b) => if a = b then some (.inf a) else none
    | some (.inf a), some (.fin _ _ _) => some (.inf a)
    | some (.fin _ _ _), some (.inf b) => some (.inf b)
    | _, _ => none) (some (f32 acc))
  match sum with
  | some x => fpRound k x
  | none => (anyNan k, 0)

/-- One cell of the array over the whole of K, `g` products a cycle. -/
def macCell (g : Nat) : Nat → Nat → Half → List Half → List Half → Half × Nat
  | 0, _, acc, _, _ => (acc, 0)
  | n + 1, k, acc, xs, ys =>
    let a := macStep k acc (xs.take g) (ys.take g)
    let r := macCell g n (k + 1) a.1 (xs.drop g) (ys.drop g)
    (r.1, a.2 + r.2)

/-- The integer that a decoded integer element is. -/
def halfInt (x : Half) : Int := match f32 x with | .fin s n d => if s then -((n / d : Nat) : Int) else ((n / d : Nat) : Int) | _ => 0

/-- One cell with two integer operands: INT32, held at its range after every cycle. -/
def macIntCell (g : Nat) : Nat → Int → List Half → List Half → Int
  | 0, acc, _, _ => acc
  | n + 1, acc, xs, ys =>
    let s := ((List.zip (xs.take g) (ys.take g)).map (fun p => halfInt p.1 * halfInt p.2)).foldl (· + ·) acc
    macIntCell g n (max (-(2 ^ 31 : Int)) (min (2 ^ 31 - 1) s)) (xs.drop g) (ys.drop g)

/-- The tile that an MMA leaves: accumulators and saturated events. -/
def macTile (free : Nat) (old : Nat → Nat → Half) (fa fb k : Nat) (ra rb : List (List Half)) : List (Nat × Nat × Half) × Nat :=
  let g := max 1 (min (macRate fa) (macRate fb) / 2)
  let q := (List.range 16).flatMap (fun i => (List.range 64).map (fun j =>
    let xs := (ra[i]?).getD []
    let ys := (rb[j]?).getD []
    if isInt fa && isInt fb then (i, j, BitVec.ofInt 32 (macIntCell g (k / g) (old i j).toInt xs ys), 0)
    else let r := macCell g (k / g) (2 ^ 40 * free + 2 ^ 24 * (64 * i + j)) (old i j) xs ys; (i, j, r.1, r.2)))
  (q.map (fun x => (x.1, x.2.1, x.2.2.1)), (q.map (fun x => x.2.2.2)).foldl (· + ·) 0)

/-- The fault of an MMA: an illegal format pair, an alignment or a range rule it breaks (R223, R224). -/
def State.mmaFault (s : State) (o : OpA) : Option AFault :=
  let r := (s.anvil o.anvil).regs
  let fa := bits o.modifier 5 5
  let fb := bits o.modifier 0 5
  let pa := (r.rs o.a).toNat
  let pb := (r.rs o.b).toNat
  let k := (r.rs o.c).toNat
  let rate := min (macRate fa) (macRate fb)
  let word := o.word 0x18 0x00
  if rate = 0 then some (illegal word)
  else if k % max 1 (rate / 2) ≠ 0 || k % blockElems fa ≠ 0 || k % blockElems fb ≠ 0 then some (alignFault word 0)
  else if pa % 32 ≠ 0 then some (alignFault word pa)
  else if pb % 32 ≠ 0 then some (alignFault word pb)
  else if !sramOk pa (macBytes fa 16 k) then some (sramRange word pa)
  else if !sramOk pb (macBytes fb 64 k) then some (sramRange word pb)
  else none

/-- The tile an MMA leaves: acc_D + A · B, or A · B with CLR, with its events and cycles (R223, R224). -/
def State.mmaRuns (s : State) (o : OpA) : State :=
  let v := s.anvil o.anvil
  let r := v.regs
  let fa := bits o.modifier 5 5
  let fb := bits o.modifier 0 5
  let k := (r.rs o.c).toNat
  let ra := macRows v.sram (r.rs o.a).toNat fa 16 k
  let rb := macRows v.sram (r.rs o.b).toNat fb 64 k
  let old (i j : Nat) : Half := if bit o.modifier 10 then 0 else r.racc o.d i j
  let t := macTile s.free old fa fb k ra.1 rb.1
  (s.drawn.retire o.anvil (fun y =>
    let z := (y.events (ra.2.add rb.2)).saturated t.2
    { z with acc := t.1.foldl (fun a x => tset 0 a (accIndex o.d x.1 x.2.1) x.2.2) z.acc })).noteAnvil o.anvil 8
      (ceilDiv (2 * k) (min (macRate fa) (macRate fb)))

/-- MMA: acc_D ← acc_D + A · B, or A · B with CLR, modifier bit 10 (R223, R224). -/
def execMma (o : OpA) (s : State) : Out :=
  done (s.instr o.anvil (match s.mmaFault o with | some f => .error f | none => .ok (s.mmaRuns o)))

/-- AZERO: acc_D ← 0. -/
def execAzero (o : OpA) (s : State) : Out :=
  done (s.instr o.anvil (.ok (s.retire o.anvil (fun r =>
    { r with acc := r.acc.filter (fun p => p.1 / 1024 != o.d % 4) }))))

end Sys2Proof.Machine
end

