-- ==== Sys2Proof/Machine/Scalar.lean ====
section
/-! DEFINITION. The scalar instructions of an anvil: system, scalar ALU, and branches (R217, R220, R243, R244). -/

namespace Sys2Proof.Machine

/-! ### Scalar ALU (R220): s_D ← s_A op s_B, or op IMM -/

/-- A scalar instruction in format A. -/
def State.scalarA (s : State) (o : OpA) (f : Word → Word → Word) : State :=
  s.instr o.anvil (.ok (s.retire o.anvil (fun r => r.ws o.d (f (r.rs o.a) (r.rs o.b)))))

/-- A scalar instruction in format I, the immediate in place of s_B. -/
def State.scalarI (s : State) (o : OpI) (f : Word → Word → Word) : State :=
  s.instr o.anvil (.ok (s.retire o.anvil (fun r => r.ws o.d (f (r.rs o.a) (immS o.imm)))))

/-- A shift by 64 or more: the spec states no result, which is a free value. -/
def shiftBy (free : Nat) (f : Word → Nat → Word) (x y : Word) : Word := if y.toNat < 64 then f x y.toNat else BitVec.ofNat 64 (Config.freeValue free)

/-- A shift may take a free value. -/
def State.shiftA (s : State) (o : OpA) (f : Word → Nat → Word) : State := s.drawn.scalarA o (shiftBy s.free f)
def State.shiftI (s : State) (o : OpI) (f : Word → Nat → Word) : State := s.drawn.scalarI o (shiftBy s.free f)

/-- 1 for true, 0 for false, as a register value. -/
def flagWord (b : Bool) : Word := if b then 1 else 0

def wMin (x y : Word) : Word := if x.slt y then x else y
def wMax (x y : Word) : Word := if x.slt y then y else x

/-- ADD: the sum, modulo 2^64. -/
def execAdd (o : OpA) (s : State) : Out := done (s.scalarA o (fun x y => x + y))
/-- ADD with an immediate: the sum, modulo 2^64. -/
def execAddImmediate (o : OpI) (s : State) : Out := done (s.scalarI o (fun x y => x + y))

/-- SUB: the difference, modulo 2^64. -/
def execSub (o : OpA) (s : State) : Out := done (s.scalarA o (fun x y => x - y))
/-- SUB with an immediate: the difference, modulo 2^64. -/
def execSubImmediate (o : OpI) (s : State) : Out := done (s.scalarI o (fun x y => x - y))

/-- MUL: the product, modulo 2^64. -/
def execMul (o : OpA) (s : State) : Out := done (s.scalarA o (fun x y => x * y))
/-- MUL with an immediate: the product, modulo 2^64. -/
def execMulImmediate (o : OpI) (s : State) : Out := done (s.scalarI o (fun x y => x * y))

/-- AND: bitwise and. -/
def execAnd (o : OpA) (s : State) : Out := done (s.scalarA o (fun x y => x &&& y))
/-- AND with an immediate: bitwise and. -/
def execAndImmediate (o : OpI) (s : State) : Out := done (s.scalarI o (fun x y => x &&& y))

/-- OR: bitwise or. -/
def execOr (o : OpA) (s : State) : Out := done (s.scalarA o (fun x y => x ||| y))
/-- OR with an immediate: bitwise or. -/
def execOrImmediate (o : OpI) (s : State) : Out := done (s.scalarI o (fun x y => x ||| y))

/-- XOR: bitwise exclusive or. -/
def execXor (o : OpA) (s : State) : Out := done (s.scalarA o (fun x y => x ^^^ y))
/-- XOR with an immediate: bitwise exclusive or. -/
def execXorImmediate (o : OpI) (s : State) : Out := done (s.scalarI o (fun x y => x ^^^ y))

/-- SHL: shift left. -/
def execShl (o : OpA) (s : State) : Out := done (s.shiftA o (fun x n => x <<< n))
/-- SHL with an immediate: shift left. -/
def execShlImmediate (o : OpI) (s : State) : Out := done (s.shiftI o (fun x n => x <<< n))

/-- SHR: logical shift right. -/
def execShr (o : OpA) (s : State) : Out := done (s.shiftA o (fun x n => x >>> n))
/-- SHR with an immediate: logical shift right. -/
def execShrImmediate (o : OpI) (s : State) : Out := done (s.shiftI o (fun x n => x >>> n))

/-- SAR: arithmetic shift right. -/
def execSar (o : OpA) (s : State) : Out := done (s.shiftA o (fun x n => x.sshiftRight n))
/-- SAR with an immediate: arithmetic shift right. -/
def execSarImmediate (o : OpI) (s : State) : Out := done (s.shiftI o (fun x n => x.sshiftRight n))

/-- SLT: 1 if less than, signed. -/
def execSlt (o : OpA) (s : State) : Out := done (s.scalarA o (fun x y => flagWord (x.slt y)))
/-- SLT with an immediate: 1 if less than, signed. -/
def execSltImmediate (o : OpI) (s : State) : Out := done (s.scalarI o (fun x y => flagWord (x.slt y)))

/-- SLTU: 1 if less than, unsigned. -/
def execSltu (o : OpA) (s : State) : Out := done (s.scalarA o (fun x y => flagWord (x.ult y)))
/-- SLTU with an immediate: 1 if less than, unsigned. -/
def execSltuImmediate (o : OpI) (s : State) : Out := done (s.scalarI o (fun x y => flagWord (x.ult y)))

/-- MIN: the lesser, signed. -/
def execMin (o : OpA) (s : State) : Out := done (s.scalarA o wMin)
/-- MIN with an immediate: the lesser, signed. -/
def execMinImmediate (o : OpI) (s : State) : Out := done (s.scalarI o wMin)

/-- MAX: the greater, signed. -/
def execMax (o : OpA) (s : State) : Out := done (s.scalarA o wMax)
/-- MAX with an immediate: the greater, signed. -/
def execMaxImmediate (o : OpI) (s : State) : Out := done (s.scalarI o wMax)

/-- LUI: s_D[63:32] ← IMM, s_D[31:0] ← s_A[31:0]. -/
def execLui (o : OpI) (s : State) : Out :=
  done (s.instr o.anvil (.ok (s.retire o.anvil (fun r => r.ws o.d (o.imm ++ (r.rs o.a).truncate 32)))))

/-! ### Branches (R220): the offset counts instructions from the branch itself -/

/-- The pc at a signed offset, 13 bits. -/
def pcAt (pc : Nat) (imm : BitVec 32) : Nat := ((pc : Int) + imm.toInt) % 8192 |>.toNat

/-- A conditional branch. -/
def State.branch (s : State) (o : OpB) (p : Word → Word → Bool) : State :=
  s.instr o.anvil (.ok ((s.retire o.anvil id).modRegs o.anvil (fun _ =>
    let r := (s.anvil o.anvil).regs
    { r with pc := if p (r.rs o.a) (r.rs o.b) then pcAt r.pc o.imm else (r.pc + 1) % 8192 })))

/-- BEQ: branch if equal. -/
def execBeq (o : OpB) (s : State) : Out := done (s.branch o (fun x y => x == y))

/-- BNE: branch if not equal. -/
def execBne (o : OpB) (s : State) : Out := done (s.branch o (fun x y => x != y))

/-- BLT: branch if less than, signed. -/
def execBlt (o : OpB) (s : State) : Out := done (s.branch o (fun x y => x.slt y))

/-- BGE: branch if greater or equal, signed. -/
def execBge (o : OpB) (s : State) : Out := done (s.branch o (fun x y => !x.slt y))

/-- BLTU: branch if less than, unsigned. -/
def execBltu (o : OpB) (s : State) : Out := done (s.branch o (fun x y => x.ult y))

/-- BGEU: branch if greater or equal, unsigned. -/
def execBgeu (o : OpB) (s : State) : Out := done (s.branch o (fun x y => !x.ult y))

/-- JAL: s31 ← pc + 1, and jump by the offset. -/
def execJal (o : OpB) (s : State) : Out :=
  done (s.instr o.anvil (.ok ((s.retire o.anvil id).modRegs o.anvil (fun _ =>
    let r := (s.anvil o.anvil).regs
    { r.ws 31 (BitVec.ofNat 64 ((r.pc + 1) % 8192)) with pc := pcAt r.pc o.imm }))))

/-- JR: pc ← s_A[12:0]. -/
def execJr (o : OpB) (s : State) : Out :=
  done (s.instr o.anvil (.ok ((s.retire o.anvil id).modRegs o.anvil (fun _ =>
    let r := (s.anvil o.anvil).regs
    { r with pc := (r.rs o.a).toNat % 8192 }))))

/-! ### System instructions (R217, R220, R243, R244, R483) -/

/-- FAULT: the program faults with PROGRAM and the user code IMM[15:0]. -/
def execFault (o : OpI) (s : State) : Out :=
  done (s.instr o.anvil (.error { code := fProgram, user := o.imm.toNat % 65536, word := o.word 0x00 0x00, addr := 0, status := 0 }))

/-- YIELD: the anvil is idle until the next boundary, nothing is saved (R243). -/
def execYield (o : OpI) (s : State) : Out :=
  done (s.instr o.anvil (.ok ((s.retire o.anvil id).modAnvil o.anvil (fun v => { v with wait := .yield }))))

/-- A partition's runtime declares a phase, in force from the next boundary (R483). -/
def State.declarePhase (s : State) (p phase : Nat) : State :=
  { s with hearth := { s.hearth with staged := s.hearth.staged ++ [(1, .phaseDeclare p phase)] } }

/-- PHASE: the partition declares power phase IMM[2:0], in force from the next boundary (R483). -/
def execPhase (o : OpI) (s : State) : Out :=
  done (s.instr o.anvil (.ok ((s.retire o.anvil id).declarePhase (s.anvil o.anvil).holder (o.imm.toNat % 8))))

/-- CCLK cycles since the boundary of this heat, as they may stand now. -/
def State.cycleNow (s : State) : Nat :=
  let n := cclkPerHeat s.bellows.step
  if n ≤ s.heat.cycle then s.heat.cycle else s.heat.cycle + Config.freeValue s.free % (n - s.heat.cycle)

/-- The value that SRD reads from a special register (Table — Anvil special registers); none where the table has no
such register. CYCLE is a free value below the cycles of a heat and not below what it read before in the heat. -/
def State.special (s : State) (a n : Nat) : Option Word :=
  let v := s.anvil a
  let r := v.regs
  match n with
  | 0x00 => some (BitVec.ofNat 64 (a % 64 + v.holder % 64 * 256))
  | 0x01 => some (BitVec.ofNat 64 (s.heat.count % 2 ^ 48))
  | 0x02 => some (BitVec.ofNat 64 s.cycleNow)
  | 0x03 => some (BitVec.ofNat 64 r.evtEsc)
  | 0x04 => some (BitVec.ofNat 64 r.evtSat)
  | 0x05 => some (BitVec.ofNat 64 r.evtMal)
  | 0x06 => some (BitVec.ofNat 64 r.evtNf)
  | 0x07 => some r.streamKey
  | 0x08 => some r.streamCtr
  | 0x09 => some (BitVec.ofNat 64 (r.liveBase % 2 ^ 32 + r.liveLen % 2 ^ 32 * 2 ^ 32))
  | 0x0A => some (BitVec.ofNat 64 (v.xfers.length % 128))
  | _ => none

/-- SRD: s_D ← special register IMM[7:0]. -/
def execSrd (o : OpI) (s : State) : Out :=
  done (s.instr o.anvil (match s.special o.anvil (o.imm.toNat % 256) with
    | some x =>
      let s1 := if o.imm.toNat % 256 = 2 then s.drawn.modHeat (fun h => { h with cycle := s.cycleNow }) else s
      .ok (s1.retire o.anvil (fun r => r.ws o.d x))
    | none => .error (illegal (o.word 0x00 0x03))))

/-- What SWR writes: the registers after it; none where the register is read-only or the table has none. -/
def AnvilRegs.writeSpecial (r : AnvilRegs) (n : Nat) (x : Word) : Option AnvilRegs :=
  match n with
  | 0x03 => some { r with evtEsc := x.toNat % 2 ^ 32 }
  | 0x04 => some { r with evtSat := x.toNat % 2 ^ 32 }
  | 0x05 => some { r with evtMal := x.toNat % 2 ^ 32 }
  | 0x06 => some { r with evtNf := x.toNat % 2 ^ 32 }
  | 0x07 => some { r with streamKey := x }
  | 0x08 => some { r with streamCtr := x }
  | _ => none

/-- SWR: special register IMM[7:0] ← s_A; a read-only one faults with ILLEGAL (R217). -/
def execSwr (o : OpI) (s : State) : Out :=
  let n := o.imm.toNat % 256
  let r := (s.anvil o.anvil).regs
  done (s.instr o.anvil (match r.writeSpecial n (r.rs o.a) with
    | some t => .ok (s.retire o.anvil (fun _ => t))
    | none => .error (illegal (o.word 0x00 0x04))))

/-- LIVE_MAX of the program slot of an anvil's instance (R242, R244). -/
def State.liveMax (s : State) (a : Nat) : Nat :=
  let p := (s.anvil a).holder
  match s.inst a p with
  | some i => ((tfind s.anvils.programs (16 * p + i.prog)).map (·.liveMax)).getD 0
  | none => 0

/-- LIVE: the live range is base s_A, length IMM (R244): multiples of 4 KiB within SRAM, no longer than LIVE_MAX. -/
def execLive (o : OpI) (s : State) : Out :=
  let r := (s.anvil o.anvil).regs
  let base := (r.rs o.a).toNat
  let len := o.imm.toNat
  let word := o.word 0x00 0x05
  done (s.instr o.anvil (
    if s.liveMax o.anvil < len then .error { code := fLive, user := 0, word := word, addr := base, status := 0 }
    else if base % 4096 ≠ 0 || len % 4096 ≠ 0 then .error (alignFault word base)
    else if !sramOk base len then .error (sramRange word base)
    else .ok (s.retire o.anvil (fun y => { y with liveBase := base, liveLen := len }))))

/-- HALT: the instance ends; the anvil is left idle (R243). -/
def execHalt (o : OpI) (s : State) : Out :=
  let v := s.anvil o.anvil
  let s1 := (s.retire o.anvil id).modAnvil o.anvil (fun y => { y with mode := .idle })
  done (s.instr o.anvil (.ok (match s.inst o.anvil v.holder with
    | some _ => if v.mode = .program then s1.setInst o.anvil v.holder none else s1
    | none => s1)))

end Sys2Proof.Machine
end

