-- ==== Sys2Proof/Machine/Security.lean ====
section
/-! DEFINITION. The security block between commands (19_security.md): reseeds and health failures of the DRBG, and the scrub
key. -/

namespace Sys2Proof.Machine

/-- DRBG_RESEED: every 65,536 heats (R463). -/
def execDrbgReseed (s : State) : Out :=
  done (if !s.sec.reseedDue || s.sec.drbgStopped then s
  else { s with sec := { s.sec with reseedDue := false, reseeds := s.sec.reseeds + 1 } })

/-- The ports in KEYING go DOWN (R463). -/
def State.dropKeying (s : State) : State :=
  (List.range 24).foldl (fun a i => if (a.port i).state = .keying then a.goDown i else a) s

/-- DRBG_HEALTH_FAILURE: the DRBG stops until a warm reset (R463). -/
def execDrbgHealthFailure (s : State) : Out :=
  done (if !s.pins.pwrok || s.sec.drbgStopped then s
  else (({ s with sec := { s.sec with drbgStopped := true } } : State).deviceEvent 0x082).dropKeying)

/-- SCRUB_KEY_REPLACE: a new scrub key in key slot 64 at every boundary with HEAT_COUNT mod 256 = 0 (R464); a stopped DRBG makes none. -/
def execScrubKeyReplace (s : State) : Out :=
  done (if !s.sec.scrubKeyDue || s.sec.drbgStopped then s
  else { s with sec := { s.sec with scrubKeyDue := false, scrubKeys := s.sec.scrubKeys + 1 } }.drawKey 64)

end Sys2Proof.Machine
end

