-- ==== Sys2Proof/Machine/Dispatch.lean ====
section
/-! DEFINITION. One arm per constructor: the meaning of each command. -/

namespace Sys2Proof.Machine

def exec (i : Instr) (s : State) : Host.Outcome State Fault Refusal :=
  match i with
  | .heatBoundary x => Sys2Proof.Machine.execHeatBoundary x s
  | .heatStart => Sys2Proof.Machine.execHeatStart s
  | .heatSyncIn phase => Sys2Proof.Machine.execHeatSyncIn phase s
  | .syncReq port t1 hop t2 t3 => Sys2Proof.Machine.execSyncReq port t1 hop t2 t3 s
  | .syncRsp port t1 t2 t3 hop t4 => Sys2Proof.Machine.execSyncRsp port t1 t2 t3 hop t4 s
  | .syncRspLoss => Sys2Proof.Machine.execSyncRspLoss s
  | .decayBoundary => Sys2Proof.Machine.execDecayBoundary s
  | .doubledRefreshExit bulk index => Sys2Proof.Machine.execDoubledRefreshExit bulk index s
  | .postponedRefreshIssue unit => Sys2Proof.Machine.execPostponedRefreshIssue unit s
  | .memRd port t => Sys2Proof.Machine.execMemRd port t s
  | .memWr port t => Sys2Proof.Machine.execMemWr port t s
  | .forgeCacheFill forge sector => Sys2Proof.Machine.execForgeCacheFill forge sector s
  | .dramReadComplete queue pos rowHit ecc => Sys2Proof.Machine.execDramReadComplete queue pos rowHit ecc s
  | .caParityError unit => Sys2Proof.Machine.execCaParityError unit s
  | .ageLimitExpiry queue write pos => Sys2Proof.Machine.execAgeLimitExpiry queue write pos s
  | .powerDownEntry unit => Sys2Proof.Machine.execPowerDownEntry unit s
  | .selfRefreshEntry unit => Sys2Proof.Machine.execSelfRefreshEntry unit s
  | .patrolScrubUnitComplete forge found => Sys2Proof.Machine.execPatrolScrubUnitComplete forge found s
  | .scrubWindowEnd walker => Sys2Proof.Machine.execScrubWindowEnd walker s
  | .spareMigrationUnitComplete forge found => Sys2Proof.Machine.execSpareMigrationUnitComplete forge found s
  | .warmUpTestUnitComplete forge pass => Sys2Proof.Machine.execWarmUpTestUnitComplete forge pass s
  | .placementMigrationUnitComplete forge found => Sys2Proof.Machine.execPlacementMigrationUnitComplete forge found s
  | .extentFillUnitComplete forge ext => Sys2Proof.Machine.execExtentFillUnitComplete forge ext s
  | .quenchScrubUnitComplete forge ext => Sys2Proof.Machine.execQuenchScrubUnitComplete forge ext s
  | .twinEpochCopyUnitComplete copy => Sys2Proof.Machine.execTwinEpochCopyUnitComplete copy s
  | .releaseDrainEnd ext => Sys2Proof.Machine.execReleaseDrainEnd ext s
  | .tombstoneExpiry p => Sys2Proof.Machine.execTombstoneExpiry p s
  | .fenceAck port cell => Sys2Proof.Machine.execFenceAck port cell s
  | .fenceWaitExpiry p => Sys2Proof.Machine.execFenceWaitExpiry p s
  | .quenchZeroingComplete p => Sys2Proof.Machine.execQuenchZeroingComplete p s
  | .captureSegmentCopyComplete sid leaf found => Sys2Proof.Machine.execCaptureSegmentCopyComplete sid leaf found s
  | .pour port cell => Sys2Proof.Machine.execPour port cell s
  | .pourCell port cell => Sys2Proof.Machine.execPourCell port cell s
  | .stagingTruncation port => Sys2Proof.Machine.execStagingTruncation port s
  | .windowOpen => Sys2Proof.Machine.execWindowOpen s
  | .windowSpill => Sys2Proof.Machine.execWindowSpill s
  | .spillWriteComplete melt window => Sys2Proof.Machine.execSpillWriteComplete melt window s
  | .windowDeadline melt window => Sys2Proof.Machine.execWindowDeadline melt window s
  | .windowHandOff melt => Sys2Proof.Machine.execWindowHandOff melt s
  | .imageReadReport anvil found => Sys2Proof.Machine.execImageReadReport anvil found s
  | .windowWritten anvil found => Sys2Proof.Machine.execWindowWritten anvil found s
  | .stepEnd melt => Sys2Proof.Machine.execStepEnd melt s
  | .tileTransferComplete anvil index found => Sys2Proof.Machine.execTileTransferComplete anvil index found s
  | .mwaitRelease anvil => Sys2Proof.Machine.execMwaitRelease anvil s
  | .waithRelease anvil => Sys2Proof.Machine.execWaithRelease anvil s
  | .waitwRelease anvil => Sys2Proof.Machine.execWaitwRelease anvil s
  | .barRelease p barrier => Sys2Proof.Machine.execBarRelease p barrier s
  | .waiteRelease anvil => Sys2Proof.Machine.execWaiteRelease anvil s
  | .contextSaveComplete anvil => Sys2Proof.Machine.execContextSaveComplete anvil s
  | .anvilZeroingComplete anvil => Sys2Proof.Machine.execAnvilZeroingComplete anvil s
  | .contextRestoreComplete anvil => Sys2Proof.Machine.execContextRestoreComplete anvil s
  | .fault o => Sys2Proof.Machine.execFault o s
  | .yield o => Sys2Proof.Machine.execYield o s
  | .phase o => Sys2Proof.Machine.execPhase o s
  | .srd o => Sys2Proof.Machine.execSrd o s
  | .swr o => Sys2Proof.Machine.execSwr o s
  | .live o => Sys2Proof.Machine.execLive o s
  | .halt o => Sys2Proof.Machine.execHalt o s
  | .add o => Sys2Proof.Machine.execAdd o s
  | .sub o => Sys2Proof.Machine.execSub o s
  | .mul o => Sys2Proof.Machine.execMul o s
  | .and o => Sys2Proof.Machine.execAnd o s
  | .or o => Sys2Proof.Machine.execOr o s
  | .xor o => Sys2Proof.Machine.execXor o s
  | .shl o => Sys2Proof.Machine.execShl o s
  | .shr o => Sys2Proof.Machine.execShr o s
  | .sar o => Sys2Proof.Machine.execSar o s
  | .slt o => Sys2Proof.Machine.execSlt o s
  | .sltu o => Sys2Proof.Machine.execSltu o s
  | .min o => Sys2Proof.Machine.execMin o s
  | .max o => Sys2Proof.Machine.execMax o s
  | .addImmediate o => Sys2Proof.Machine.execAddImmediate o s
  | .subImmediate o => Sys2Proof.Machine.execSubImmediate o s
  | .mulImmediate o => Sys2Proof.Machine.execMulImmediate o s
  | .andImmediate o => Sys2Proof.Machine.execAndImmediate o s
  | .orImmediate o => Sys2Proof.Machine.execOrImmediate o s
  | .xorImmediate o => Sys2Proof.Machine.execXorImmediate o s
  | .shlImmediate o => Sys2Proof.Machine.execShlImmediate o s
  | .shrImmediate o => Sys2Proof.Machine.execShrImmediate o s
  | .sarImmediate o => Sys2Proof.Machine.execSarImmediate o s
  | .sltImmediate o => Sys2Proof.Machine.execSltImmediate o s
  | .sltuImmediate o => Sys2Proof.Machine.execSltuImmediate o s
  | .minImmediate o => Sys2Proof.Machine.execMinImmediate o s
  | .maxImmediate o => Sys2Proof.Machine.execMaxImmediate o s
  | .lui o => Sys2Proof.Machine.execLui o s
  | .beq o => Sys2Proof.Machine.execBeq o s
  | .bne o => Sys2Proof.Machine.execBne o s
  | .blt o => Sys2Proof.Machine.execBlt o s
  | .bge o => Sys2Proof.Machine.execBge o s
  | .bltu o => Sys2Proof.Machine.execBltu o s
  | .bgeu o => Sys2Proof.Machine.execBgeu o s
  | .jal o => Sys2Proof.Machine.execJal o s
  | .jr o => Sys2Proof.Machine.execJr o s
  | .tld o => Sys2Proof.Machine.execTld o s
  | .tst o => Sys2Proof.Machine.execTst o s
  | .tld2 o => Sys2Proof.Machine.execTld2 o s
  | .tst2 o => Sys2Proof.Machine.execTst2 o s
  | .lds o => Sys2Proof.Machine.execLds o s
  | .sts o => Sys2Proof.Machine.execSts o s
  | .mwait o => Sys2Proof.Machine.execMwait o s
  | .vld o => Sys2Proof.Machine.execVld o s
  | .vst o => Sys2Proof.Machine.execVst o s
  | .vbc o => Sys2Proof.Machine.execVbc o s
  | .vadd o => Sys2Proof.Machine.execVadd o s
  | .vsub o => Sys2Proof.Machine.execVsub o s
  | .vmul o => Sys2Proof.Machine.execVmul o s
  | .vfma o => Sys2Proof.Machine.execVfma o s
  | .vmin o => Sys2Proof.Machine.execVmin o s
  | .vmax o => Sys2Proof.Machine.execVmax o s
  | .vabs o => Sys2Proof.Machine.execVabs o s
  | .vneg o => Sys2Proof.Machine.execVneg o s
  | .vsign o => Sys2Proof.Machine.execVsign o s
  | .vsqrt o => Sys2Proof.Machine.execVsqrt o s
  | .vrcp o => Sys2Proof.Machine.execVrcp o s
  | .vrsqrt o => Sys2Proof.Machine.execVrsqrt o s
  | .vexp2 o => Sys2Proof.Machine.execVexp2 o s
  | .vredsum o => Sys2Proof.Machine.execVredsum o s
  | .vredmax o => Sys2Proof.Machine.execVredmax o s
  | .vcmplt o => Sys2Proof.Machine.execVcmplt o s
  | .vsel o => Sys2Proof.Machine.execVsel o s
  | .vsplat o => Sys2Proof.Machine.execVsplat o s
  | .vlane o => Sys2Proof.Machine.execVlane o s
  | .vacr o => Sys2Proof.Machine.execVacr o s
  | .vacw o => Sys2Proof.Machine.execVacw o s
  | .vaddInt o => Sys2Proof.Machine.execVaddInt o s
  | .vsubInt o => Sys2Proof.Machine.execVsubInt o s
  | .vmulInt o => Sys2Proof.Machine.execVmulInt o s
  | .vfmaInt o => Sys2Proof.Machine.execVfmaInt o s
  | .vminInt o => Sys2Proof.Machine.execVminInt o s
  | .vmaxInt o => Sys2Proof.Machine.execVmaxInt o s
  | .vabsInt o => Sys2Proof.Machine.execVabsInt o s
  | .vnegInt o => Sys2Proof.Machine.execVnegInt o s
  | .vsignInt o => Sys2Proof.Machine.execVsignInt o s
  | .vsqrtInt o => Sys2Proof.Machine.execVsqrtInt o s
  | .vrcpInt o => Sys2Proof.Machine.execVrcpInt o s
  | .vrsqrtInt o => Sys2Proof.Machine.execVrsqrtInt o s
  | .vexp2Int o => Sys2Proof.Machine.execVexp2Int o s
  | .vredsumInt o => Sys2Proof.Machine.execVredsumInt o s
  | .vredmaxInt o => Sys2Proof.Machine.execVredmaxInt o s
  | .vcmpltInt o => Sys2Proof.Machine.execVcmpltInt o s
  | .vcvtTo o => Sys2Proof.Machine.execVcvtTo o s
  | .vcvtFrom o => Sys2Proof.Machine.execVcvtFrom o s
  | .pack o => Sys2Proof.Machine.execPack o s
  | .unpack o => Sys2Proof.Machine.execUnpack o s
  | .sgnv o => Sys2Proof.Machine.execSgnv o s
  | .mma o => Sys2Proof.Machine.execMma o s
  | .azero o => Sys2Proof.Machine.execAzero o s
  | .fwhs o => Sys2Proof.Machine.execFwhs o s
  | .fwhf o => Sys2Proof.Machine.execFwhf o s
  | .fwhd o => Sys2Proof.Machine.execFwhd o s
  | .treq o => Sys2Proof.Machine.execTreq o s
  | .waith o => Sys2Proof.Machine.execWaith o s
  | .waitw o => Sys2Proof.Machine.execWaitw o s
  | .bar o => Sys2Proof.Machine.execBar o s
  | .sete o => Sys2Proof.Machine.execSete o s
  | .waite o => Sys2Proof.Machine.execWaite o s
  | .sig o => Sys2Proof.Machine.execSig o s
  | .doorbell acc ctx size value => Sys2Proof.Machine.execDoorbell acc ctx size value s
  | .copy ctx => Sys2Proof.Machine.execCopy ctx s
  | .tile ctx => Sys2Proof.Machine.execTile ctx s
  | .gather ctx => Sys2Proof.Machine.execGather ctx s
  | .scatter ctx => Sys2Proof.Machine.execScatter ctx s
  | .fill ctx => Sys2Proof.Machine.execFill ctx s
  | .cast ctx => Sys2Proof.Machine.execCast ctx s
  | .seal ctx => Sys2Proof.Machine.execSeal ctx s
  | .push ctx => Sys2Proof.Machine.execPush ctx s
  | .loop ctx => Sys2Proof.Machine.execLoop ctx s
  | .wait ctx => Sys2Proof.Machine.execWait ctx s
  | .signal ctx => Sys2Proof.Machine.execSignal ctx s
  | .waitMet ctx => Sys2Proof.Machine.execWaitMet ctx s
  | .translationWalkComplete ctx tva => Sys2Proof.Machine.execTranslationWalkComplete ctx tva s
  | .strokeCommit ctx idx stroke found => Sys2Proof.Machine.execStrokeCommit ctx idx stroke found s
  | .wrCmp port t => Sys2Proof.Machine.execWrCmp port t s
  | .pushTimeout ctx idx => Sys2Proof.Machine.execPushTimeout ctx idx s
  | .invalidationFenceComplete asid => Sys2Proof.Machine.execInvalidationFenceComplete asid s
  | .contextResetComplete ctx => Sys2Proof.Machine.execContextResetComplete ctx s
  | .rdShared port t => Sys2Proof.Machine.execRdShared port t s
  | .rdOwn port t => Sys2Proof.Machine.execRdOwn port t s
  | .upgrade port t => Sys2Proof.Machine.execUpgrade port t s
  | .rdCur port t => Sys2Proof.Machine.execRdCur port t s
  | .wrBack port t => Sys2Proof.Machine.execWrBack port t s
  | .wrLine port t => Sys2Proof.Machine.execWrLine port t s
  | .wrPartial port t => Sys2Proof.Machine.execWrPartial port t s
  | .wrPlace port t => Sys2Proof.Machine.execWrPlace port t s
  | .ack port t => Sys2Proof.Machine.execAck port t s
  | .placeTake port t => Sys2Proof.Machine.execPlaceTake port t s
  | .placeDecline port t => Sys2Proof.Machine.execPlaceDecline port t s
  | .snoopTimeout tracker member => Sys2Proof.Machine.execSnoopTimeout tracker member s
  | .gripTimeExpiry line member => Sys2Proof.Machine.execGripTimeExpiry line member s
  | .homeRequestDequeue forge => Sys2Proof.Machine.execHomeRequestDequeue forge s
  | .unresponsiveSweepComplete p => Sys2Proof.Machine.execUnresponsiveSweepComplete p s
  | .signalDetect port => Sys2Proof.Machine.execSignalDetect port s
  | .trainingComplete port txLanes rxLanes rate => Sys2Proof.Machine.execTrainingComplete port txLanes rxLanes rate s
  | .trainingTimeout port => Sys2Proof.Machine.execTrainingTimeout port s
  | .ident port payload => Sys2Proof.Machine.execIdent port payload s
  | .identResend port => Sys2Proof.Machine.execIdentResend port s
  | .linkUnitReceive port raw fec => Sys2Proof.Machine.execLinkUnitReceive port raw fec s
  | .linkCtl port payload => Sys2Proof.Machine.execLinkCtl port payload s
  | .linkCtlTimer port => Sys2Proof.Machine.execLinkCtlTimer port s
  | .replayTimerExpiry port lseq => Sys2Proof.Machine.execReplayTimerExpiry port lseq s
  | .laneCmd port payload => Sys2Proof.Machine.execLaneCmd port payload s
  | .laneAck port payload => Sys2Proof.Machine.execLaneAck port payload s
  | .laneGo port payload => Sys2Proof.Machine.execLaneGo port payload s
  | .laneSwitch port receive => Sys2Proof.Machine.execLaneSwitch port receive s
  | .rateChangeRelock port => Sys2Proof.Machine.execRateChangeRelock port s
  | .laneCmdTimeout port => Sys2Proof.Machine.execLaneCmdTimeout port s
  | .laneGoTimeout port => Sys2Proof.Machine.execLaneGoTimeout port s
  | .retrainComplete port txLanes rxLanes rate => Sys2Proof.Machine.execRetrainComplete port txLanes rxLanes rate s
  | .retrainTimeout port => Sys2Proof.Machine.execRetrainTimeout port s
  | .partnerIdle port => Sys2Proof.Machine.execPartnerIdle port s
  | .laneLockLoss port lane => Sys2Proof.Machine.execLaneLockLoss port lane s
  | .frameLockLoss port => Sys2Proof.Machine.execFrameLockLoss port s
  | .laneErrorWindowEnd port corrected symbols => Sys2Proof.Machine.execLaneErrorWindowEnd port corrected symbols s
  | .laneWarmUpEnd port lane pass => Sys2Proof.Machine.execLaneWarmUpEnd port lane pass s
  | .laneWarmUpRetry port lane => Sys2Proof.Machine.execLaneWarmUpRetry port lane s
  | .tagUnit port => Sys2Proof.Machine.execTagUnit port s
  | .groupCloseTimer port => Sys2Proof.Machine.execGroupCloseTimer port s
  | .rekeyTrigger port => Sys2Proof.Machine.execRekeyTrigger port s
  | .linkKeyExchange1 port m => Sys2Proof.Machine.execLinkKeyExchange1 port m s
  | .linkKeyExchange2 port m => Sys2Proof.Machine.execLinkKeyExchange2 port m s
  | .linkKeyExchange3 port m => Sys2Proof.Machine.execLinkKeyExchange3 port m s
  | .rekeyExchange1 port m => Sys2Proof.Machine.execRekeyExchange1 port m s
  | .rekeyExchange2 port m => Sys2Proof.Machine.execRekeyExchange2 port m s
  | .keyingTimeout port => Sys2Proof.Machine.execKeyingTimeout port s
  | .transitCell port vc nowNs => Sys2Proof.Machine.execTransitCell port vc nowNs s
  | .trainTruncation port vc => Sys2Proof.Machine.execTrainTruncation port vc s
  | .egressTrainStart port granule unitTimes => Sys2Proof.Machine.execEgressTrainStart port granule unitTimes s
  | .regRd port t => Sys2Proof.Machine.execRegRd port t s
  | .regWr port t => Sys2Proof.Machine.execRegWr port t s
  | .cxlMemRead head hpa kind tag => Sys2Proof.Machine.execCxlMemRead head hpa kind tag s
  | .cxlMemWrite head hpa back mask data => Sys2Proof.Machine.execCxlMemWrite head hpa back mask data s
  | .birsp head line state => Sys2Proof.Machine.execBirsp head line state s
  | .hdmDecoderCommit head index base size ways granularity position dpaBase => Sys2Proof.Machine.execHdmDecoderCommit head index base size ways granularity position dpaBase s
  | .functionLevelReset head => Sys2Proof.Machine.execFunctionLevelReset head s
  | .perstAssert head => Sys2Proof.Machine.execPerstAssert head s
  | .perstRelease head => Sys2Proof.Machine.execPerstRelease head s
  | .cxlLinkDown head => Sys2Proof.Machine.execCxlLinkDown head s
  | .identify head primary input => Sys2Proof.Machine.execIdentify head primary input s
  | .backgroundOperationStatus head primary input => Sys2Proof.Machine.execBackgroundOperationStatus head primary input s
  | .getSupportedLogs head primary input => Sys2Proof.Machine.execGetSupportedLogs head primary input s
  | .getLog head primary input => Sys2Proof.Machine.execGetLog head primary input s
  | .getTimestamp head primary input => Sys2Proof.Machine.execGetTimestamp head primary input s
  | .setTimestamp head primary input => Sys2Proof.Machine.execSetTimestamp head primary input s
  | .getEventRecords head primary input => Sys2Proof.Machine.execGetEventRecords head primary input s
  | .clearEventRecords head primary input => Sys2Proof.Machine.execClearEventRecords head primary input s
  | .getEventInterruptPolicy head primary input => Sys2Proof.Machine.execGetEventInterruptPolicy head primary input s
  | .setEventInterruptPolicy head primary input => Sys2Proof.Machine.execSetEventInterruptPolicy head primary input s
  | .identifyMemoryDevice head primary input => Sys2Proof.Machine.execIdentifyMemoryDevice head primary input s
  | .getPartitionInfo head primary input => Sys2Proof.Machine.execGetPartitionInfo head primary input s
  | .getPoisonList head primary input => Sys2Proof.Machine.execGetPoisonList head primary input s
  | .injectPoison head primary input => Sys2Proof.Machine.execInjectPoison head primary input s
  | .clearPoison head primary input => Sys2Proof.Machine.execClearPoison head primary input s
  | .getDynamicCapacityConfiguration head primary input => Sys2Proof.Machine.execGetDynamicCapacityConfiguration head primary input s
  | .getDynamicCapacityExtentList head primary input => Sys2Proof.Machine.execGetDynamicCapacityExtentList head primary input s
  | .addDynamicCapacityResponse head primary input => Sys2Proof.Machine.execAddDynamicCapacityResponse head primary input s
  | .releaseDynamicCapacity head primary input => Sys2Proof.Machine.execReleaseDynamicCapacity head primary input s
  | .unsupportedCxlCommand head primary opcode => Sys2Proof.Machine.execUnsupportedCxlCommand head primary opcode s
  | .hearthFailureDetected => Sys2Proof.Machine.execHearthFailureDetected s
  | .hearthSwitchComplete => Sys2Proof.Machine.execHearthSwitchComplete s
  | .hearthLost => Sys2Proof.Machine.execHearthLost s
  | .hearthWarmUpEnd core pass => Sys2Proof.Machine.execHearthWarmUpEnd core pass s
  | .hearthSyncComplete core => Sys2Proof.Machine.execHearthSyncComplete core s
  | .mbxSubmit acc p => Sys2Proof.Machine.execMbxSubmit acc p s
  | .mbxSubmitIndirect acc p => Sys2Proof.Machine.execMbxSubmitIndirect acc p s
  | .mailboxTimeout p => Sys2Proof.Machine.execMailboxTimeout p s
  | .selUnit head size value => Sys2Proof.Machine.execSelUnit head size value s
  | .rcRegisterRead acc offset size => Sys2Proof.Machine.execRcRegisterRead acc offset size s
  | .registerWrite acc offset size value => Sys2Proof.Machine.execRegisterWrite acc offset size value s
  | .icsRequestPart arg => Sys2Proof.Machine.execIcsRequestPart arg s
  | .icsContinue arg => Sys2Proof.Machine.execIcsContinue arg s
  | .icsHeldPartsExpiry chan => Sys2Proof.Machine.execIcsHeldPartsExpiry chan s
  | .fmChallengeExpiry chan => Sys2Proof.Machine.execFmChallengeExpiry chan s
  | .i3cBusReset => Sys2Proof.Machine.execI3cBusReset s
  | .deviceInformation arg => Sys2Proof.Machine.execDeviceInformation arg s
  | .configRecordRead arg => Sys2Proof.Machine.execConfigRecordRead arg s
  | .certificateChainRead arg => Sys2Proof.Machine.execCertificateChainRead arg s
  | .partitionCreate arg => Sys2Proof.Machine.execPartitionCreate arg s
  | .partitionDestroy arg => Sys2Proof.Machine.execPartitionDestroy arg s
  | .partitionInformation arg => Sys2Proof.Machine.execPartitionInformation arg s
  | .partitionSpanSet arg => Sys2Proof.Machine.execPartitionSpanSet arg s
  | .memberSet arg => Sys2Proof.Machine.execMemberSet arg s
  | .coherenceSet arg => Sys2Proof.Machine.execCoherenceSet arg s
  | .contextRangeSet arg => Sys2Proof.Machine.execContextRangeSet arg s
  | .starterBind arg => Sys2Proof.Machine.execStarterBind arg s
  | .extentAdd arg => Sys2Proof.Machine.execExtentAdd arg s
  | .extentRelease arg => Sys2Proof.Machine.execExtentRelease arg s
  | .extentInformation arg => Sys2Proof.Machine.execExtentInformation arg s
  | .cxlRegionSet arg => Sys2Proof.Machine.execCxlRegionSet arg s
  | .cxlOffer arg => Sys2Proof.Machine.execCxlOffer arg s
  | .cxlWithdraw arg => Sys2Proof.Machine.execCxlWithdraw arg s
  | .dcTagSet arg => Sys2Proof.Machine.execDcTagSet arg s
  | .sealQuotaSet arg => Sys2Proof.Machine.execSealQuotaSet arg s
  | .sealCreate arg => Sys2Proof.Machine.execSealCreate arg s
  | .sealInformation arg => Sys2Proof.Machine.execSealInformation arg s
  | .sealMap arg => Sys2Proof.Machine.execSealMap arg s
  | .sealUnmap arg => Sys2Proof.Machine.execSealUnmap arg s
  | .sealRelease arg => Sys2Proof.Machine.execSealRelease arg s
  | .hintSet arg => Sys2Proof.Machine.execHintSet arg s
  | .hintList arg => Sys2Proof.Machine.execHintList arg s
  | .migrationBudgetSet arg => Sys2Proof.Machine.execMigrationBudgetSet arg s
  | .coordinateSet arg => Sys2Proof.Machine.execCoordinateSet arg s
  | .portNeighbourSet arg => Sys2Proof.Machine.execPortNeighbourSet arg s
  | .routeSet arg => Sys2Proof.Machine.execRouteSet arg s
  | .routeRead arg => Sys2Proof.Machine.execRouteRead arg s
  | .portSet arg => Sys2Proof.Machine.execPortSet arg s
  | .portRetrain arg => Sys2Proof.Machine.execPortRetrain arg s
  | .transitMaskSet arg => Sys2Proof.Machine.execTransitMaskSet arg s
  | .heatSyncSet arg => Sys2Proof.Machine.execHeatSyncSet arg s
  | .queueSet arg => Sys2Proof.Machine.execQueueSet arg s
  | .groupSet arg => Sys2Proof.Machine.execGroupSet arg s
  | .gateSet arg => Sys2Proof.Machine.execGateSet arg s
  | .weightSet arg => Sys2Proof.Machine.execWeightSet arg s
  | .shaperSet arg => Sys2Proof.Machine.execShaperSet arg s
  | .splitSet arg => Sys2Proof.Machine.execSplitSet arg s
  | .splitRead arg => Sys2Proof.Machine.execSplitRead arg s
  | .ageLimitSet arg => Sys2Proof.Machine.execAgeLimitSet arg s
  | .meltOpen arg => Sys2Proof.Machine.execMeltOpen arg s
  | .meltContributors arg => Sys2Proof.Machine.execMeltContributors arg s
  | .meltArm arg => Sys2Proof.Machine.execMeltArm arg s
  | .meltClose arg => Sys2Proof.Machine.execMeltClose arg s
  | .meltAbortStep arg => Sys2Proof.Machine.execMeltAbortStep arg s
  | .meltInformation arg => Sys2Proof.Machine.execMeltInformation arg s
  | .statusRingSet arg => Sys2Proof.Machine.execStatusRingSet arg s
  | .rosterSet arg => Sys2Proof.Machine.execRosterSet arg s
  | .rosterRead arg => Sys2Proof.Machine.execRosterRead arg s
  | .anvilStoreSet arg => Sys2Proof.Machine.execAnvilStoreSet arg s
  | .anvilStoreRelease arg => Sys2Proof.Machine.execAnvilStoreRelease arg s
  | .programLoad arg => Sys2Proof.Machine.execProgramLoad arg s
  | .programStart arg => Sys2Proof.Machine.execProgramStart arg s
  | .programStop arg => Sys2Proof.Machine.execProgramStop arg s
  | .tongsContextSet arg => Sys2Proof.Machine.execTongsContextSet arg s
  | .tongsContextReset arg => Sys2Proof.Machine.execTongsContextReset arg s
  | .tongsContextStatus arg => Sys2Proof.Machine.execTongsContextStatus arg s
  | .tongsResume arg => Sys2Proof.Machine.execTongsResume arg s
  | .tongsSpaceSet arg => Sys2Proof.Machine.execTongsSpaceSet arg s
  | .tongsSpaceFree arg => Sys2Proof.Machine.execTongsSpaceFree arg s
  | .tongsInvalidate arg => Sys2Proof.Machine.execTongsInvalidate arg s
  | .tongsPlaceSet arg => Sys2Proof.Machine.execTongsPlaceSet arg s
  | .faultQueueSet arg => Sys2Proof.Machine.execFaultQueueSet arg s
  | .powerLimitSet arg => Sys2Proof.Machine.execPowerLimitSet arg s
  | .phaseDeclare arg => Sys2Proof.Machine.execPhaseDeclare arg s
  | .phaseSet arg => Sys2Proof.Machine.execPhaseSet arg s
  | .dramPowerSet arg => Sys2Proof.Machine.execDramPowerSet arg s
  | .powerStatus arg => Sys2Proof.Machine.execPowerStatus arg s
  | .attestationReport arg => Sys2Proof.Machine.execAttestationReport arg s
  | .attestationRead arg => Sys2Proof.Machine.execAttestationRead arg s
  | .fmChallenge arg => Sys2Proof.Machine.execFmChallenge arg s
  | .fmBind arg => Sys2Proof.Machine.execFmBind arg s
  | .fmUnbind arg => Sys2Proof.Machine.execFmUnbind arg s
  | .debugUnlock arg => Sys2Proof.Machine.execDebugUnlock arg s
  | .debugLock arg => Sys2Proof.Machine.execDebugLock arg s
  | .memoryHealth arg => Sys2Proof.Machine.execMemoryHealth arg s
  | .scrubFloorSet arg => Sys2Proof.Machine.execScrubFloorSet arg s
  | .unitReturn arg => Sys2Proof.Machine.execUnitReturn arg s
  | .hearthReturn arg => Sys2Proof.Machine.execHearthReturn arg s
  | .hearthSwitch arg => Sys2Proof.Machine.execHearthSwitch arg s
  | .twinSet arg => Sys2Proof.Machine.execTwinSet arg s
  | .twinEpoch arg => Sys2Proof.Machine.execTwinEpoch arg s
  | .twinStatus arg => Sys2Proof.Machine.execTwinStatus arg s
  | .unitRead arg => Sys2Proof.Machine.execUnitRead arg s
  | .coherenceStatistics arg => Sys2Proof.Machine.execCoherenceStatistics arg s
  | .queueStatistics arg => Sys2Proof.Machine.execQueueStatistics arg s
  | .firmwareInfo arg => Sys2Proof.Machine.execFirmwareInfo arg s
  | .firmwareWrite arg => Sys2Proof.Machine.execFirmwareWrite arg s
  | .firmwareActivate arg => Sys2Proof.Machine.execFirmwareActivate arg s
  | .sourceFire source raiser => Sys2Proof.Machine.execSourceFire source raiser s
  | .claim acc target => Sys2Proof.Machine.execClaim acc target s
  | .complete acc target value => Sys2Proof.Machine.execComplete acc target value s
  | .srcCfg acc target value => Sys2Proof.Machine.execSrcCfg acc target value s
  | .sourceRelease acc target => Sys2Proof.Machine.execSourceRelease acc target s
  | .tgtCtrl acc target value => Sys2Proof.Machine.execTgtCtrl acc target value s
  | .delivery target => Sys2Proof.Machine.execDelivery target s
  | .redeliver target => Sys2Proof.Machine.execRedeliver target s
  | .msiXUnmask head access => Sys2Proof.Machine.execMsiXUnmask head access s
  | .droopDetect => Sys2Proof.Machine.execDroopDetect s
  | .droopStretchEnd ns => Sys2Proof.Machine.execDroopStretchEnd ns s
  | .avsReading coreMv coreAmps stkWatts estimate => Sys2Proof.Machine.execAvsReading coreMv coreAmps stkWatts estimate s
  | .avsReadingMissing => Sys2Proof.Machine.execAvsReadingMissing s
  | .sustainedBlockEnd => Sys2Proof.Machine.execSustainedBlockEnd s
  | .voltageAdjust up down => Sys2Proof.Machine.execVoltageAdjust up down s
  | .regulatorVoltageReport mv => Sys2Proof.Machine.execRegulatorVoltageReport mv s
  | .throttleHoldExpiry => Sys2Proof.Machine.execThrottleHoldExpiry s
  | .loadStepSlot => Sys2Proof.Machine.execLoadStepSlot s
  | .pwrBrakeNLow => Sys2Proof.Machine.execPwrBrakeNLow s
  | .coolantOkLow => Sys2Proof.Machine.execCoolantOkLow s
  | .coolantStopCclkStep => Sys2Proof.Machine.execCoolantStopCclkStep s
  | .coolantStopLinkIdle => Sys2Proof.Machine.execCoolantStopLinkIdle s
  | .coolantStopSelfRefresh => Sys2Proof.Machine.execCoolantStopSelfRefresh s
  | .thermtrip => Sys2Proof.Machine.execThermtrip s
  | .drbgReseed => Sys2Proof.Machine.execDrbgReseed s
  | .drbgHealthFailure => Sys2Proof.Machine.execDrbgHealthFailure s
  | .scrubKeyReplace => Sys2Proof.Machine.execScrubKeyReplace s
  | .pwrokRise sysRstN coolantOk => Sys2Proof.Machine.execPwrokRise sysRstN coolantOk s
  | .pwrokFall => Sys2Proof.Machine.execPwrokFall s
  | .sysRstNLow => Sys2Proof.Machine.execSysRstNLow s
  | .warmResetFlushComplete => Sys2Proof.Machine.execWarmResetFlushComplete s
  | .sysRstNRise coolantOk => Sys2Proof.Machine.execSysRstNRise coolantOk s
  | .romStart secret => Sys2Proof.Machine.execRomStart secret s
  | .floorRecord vendor kind firmware config => Sys2Proof.Machine.execFloorRecord vendor kind firmware config s
  | .floorWaitExpiry => Sys2Proof.Machine.execFloorWaitExpiry s
  | .romChecksComplete => Sys2Proof.Machine.execRomChecksComplete s
  | .sramSelfTestComplete core0 core1 => Sys2Proof.Machine.execSramSelfTestComplete core0 core1 s
  | .memoryTrainingComplete hbm ddr => Sys2Proof.Machine.execMemoryTrainingComplete hbm ddr s
  | .memoryInitialisationComplete anvils crucibles engines => Sys2Proof.Machine.execMemoryInitialisationComplete anvils crucibles engines s
  | .bootResume => Sys2Proof.Machine.execBootResume s
  | .heartbeat port cell => Sys2Proof.Machine.execHeartbeat port cell s
  | .lostHeats => Sys2Proof.Machine.execLostHeats s
  | .takeoverEnd => Sys2Proof.Machine.execTakeoverEnd s
  | .undoRestoreUnitComplete forge => Sys2Proof.Machine.execUndoRestoreUnitComplete forge s
  | .twinMemWr port t => Sys2Proof.Machine.execTwinMemWr port t s
  | .epochBegin port cell => Sys2Proof.Machine.execEpochBegin port cell s
  | .epochDone port cell => Sys2Proof.Machine.execEpochDone port cell s
  | .resyncComplete => Sys2Proof.Machine.execResyncComplete s
  | .unitBoundary port nowNs => Sys2Proof.Machine.execUnitBoundary port nowNs s
  | .outputVcRelease port vc => Sys2Proof.Machine.execOutputVcRelease port vc s
  | .tableStream c => Sys2Proof.Machine.execTableStream c s
  | .standbyFailureDetected => Sys2Proof.Machine.execStandbyFailureDetected s
  | .cxlLinkTrainingComplete head width rate => Sys2Proof.Machine.execCxlLinkTrainingComplete head width rate s
  | .reservedInstruction anvil word => Sys2Proof.Machine.execReservedInstruction anvil word s
  | .reservedIcsOpcode arg => Sys2Proof.Machine.execReservedIcsOpcode arg s
  | .reservedDescriptorType ctx => Sys2Proof.Machine.execReservedDescriptorType ctx s
  | .flashProgrammed => Sys2Proof.Machine.execFlashProgrammed s
  | .activationVerified => Sys2Proof.Machine.execActivationVerified s
  | .reportSigned chan => Sys2Proof.Machine.execReportSigned chan s
  | .measurementAppended p slot => Sys2Proof.Machine.execMeasurementAppended p slot s
  | .failedUnitRetrainComplete unit pass => Sys2Proof.Machine.execFailedUnitRetrainComplete unit pass s
  | .batonOutRelease => Sys2Proof.Machine.execBatonOutRelease s

end Sys2Proof.Machine
end

