-- ==== Sys2Proof/Laws/Tables.lean ====
section
/-! SUPPORT. The sparse tables: what a reader finds after a writer. -/

namespace Sys2Proof.Machine

theorem tfind_tins_same {α : Type} (t : Tab α) (k : Nat) (v : α) : tfind (tins t k v) k = some v := by
  induction t with
  | nil => simp [tins, tfind]
  | cons p r ih =>
    obtain ⟨i, w⟩ := p
    unfold tins
    split
    · simp [tfind]
    · split
      · simp [tfind]
      · next h => simp [tfind, ih, Ne.symm h]

theorem tfind_tins_ne {α : Type} (t : Tab α) (k j : Nat) (v : α) (h : j ≠ k) : tfind (tins t k v) j = tfind t j := by
  induction t with
  | nil => simp [tins, tfind, Ne.symm h]
  | cons p r ih =>
    obtain ⟨i, w⟩ := p
    unfold tins
    split
    · simp [tfind, Ne.symm h]
    · split
      · next e => subst e; simp [tfind, Ne.symm h]
      · simp [tfind, ih]

theorem tget_tins {α : Type} (d : α) (t : Tab α) (k j : Nat) (v : α) : tget d (tins t k v) j = if j = k then v else tget d t j := by
  unfold tget
  split
  · next h => subst h; simp [tfind_tins_same]
  · next h => rw [tfind_tins_ne t k j v h]

theorem tget_tmod {α : Type} (d : α) (t : Tab α) (k j : Nat) (f : α → α) :
    tget d (tmod d t k f) j = if j = k then f (tget d t k) else tget d t j := tget_tins d t k j _

theorem tfind_tdel_same {α : Type} (t : Tab α) (k : Nat) : tfind (tdel t k) k = none := by
  induction t with
  | nil => rfl
  | cons p r ih =>
    obtain ⟨i, w⟩ := p
    unfold tdel at *
    by_cases h : i = k
    · simpa [h] using ih
    · simpa [h, tfind] using ih

theorem tfind_tdel_ne {α : Type} (t : Tab α) (k j : Nat) (h : j ≠ k) : tfind (tdel t k) j = tfind t j := by
  induction t with
  | nil => rfl
  | cons p r ih =>
    obtain ⟨i, w⟩ := p
    unfold tdel at *
    by_cases e : i = k
    · subst e; simpa [tfind, Ne.symm h] using ih
    · simp [e, tfind, ih]

theorem tget_tset {α : Type} [DecidableEq α] (d : α) (t : Tab α) (k j : Nat) (v : α) :
    tget d (tset d t k v) j = if j = k then v else tget d t j := by
  unfold tset
  split
  · next h =>
    subst h
    unfold tget
    split
    · next e => subst e; simp [tfind_tdel_same]
    · next e => rw [tfind_tdel_ne t k j e]
  · exact tget_tins d t k j v

/-- An entry of a table whose every entry was changed. -/
theorem tfind_tmap {α : Type} (t : Tab α) (f : Nat → α → α) (k : Nat) : tfind (tmap t f) k = (tfind t k).map (f k) := by
  induction t with
  | nil => rfl
  | cons p r ih =>
    obtain ⟨i, v⟩ := p
    show tfind ((i, f i v) :: tmap r f) k = _
    unfold tfind
    split
    · next h => subst h; rfl
    · exact ih

end Sys2Proof.Machine
end

