-- ==== Sys2Proof/Laws/Lanes.lean ====
section
/-! SUPPORT. The lanes of a vector: what a lane of a built vector, and of a masked write, reads. -/

namespace Sys2Proof.Machine

/-- The number that a list of lanes spells, least significant lane first. -/
theorem lanes_value (l : List Half) (i : Nat) (h : i < l.length) :
    l.foldr (fun x v => v * 2 ^ 32 + x.toNat) 0 / 2 ^ (32 * i) % 2 ^ 32 = (l[i]).toNat := by
  induction l generalizing i with
  | nil => simp at h
  | cons x r ih =>
    have hx : x.toNat < 2 ^ 32 := x.isLt
    cases i with
    | zero => simp only [List.foldr_cons, Nat.mul_zero, Nat.pow_zero, Nat.div_one, List.getElem_cons_zero]; omega
    | succ k =>
      have hk : k < r.length := by simpa using h
      have e : (2 : Nat) ^ (32 * (k + 1)) = 2 ^ 32 * 2 ^ (32 * k) := by rw [← Nat.pow_add]; congr 1; ring
      have d : ∀ v : Nat, (v * 2 ^ 32 + x.toNat) / 2 ^ 32 = v := fun v => by omega
      rw [List.foldr_cons, e, ← Nat.div_div_eq_div_mul, List.getElem_cons_succ, ← ih k hk, d]

theorem lanes_value_lt (l : List Half) : l.foldr (fun x v => v * 2 ^ 32 + x.toNat) 0 < 2 ^ (32 * l.length) := by
  induction l with
  | nil => simp
  | cons x r ih =>
    have hx : x.toNat < 2 ^ 32 := x.isLt
    have e : (2 : Nat) ^ (32 * (r.length + 1)) = 2 ^ 32 * 2 ^ (32 * r.length) := by rw [← Nat.pow_add]; congr 1; ring
    rw [List.foldr_cons, List.length_cons, e]
    nlinarith

set_option exponentiation.threshold 4096 in
/-- A lane of a vector built from 64 lanes. -/
theorem lane_ofLanes (l : List Half) (h : l.length = 64) (i : Nat) (hi : i < l.length) : lane (ofLanes l) i = l[i] := by
  have hb := lanes_value_lt l
  rw [h, show 32 * 64 = 2048 from rfl] at hb
  apply BitVec.eq_of_toNat_eq
  unfold lane ofLanes bits
  rw [BitVec.toNat_ofNat, BitVec.toNat_ofNat, Nat.mod_eq_of_lt (a := l.foldr _ 0) hb, Nat.mod_mod, lanes_value l i hi]

/-- A lane of a vector built lane by lane. -/
theorem lane_mkLanes (f : Nat → Half) (i : Nat) (h : i < 64) : lane (mkLanes f) i = f i := by
  unfold mkLanes
  rw [lane_ofLanes _ (by simp) i (by simpa using h)]
  simp

/-- A masked write leaves a lane as it was unless its mask bit is set. -/
theorem lane_masked (mask : Word) (old new : BitVec 2048) (i : Nat) (h : i < 64) :
    lane (masked mask old new) i = if mask.getLsbD i then lane new i else lane old i := by
  unfold masked; rw [lane_mkLanes _ i h]

/-! ### Masks and runs of writes -/

/-- Setting a bit sets that bit. -/
theorem testBit_setBit (m i j : Nat) : (setBit m i true).testBit j = (m.testBit j || decide (j = i)) := by
  unfold setBit bit
  simp only [if_true]
  by_cases h : (m / 2 ^ i) % 2 = 1
  · have hb : m.testBit i = true := by rw [Nat.testBit_eq_decide_div_mod_eq]; simpa using h
    rw [h, if_pos (by rfl)]
    by_cases e : j = i
    · subst e; simp [hb]
    · simp [e]
  · have h0 : (m / 2 ^ i) % 2 = 0 := by omega
    have hb : m.testBit i = false := by rw [Nat.testBit_eq_decide_div_mod_eq]; simpa using h
    rw [h0, if_neg (by decide), Nat.add_comm]
    rcases Nat.lt_trichotomy j i with l | e | g
    · rw [Nat.testBit_two_pow_add_gt l]; simp [Nat.ne_of_lt l]
    · subst e; rw [Nat.testBit_two_pow_add_eq]; simp [hb]
    · have key : (2 ^ i + m) / 2 ^ (i + 1) = m / 2 ^ (i + 1) := by
        rw [Nat.pow_succ, ← Nat.div_div_eq_div_mul, ← Nat.div_div_eq_div_mul, Nat.add_div_left _ (Nat.two_pow_pos i)]
        omega
      obtain ⟨k, rfl⟩ : ∃ k, j = (i + 1) + k := ⟨j - (i + 1), by omega⟩
      have : ∀ x : Nat, x.testBit (i + 1 + k) = (x / 2 ^ (i + 1)).testBit k := by
        intro x; rw [Nat.testBit_div_two_pow]; congr 1; omega
      rw [this, key, ← this]; simp; omega

/-- A mask holds the bits of its list. -/
theorem testBit_maskOf (l : List Nat) (j : Nat) : (maskOf l).testBit j = decide (j ∈ l) := by
  have : ∀ (l : List Nat) (m : Nat), (l.foldl (fun m i => setBit m i true) m).testBit j = (m.testBit j || decide (j ∈ l)) := by
    intro l
    induction l with
    | nil => simp
    | cons x r ih =>
      intro m
      rw [List.foldl_cons, ih, testBit_setBit]
      by_cases h : j = x <;> simp [h]
  unfold maskOf; rw [this]; simp

theorem maskOf_bit (l : List Nat) (j : Nat) (h : j < 64) : (BitVec.ofNat 64 (maskOf l)).getLsbD j = decide (j ∈ l) := by
  rw [BitVec.getLsbD_ofNat, testBit_maskOf]; simp [h]

/-- A run of writes into a table at distinct places: each place reads its own. -/
theorem tget_foldl_tset {α β : Type} [DecidableEq α] (d : α) (c : β → Bool) (k : β → Nat) (v : β → α) (l : List β) (t : Tab α) (j : Nat) :
    tget d (l.foldl (fun u b => if c b then tset d u (k b) (v b) else u) t) j =
      match l.reverse.find? (fun b => c b && k b == j) with | some b => v b | none => tget d t j := by
  induction l generalizing t with
  | nil => rfl
  | cons x r ih =>
    rw [List.foldl_cons, ih, List.reverse_cons, List.find?_append]
    cases r.reverse.find? (fun b => c b && k b == j) with
    | some b => rfl
    | none =>
      simp only [Option.none_or, List.find?_cons, List.find?_nil]
      by_cases hc : c x
      · simp only [hc, if_true, Bool.true_and]
        rw [tget_tset]
        by_cases e : j = k x
        · simp [e]
        · have : (k x == j) = false := by simpa using Ne.symm e
          simp [this, e]
      · simp [hc]

end Sys2Proof.Machine
end

