-- ==== Sys2Proof/Laws/State.lean ====
section
/-! SUPPORT. The fields of the state after each of the named writers: what a writer does not write stays, and what a reader
reads after it. Proofs rewrite with these and never unfold a record update. -/

namespace Sys2Proof.Machine


/-! ### modPart -/

@[simp] theorem State.modPart_pending (s : State) (k : Nat) (f : Partition → Partition) : (s.modPart k f).pending = s.pending := rfl
@[simp] theorem State.modPart_pins (s : State) (k : Nat) (f : Partition → Partition) : (s.modPart k f).pins = s.pins := rfl
@[simp] theorem State.modPart_boot (s : State) (k : Nat) (f : Partition → Partition) : (s.modPart k f).boot = s.boot := rfl
@[simp] theorem State.modPart_heat (s : State) (k : Nat) (f : Partition → Partition) : (s.modPart k f).heat = s.heat := rfl
@[simp] theorem State.modPart_hearth (s : State) (k : Nat) (f : Partition → Partition) : (s.modPart k f).hearth = s.hearth := rfl
@[simp] theorem State.modPart_starter (s : State) (k : Nat) (f : Partition → Partition) : (s.modPart k f).starter = s.starter := rfl
@[simp] theorem State.modPart_tiers (s : State) (k : Nat) (f : Partition → Partition) : (s.modPart k f).tiers = s.tiers := rfl
@[simp] theorem State.modPart_dram (s : State) (k : Nat) (f : Partition → Partition) : (s.modPart k f).dram = s.dram := rfl
@[simp] theorem State.modPart_crucibles (s : State) (k : Nat) (f : Partition → Partition) : (s.modPart k f).crucibles = s.crucibles := rfl
@[simp] theorem State.modPart_anvils (s : State) (k : Nat) (f : Partition → Partition) : (s.modPart k f).anvils = s.anvils := rfl
@[simp] theorem State.modPart_tongs (s : State) (k : Nat) (f : Partition → Partition) : (s.modPart k f).tongs = s.tongs := rfl
@[simp] theorem State.modPart_coh (s : State) (k : Nat) (f : Partition → Partition) : (s.modPart k f).coh = s.coh := rfl
@[simp] theorem State.modPart_ports (s : State) (k : Nat) (f : Partition → Partition) : (s.modPart k f).ports = s.ports := rfl
@[simp] theorem State.modPart_routing (s : State) (k : Nat) (f : Partition → Partition) : (s.modPart k f).routing = s.routing := rfl
@[simp] theorem State.modPart_cxl (s : State) (k : Nat) (f : Partition → Partition) : (s.modPart k f).cxl = s.cxl := rfl
@[simp] theorem State.modPart_sec (s : State) (k : Nat) (f : Partition → Partition) : (s.modPart k f).sec = s.sec := rfl
@[simp] theorem State.modPart_bellows (s : State) (k : Nat) (f : Partition → Partition) : (s.modPart k f).bellows = s.bellows := rfl
@[simp] theorem State.modPart_twin (s : State) (k : Nat) (f : Partition → Partition) : (s.modPart k f).twin = s.twin := rfl
@[simp] theorem State.modPart_free (s : State) (k : Nat) (f : Partition → Partition) : (s.modPart k f).free = s.free := rfl
theorem State.part_modPart (s : State) (k j : Nat) (f : Partition → Partition) : (s.modPart k f).part j = if j = k then f (s.part k) else s.part j :=
  tget_tmod _ _ _ _ _
@[simp] theorem State.part_modPart_same (s : State) (k : Nat) (f : Partition → Partition) : (s.modPart k f).part k = f (s.part k) := by simp [State.part_modPart]
@[simp] theorem State.ext_modPart (s : State) (k j : Nat) (f : Partition → Partition) : (s.modPart k f).ext j = s.ext j := rfl
@[simp] theorem State.seal_modPart (s : State) (k j : Nat) (f : Partition → Partition) : (s.modPart k f).seal j = s.seal j := rfl
@[simp] theorem State.forge_modPart (s : State) (k j : Nat) (f : Partition → Partition) : (s.modPart k f).forge j = s.forge j := rfl
@[simp] theorem State.tag_modPart (s : State) (k j : Nat) (f : Partition → Partition) : (s.modPart k f).tag j = s.tag j := rfl
@[simp] theorem State.stack_modPart (s : State) (k j : Nat) (f : Partition → Partition) : (s.modPart k f).stack j = s.stack j := rfl
@[simp] theorem State.bulkCh_modPart (s : State) (k j : Nat) (f : Partition → Partition) : (s.modPart k f).bulkCh j = s.bulkCh j := rfl
@[simp] theorem State.unit_modPart (s : State) (k j : Nat) (f : Partition → Partition) : (s.modPart k f).unit j = s.unit j := rfl
@[simp] theorem State.queue_modPart (s : State) (k j : Nat) (f : Partition → Partition) : (s.modPart k f).queue j = s.queue j := rfl
@[simp] theorem State.walker_modPart (s : State) (k j : Nat) (f : Partition → Partition) : (s.modPart k f).walker j = s.walker j := rfl
@[simp] theorem State.background_modPart (s : State) (k j : Nat) (f : Partition → Partition) : (s.modPart k f).background j = s.background j := rfl
@[simp] theorem State.melt_modPart (s : State) (k j : Nat) (f : Partition → Partition) : (s.modPart k f).melt j = s.melt j := rfl
@[simp] theorem State.anvil_modPart (s : State) (k j : Nat) (f : Partition → Partition) : (s.modPart k f).anvil j = s.anvil j := rfl
@[simp] theorem State.ctx_modPart (s : State) (k j : Nat) (f : Partition → Partition) : (s.modPart k f).ctx j = s.ctx j := rfl
@[simp] theorem State.port_modPart (s : State) (k j : Nat) (f : Partition → Partition) : (s.modPart k f).port j = s.port j := rfl
@[simp] theorem State.egress_modPart (s : State) (k j : Nat) (f : Partition → Partition) : (s.modPart k f).egress j = s.egress j := rfl
@[simp] theorem State.head_modPart (s : State) (k j : Nat) (f : Partition → Partition) : (s.modPart k f).head j = s.head j := rfl
@[simp] theorem State.page_modPart (s : State) (k j : Nat) (f : Partition → Partition) : (s.modPart k f).page j = s.page j := rfl
@[simp] theorem State.source_modPart (s : State) (k j : Nat) (f : Partition → Partition) : (s.modPart k f).source j = s.source j := rfl
@[simp] theorem State.target_modPart (s : State) (k j : Nat) (f : Partition → Partition) : (s.modPart k f).target j = s.target j := rfl
@[simp] theorem State.reason_modPart (s : State) (k j : Nat) (f : Partition → Partition) : (s.modPart k f).reason j = s.reason j := rfl
@[simp] theorem State.epoch_modPart (s : State) (k j : Nat) (f : Partition → Partition) : (s.modPart k f).epoch j = s.epoch j := rfl

/-! ### modExt -/

@[simp] theorem State.modExt_pending (s : State) (k : Nat) (f : Extent → Extent) : (s.modExt k f).pending = s.pending := rfl
@[simp] theorem State.modExt_pins (s : State) (k : Nat) (f : Extent → Extent) : (s.modExt k f).pins = s.pins := rfl
@[simp] theorem State.modExt_boot (s : State) (k : Nat) (f : Extent → Extent) : (s.modExt k f).boot = s.boot := rfl
@[simp] theorem State.modExt_heat (s : State) (k : Nat) (f : Extent → Extent) : (s.modExt k f).heat = s.heat := rfl
@[simp] theorem State.modExt_hearth (s : State) (k : Nat) (f : Extent → Extent) : (s.modExt k f).hearth = s.hearth := rfl
@[simp] theorem State.modExt_starter (s : State) (k : Nat) (f : Extent → Extent) : (s.modExt k f).starter = s.starter := rfl
@[simp] theorem State.modExt_tiers (s : State) (k : Nat) (f : Extent → Extent) : (s.modExt k f).tiers = s.tiers := rfl
@[simp] theorem State.modExt_dram (s : State) (k : Nat) (f : Extent → Extent) : (s.modExt k f).dram = s.dram := rfl
@[simp] theorem State.modExt_crucibles (s : State) (k : Nat) (f : Extent → Extent) : (s.modExt k f).crucibles = s.crucibles := rfl
@[simp] theorem State.modExt_anvils (s : State) (k : Nat) (f : Extent → Extent) : (s.modExt k f).anvils = s.anvils := rfl
@[simp] theorem State.modExt_tongs (s : State) (k : Nat) (f : Extent → Extent) : (s.modExt k f).tongs = s.tongs := rfl
@[simp] theorem State.modExt_coh (s : State) (k : Nat) (f : Extent → Extent) : (s.modExt k f).coh = s.coh := rfl
@[simp] theorem State.modExt_ports (s : State) (k : Nat) (f : Extent → Extent) : (s.modExt k f).ports = s.ports := rfl
@[simp] theorem State.modExt_routing (s : State) (k : Nat) (f : Extent → Extent) : (s.modExt k f).routing = s.routing := rfl
@[simp] theorem State.modExt_cxl (s : State) (k : Nat) (f : Extent → Extent) : (s.modExt k f).cxl = s.cxl := rfl
@[simp] theorem State.modExt_sec (s : State) (k : Nat) (f : Extent → Extent) : (s.modExt k f).sec = s.sec := rfl
@[simp] theorem State.modExt_bellows (s : State) (k : Nat) (f : Extent → Extent) : (s.modExt k f).bellows = s.bellows := rfl
@[simp] theorem State.modExt_twin (s : State) (k : Nat) (f : Extent → Extent) : (s.modExt k f).twin = s.twin := rfl
@[simp] theorem State.modExt_free (s : State) (k : Nat) (f : Extent → Extent) : (s.modExt k f).free = s.free := rfl
theorem State.ext_modExt (s : State) (k j : Nat) (f : Extent → Extent) : (s.modExt k f).ext j = if j = k then f (s.ext k) else s.ext j :=
  tget_tmod _ _ _ _ _
@[simp] theorem State.ext_modExt_same (s : State) (k : Nat) (f : Extent → Extent) : (s.modExt k f).ext k = f (s.ext k) := by simp [State.ext_modExt]
@[simp] theorem State.part_modExt (s : State) (k j : Nat) (f : Extent → Extent) : (s.modExt k f).part j = s.part j := rfl
@[simp] theorem State.seal_modExt (s : State) (k j : Nat) (f : Extent → Extent) : (s.modExt k f).seal j = s.seal j := rfl
@[simp] theorem State.forge_modExt (s : State) (k j : Nat) (f : Extent → Extent) : (s.modExt k f).forge j = s.forge j := rfl
@[simp] theorem State.tag_modExt (s : State) (k j : Nat) (f : Extent → Extent) : (s.modExt k f).tag j = s.tag j := rfl
@[simp] theorem State.stack_modExt (s : State) (k j : Nat) (f : Extent → Extent) : (s.modExt k f).stack j = s.stack j := rfl
@[simp] theorem State.bulkCh_modExt (s : State) (k j : Nat) (f : Extent → Extent) : (s.modExt k f).bulkCh j = s.bulkCh j := rfl
@[simp] theorem State.unit_modExt (s : State) (k j : Nat) (f : Extent → Extent) : (s.modExt k f).unit j = s.unit j := rfl
@[simp] theorem State.queue_modExt (s : State) (k j : Nat) (f : Extent → Extent) : (s.modExt k f).queue j = s.queue j := rfl
@[simp] theorem State.walker_modExt (s : State) (k j : Nat) (f : Extent → Extent) : (s.modExt k f).walker j = s.walker j := rfl
@[simp] theorem State.background_modExt (s : State) (k j : Nat) (f : Extent → Extent) : (s.modExt k f).background j = s.background j := rfl
@[simp] theorem State.melt_modExt (s : State) (k j : Nat) (f : Extent → Extent) : (s.modExt k f).melt j = s.melt j := rfl
@[simp] theorem State.anvil_modExt (s : State) (k j : Nat) (f : Extent → Extent) : (s.modExt k f).anvil j = s.anvil j := rfl
@[simp] theorem State.ctx_modExt (s : State) (k j : Nat) (f : Extent → Extent) : (s.modExt k f).ctx j = s.ctx j := rfl
@[simp] theorem State.port_modExt (s : State) (k j : Nat) (f : Extent → Extent) : (s.modExt k f).port j = s.port j := rfl
@[simp] theorem State.egress_modExt (s : State) (k j : Nat) (f : Extent → Extent) : (s.modExt k f).egress j = s.egress j := rfl
@[simp] theorem State.head_modExt (s : State) (k j : Nat) (f : Extent → Extent) : (s.modExt k f).head j = s.head j := rfl
@[simp] theorem State.page_modExt (s : State) (k j : Nat) (f : Extent → Extent) : (s.modExt k f).page j = s.page j := rfl
@[simp] theorem State.source_modExt (s : State) (k j : Nat) (f : Extent → Extent) : (s.modExt k f).source j = s.source j := rfl
@[simp] theorem State.target_modExt (s : State) (k j : Nat) (f : Extent → Extent) : (s.modExt k f).target j = s.target j := rfl
@[simp] theorem State.reason_modExt (s : State) (k j : Nat) (f : Extent → Extent) : (s.modExt k f).reason j = s.reason j := rfl
@[simp] theorem State.epoch_modExt (s : State) (k j : Nat) (f : Extent → Extent) : (s.modExt k f).epoch j = s.epoch j := rfl

/-! ### modSeal -/

@[simp] theorem State.modSeal_pending (s : State) (k : Nat) (f : Seal → Seal) : (s.modSeal k f).pending = s.pending := rfl
@[simp] theorem State.modSeal_pins (s : State) (k : Nat) (f : Seal → Seal) : (s.modSeal k f).pins = s.pins := rfl
@[simp] theorem State.modSeal_boot (s : State) (k : Nat) (f : Seal → Seal) : (s.modSeal k f).boot = s.boot := rfl
@[simp] theorem State.modSeal_heat (s : State) (k : Nat) (f : Seal → Seal) : (s.modSeal k f).heat = s.heat := rfl
@[simp] theorem State.modSeal_hearth (s : State) (k : Nat) (f : Seal → Seal) : (s.modSeal k f).hearth = s.hearth := rfl
@[simp] theorem State.modSeal_starter (s : State) (k : Nat) (f : Seal → Seal) : (s.modSeal k f).starter = s.starter := rfl
@[simp] theorem State.modSeal_tiers (s : State) (k : Nat) (f : Seal → Seal) : (s.modSeal k f).tiers = s.tiers := rfl
@[simp] theorem State.modSeal_dram (s : State) (k : Nat) (f : Seal → Seal) : (s.modSeal k f).dram = s.dram := rfl
@[simp] theorem State.modSeal_crucibles (s : State) (k : Nat) (f : Seal → Seal) : (s.modSeal k f).crucibles = s.crucibles := rfl
@[simp] theorem State.modSeal_anvils (s : State) (k : Nat) (f : Seal → Seal) : (s.modSeal k f).anvils = s.anvils := rfl
@[simp] theorem State.modSeal_tongs (s : State) (k : Nat) (f : Seal → Seal) : (s.modSeal k f).tongs = s.tongs := rfl
@[simp] theorem State.modSeal_coh (s : State) (k : Nat) (f : Seal → Seal) : (s.modSeal k f).coh = s.coh := rfl
@[simp] theorem State.modSeal_ports (s : State) (k : Nat) (f : Seal → Seal) : (s.modSeal k f).ports = s.ports := rfl
@[simp] theorem State.modSeal_routing (s : State) (k : Nat) (f : Seal → Seal) : (s.modSeal k f).routing = s.routing := rfl
@[simp] theorem State.modSeal_cxl (s : State) (k : Nat) (f : Seal → Seal) : (s.modSeal k f).cxl = s.cxl := rfl
@[simp] theorem State.modSeal_sec (s : State) (k : Nat) (f : Seal → Seal) : (s.modSeal k f).sec = s.sec := rfl
@[simp] theorem State.modSeal_bellows (s : State) (k : Nat) (f : Seal → Seal) : (s.modSeal k f).bellows = s.bellows := rfl
@[simp] theorem State.modSeal_twin (s : State) (k : Nat) (f : Seal → Seal) : (s.modSeal k f).twin = s.twin := rfl
@[simp] theorem State.modSeal_free (s : State) (k : Nat) (f : Seal → Seal) : (s.modSeal k f).free = s.free := rfl
theorem State.seal_modSeal (s : State) (k j : Nat) (f : Seal → Seal) : (s.modSeal k f).seal j = if j = k then f (s.seal k) else s.seal j :=
  tget_tmod _ _ _ _ _
@[simp] theorem State.seal_modSeal_same (s : State) (k : Nat) (f : Seal → Seal) : (s.modSeal k f).seal k = f (s.seal k) := by simp [State.seal_modSeal]
@[simp] theorem State.part_modSeal (s : State) (k j : Nat) (f : Seal → Seal) : (s.modSeal k f).part j = s.part j := rfl
@[simp] theorem State.ext_modSeal (s : State) (k j : Nat) (f : Seal → Seal) : (s.modSeal k f).ext j = s.ext j := rfl
@[simp] theorem State.forge_modSeal (s : State) (k j : Nat) (f : Seal → Seal) : (s.modSeal k f).forge j = s.forge j := rfl
@[simp] theorem State.tag_modSeal (s : State) (k j : Nat) (f : Seal → Seal) : (s.modSeal k f).tag j = s.tag j := rfl
@[simp] theorem State.stack_modSeal (s : State) (k j : Nat) (f : Seal → Seal) : (s.modSeal k f).stack j = s.stack j := rfl
@[simp] theorem State.bulkCh_modSeal (s : State) (k j : Nat) (f : Seal → Seal) : (s.modSeal k f).bulkCh j = s.bulkCh j := rfl
@[simp] theorem State.unit_modSeal (s : State) (k j : Nat) (f : Seal → Seal) : (s.modSeal k f).unit j = s.unit j := rfl
@[simp] theorem State.queue_modSeal (s : State) (k j : Nat) (f : Seal → Seal) : (s.modSeal k f).queue j = s.queue j := rfl
@[simp] theorem State.walker_modSeal (s : State) (k j : Nat) (f : Seal → Seal) : (s.modSeal k f).walker j = s.walker j := rfl
@[simp] theorem State.background_modSeal (s : State) (k j : Nat) (f : Seal → Seal) : (s.modSeal k f).background j = s.background j := rfl
@[simp] theorem State.melt_modSeal (s : State) (k j : Nat) (f : Seal → Seal) : (s.modSeal k f).melt j = s.melt j := rfl
@[simp] theorem State.anvil_modSeal (s : State) (k j : Nat) (f : Seal → Seal) : (s.modSeal k f).anvil j = s.anvil j := rfl
@[simp] theorem State.ctx_modSeal (s : State) (k j : Nat) (f : Seal → Seal) : (s.modSeal k f).ctx j = s.ctx j := rfl
@[simp] theorem State.port_modSeal (s : State) (k j : Nat) (f : Seal → Seal) : (s.modSeal k f).port j = s.port j := rfl
@[simp] theorem State.egress_modSeal (s : State) (k j : Nat) (f : Seal → Seal) : (s.modSeal k f).egress j = s.egress j := rfl
@[simp] theorem State.head_modSeal (s : State) (k j : Nat) (f : Seal → Seal) : (s.modSeal k f).head j = s.head j := rfl
@[simp] theorem State.page_modSeal (s : State) (k j : Nat) (f : Seal → Seal) : (s.modSeal k f).page j = s.page j := rfl
@[simp] theorem State.source_modSeal (s : State) (k j : Nat) (f : Seal → Seal) : (s.modSeal k f).source j = s.source j := rfl
@[simp] theorem State.target_modSeal (s : State) (k j : Nat) (f : Seal → Seal) : (s.modSeal k f).target j = s.target j := rfl
@[simp] theorem State.reason_modSeal (s : State) (k j : Nat) (f : Seal → Seal) : (s.modSeal k f).reason j = s.reason j := rfl
@[simp] theorem State.epoch_modSeal (s : State) (k j : Nat) (f : Seal → Seal) : (s.modSeal k f).epoch j = s.epoch j := rfl

/-! ### modForge -/

@[simp] theorem State.modForge_pending (s : State) (k : Nat) (f : Forge → Forge) : (s.modForge k f).pending = s.pending := rfl
@[simp] theorem State.modForge_pins (s : State) (k : Nat) (f : Forge → Forge) : (s.modForge k f).pins = s.pins := rfl
@[simp] theorem State.modForge_boot (s : State) (k : Nat) (f : Forge → Forge) : (s.modForge k f).boot = s.boot := rfl
@[simp] theorem State.modForge_heat (s : State) (k : Nat) (f : Forge → Forge) : (s.modForge k f).heat = s.heat := rfl
@[simp] theorem State.modForge_hearth (s : State) (k : Nat) (f : Forge → Forge) : (s.modForge k f).hearth = s.hearth := rfl
@[simp] theorem State.modForge_starter (s : State) (k : Nat) (f : Forge → Forge) : (s.modForge k f).starter = s.starter := rfl
@[simp] theorem State.modForge_parts (s : State) (k : Nat) (f : Forge → Forge) : (s.modForge k f).parts = s.parts := rfl
@[simp] theorem State.modForge_dram (s : State) (k : Nat) (f : Forge → Forge) : (s.modForge k f).dram = s.dram := rfl
@[simp] theorem State.modForge_crucibles (s : State) (k : Nat) (f : Forge → Forge) : (s.modForge k f).crucibles = s.crucibles := rfl
@[simp] theorem State.modForge_anvils (s : State) (k : Nat) (f : Forge → Forge) : (s.modForge k f).anvils = s.anvils := rfl
@[simp] theorem State.modForge_tongs (s : State) (k : Nat) (f : Forge → Forge) : (s.modForge k f).tongs = s.tongs := rfl
@[simp] theorem State.modForge_coh (s : State) (k : Nat) (f : Forge → Forge) : (s.modForge k f).coh = s.coh := rfl
@[simp] theorem State.modForge_ports (s : State) (k : Nat) (f : Forge → Forge) : (s.modForge k f).ports = s.ports := rfl
@[simp] theorem State.modForge_routing (s : State) (k : Nat) (f : Forge → Forge) : (s.modForge k f).routing = s.routing := rfl
@[simp] theorem State.modForge_cxl (s : State) (k : Nat) (f : Forge → Forge) : (s.modForge k f).cxl = s.cxl := rfl
@[simp] theorem State.modForge_sec (s : State) (k : Nat) (f : Forge → Forge) : (s.modForge k f).sec = s.sec := rfl
@[simp] theorem State.modForge_bellows (s : State) (k : Nat) (f : Forge → Forge) : (s.modForge k f).bellows = s.bellows := rfl
@[simp] theorem State.modForge_twin (s : State) (k : Nat) (f : Forge → Forge) : (s.modForge k f).twin = s.twin := rfl
@[simp] theorem State.modForge_free (s : State) (k : Nat) (f : Forge → Forge) : (s.modForge k f).free = s.free := rfl
theorem State.forge_modForge (s : State) (k j : Nat) (f : Forge → Forge) : (s.modForge k f).forge j = if j = k then f (s.forge k) else s.forge j :=
  tget_tmod _ _ _ _ _
@[simp] theorem State.forge_modForge_same (s : State) (k : Nat) (f : Forge → Forge) : (s.modForge k f).forge k = f (s.forge k) := by simp [State.forge_modForge]
@[simp] theorem State.part_modForge (s : State) (k j : Nat) (f : Forge → Forge) : (s.modForge k f).part j = s.part j := rfl
@[simp] theorem State.ext_modForge (s : State) (k j : Nat) (f : Forge → Forge) : (s.modForge k f).ext j = s.ext j := rfl
@[simp] theorem State.seal_modForge (s : State) (k j : Nat) (f : Forge → Forge) : (s.modForge k f).seal j = s.seal j := rfl
@[simp] theorem State.tag_modForge (s : State) (k j : Nat) (f : Forge → Forge) : (s.modForge k f).tag j = s.tag j := rfl
@[simp] theorem State.stack_modForge (s : State) (k j : Nat) (f : Forge → Forge) : (s.modForge k f).stack j = s.stack j := rfl
@[simp] theorem State.bulkCh_modForge (s : State) (k j : Nat) (f : Forge → Forge) : (s.modForge k f).bulkCh j = s.bulkCh j := rfl
@[simp] theorem State.unit_modForge (s : State) (k j : Nat) (f : Forge → Forge) : (s.modForge k f).unit j = s.unit j := rfl
@[simp] theorem State.queue_modForge (s : State) (k j : Nat) (f : Forge → Forge) : (s.modForge k f).queue j = s.queue j := rfl
@[simp] theorem State.walker_modForge (s : State) (k j : Nat) (f : Forge → Forge) : (s.modForge k f).walker j = s.walker j := rfl
@[simp] theorem State.background_modForge (s : State) (k j : Nat) (f : Forge → Forge) : (s.modForge k f).background j = s.background j := rfl
@[simp] theorem State.melt_modForge (s : State) (k j : Nat) (f : Forge → Forge) : (s.modForge k f).melt j = s.melt j := rfl
@[simp] theorem State.anvil_modForge (s : State) (k j : Nat) (f : Forge → Forge) : (s.modForge k f).anvil j = s.anvil j := rfl
@[simp] theorem State.ctx_modForge (s : State) (k j : Nat) (f : Forge → Forge) : (s.modForge k f).ctx j = s.ctx j := rfl
@[simp] theorem State.port_modForge (s : State) (k j : Nat) (f : Forge → Forge) : (s.modForge k f).port j = s.port j := rfl
@[simp] theorem State.egress_modForge (s : State) (k j : Nat) (f : Forge → Forge) : (s.modForge k f).egress j = s.egress j := rfl
@[simp] theorem State.head_modForge (s : State) (k j : Nat) (f : Forge → Forge) : (s.modForge k f).head j = s.head j := rfl
@[simp] theorem State.page_modForge (s : State) (k j : Nat) (f : Forge → Forge) : (s.modForge k f).page j = s.page j := rfl
@[simp] theorem State.source_modForge (s : State) (k j : Nat) (f : Forge → Forge) : (s.modForge k f).source j = s.source j := rfl
@[simp] theorem State.target_modForge (s : State) (k j : Nat) (f : Forge → Forge) : (s.modForge k f).target j = s.target j := rfl
@[simp] theorem State.reason_modForge (s : State) (k j : Nat) (f : Forge → Forge) : (s.modForge k f).reason j = s.reason j := rfl
@[simp] theorem State.epoch_modForge (s : State) (k j : Nat) (f : Forge → Forge) : (s.modForge k f).epoch j = s.epoch j := rfl

/-! ### modTag -/

@[simp] theorem State.modTag_pending (s : State) (k : Nat) (f : SegTag → SegTag) : (s.modTag k f).pending = s.pending := rfl
@[simp] theorem State.modTag_pins (s : State) (k : Nat) (f : SegTag → SegTag) : (s.modTag k f).pins = s.pins := rfl
@[simp] theorem State.modTag_boot (s : State) (k : Nat) (f : SegTag → SegTag) : (s.modTag k f).boot = s.boot := rfl
@[simp] theorem State.modTag_heat (s : State) (k : Nat) (f : SegTag → SegTag) : (s.modTag k f).heat = s.heat := rfl
@[simp] theorem State.modTag_hearth (s : State) (k : Nat) (f : SegTag → SegTag) : (s.modTag k f).hearth = s.hearth := rfl
@[simp] theorem State.modTag_starter (s : State) (k : Nat) (f : SegTag → SegTag) : (s.modTag k f).starter = s.starter := rfl
@[simp] theorem State.modTag_parts (s : State) (k : Nat) (f : SegTag → SegTag) : (s.modTag k f).parts = s.parts := rfl
@[simp] theorem State.modTag_dram (s : State) (k : Nat) (f : SegTag → SegTag) : (s.modTag k f).dram = s.dram := rfl
@[simp] theorem State.modTag_crucibles (s : State) (k : Nat) (f : SegTag → SegTag) : (s.modTag k f).crucibles = s.crucibles := rfl
@[simp] theorem State.modTag_anvils (s : State) (k : Nat) (f : SegTag → SegTag) : (s.modTag k f).anvils = s.anvils := rfl
@[simp] theorem State.modTag_tongs (s : State) (k : Nat) (f : SegTag → SegTag) : (s.modTag k f).tongs = s.tongs := rfl
@[simp] theorem State.modTag_coh (s : State) (k : Nat) (f : SegTag → SegTag) : (s.modTag k f).coh = s.coh := rfl
@[simp] theorem State.modTag_ports (s : State) (k : Nat) (f : SegTag → SegTag) : (s.modTag k f).ports = s.ports := rfl
@[simp] theorem State.modTag_routing (s : State) (k : Nat) (f : SegTag → SegTag) : (s.modTag k f).routing = s.routing := rfl
@[simp] theorem State.modTag_cxl (s : State) (k : Nat) (f : SegTag → SegTag) : (s.modTag k f).cxl = s.cxl := rfl
@[simp] theorem State.modTag_sec (s : State) (k : Nat) (f : SegTag → SegTag) : (s.modTag k f).sec = s.sec := rfl
@[simp] theorem State.modTag_bellows (s : State) (k : Nat) (f : SegTag → SegTag) : (s.modTag k f).bellows = s.bellows := rfl
@[simp] theorem State.modTag_twin (s : State) (k : Nat) (f : SegTag → SegTag) : (s.modTag k f).twin = s.twin := rfl
@[simp] theorem State.modTag_free (s : State) (k : Nat) (f : SegTag → SegTag) : (s.modTag k f).free = s.free := rfl
theorem State.tag_modTag (s : State) (k j : Nat) (f : SegTag → SegTag) : (s.modTag k f).tag j = if j = k then f (s.tag k) else s.tag j :=
  tget_tmod _ _ _ _ _
@[simp] theorem State.tag_modTag_same (s : State) (k : Nat) (f : SegTag → SegTag) : (s.modTag k f).tag k = f (s.tag k) := by simp [State.tag_modTag]
@[simp] theorem State.part_modTag (s : State) (k j : Nat) (f : SegTag → SegTag) : (s.modTag k f).part j = s.part j := rfl
@[simp] theorem State.ext_modTag (s : State) (k j : Nat) (f : SegTag → SegTag) : (s.modTag k f).ext j = s.ext j := rfl
@[simp] theorem State.seal_modTag (s : State) (k j : Nat) (f : SegTag → SegTag) : (s.modTag k f).seal j = s.seal j := rfl
@[simp] theorem State.forge_modTag (s : State) (k j : Nat) (f : SegTag → SegTag) : (s.modTag k f).forge j = s.forge j := rfl
@[simp] theorem State.stack_modTag (s : State) (k j : Nat) (f : SegTag → SegTag) : (s.modTag k f).stack j = s.stack j := rfl
@[simp] theorem State.bulkCh_modTag (s : State) (k j : Nat) (f : SegTag → SegTag) : (s.modTag k f).bulkCh j = s.bulkCh j := rfl
@[simp] theorem State.unit_modTag (s : State) (k j : Nat) (f : SegTag → SegTag) : (s.modTag k f).unit j = s.unit j := rfl
@[simp] theorem State.queue_modTag (s : State) (k j : Nat) (f : SegTag → SegTag) : (s.modTag k f).queue j = s.queue j := rfl
@[simp] theorem State.walker_modTag (s : State) (k j : Nat) (f : SegTag → SegTag) : (s.modTag k f).walker j = s.walker j := rfl
@[simp] theorem State.background_modTag (s : State) (k j : Nat) (f : SegTag → SegTag) : (s.modTag k f).background j = s.background j := rfl
@[simp] theorem State.melt_modTag (s : State) (k j : Nat) (f : SegTag → SegTag) : (s.modTag k f).melt j = s.melt j := rfl
@[simp] theorem State.anvil_modTag (s : State) (k j : Nat) (f : SegTag → SegTag) : (s.modTag k f).anvil j = s.anvil j := rfl
@[simp] theorem State.ctx_modTag (s : State) (k j : Nat) (f : SegTag → SegTag) : (s.modTag k f).ctx j = s.ctx j := rfl
@[simp] theorem State.port_modTag (s : State) (k j : Nat) (f : SegTag → SegTag) : (s.modTag k f).port j = s.port j := rfl
@[simp] theorem State.egress_modTag (s : State) (k j : Nat) (f : SegTag → SegTag) : (s.modTag k f).egress j = s.egress j := rfl
@[simp] theorem State.head_modTag (s : State) (k j : Nat) (f : SegTag → SegTag) : (s.modTag k f).head j = s.head j := rfl
@[simp] theorem State.page_modTag (s : State) (k j : Nat) (f : SegTag → SegTag) : (s.modTag k f).page j = s.page j := rfl
@[simp] theorem State.source_modTag (s : State) (k j : Nat) (f : SegTag → SegTag) : (s.modTag k f).source j = s.source j := rfl
@[simp] theorem State.target_modTag (s : State) (k j : Nat) (f : SegTag → SegTag) : (s.modTag k f).target j = s.target j := rfl
@[simp] theorem State.reason_modTag (s : State) (k j : Nat) (f : SegTag → SegTag) : (s.modTag k f).reason j = s.reason j := rfl
@[simp] theorem State.epoch_modTag (s : State) (k j : Nat) (f : SegTag → SegTag) : (s.modTag k f).epoch j = s.epoch j := rfl

/-! ### modStack -/

@[simp] theorem State.modStack_pending (s : State) (k : Nat) (f : Stack → Stack) : (s.modStack k f).pending = s.pending := rfl
@[simp] theorem State.modStack_pins (s : State) (k : Nat) (f : Stack → Stack) : (s.modStack k f).pins = s.pins := rfl
@[simp] theorem State.modStack_boot (s : State) (k : Nat) (f : Stack → Stack) : (s.modStack k f).boot = s.boot := rfl
@[simp] theorem State.modStack_heat (s : State) (k : Nat) (f : Stack → Stack) : (s.modStack k f).heat = s.heat := rfl
@[simp] theorem State.modStack_hearth (s : State) (k : Nat) (f : Stack → Stack) : (s.modStack k f).hearth = s.hearth := rfl
@[simp] theorem State.modStack_starter (s : State) (k : Nat) (f : Stack → Stack) : (s.modStack k f).starter = s.starter := rfl
@[simp] theorem State.modStack_parts (s : State) (k : Nat) (f : Stack → Stack) : (s.modStack k f).parts = s.parts := rfl
@[simp] theorem State.modStack_tiers (s : State) (k : Nat) (f : Stack → Stack) : (s.modStack k f).tiers = s.tiers := rfl
@[simp] theorem State.modStack_crucibles (s : State) (k : Nat) (f : Stack → Stack) : (s.modStack k f).crucibles = s.crucibles := rfl
@[simp] theorem State.modStack_anvils (s : State) (k : Nat) (f : Stack → Stack) : (s.modStack k f).anvils = s.anvils := rfl
@[simp] theorem State.modStack_tongs (s : State) (k : Nat) (f : Stack → Stack) : (s.modStack k f).tongs = s.tongs := rfl
@[simp] theorem State.modStack_coh (s : State) (k : Nat) (f : Stack → Stack) : (s.modStack k f).coh = s.coh := rfl
@[simp] theorem State.modStack_ports (s : State) (k : Nat) (f : Stack → Stack) : (s.modStack k f).ports = s.ports := rfl
@[simp] theorem State.modStack_routing (s : State) (k : Nat) (f : Stack → Stack) : (s.modStack k f).routing = s.routing := rfl
@[simp] theorem State.modStack_cxl (s : State) (k : Nat) (f : Stack → Stack) : (s.modStack k f).cxl = s.cxl := rfl
@[simp] theorem State.modStack_sec (s : State) (k : Nat) (f : Stack → Stack) : (s.modStack k f).sec = s.sec := rfl
@[simp] theorem State.modStack_bellows (s : State) (k : Nat) (f : Stack → Stack) : (s.modStack k f).bellows = s.bellows := rfl
@[simp] theorem State.modStack_twin (s : State) (k : Nat) (f : Stack → Stack) : (s.modStack k f).twin = s.twin := rfl
@[simp] theorem State.modStack_free (s : State) (k : Nat) (f : Stack → Stack) : (s.modStack k f).free = s.free := rfl
theorem State.stack_modStack (s : State) (k j : Nat) (f : Stack → Stack) : (s.modStack k f).stack j = if j = k then f (s.stack k) else s.stack j :=
  tget_tmod _ _ _ _ _
@[simp] theorem State.stack_modStack_same (s : State) (k : Nat) (f : Stack → Stack) : (s.modStack k f).stack k = f (s.stack k) := by simp [State.stack_modStack]
@[simp] theorem State.part_modStack (s : State) (k j : Nat) (f : Stack → Stack) : (s.modStack k f).part j = s.part j := rfl
@[simp] theorem State.ext_modStack (s : State) (k j : Nat) (f : Stack → Stack) : (s.modStack k f).ext j = s.ext j := rfl
@[simp] theorem State.seal_modStack (s : State) (k j : Nat) (f : Stack → Stack) : (s.modStack k f).seal j = s.seal j := rfl
@[simp] theorem State.forge_modStack (s : State) (k j : Nat) (f : Stack → Stack) : (s.modStack k f).forge j = s.forge j := rfl
@[simp] theorem State.tag_modStack (s : State) (k j : Nat) (f : Stack → Stack) : (s.modStack k f).tag j = s.tag j := rfl
@[simp] theorem State.bulkCh_modStack (s : State) (k j : Nat) (f : Stack → Stack) : (s.modStack k f).bulkCh j = s.bulkCh j := rfl
@[simp] theorem State.unit_modStack (s : State) (k j : Nat) (f : Stack → Stack) : (s.modStack k f).unit j = s.unit j := rfl
@[simp] theorem State.queue_modStack (s : State) (k j : Nat) (f : Stack → Stack) : (s.modStack k f).queue j = s.queue j := rfl
@[simp] theorem State.walker_modStack (s : State) (k j : Nat) (f : Stack → Stack) : (s.modStack k f).walker j = s.walker j := rfl
@[simp] theorem State.background_modStack (s : State) (k j : Nat) (f : Stack → Stack) : (s.modStack k f).background j = s.background j := rfl
@[simp] theorem State.melt_modStack (s : State) (k j : Nat) (f : Stack → Stack) : (s.modStack k f).melt j = s.melt j := rfl
@[simp] theorem State.anvil_modStack (s : State) (k j : Nat) (f : Stack → Stack) : (s.modStack k f).anvil j = s.anvil j := rfl
@[simp] theorem State.ctx_modStack (s : State) (k j : Nat) (f : Stack → Stack) : (s.modStack k f).ctx j = s.ctx j := rfl
@[simp] theorem State.port_modStack (s : State) (k j : Nat) (f : Stack → Stack) : (s.modStack k f).port j = s.port j := rfl
@[simp] theorem State.egress_modStack (s : State) (k j : Nat) (f : Stack → Stack) : (s.modStack k f).egress j = s.egress j := rfl
@[simp] theorem State.head_modStack (s : State) (k j : Nat) (f : Stack → Stack) : (s.modStack k f).head j = s.head j := rfl
@[simp] theorem State.page_modStack (s : State) (k j : Nat) (f : Stack → Stack) : (s.modStack k f).page j = s.page j := rfl
@[simp] theorem State.source_modStack (s : State) (k j : Nat) (f : Stack → Stack) : (s.modStack k f).source j = s.source j := rfl
@[simp] theorem State.target_modStack (s : State) (k j : Nat) (f : Stack → Stack) : (s.modStack k f).target j = s.target j := rfl
@[simp] theorem State.reason_modStack (s : State) (k j : Nat) (f : Stack → Stack) : (s.modStack k f).reason j = s.reason j := rfl
@[simp] theorem State.epoch_modStack (s : State) (k j : Nat) (f : Stack → Stack) : (s.modStack k f).epoch j = s.epoch j := rfl

/-! ### modBulk -/

@[simp] theorem State.modBulk_pending (s : State) (k : Nat) (f : BulkChannel → BulkChannel) : (s.modBulk k f).pending = s.pending := rfl
@[simp] theorem State.modBulk_pins (s : State) (k : Nat) (f : BulkChannel → BulkChannel) : (s.modBulk k f).pins = s.pins := rfl
@[simp] theorem State.modBulk_boot (s : State) (k : Nat) (f : BulkChannel → BulkChannel) : (s.modBulk k f).boot = s.boot := rfl
@[simp] theorem State.modBulk_heat (s : State) (k : Nat) (f : BulkChannel → BulkChannel) : (s.modBulk k f).heat = s.heat := rfl
@[simp] theorem State.modBulk_hearth (s : State) (k : Nat) (f : BulkChannel → BulkChannel) : (s.modBulk k f).hearth = s.hearth := rfl
@[simp] theorem State.modBulk_starter (s : State) (k : Nat) (f : BulkChannel → BulkChannel) : (s.modBulk k f).starter = s.starter := rfl
@[simp] theorem State.modBulk_parts (s : State) (k : Nat) (f : BulkChannel → BulkChannel) : (s.modBulk k f).parts = s.parts := rfl
@[simp] theorem State.modBulk_tiers (s : State) (k : Nat) (f : BulkChannel → BulkChannel) : (s.modBulk k f).tiers = s.tiers := rfl
@[simp] theorem State.modBulk_crucibles (s : State) (k : Nat) (f : BulkChannel → BulkChannel) : (s.modBulk k f).crucibles = s.crucibles := rfl
@[simp] theorem State.modBulk_anvils (s : State) (k : Nat) (f : BulkChannel → BulkChannel) : (s.modBulk k f).anvils = s.anvils := rfl
@[simp] theorem State.modBulk_tongs (s : State) (k : Nat) (f : BulkChannel → BulkChannel) : (s.modBulk k f).tongs = s.tongs := rfl
@[simp] theorem State.modBulk_coh (s : State) (k : Nat) (f : BulkChannel → BulkChannel) : (s.modBulk k f).coh = s.coh := rfl
@[simp] theorem State.modBulk_ports (s : State) (k : Nat) (f : BulkChannel → BulkChannel) : (s.modBulk k f).ports = s.ports := rfl
@[simp] theorem State.modBulk_routing (s : State) (k : Nat) (f : BulkChannel → BulkChannel) : (s.modBulk k f).routing = s.routing := rfl
@[simp] theorem State.modBulk_cxl (s : State) (k : Nat) (f : BulkChannel → BulkChannel) : (s.modBulk k f).cxl = s.cxl := rfl
@[simp] theorem State.modBulk_sec (s : State) (k : Nat) (f : BulkChannel → BulkChannel) : (s.modBulk k f).sec = s.sec := rfl
@[simp] theorem State.modBulk_bellows (s : State) (k : Nat) (f : BulkChannel → BulkChannel) : (s.modBulk k f).bellows = s.bellows := rfl
@[simp] theorem State.modBulk_twin (s : State) (k : Nat) (f : BulkChannel → BulkChannel) : (s.modBulk k f).twin = s.twin := rfl
@[simp] theorem State.modBulk_free (s : State) (k : Nat) (f : BulkChannel → BulkChannel) : (s.modBulk k f).free = s.free := rfl
theorem State.bulkCh_modBulk (s : State) (k j : Nat) (f : BulkChannel → BulkChannel) : (s.modBulk k f).bulkCh j = if j = k then f (s.bulkCh k) else s.bulkCh j :=
  tget_tmod _ _ _ _ _
@[simp] theorem State.bulkCh_modBulk_same (s : State) (k : Nat) (f : BulkChannel → BulkChannel) : (s.modBulk k f).bulkCh k = f (s.bulkCh k) := by simp [State.bulkCh_modBulk]
@[simp] theorem State.part_modBulk (s : State) (k j : Nat) (f : BulkChannel → BulkChannel) : (s.modBulk k f).part j = s.part j := rfl
@[simp] theorem State.ext_modBulk (s : State) (k j : Nat) (f : BulkChannel → BulkChannel) : (s.modBulk k f).ext j = s.ext j := rfl
@[simp] theorem State.seal_modBulk (s : State) (k j : Nat) (f : BulkChannel → BulkChannel) : (s.modBulk k f).seal j = s.seal j := rfl
@[simp] theorem State.forge_modBulk (s : State) (k j : Nat) (f : BulkChannel → BulkChannel) : (s.modBulk k f).forge j = s.forge j := rfl
@[simp] theorem State.tag_modBulk (s : State) (k j : Nat) (f : BulkChannel → BulkChannel) : (s.modBulk k f).tag j = s.tag j := rfl
@[simp] theorem State.stack_modBulk (s : State) (k j : Nat) (f : BulkChannel → BulkChannel) : (s.modBulk k f).stack j = s.stack j := rfl
@[simp] theorem State.unit_modBulk (s : State) (k j : Nat) (f : BulkChannel → BulkChannel) : (s.modBulk k f).unit j = s.unit j := rfl
@[simp] theorem State.queue_modBulk (s : State) (k j : Nat) (f : BulkChannel → BulkChannel) : (s.modBulk k f).queue j = s.queue j := rfl
@[simp] theorem State.walker_modBulk (s : State) (k j : Nat) (f : BulkChannel → BulkChannel) : (s.modBulk k f).walker j = s.walker j := rfl
@[simp] theorem State.background_modBulk (s : State) (k j : Nat) (f : BulkChannel → BulkChannel) : (s.modBulk k f).background j = s.background j := rfl
@[simp] theorem State.melt_modBulk (s : State) (k j : Nat) (f : BulkChannel → BulkChannel) : (s.modBulk k f).melt j = s.melt j := rfl
@[simp] theorem State.anvil_modBulk (s : State) (k j : Nat) (f : BulkChannel → BulkChannel) : (s.modBulk k f).anvil j = s.anvil j := rfl
@[simp] theorem State.ctx_modBulk (s : State) (k j : Nat) (f : BulkChannel → BulkChannel) : (s.modBulk k f).ctx j = s.ctx j := rfl
@[simp] theorem State.port_modBulk (s : State) (k j : Nat) (f : BulkChannel → BulkChannel) : (s.modBulk k f).port j = s.port j := rfl
@[simp] theorem State.egress_modBulk (s : State) (k j : Nat) (f : BulkChannel → BulkChannel) : (s.modBulk k f).egress j = s.egress j := rfl
@[simp] theorem State.head_modBulk (s : State) (k j : Nat) (f : BulkChannel → BulkChannel) : (s.modBulk k f).head j = s.head j := rfl
@[simp] theorem State.page_modBulk (s : State) (k j : Nat) (f : BulkChannel → BulkChannel) : (s.modBulk k f).page j = s.page j := rfl
@[simp] theorem State.source_modBulk (s : State) (k j : Nat) (f : BulkChannel → BulkChannel) : (s.modBulk k f).source j = s.source j := rfl
@[simp] theorem State.target_modBulk (s : State) (k j : Nat) (f : BulkChannel → BulkChannel) : (s.modBulk k f).target j = s.target j := rfl
@[simp] theorem State.reason_modBulk (s : State) (k j : Nat) (f : BulkChannel → BulkChannel) : (s.modBulk k f).reason j = s.reason j := rfl
@[simp] theorem State.epoch_modBulk (s : State) (k j : Nat) (f : BulkChannel → BulkChannel) : (s.modBulk k f).epoch j = s.epoch j := rfl

/-! ### modUnit -/

@[simp] theorem State.modUnit_pending (s : State) (k : Nat) (f : ServiceUnit → ServiceUnit) : (s.modUnit k f).pending = s.pending := rfl
@[simp] theorem State.modUnit_pins (s : State) (k : Nat) (f : ServiceUnit → ServiceUnit) : (s.modUnit k f).pins = s.pins := rfl
@[simp] theorem State.modUnit_boot (s : State) (k : Nat) (f : ServiceUnit → ServiceUnit) : (s.modUnit k f).boot = s.boot := rfl
@[simp] theorem State.modUnit_heat (s : State) (k : Nat) (f : ServiceUnit → ServiceUnit) : (s.modUnit k f).heat = s.heat := rfl
@[simp] theorem State.modUnit_hearth (s : State) (k : Nat) (f : ServiceUnit → ServiceUnit) : (s.modUnit k f).hearth = s.hearth := rfl
@[simp] theorem State.modUnit_starter (s : State) (k : Nat) (f : ServiceUnit → ServiceUnit) : (s.modUnit k f).starter = s.starter := rfl
@[simp] theorem State.modUnit_parts (s : State) (k : Nat) (f : ServiceUnit → ServiceUnit) : (s.modUnit k f).parts = s.parts := rfl
@[simp] theorem State.modUnit_tiers (s : State) (k : Nat) (f : ServiceUnit → ServiceUnit) : (s.modUnit k f).tiers = s.tiers := rfl
@[simp] theorem State.modUnit_crucibles (s : State) (k : Nat) (f : ServiceUnit → ServiceUnit) : (s.modUnit k f).crucibles = s.crucibles := rfl
@[simp] theorem State.modUnit_anvils (s : State) (k : Nat) (f : ServiceUnit → ServiceUnit) : (s.modUnit k f).anvils = s.anvils := rfl
@[simp] theorem State.modUnit_tongs (s : State) (k : Nat) (f : ServiceUnit → ServiceUnit) : (s.modUnit k f).tongs = s.tongs := rfl
@[simp] theorem State.modUnit_coh (s : State) (k : Nat) (f : ServiceUnit → ServiceUnit) : (s.modUnit k f).coh = s.coh := rfl
@[simp] theorem State.modUnit_ports (s : State) (k : Nat) (f : ServiceUnit → ServiceUnit) : (s.modUnit k f).ports = s.ports := rfl
@[simp] theorem State.modUnit_routing (s : State) (k : Nat) (f : ServiceUnit → ServiceUnit) : (s.modUnit k f).routing = s.routing := rfl
@[simp] theorem State.modUnit_cxl (s : State) (k : Nat) (f : ServiceUnit → ServiceUnit) : (s.modUnit k f).cxl = s.cxl := rfl
@[simp] theorem State.modUnit_sec (s : State) (k : Nat) (f : ServiceUnit → ServiceUnit) : (s.modUnit k f).sec = s.sec := rfl
@[simp] theorem State.modUnit_bellows (s : State) (k : Nat) (f : ServiceUnit → ServiceUnit) : (s.modUnit k f).bellows = s.bellows := rfl
@[simp] theorem State.modUnit_twin (s : State) (k : Nat) (f : ServiceUnit → ServiceUnit) : (s.modUnit k f).twin = s.twin := rfl
@[simp] theorem State.modUnit_free (s : State) (k : Nat) (f : ServiceUnit → ServiceUnit) : (s.modUnit k f).free = s.free := rfl
theorem State.unit_modUnit (s : State) (k j : Nat) (f : ServiceUnit → ServiceUnit) : (s.modUnit k f).unit j = if j = k then f (s.unit k) else s.unit j :=
  tget_tmod _ _ _ _ _
@[simp] theorem State.unit_modUnit_same (s : State) (k : Nat) (f : ServiceUnit → ServiceUnit) : (s.modUnit k f).unit k = f (s.unit k) := by simp [State.unit_modUnit]
@[simp] theorem State.part_modUnit (s : State) (k j : Nat) (f : ServiceUnit → ServiceUnit) : (s.modUnit k f).part j = s.part j := rfl
@[simp] theorem State.ext_modUnit (s : State) (k j : Nat) (f : ServiceUnit → ServiceUnit) : (s.modUnit k f).ext j = s.ext j := rfl
@[simp] theorem State.seal_modUnit (s : State) (k j : Nat) (f : ServiceUnit → ServiceUnit) : (s.modUnit k f).seal j = s.seal j := rfl
@[simp] theorem State.forge_modUnit (s : State) (k j : Nat) (f : ServiceUnit → ServiceUnit) : (s.modUnit k f).forge j = s.forge j := rfl
@[simp] theorem State.tag_modUnit (s : State) (k j : Nat) (f : ServiceUnit → ServiceUnit) : (s.modUnit k f).tag j = s.tag j := rfl
@[simp] theorem State.stack_modUnit (s : State) (k j : Nat) (f : ServiceUnit → ServiceUnit) : (s.modUnit k f).stack j = s.stack j := rfl
@[simp] theorem State.bulkCh_modUnit (s : State) (k j : Nat) (f : ServiceUnit → ServiceUnit) : (s.modUnit k f).bulkCh j = s.bulkCh j := rfl
@[simp] theorem State.queue_modUnit (s : State) (k j : Nat) (f : ServiceUnit → ServiceUnit) : (s.modUnit k f).queue j = s.queue j := rfl
@[simp] theorem State.walker_modUnit (s : State) (k j : Nat) (f : ServiceUnit → ServiceUnit) : (s.modUnit k f).walker j = s.walker j := rfl
@[simp] theorem State.background_modUnit (s : State) (k j : Nat) (f : ServiceUnit → ServiceUnit) : (s.modUnit k f).background j = s.background j := rfl
@[simp] theorem State.melt_modUnit (s : State) (k j : Nat) (f : ServiceUnit → ServiceUnit) : (s.modUnit k f).melt j = s.melt j := rfl
@[simp] theorem State.anvil_modUnit (s : State) (k j : Nat) (f : ServiceUnit → ServiceUnit) : (s.modUnit k f).anvil j = s.anvil j := rfl
@[simp] theorem State.ctx_modUnit (s : State) (k j : Nat) (f : ServiceUnit → ServiceUnit) : (s.modUnit k f).ctx j = s.ctx j := rfl
@[simp] theorem State.port_modUnit (s : State) (k j : Nat) (f : ServiceUnit → ServiceUnit) : (s.modUnit k f).port j = s.port j := rfl
@[simp] theorem State.egress_modUnit (s : State) (k j : Nat) (f : ServiceUnit → ServiceUnit) : (s.modUnit k f).egress j = s.egress j := rfl
@[simp] theorem State.head_modUnit (s : State) (k j : Nat) (f : ServiceUnit → ServiceUnit) : (s.modUnit k f).head j = s.head j := rfl
@[simp] theorem State.page_modUnit (s : State) (k j : Nat) (f : ServiceUnit → ServiceUnit) : (s.modUnit k f).page j = s.page j := rfl
@[simp] theorem State.source_modUnit (s : State) (k j : Nat) (f : ServiceUnit → ServiceUnit) : (s.modUnit k f).source j = s.source j := rfl
@[simp] theorem State.target_modUnit (s : State) (k j : Nat) (f : ServiceUnit → ServiceUnit) : (s.modUnit k f).target j = s.target j := rfl
@[simp] theorem State.reason_modUnit (s : State) (k j : Nat) (f : ServiceUnit → ServiceUnit) : (s.modUnit k f).reason j = s.reason j := rfl
@[simp] theorem State.epoch_modUnit (s : State) (k j : Nat) (f : ServiceUnit → ServiceUnit) : (s.modUnit k f).epoch j = s.epoch j := rfl

/-! ### modQueue -/

@[simp] theorem State.modQueue_pending (s : State) (k : Nat) (f : DramQueue → DramQueue) : (s.modQueue k f).pending = s.pending := rfl
@[simp] theorem State.modQueue_pins (s : State) (k : Nat) (f : DramQueue → DramQueue) : (s.modQueue k f).pins = s.pins := rfl
@[simp] theorem State.modQueue_boot (s : State) (k : Nat) (f : DramQueue → DramQueue) : (s.modQueue k f).boot = s.boot := rfl
@[simp] theorem State.modQueue_heat (s : State) (k : Nat) (f : DramQueue → DramQueue) : (s.modQueue k f).heat = s.heat := rfl
@[simp] theorem State.modQueue_hearth (s : State) (k : Nat) (f : DramQueue → DramQueue) : (s.modQueue k f).hearth = s.hearth := rfl
@[simp] theorem State.modQueue_starter (s : State) (k : Nat) (f : DramQueue → DramQueue) : (s.modQueue k f).starter = s.starter := rfl
@[simp] theorem State.modQueue_parts (s : State) (k : Nat) (f : DramQueue → DramQueue) : (s.modQueue k f).parts = s.parts := rfl
@[simp] theorem State.modQueue_tiers (s : State) (k : Nat) (f : DramQueue → DramQueue) : (s.modQueue k f).tiers = s.tiers := rfl
@[simp] theorem State.modQueue_crucibles (s : State) (k : Nat) (f : DramQueue → DramQueue) : (s.modQueue k f).crucibles = s.crucibles := rfl
@[simp] theorem State.modQueue_anvils (s : State) (k : Nat) (f : DramQueue → DramQueue) : (s.modQueue k f).anvils = s.anvils := rfl
@[simp] theorem State.modQueue_tongs (s : State) (k : Nat) (f : DramQueue → DramQueue) : (s.modQueue k f).tongs = s.tongs := rfl
@[simp] theorem State.modQueue_coh (s : State) (k : Nat) (f : DramQueue → DramQueue) : (s.modQueue k f).coh = s.coh := rfl
@[simp] theorem State.modQueue_ports (s : State) (k : Nat) (f : DramQueue → DramQueue) : (s.modQueue k f).ports = s.ports := rfl
@[simp] theorem State.modQueue_routing (s : State) (k : Nat) (f : DramQueue → DramQueue) : (s.modQueue k f).routing = s.routing := rfl
@[simp] theorem State.modQueue_cxl (s : State) (k : Nat) (f : DramQueue → DramQueue) : (s.modQueue k f).cxl = s.cxl := rfl
@[simp] theorem State.modQueue_sec (s : State) (k : Nat) (f : DramQueue → DramQueue) : (s.modQueue k f).sec = s.sec := rfl
@[simp] theorem State.modQueue_bellows (s : State) (k : Nat) (f : DramQueue → DramQueue) : (s.modQueue k f).bellows = s.bellows := rfl
@[simp] theorem State.modQueue_twin (s : State) (k : Nat) (f : DramQueue → DramQueue) : (s.modQueue k f).twin = s.twin := rfl
@[simp] theorem State.modQueue_free (s : State) (k : Nat) (f : DramQueue → DramQueue) : (s.modQueue k f).free = s.free := rfl
theorem State.queue_modQueue (s : State) (k j : Nat) (f : DramQueue → DramQueue) : (s.modQueue k f).queue j = if j = k then f (s.queue k) else s.queue j :=
  tget_tmod _ _ _ _ _
@[simp] theorem State.queue_modQueue_same (s : State) (k : Nat) (f : DramQueue → DramQueue) : (s.modQueue k f).queue k = f (s.queue k) := by simp [State.queue_modQueue]
@[simp] theorem State.part_modQueue (s : State) (k j : Nat) (f : DramQueue → DramQueue) : (s.modQueue k f).part j = s.part j := rfl
@[simp] theorem State.ext_modQueue (s : State) (k j : Nat) (f : DramQueue → DramQueue) : (s.modQueue k f).ext j = s.ext j := rfl
@[simp] theorem State.seal_modQueue (s : State) (k j : Nat) (f : DramQueue → DramQueue) : (s.modQueue k f).seal j = s.seal j := rfl
@[simp] theorem State.forge_modQueue (s : State) (k j : Nat) (f : DramQueue → DramQueue) : (s.modQueue k f).forge j = s.forge j := rfl
@[simp] theorem State.tag_modQueue (s : State) (k j : Nat) (f : DramQueue → DramQueue) : (s.modQueue k f).tag j = s.tag j := rfl
@[simp] theorem State.stack_modQueue (s : State) (k j : Nat) (f : DramQueue → DramQueue) : (s.modQueue k f).stack j = s.stack j := rfl
@[simp] theorem State.bulkCh_modQueue (s : State) (k j : Nat) (f : DramQueue → DramQueue) : (s.modQueue k f).bulkCh j = s.bulkCh j := rfl
@[simp] theorem State.unit_modQueue (s : State) (k j : Nat) (f : DramQueue → DramQueue) : (s.modQueue k f).unit j = s.unit j := rfl
@[simp] theorem State.walker_modQueue (s : State) (k j : Nat) (f : DramQueue → DramQueue) : (s.modQueue k f).walker j = s.walker j := rfl
@[simp] theorem State.background_modQueue (s : State) (k j : Nat) (f : DramQueue → DramQueue) : (s.modQueue k f).background j = s.background j := rfl
@[simp] theorem State.melt_modQueue (s : State) (k j : Nat) (f : DramQueue → DramQueue) : (s.modQueue k f).melt j = s.melt j := rfl
@[simp] theorem State.anvil_modQueue (s : State) (k j : Nat) (f : DramQueue → DramQueue) : (s.modQueue k f).anvil j = s.anvil j := rfl
@[simp] theorem State.ctx_modQueue (s : State) (k j : Nat) (f : DramQueue → DramQueue) : (s.modQueue k f).ctx j = s.ctx j := rfl
@[simp] theorem State.port_modQueue (s : State) (k j : Nat) (f : DramQueue → DramQueue) : (s.modQueue k f).port j = s.port j := rfl
@[simp] theorem State.egress_modQueue (s : State) (k j : Nat) (f : DramQueue → DramQueue) : (s.modQueue k f).egress j = s.egress j := rfl
@[simp] theorem State.head_modQueue (s : State) (k j : Nat) (f : DramQueue → DramQueue) : (s.modQueue k f).head j = s.head j := rfl
@[simp] theorem State.page_modQueue (s : State) (k j : Nat) (f : DramQueue → DramQueue) : (s.modQueue k f).page j = s.page j := rfl
@[simp] theorem State.source_modQueue (s : State) (k j : Nat) (f : DramQueue → DramQueue) : (s.modQueue k f).source j = s.source j := rfl
@[simp] theorem State.target_modQueue (s : State) (k j : Nat) (f : DramQueue → DramQueue) : (s.modQueue k f).target j = s.target j := rfl
@[simp] theorem State.reason_modQueue (s : State) (k j : Nat) (f : DramQueue → DramQueue) : (s.modQueue k f).reason j = s.reason j := rfl
@[simp] theorem State.epoch_modQueue (s : State) (k j : Nat) (f : DramQueue → DramQueue) : (s.modQueue k f).epoch j = s.epoch j := rfl

/-! ### modWalker -/

@[simp] theorem State.modWalker_pending (s : State) (k : Nat) (f : Walker → Walker) : (s.modWalker k f).pending = s.pending := rfl
@[simp] theorem State.modWalker_pins (s : State) (k : Nat) (f : Walker → Walker) : (s.modWalker k f).pins = s.pins := rfl
@[simp] theorem State.modWalker_boot (s : State) (k : Nat) (f : Walker → Walker) : (s.modWalker k f).boot = s.boot := rfl
@[simp] theorem State.modWalker_heat (s : State) (k : Nat) (f : Walker → Walker) : (s.modWalker k f).heat = s.heat := rfl
@[simp] theorem State.modWalker_hearth (s : State) (k : Nat) (f : Walker → Walker) : (s.modWalker k f).hearth = s.hearth := rfl
@[simp] theorem State.modWalker_starter (s : State) (k : Nat) (f : Walker → Walker) : (s.modWalker k f).starter = s.starter := rfl
@[simp] theorem State.modWalker_parts (s : State) (k : Nat) (f : Walker → Walker) : (s.modWalker k f).parts = s.parts := rfl
@[simp] theorem State.modWalker_tiers (s : State) (k : Nat) (f : Walker → Walker) : (s.modWalker k f).tiers = s.tiers := rfl
@[simp] theorem State.modWalker_crucibles (s : State) (k : Nat) (f : Walker → Walker) : (s.modWalker k f).crucibles = s.crucibles := rfl
@[simp] theorem State.modWalker_anvils (s : State) (k : Nat) (f : Walker → Walker) : (s.modWalker k f).anvils = s.anvils := rfl
@[simp] theorem State.modWalker_tongs (s : State) (k : Nat) (f : Walker → Walker) : (s.modWalker k f).tongs = s.tongs := rfl
@[simp] theorem State.modWalker_coh (s : State) (k : Nat) (f : Walker → Walker) : (s.modWalker k f).coh = s.coh := rfl
@[simp] theorem State.modWalker_ports (s : State) (k : Nat) (f : Walker → Walker) : (s.modWalker k f).ports = s.ports := rfl
@[simp] theorem State.modWalker_routing (s : State) (k : Nat) (f : Walker → Walker) : (s.modWalker k f).routing = s.routing := rfl
@[simp] theorem State.modWalker_cxl (s : State) (k : Nat) (f : Walker → Walker) : (s.modWalker k f).cxl = s.cxl := rfl
@[simp] theorem State.modWalker_sec (s : State) (k : Nat) (f : Walker → Walker) : (s.modWalker k f).sec = s.sec := rfl
@[simp] theorem State.modWalker_bellows (s : State) (k : Nat) (f : Walker → Walker) : (s.modWalker k f).bellows = s.bellows := rfl
@[simp] theorem State.modWalker_twin (s : State) (k : Nat) (f : Walker → Walker) : (s.modWalker k f).twin = s.twin := rfl
@[simp] theorem State.modWalker_free (s : State) (k : Nat) (f : Walker → Walker) : (s.modWalker k f).free = s.free := rfl
theorem State.walker_modWalker (s : State) (k j : Nat) (f : Walker → Walker) : (s.modWalker k f).walker j = if j = k then f (s.walker k) else s.walker j :=
  tget_tmod _ _ _ _ _
@[simp] theorem State.walker_modWalker_same (s : State) (k : Nat) (f : Walker → Walker) : (s.modWalker k f).walker k = f (s.walker k) := by simp [State.walker_modWalker]
@[simp] theorem State.part_modWalker (s : State) (k j : Nat) (f : Walker → Walker) : (s.modWalker k f).part j = s.part j := rfl
@[simp] theorem State.ext_modWalker (s : State) (k j : Nat) (f : Walker → Walker) : (s.modWalker k f).ext j = s.ext j := rfl
@[simp] theorem State.seal_modWalker (s : State) (k j : Nat) (f : Walker → Walker) : (s.modWalker k f).seal j = s.seal j := rfl
@[simp] theorem State.forge_modWalker (s : State) (k j : Nat) (f : Walker → Walker) : (s.modWalker k f).forge j = s.forge j := rfl
@[simp] theorem State.tag_modWalker (s : State) (k j : Nat) (f : Walker → Walker) : (s.modWalker k f).tag j = s.tag j := rfl
@[simp] theorem State.stack_modWalker (s : State) (k j : Nat) (f : Walker → Walker) : (s.modWalker k f).stack j = s.stack j := rfl
@[simp] theorem State.bulkCh_modWalker (s : State) (k j : Nat) (f : Walker → Walker) : (s.modWalker k f).bulkCh j = s.bulkCh j := rfl
@[simp] theorem State.unit_modWalker (s : State) (k j : Nat) (f : Walker → Walker) : (s.modWalker k f).unit j = s.unit j := rfl
@[simp] theorem State.queue_modWalker (s : State) (k j : Nat) (f : Walker → Walker) : (s.modWalker k f).queue j = s.queue j := rfl
@[simp] theorem State.background_modWalker (s : State) (k j : Nat) (f : Walker → Walker) : (s.modWalker k f).background j = s.background j := rfl
@[simp] theorem State.melt_modWalker (s : State) (k j : Nat) (f : Walker → Walker) : (s.modWalker k f).melt j = s.melt j := rfl
@[simp] theorem State.anvil_modWalker (s : State) (k j : Nat) (f : Walker → Walker) : (s.modWalker k f).anvil j = s.anvil j := rfl
@[simp] theorem State.ctx_modWalker (s : State) (k j : Nat) (f : Walker → Walker) : (s.modWalker k f).ctx j = s.ctx j := rfl
@[simp] theorem State.port_modWalker (s : State) (k j : Nat) (f : Walker → Walker) : (s.modWalker k f).port j = s.port j := rfl
@[simp] theorem State.egress_modWalker (s : State) (k j : Nat) (f : Walker → Walker) : (s.modWalker k f).egress j = s.egress j := rfl
@[simp] theorem State.head_modWalker (s : State) (k j : Nat) (f : Walker → Walker) : (s.modWalker k f).head j = s.head j := rfl
@[simp] theorem State.page_modWalker (s : State) (k j : Nat) (f : Walker → Walker) : (s.modWalker k f).page j = s.page j := rfl
@[simp] theorem State.source_modWalker (s : State) (k j : Nat) (f : Walker → Walker) : (s.modWalker k f).source j = s.source j := rfl
@[simp] theorem State.target_modWalker (s : State) (k j : Nat) (f : Walker → Walker) : (s.modWalker k f).target j = s.target j := rfl
@[simp] theorem State.reason_modWalker (s : State) (k j : Nat) (f : Walker → Walker) : (s.modWalker k f).reason j = s.reason j := rfl
@[simp] theorem State.epoch_modWalker (s : State) (k j : Nat) (f : Walker → Walker) : (s.modWalker k f).epoch j = s.epoch j := rfl

/-! ### modBackground -/

@[simp] theorem State.modBackground_pending (s : State) (k : Nat) (f : Background → Background) : (s.modBackground k f).pending = s.pending := rfl
@[simp] theorem State.modBackground_pins (s : State) (k : Nat) (f : Background → Background) : (s.modBackground k f).pins = s.pins := rfl
@[simp] theorem State.modBackground_boot (s : State) (k : Nat) (f : Background → Background) : (s.modBackground k f).boot = s.boot := rfl
@[simp] theorem State.modBackground_heat (s : State) (k : Nat) (f : Background → Background) : (s.modBackground k f).heat = s.heat := rfl
@[simp] theorem State.modBackground_hearth (s : State) (k : Nat) (f : Background → Background) : (s.modBackground k f).hearth = s.hearth := rfl
@[simp] theorem State.modBackground_starter (s : State) (k : Nat) (f : Background → Background) : (s.modBackground k f).starter = s.starter := rfl
@[simp] theorem State.modBackground_parts (s : State) (k : Nat) (f : Background → Background) : (s.modBackground k f).parts = s.parts := rfl
@[simp] theorem State.modBackground_tiers (s : State) (k : Nat) (f : Background → Background) : (s.modBackground k f).tiers = s.tiers := rfl
@[simp] theorem State.modBackground_crucibles (s : State) (k : Nat) (f : Background → Background) : (s.modBackground k f).crucibles = s.crucibles := rfl
@[simp] theorem State.modBackground_anvils (s : State) (k : Nat) (f : Background → Background) : (s.modBackground k f).anvils = s.anvils := rfl
@[simp] theorem State.modBackground_tongs (s : State) (k : Nat) (f : Background → Background) : (s.modBackground k f).tongs = s.tongs := rfl
@[simp] theorem State.modBackground_coh (s : State) (k : Nat) (f : Background → Background) : (s.modBackground k f).coh = s.coh := rfl
@[simp] theorem State.modBackground_ports (s : State) (k : Nat) (f : Background → Background) : (s.modBackground k f).ports = s.ports := rfl
@[simp] theorem State.modBackground_routing (s : State) (k : Nat) (f : Background → Background) : (s.modBackground k f).routing = s.routing := rfl
@[simp] theorem State.modBackground_cxl (s : State) (k : Nat) (f : Background → Background) : (s.modBackground k f).cxl = s.cxl := rfl
@[simp] theorem State.modBackground_sec (s : State) (k : Nat) (f : Background → Background) : (s.modBackground k f).sec = s.sec := rfl
@[simp] theorem State.modBackground_bellows (s : State) (k : Nat) (f : Background → Background) : (s.modBackground k f).bellows = s.bellows := rfl
@[simp] theorem State.modBackground_twin (s : State) (k : Nat) (f : Background → Background) : (s.modBackground k f).twin = s.twin := rfl
@[simp] theorem State.modBackground_free (s : State) (k : Nat) (f : Background → Background) : (s.modBackground k f).free = s.free := rfl
theorem State.background_modBackground (s : State) (k j : Nat) (f : Background → Background) : (s.modBackground k f).background j = if j = k then f (s.background k) else s.background j :=
  tget_tmod _ _ _ _ _
@[simp] theorem State.background_modBackground_same (s : State) (k : Nat) (f : Background → Background) : (s.modBackground k f).background k = f (s.background k) := by simp [State.background_modBackground]
@[simp] theorem State.part_modBackground (s : State) (k j : Nat) (f : Background → Background) : (s.modBackground k f).part j = s.part j := rfl
@[simp] theorem State.ext_modBackground (s : State) (k j : Nat) (f : Background → Background) : (s.modBackground k f).ext j = s.ext j := rfl
@[simp] theorem State.seal_modBackground (s : State) (k j : Nat) (f : Background → Background) : (s.modBackground k f).seal j = s.seal j := rfl
@[simp] theorem State.forge_modBackground (s : State) (k j : Nat) (f : Background → Background) : (s.modBackground k f).forge j = s.forge j := rfl
@[simp] theorem State.tag_modBackground (s : State) (k j : Nat) (f : Background → Background) : (s.modBackground k f).tag j = s.tag j := rfl
@[simp] theorem State.stack_modBackground (s : State) (k j : Nat) (f : Background → Background) : (s.modBackground k f).stack j = s.stack j := rfl
@[simp] theorem State.bulkCh_modBackground (s : State) (k j : Nat) (f : Background → Background) : (s.modBackground k f).bulkCh j = s.bulkCh j := rfl
@[simp] theorem State.unit_modBackground (s : State) (k j : Nat) (f : Background → Background) : (s.modBackground k f).unit j = s.unit j := rfl
@[simp] theorem State.queue_modBackground (s : State) (k j : Nat) (f : Background → Background) : (s.modBackground k f).queue j = s.queue j := rfl
@[simp] theorem State.walker_modBackground (s : State) (k j : Nat) (f : Background → Background) : (s.modBackground k f).walker j = s.walker j := rfl
@[simp] theorem State.melt_modBackground (s : State) (k j : Nat) (f : Background → Background) : (s.modBackground k f).melt j = s.melt j := rfl
@[simp] theorem State.anvil_modBackground (s : State) (k j : Nat) (f : Background → Background) : (s.modBackground k f).anvil j = s.anvil j := rfl
@[simp] theorem State.ctx_modBackground (s : State) (k j : Nat) (f : Background → Background) : (s.modBackground k f).ctx j = s.ctx j := rfl
@[simp] theorem State.port_modBackground (s : State) (k j : Nat) (f : Background → Background) : (s.modBackground k f).port j = s.port j := rfl
@[simp] theorem State.egress_modBackground (s : State) (k j : Nat) (f : Background → Background) : (s.modBackground k f).egress j = s.egress j := rfl
@[simp] theorem State.head_modBackground (s : State) (k j : Nat) (f : Background → Background) : (s.modBackground k f).head j = s.head j := rfl
@[simp] theorem State.page_modBackground (s : State) (k j : Nat) (f : Background → Background) : (s.modBackground k f).page j = s.page j := rfl
@[simp] theorem State.source_modBackground (s : State) (k j : Nat) (f : Background → Background) : (s.modBackground k f).source j = s.source j := rfl
@[simp] theorem State.target_modBackground (s : State) (k j : Nat) (f : Background → Background) : (s.modBackground k f).target j = s.target j := rfl
@[simp] theorem State.reason_modBackground (s : State) (k j : Nat) (f : Background → Background) : (s.modBackground k f).reason j = s.reason j := rfl
@[simp] theorem State.epoch_modBackground (s : State) (k j : Nat) (f : Background → Background) : (s.modBackground k f).epoch j = s.epoch j := rfl

/-! ### modMelt -/

@[simp] theorem State.modMelt_pending (s : State) (k : Nat) (f : Melt → Melt) : (s.modMelt k f).pending = s.pending := rfl
@[simp] theorem State.modMelt_pins (s : State) (k : Nat) (f : Melt → Melt) : (s.modMelt k f).pins = s.pins := rfl
@[simp] theorem State.modMelt_boot (s : State) (k : Nat) (f : Melt → Melt) : (s.modMelt k f).boot = s.boot := rfl
@[simp] theorem State.modMelt_heat (s : State) (k : Nat) (f : Melt → Melt) : (s.modMelt k f).heat = s.heat := rfl
@[simp] theorem State.modMelt_hearth (s : State) (k : Nat) (f : Melt → Melt) : (s.modMelt k f).hearth = s.hearth := rfl
@[simp] theorem State.modMelt_starter (s : State) (k : Nat) (f : Melt → Melt) : (s.modMelt k f).starter = s.starter := rfl
@[simp] theorem State.modMelt_parts (s : State) (k : Nat) (f : Melt → Melt) : (s.modMelt k f).parts = s.parts := rfl
@[simp] theorem State.modMelt_tiers (s : State) (k : Nat) (f : Melt → Melt) : (s.modMelt k f).tiers = s.tiers := rfl
@[simp] theorem State.modMelt_dram (s : State) (k : Nat) (f : Melt → Melt) : (s.modMelt k f).dram = s.dram := rfl
@[simp] theorem State.modMelt_anvils (s : State) (k : Nat) (f : Melt → Melt) : (s.modMelt k f).anvils = s.anvils := rfl
@[simp] theorem State.modMelt_tongs (s : State) (k : Nat) (f : Melt → Melt) : (s.modMelt k f).tongs = s.tongs := rfl
@[simp] theorem State.modMelt_coh (s : State) (k : Nat) (f : Melt → Melt) : (s.modMelt k f).coh = s.coh := rfl
@[simp] theorem State.modMelt_ports (s : State) (k : Nat) (f : Melt → Melt) : (s.modMelt k f).ports = s.ports := rfl
@[simp] theorem State.modMelt_routing (s : State) (k : Nat) (f : Melt → Melt) : (s.modMelt k f).routing = s.routing := rfl
@[simp] theorem State.modMelt_cxl (s : State) (k : Nat) (f : Melt → Melt) : (s.modMelt k f).cxl = s.cxl := rfl
@[simp] theorem State.modMelt_sec (s : State) (k : Nat) (f : Melt → Melt) : (s.modMelt k f).sec = s.sec := rfl
@[simp] theorem State.modMelt_bellows (s : State) (k : Nat) (f : Melt → Melt) : (s.modMelt k f).bellows = s.bellows := rfl
@[simp] theorem State.modMelt_twin (s : State) (k : Nat) (f : Melt → Melt) : (s.modMelt k f).twin = s.twin := rfl
@[simp] theorem State.modMelt_free (s : State) (k : Nat) (f : Melt → Melt) : (s.modMelt k f).free = s.free := rfl
theorem State.melt_modMelt (s : State) (k j : Nat) (f : Melt → Melt) : (s.modMelt k f).melt j = if j = k then f (s.melt k) else s.melt j :=
  tget_tmod _ _ _ _ _
@[simp] theorem State.melt_modMelt_same (s : State) (k : Nat) (f : Melt → Melt) : (s.modMelt k f).melt k = f (s.melt k) := by simp [State.melt_modMelt]
@[simp] theorem State.part_modMelt (s : State) (k j : Nat) (f : Melt → Melt) : (s.modMelt k f).part j = s.part j := rfl
@[simp] theorem State.ext_modMelt (s : State) (k j : Nat) (f : Melt → Melt) : (s.modMelt k f).ext j = s.ext j := rfl
@[simp] theorem State.seal_modMelt (s : State) (k j : Nat) (f : Melt → Melt) : (s.modMelt k f).seal j = s.seal j := rfl
@[simp] theorem State.forge_modMelt (s : State) (k j : Nat) (f : Melt → Melt) : (s.modMelt k f).forge j = s.forge j := rfl
@[simp] theorem State.tag_modMelt (s : State) (k j : Nat) (f : Melt → Melt) : (s.modMelt k f).tag j = s.tag j := rfl
@[simp] theorem State.stack_modMelt (s : State) (k j : Nat) (f : Melt → Melt) : (s.modMelt k f).stack j = s.stack j := rfl
@[simp] theorem State.bulkCh_modMelt (s : State) (k j : Nat) (f : Melt → Melt) : (s.modMelt k f).bulkCh j = s.bulkCh j := rfl
@[simp] theorem State.unit_modMelt (s : State) (k j : Nat) (f : Melt → Melt) : (s.modMelt k f).unit j = s.unit j := rfl
@[simp] theorem State.queue_modMelt (s : State) (k j : Nat) (f : Melt → Melt) : (s.modMelt k f).queue j = s.queue j := rfl
@[simp] theorem State.walker_modMelt (s : State) (k j : Nat) (f : Melt → Melt) : (s.modMelt k f).walker j = s.walker j := rfl
@[simp] theorem State.background_modMelt (s : State) (k j : Nat) (f : Melt → Melt) : (s.modMelt k f).background j = s.background j := rfl
@[simp] theorem State.anvil_modMelt (s : State) (k j : Nat) (f : Melt → Melt) : (s.modMelt k f).anvil j = s.anvil j := rfl
@[simp] theorem State.ctx_modMelt (s : State) (k j : Nat) (f : Melt → Melt) : (s.modMelt k f).ctx j = s.ctx j := rfl
@[simp] theorem State.port_modMelt (s : State) (k j : Nat) (f : Melt → Melt) : (s.modMelt k f).port j = s.port j := rfl
@[simp] theorem State.egress_modMelt (s : State) (k j : Nat) (f : Melt → Melt) : (s.modMelt k f).egress j = s.egress j := rfl
@[simp] theorem State.head_modMelt (s : State) (k j : Nat) (f : Melt → Melt) : (s.modMelt k f).head j = s.head j := rfl
@[simp] theorem State.page_modMelt (s : State) (k j : Nat) (f : Melt → Melt) : (s.modMelt k f).page j = s.page j := rfl
@[simp] theorem State.source_modMelt (s : State) (k j : Nat) (f : Melt → Melt) : (s.modMelt k f).source j = s.source j := rfl
@[simp] theorem State.target_modMelt (s : State) (k j : Nat) (f : Melt → Melt) : (s.modMelt k f).target j = s.target j := rfl
@[simp] theorem State.reason_modMelt (s : State) (k j : Nat) (f : Melt → Melt) : (s.modMelt k f).reason j = s.reason j := rfl
@[simp] theorem State.epoch_modMelt (s : State) (k j : Nat) (f : Melt → Melt) : (s.modMelt k f).epoch j = s.epoch j := rfl

/-! ### modAnvil -/

@[simp] theorem State.modAnvil_pending (s : State) (k : Nat) (f : Anvil → Anvil) : (s.modAnvil k f).pending = s.pending := rfl
@[simp] theorem State.modAnvil_pins (s : State) (k : Nat) (f : Anvil → Anvil) : (s.modAnvil k f).pins = s.pins := rfl
@[simp] theorem State.modAnvil_boot (s : State) (k : Nat) (f : Anvil → Anvil) : (s.modAnvil k f).boot = s.boot := rfl
@[simp] theorem State.modAnvil_heat (s : State) (k : Nat) (f : Anvil → Anvil) : (s.modAnvil k f).heat = s.heat := rfl
@[simp] theorem State.modAnvil_hearth (s : State) (k : Nat) (f : Anvil → Anvil) : (s.modAnvil k f).hearth = s.hearth := rfl
@[simp] theorem State.modAnvil_starter (s : State) (k : Nat) (f : Anvil → Anvil) : (s.modAnvil k f).starter = s.starter := rfl
@[simp] theorem State.modAnvil_parts (s : State) (k : Nat) (f : Anvil → Anvil) : (s.modAnvil k f).parts = s.parts := rfl
@[simp] theorem State.modAnvil_tiers (s : State) (k : Nat) (f : Anvil → Anvil) : (s.modAnvil k f).tiers = s.tiers := rfl
@[simp] theorem State.modAnvil_dram (s : State) (k : Nat) (f : Anvil → Anvil) : (s.modAnvil k f).dram = s.dram := rfl
@[simp] theorem State.modAnvil_crucibles (s : State) (k : Nat) (f : Anvil → Anvil) : (s.modAnvil k f).crucibles = s.crucibles := rfl
@[simp] theorem State.modAnvil_tongs (s : State) (k : Nat) (f : Anvil → Anvil) : (s.modAnvil k f).tongs = s.tongs := rfl
@[simp] theorem State.modAnvil_coh (s : State) (k : Nat) (f : Anvil → Anvil) : (s.modAnvil k f).coh = s.coh := rfl
@[simp] theorem State.modAnvil_ports (s : State) (k : Nat) (f : Anvil → Anvil) : (s.modAnvil k f).ports = s.ports := rfl
@[simp] theorem State.modAnvil_routing (s : State) (k : Nat) (f : Anvil → Anvil) : (s.modAnvil k f).routing = s.routing := rfl
@[simp] theorem State.modAnvil_cxl (s : State) (k : Nat) (f : Anvil → Anvil) : (s.modAnvil k f).cxl = s.cxl := rfl
@[simp] theorem State.modAnvil_sec (s : State) (k : Nat) (f : Anvil → Anvil) : (s.modAnvil k f).sec = s.sec := rfl
@[simp] theorem State.modAnvil_bellows (s : State) (k : Nat) (f : Anvil → Anvil) : (s.modAnvil k f).bellows = s.bellows := rfl
@[simp] theorem State.modAnvil_twin (s : State) (k : Nat) (f : Anvil → Anvil) : (s.modAnvil k f).twin = s.twin := rfl
@[simp] theorem State.modAnvil_free (s : State) (k : Nat) (f : Anvil → Anvil) : (s.modAnvil k f).free = s.free := rfl
theorem State.anvil_modAnvil (s : State) (k j : Nat) (f : Anvil → Anvil) : (s.modAnvil k f).anvil j = if j = k then f (s.anvil k) else s.anvil j :=
  tget_tmod _ _ _ _ _
@[simp] theorem State.anvil_modAnvil_same (s : State) (k : Nat) (f : Anvil → Anvil) : (s.modAnvil k f).anvil k = f (s.anvil k) := by simp [State.anvil_modAnvil]
@[simp] theorem State.part_modAnvil (s : State) (k j : Nat) (f : Anvil → Anvil) : (s.modAnvil k f).part j = s.part j := rfl
@[simp] theorem State.ext_modAnvil (s : State) (k j : Nat) (f : Anvil → Anvil) : (s.modAnvil k f).ext j = s.ext j := rfl
@[simp] theorem State.seal_modAnvil (s : State) (k j : Nat) (f : Anvil → Anvil) : (s.modAnvil k f).seal j = s.seal j := rfl
@[simp] theorem State.forge_modAnvil (s : State) (k j : Nat) (f : Anvil → Anvil) : (s.modAnvil k f).forge j = s.forge j := rfl
@[simp] theorem State.tag_modAnvil (s : State) (k j : Nat) (f : Anvil → Anvil) : (s.modAnvil k f).tag j = s.tag j := rfl
@[simp] theorem State.stack_modAnvil (s : State) (k j : Nat) (f : Anvil → Anvil) : (s.modAnvil k f).stack j = s.stack j := rfl
@[simp] theorem State.bulkCh_modAnvil (s : State) (k j : Nat) (f : Anvil → Anvil) : (s.modAnvil k f).bulkCh j = s.bulkCh j := rfl
@[simp] theorem State.unit_modAnvil (s : State) (k j : Nat) (f : Anvil → Anvil) : (s.modAnvil k f).unit j = s.unit j := rfl
@[simp] theorem State.queue_modAnvil (s : State) (k j : Nat) (f : Anvil → Anvil) : (s.modAnvil k f).queue j = s.queue j := rfl
@[simp] theorem State.walker_modAnvil (s : State) (k j : Nat) (f : Anvil → Anvil) : (s.modAnvil k f).walker j = s.walker j := rfl
@[simp] theorem State.background_modAnvil (s : State) (k j : Nat) (f : Anvil → Anvil) : (s.modAnvil k f).background j = s.background j := rfl
@[simp] theorem State.melt_modAnvil (s : State) (k j : Nat) (f : Anvil → Anvil) : (s.modAnvil k f).melt j = s.melt j := rfl
@[simp] theorem State.ctx_modAnvil (s : State) (k j : Nat) (f : Anvil → Anvil) : (s.modAnvil k f).ctx j = s.ctx j := rfl
@[simp] theorem State.port_modAnvil (s : State) (k j : Nat) (f : Anvil → Anvil) : (s.modAnvil k f).port j = s.port j := rfl
@[simp] theorem State.egress_modAnvil (s : State) (k j : Nat) (f : Anvil → Anvil) : (s.modAnvil k f).egress j = s.egress j := rfl
@[simp] theorem State.head_modAnvil (s : State) (k j : Nat) (f : Anvil → Anvil) : (s.modAnvil k f).head j = s.head j := rfl
@[simp] theorem State.page_modAnvil (s : State) (k j : Nat) (f : Anvil → Anvil) : (s.modAnvil k f).page j = s.page j := rfl
@[simp] theorem State.source_modAnvil (s : State) (k j : Nat) (f : Anvil → Anvil) : (s.modAnvil k f).source j = s.source j := rfl
@[simp] theorem State.target_modAnvil (s : State) (k j : Nat) (f : Anvil → Anvil) : (s.modAnvil k f).target j = s.target j := rfl
@[simp] theorem State.reason_modAnvil (s : State) (k j : Nat) (f : Anvil → Anvil) : (s.modAnvil k f).reason j = s.reason j := rfl
@[simp] theorem State.epoch_modAnvil (s : State) (k j : Nat) (f : Anvil → Anvil) : (s.modAnvil k f).epoch j = s.epoch j := rfl

/-! ### modCtx -/

@[simp] theorem State.modCtx_pending (s : State) (k : Nat) (f : Ctx → Ctx) : (s.modCtx k f).pending = s.pending := rfl
@[simp] theorem State.modCtx_pins (s : State) (k : Nat) (f : Ctx → Ctx) : (s.modCtx k f).pins = s.pins := rfl
@[simp] theorem State.modCtx_boot (s : State) (k : Nat) (f : Ctx → Ctx) : (s.modCtx k f).boot = s.boot := rfl
@[simp] theorem State.modCtx_heat (s : State) (k : Nat) (f : Ctx → Ctx) : (s.modCtx k f).heat = s.heat := rfl
@[simp] theorem State.modCtx_hearth (s : State) (k : Nat) (f : Ctx → Ctx) : (s.modCtx k f).hearth = s.hearth := rfl
@[simp] theorem State.modCtx_starter (s : State) (k : Nat) (f : Ctx → Ctx) : (s.modCtx k f).starter = s.starter := rfl
@[simp] theorem State.modCtx_parts (s : State) (k : Nat) (f : Ctx → Ctx) : (s.modCtx k f).parts = s.parts := rfl
@[simp] theorem State.modCtx_tiers (s : State) (k : Nat) (f : Ctx → Ctx) : (s.modCtx k f).tiers = s.tiers := rfl
@[simp] theorem State.modCtx_dram (s : State) (k : Nat) (f : Ctx → Ctx) : (s.modCtx k f).dram = s.dram := rfl
@[simp] theorem State.modCtx_crucibles (s : State) (k : Nat) (f : Ctx → Ctx) : (s.modCtx k f).crucibles = s.crucibles := rfl
@[simp] theorem State.modCtx_anvils (s : State) (k : Nat) (f : Ctx → Ctx) : (s.modCtx k f).anvils = s.anvils := rfl
@[simp] theorem State.modCtx_coh (s : State) (k : Nat) (f : Ctx → Ctx) : (s.modCtx k f).coh = s.coh := rfl
@[simp] theorem State.modCtx_ports (s : State) (k : Nat) (f : Ctx → Ctx) : (s.modCtx k f).ports = s.ports := rfl
@[simp] theorem State.modCtx_routing (s : State) (k : Nat) (f : Ctx → Ctx) : (s.modCtx k f).routing = s.routing := rfl
@[simp] theorem State.modCtx_cxl (s : State) (k : Nat) (f : Ctx → Ctx) : (s.modCtx k f).cxl = s.cxl := rfl
@[simp] theorem State.modCtx_sec (s : State) (k : Nat) (f : Ctx → Ctx) : (s.modCtx k f).sec = s.sec := rfl
@[simp] theorem State.modCtx_bellows (s : State) (k : Nat) (f : Ctx → Ctx) : (s.modCtx k f).bellows = s.bellows := rfl
@[simp] theorem State.modCtx_twin (s : State) (k : Nat) (f : Ctx → Ctx) : (s.modCtx k f).twin = s.twin := rfl
@[simp] theorem State.modCtx_free (s : State) (k : Nat) (f : Ctx → Ctx) : (s.modCtx k f).free = s.free := rfl
theorem State.ctx_modCtx (s : State) (k j : Nat) (f : Ctx → Ctx) : (s.modCtx k f).ctx j = if j = k then f (s.ctx k) else s.ctx j :=
  tget_tmod _ _ _ _ _
@[simp] theorem State.ctx_modCtx_same (s : State) (k : Nat) (f : Ctx → Ctx) : (s.modCtx k f).ctx k = f (s.ctx k) := by simp [State.ctx_modCtx]
@[simp] theorem State.part_modCtx (s : State) (k j : Nat) (f : Ctx → Ctx) : (s.modCtx k f).part j = s.part j := rfl
@[simp] theorem State.ext_modCtx (s : State) (k j : Nat) (f : Ctx → Ctx) : (s.modCtx k f).ext j = s.ext j := rfl
@[simp] theorem State.seal_modCtx (s : State) (k j : Nat) (f : Ctx → Ctx) : (s.modCtx k f).seal j = s.seal j := rfl
@[simp] theorem State.forge_modCtx (s : State) (k j : Nat) (f : Ctx → Ctx) : (s.modCtx k f).forge j = s.forge j := rfl
@[simp] theorem State.tag_modCtx (s : State) (k j : Nat) (f : Ctx → Ctx) : (s.modCtx k f).tag j = s.tag j := rfl
@[simp] theorem State.stack_modCtx (s : State) (k j : Nat) (f : Ctx → Ctx) : (s.modCtx k f).stack j = s.stack j := rfl
@[simp] theorem State.bulkCh_modCtx (s : State) (k j : Nat) (f : Ctx → Ctx) : (s.modCtx k f).bulkCh j = s.bulkCh j := rfl
@[simp] theorem State.unit_modCtx (s : State) (k j : Nat) (f : Ctx → Ctx) : (s.modCtx k f).unit j = s.unit j := rfl
@[simp] theorem State.queue_modCtx (s : State) (k j : Nat) (f : Ctx → Ctx) : (s.modCtx k f).queue j = s.queue j := rfl
@[simp] theorem State.walker_modCtx (s : State) (k j : Nat) (f : Ctx → Ctx) : (s.modCtx k f).walker j = s.walker j := rfl
@[simp] theorem State.background_modCtx (s : State) (k j : Nat) (f : Ctx → Ctx) : (s.modCtx k f).background j = s.background j := rfl
@[simp] theorem State.melt_modCtx (s : State) (k j : Nat) (f : Ctx → Ctx) : (s.modCtx k f).melt j = s.melt j := rfl
@[simp] theorem State.anvil_modCtx (s : State) (k j : Nat) (f : Ctx → Ctx) : (s.modCtx k f).anvil j = s.anvil j := rfl
@[simp] theorem State.port_modCtx (s : State) (k j : Nat) (f : Ctx → Ctx) : (s.modCtx k f).port j = s.port j := rfl
@[simp] theorem State.egress_modCtx (s : State) (k j : Nat) (f : Ctx → Ctx) : (s.modCtx k f).egress j = s.egress j := rfl
@[simp] theorem State.head_modCtx (s : State) (k j : Nat) (f : Ctx → Ctx) : (s.modCtx k f).head j = s.head j := rfl
@[simp] theorem State.page_modCtx (s : State) (k j : Nat) (f : Ctx → Ctx) : (s.modCtx k f).page j = s.page j := rfl
@[simp] theorem State.source_modCtx (s : State) (k j : Nat) (f : Ctx → Ctx) : (s.modCtx k f).source j = s.source j := rfl
@[simp] theorem State.target_modCtx (s : State) (k j : Nat) (f : Ctx → Ctx) : (s.modCtx k f).target j = s.target j := rfl
@[simp] theorem State.reason_modCtx (s : State) (k j : Nat) (f : Ctx → Ctx) : (s.modCtx k f).reason j = s.reason j := rfl
@[simp] theorem State.epoch_modCtx (s : State) (k j : Nat) (f : Ctx → Ctx) : (s.modCtx k f).epoch j = s.epoch j := rfl

/-! ### modPort -/

@[simp] theorem State.modPort_pending (s : State) (k : Nat) (f : Port → Port) : (s.modPort k f).pending = s.pending := rfl
@[simp] theorem State.modPort_pins (s : State) (k : Nat) (f : Port → Port) : (s.modPort k f).pins = s.pins := rfl
@[simp] theorem State.modPort_boot (s : State) (k : Nat) (f : Port → Port) : (s.modPort k f).boot = s.boot := rfl
@[simp] theorem State.modPort_heat (s : State) (k : Nat) (f : Port → Port) : (s.modPort k f).heat = s.heat := rfl
@[simp] theorem State.modPort_hearth (s : State) (k : Nat) (f : Port → Port) : (s.modPort k f).hearth = s.hearth := rfl
@[simp] theorem State.modPort_starter (s : State) (k : Nat) (f : Port → Port) : (s.modPort k f).starter = s.starter := rfl
@[simp] theorem State.modPort_parts (s : State) (k : Nat) (f : Port → Port) : (s.modPort k f).parts = s.parts := rfl
@[simp] theorem State.modPort_tiers (s : State) (k : Nat) (f : Port → Port) : (s.modPort k f).tiers = s.tiers := rfl
@[simp] theorem State.modPort_dram (s : State) (k : Nat) (f : Port → Port) : (s.modPort k f).dram = s.dram := rfl
@[simp] theorem State.modPort_crucibles (s : State) (k : Nat) (f : Port → Port) : (s.modPort k f).crucibles = s.crucibles := rfl
@[simp] theorem State.modPort_anvils (s : State) (k : Nat) (f : Port → Port) : (s.modPort k f).anvils = s.anvils := rfl
@[simp] theorem State.modPort_tongs (s : State) (k : Nat) (f : Port → Port) : (s.modPort k f).tongs = s.tongs := rfl
@[simp] theorem State.modPort_coh (s : State) (k : Nat) (f : Port → Port) : (s.modPort k f).coh = s.coh := rfl
@[simp] theorem State.modPort_routing (s : State) (k : Nat) (f : Port → Port) : (s.modPort k f).routing = s.routing := rfl
@[simp] theorem State.modPort_cxl (s : State) (k : Nat) (f : Port → Port) : (s.modPort k f).cxl = s.cxl := rfl
@[simp] theorem State.modPort_sec (s : State) (k : Nat) (f : Port → Port) : (s.modPort k f).sec = s.sec := rfl
@[simp] theorem State.modPort_bellows (s : State) (k : Nat) (f : Port → Port) : (s.modPort k f).bellows = s.bellows := rfl
@[simp] theorem State.modPort_twin (s : State) (k : Nat) (f : Port → Port) : (s.modPort k f).twin = s.twin := rfl
@[simp] theorem State.modPort_free (s : State) (k : Nat) (f : Port → Port) : (s.modPort k f).free = s.free := rfl
theorem State.port_modPort (s : State) (k j : Nat) (f : Port → Port) : (s.modPort k f).port j = if j = k then f (s.port k) else s.port j :=
  tget_tmod _ _ _ _ _
@[simp] theorem State.port_modPort_same (s : State) (k : Nat) (f : Port → Port) : (s.modPort k f).port k = f (s.port k) := by simp [State.port_modPort]
@[simp] theorem State.part_modPort (s : State) (k j : Nat) (f : Port → Port) : (s.modPort k f).part j = s.part j := rfl
@[simp] theorem State.ext_modPort (s : State) (k j : Nat) (f : Port → Port) : (s.modPort k f).ext j = s.ext j := rfl
@[simp] theorem State.seal_modPort (s : State) (k j : Nat) (f : Port → Port) : (s.modPort k f).seal j = s.seal j := rfl
@[simp] theorem State.forge_modPort (s : State) (k j : Nat) (f : Port → Port) : (s.modPort k f).forge j = s.forge j := rfl
@[simp] theorem State.tag_modPort (s : State) (k j : Nat) (f : Port → Port) : (s.modPort k f).tag j = s.tag j := rfl
@[simp] theorem State.stack_modPort (s : State) (k j : Nat) (f : Port → Port) : (s.modPort k f).stack j = s.stack j := rfl
@[simp] theorem State.bulkCh_modPort (s : State) (k j : Nat) (f : Port → Port) : (s.modPort k f).bulkCh j = s.bulkCh j := rfl
@[simp] theorem State.unit_modPort (s : State) (k j : Nat) (f : Port → Port) : (s.modPort k f).unit j = s.unit j := rfl
@[simp] theorem State.queue_modPort (s : State) (k j : Nat) (f : Port → Port) : (s.modPort k f).queue j = s.queue j := rfl
@[simp] theorem State.walker_modPort (s : State) (k j : Nat) (f : Port → Port) : (s.modPort k f).walker j = s.walker j := rfl
@[simp] theorem State.background_modPort (s : State) (k j : Nat) (f : Port → Port) : (s.modPort k f).background j = s.background j := rfl
@[simp] theorem State.melt_modPort (s : State) (k j : Nat) (f : Port → Port) : (s.modPort k f).melt j = s.melt j := rfl
@[simp] theorem State.anvil_modPort (s : State) (k j : Nat) (f : Port → Port) : (s.modPort k f).anvil j = s.anvil j := rfl
@[simp] theorem State.ctx_modPort (s : State) (k j : Nat) (f : Port → Port) : (s.modPort k f).ctx j = s.ctx j := rfl
@[simp] theorem State.egress_modPort (s : State) (k j : Nat) (f : Port → Port) : (s.modPort k f).egress j = s.egress j := rfl
@[simp] theorem State.head_modPort (s : State) (k j : Nat) (f : Port → Port) : (s.modPort k f).head j = s.head j := rfl
@[simp] theorem State.page_modPort (s : State) (k j : Nat) (f : Port → Port) : (s.modPort k f).page j = s.page j := rfl
@[simp] theorem State.source_modPort (s : State) (k j : Nat) (f : Port → Port) : (s.modPort k f).source j = s.source j := rfl
@[simp] theorem State.target_modPort (s : State) (k j : Nat) (f : Port → Port) : (s.modPort k f).target j = s.target j := rfl
@[simp] theorem State.reason_modPort (s : State) (k j : Nat) (f : Port → Port) : (s.modPort k f).reason j = s.reason j := rfl
@[simp] theorem State.epoch_modPort (s : State) (k j : Nat) (f : Port → Port) : (s.modPort k f).epoch j = s.epoch j := rfl

/-! ### modEgress -/

@[simp] theorem State.modEgress_pending (s : State) (k : Nat) (f : Egress → Egress) : (s.modEgress k f).pending = s.pending := rfl
@[simp] theorem State.modEgress_pins (s : State) (k : Nat) (f : Egress → Egress) : (s.modEgress k f).pins = s.pins := rfl
@[simp] theorem State.modEgress_boot (s : State) (k : Nat) (f : Egress → Egress) : (s.modEgress k f).boot = s.boot := rfl
@[simp] theorem State.modEgress_heat (s : State) (k : Nat) (f : Egress → Egress) : (s.modEgress k f).heat = s.heat := rfl
@[simp] theorem State.modEgress_hearth (s : State) (k : Nat) (f : Egress → Egress) : (s.modEgress k f).hearth = s.hearth := rfl
@[simp] theorem State.modEgress_starter (s : State) (k : Nat) (f : Egress → Egress) : (s.modEgress k f).starter = s.starter := rfl
@[simp] theorem State.modEgress_parts (s : State) (k : Nat) (f : Egress → Egress) : (s.modEgress k f).parts = s.parts := rfl
@[simp] theorem State.modEgress_tiers (s : State) (k : Nat) (f : Egress → Egress) : (s.modEgress k f).tiers = s.tiers := rfl
@[simp] theorem State.modEgress_dram (s : State) (k : Nat) (f : Egress → Egress) : (s.modEgress k f).dram = s.dram := rfl
@[simp] theorem State.modEgress_crucibles (s : State) (k : Nat) (f : Egress → Egress) : (s.modEgress k f).crucibles = s.crucibles := rfl
@[simp] theorem State.modEgress_anvils (s : State) (k : Nat) (f : Egress → Egress) : (s.modEgress k f).anvils = s.anvils := rfl
@[simp] theorem State.modEgress_tongs (s : State) (k : Nat) (f : Egress → Egress) : (s.modEgress k f).tongs = s.tongs := rfl
@[simp] theorem State.modEgress_coh (s : State) (k : Nat) (f : Egress → Egress) : (s.modEgress k f).coh = s.coh := rfl
@[simp] theorem State.modEgress_ports (s : State) (k : Nat) (f : Egress → Egress) : (s.modEgress k f).ports = s.ports := rfl
@[simp] theorem State.modEgress_cxl (s : State) (k : Nat) (f : Egress → Egress) : (s.modEgress k f).cxl = s.cxl := rfl
@[simp] theorem State.modEgress_sec (s : State) (k : Nat) (f : Egress → Egress) : (s.modEgress k f).sec = s.sec := rfl
@[simp] theorem State.modEgress_bellows (s : State) (k : Nat) (f : Egress → Egress) : (s.modEgress k f).bellows = s.bellows := rfl
@[simp] theorem State.modEgress_twin (s : State) (k : Nat) (f : Egress → Egress) : (s.modEgress k f).twin = s.twin := rfl
@[simp] theorem State.modEgress_free (s : State) (k : Nat) (f : Egress → Egress) : (s.modEgress k f).free = s.free := rfl
theorem State.egress_modEgress (s : State) (k j : Nat) (f : Egress → Egress) : (s.modEgress k f).egress j = if j = k then f (s.egress k) else s.egress j :=
  tget_tmod _ _ _ _ _
@[simp] theorem State.egress_modEgress_same (s : State) (k : Nat) (f : Egress → Egress) : (s.modEgress k f).egress k = f (s.egress k) := by simp [State.egress_modEgress]
@[simp] theorem State.part_modEgress (s : State) (k j : Nat) (f : Egress → Egress) : (s.modEgress k f).part j = s.part j := rfl
@[simp] theorem State.ext_modEgress (s : State) (k j : Nat) (f : Egress → Egress) : (s.modEgress k f).ext j = s.ext j := rfl
@[simp] theorem State.seal_modEgress (s : State) (k j : Nat) (f : Egress → Egress) : (s.modEgress k f).seal j = s.seal j := rfl
@[simp] theorem State.forge_modEgress (s : State) (k j : Nat) (f : Egress → Egress) : (s.modEgress k f).forge j = s.forge j := rfl
@[simp] theorem State.tag_modEgress (s : State) (k j : Nat) (f : Egress → Egress) : (s.modEgress k f).tag j = s.tag j := rfl
@[simp] theorem State.stack_modEgress (s : State) (k j : Nat) (f : Egress → Egress) : (s.modEgress k f).stack j = s.stack j := rfl
@[simp] theorem State.bulkCh_modEgress (s : State) (k j : Nat) (f : Egress → Egress) : (s.modEgress k f).bulkCh j = s.bulkCh j := rfl
@[simp] theorem State.unit_modEgress (s : State) (k j : Nat) (f : Egress → Egress) : (s.modEgress k f).unit j = s.unit j := rfl
@[simp] theorem State.queue_modEgress (s : State) (k j : Nat) (f : Egress → Egress) : (s.modEgress k f).queue j = s.queue j := rfl
@[simp] theorem State.walker_modEgress (s : State) (k j : Nat) (f : Egress → Egress) : (s.modEgress k f).walker j = s.walker j := rfl
@[simp] theorem State.background_modEgress (s : State) (k j : Nat) (f : Egress → Egress) : (s.modEgress k f).background j = s.background j := rfl
@[simp] theorem State.melt_modEgress (s : State) (k j : Nat) (f : Egress → Egress) : (s.modEgress k f).melt j = s.melt j := rfl
@[simp] theorem State.anvil_modEgress (s : State) (k j : Nat) (f : Egress → Egress) : (s.modEgress k f).anvil j = s.anvil j := rfl
@[simp] theorem State.ctx_modEgress (s : State) (k j : Nat) (f : Egress → Egress) : (s.modEgress k f).ctx j = s.ctx j := rfl
@[simp] theorem State.port_modEgress (s : State) (k j : Nat) (f : Egress → Egress) : (s.modEgress k f).port j = s.port j := rfl
@[simp] theorem State.head_modEgress (s : State) (k j : Nat) (f : Egress → Egress) : (s.modEgress k f).head j = s.head j := rfl
@[simp] theorem State.page_modEgress (s : State) (k j : Nat) (f : Egress → Egress) : (s.modEgress k f).page j = s.page j := rfl
@[simp] theorem State.source_modEgress (s : State) (k j : Nat) (f : Egress → Egress) : (s.modEgress k f).source j = s.source j := rfl
@[simp] theorem State.target_modEgress (s : State) (k j : Nat) (f : Egress → Egress) : (s.modEgress k f).target j = s.target j := rfl
@[simp] theorem State.reason_modEgress (s : State) (k j : Nat) (f : Egress → Egress) : (s.modEgress k f).reason j = s.reason j := rfl
@[simp] theorem State.epoch_modEgress (s : State) (k j : Nat) (f : Egress → Egress) : (s.modEgress k f).epoch j = s.epoch j := rfl

/-! ### modHead -/

@[simp] theorem State.modHead_pending (s : State) (k : Nat) (f : Head → Head) : (s.modHead k f).pending = s.pending := rfl
@[simp] theorem State.modHead_pins (s : State) (k : Nat) (f : Head → Head) : (s.modHead k f).pins = s.pins := rfl
@[simp] theorem State.modHead_boot (s : State) (k : Nat) (f : Head → Head) : (s.modHead k f).boot = s.boot := rfl
@[simp] theorem State.modHead_heat (s : State) (k : Nat) (f : Head → Head) : (s.modHead k f).heat = s.heat := rfl
@[simp] theorem State.modHead_hearth (s : State) (k : Nat) (f : Head → Head) : (s.modHead k f).hearth = s.hearth := rfl
@[simp] theorem State.modHead_starter (s : State) (k : Nat) (f : Head → Head) : (s.modHead k f).starter = s.starter := rfl
@[simp] theorem State.modHead_parts (s : State) (k : Nat) (f : Head → Head) : (s.modHead k f).parts = s.parts := rfl
@[simp] theorem State.modHead_tiers (s : State) (k : Nat) (f : Head → Head) : (s.modHead k f).tiers = s.tiers := rfl
@[simp] theorem State.modHead_dram (s : State) (k : Nat) (f : Head → Head) : (s.modHead k f).dram = s.dram := rfl
@[simp] theorem State.modHead_crucibles (s : State) (k : Nat) (f : Head → Head) : (s.modHead k f).crucibles = s.crucibles := rfl
@[simp] theorem State.modHead_anvils (s : State) (k : Nat) (f : Head → Head) : (s.modHead k f).anvils = s.anvils := rfl
@[simp] theorem State.modHead_tongs (s : State) (k : Nat) (f : Head → Head) : (s.modHead k f).tongs = s.tongs := rfl
@[simp] theorem State.modHead_coh (s : State) (k : Nat) (f : Head → Head) : (s.modHead k f).coh = s.coh := rfl
@[simp] theorem State.modHead_ports (s : State) (k : Nat) (f : Head → Head) : (s.modHead k f).ports = s.ports := rfl
@[simp] theorem State.modHead_routing (s : State) (k : Nat) (f : Head → Head) : (s.modHead k f).routing = s.routing := rfl
@[simp] theorem State.modHead_sec (s : State) (k : Nat) (f : Head → Head) : (s.modHead k f).sec = s.sec := rfl
@[simp] theorem State.modHead_bellows (s : State) (k : Nat) (f : Head → Head) : (s.modHead k f).bellows = s.bellows := rfl
@[simp] theorem State.modHead_twin (s : State) (k : Nat) (f : Head → Head) : (s.modHead k f).twin = s.twin := rfl
@[simp] theorem State.modHead_free (s : State) (k : Nat) (f : Head → Head) : (s.modHead k f).free = s.free := rfl
theorem State.head_modHead (s : State) (k j : Nat) (f : Head → Head) : (s.modHead k f).head j = if j = k then f (s.head k) else s.head j :=
  tget_tmod _ _ _ _ _
@[simp] theorem State.head_modHead_same (s : State) (k : Nat) (f : Head → Head) : (s.modHead k f).head k = f (s.head k) := by simp [State.head_modHead]
@[simp] theorem State.part_modHead (s : State) (k j : Nat) (f : Head → Head) : (s.modHead k f).part j = s.part j := rfl
@[simp] theorem State.ext_modHead (s : State) (k j : Nat) (f : Head → Head) : (s.modHead k f).ext j = s.ext j := rfl
@[simp] theorem State.seal_modHead (s : State) (k j : Nat) (f : Head → Head) : (s.modHead k f).seal j = s.seal j := rfl
@[simp] theorem State.forge_modHead (s : State) (k j : Nat) (f : Head → Head) : (s.modHead k f).forge j = s.forge j := rfl
@[simp] theorem State.tag_modHead (s : State) (k j : Nat) (f : Head → Head) : (s.modHead k f).tag j = s.tag j := rfl
@[simp] theorem State.stack_modHead (s : State) (k j : Nat) (f : Head → Head) : (s.modHead k f).stack j = s.stack j := rfl
@[simp] theorem State.bulkCh_modHead (s : State) (k j : Nat) (f : Head → Head) : (s.modHead k f).bulkCh j = s.bulkCh j := rfl
@[simp] theorem State.unit_modHead (s : State) (k j : Nat) (f : Head → Head) : (s.modHead k f).unit j = s.unit j := rfl
@[simp] theorem State.queue_modHead (s : State) (k j : Nat) (f : Head → Head) : (s.modHead k f).queue j = s.queue j := rfl
@[simp] theorem State.walker_modHead (s : State) (k j : Nat) (f : Head → Head) : (s.modHead k f).walker j = s.walker j := rfl
@[simp] theorem State.background_modHead (s : State) (k j : Nat) (f : Head → Head) : (s.modHead k f).background j = s.background j := rfl
@[simp] theorem State.melt_modHead (s : State) (k j : Nat) (f : Head → Head) : (s.modHead k f).melt j = s.melt j := rfl
@[simp] theorem State.anvil_modHead (s : State) (k j : Nat) (f : Head → Head) : (s.modHead k f).anvil j = s.anvil j := rfl
@[simp] theorem State.ctx_modHead (s : State) (k j : Nat) (f : Head → Head) : (s.modHead k f).ctx j = s.ctx j := rfl
@[simp] theorem State.port_modHead (s : State) (k j : Nat) (f : Head → Head) : (s.modHead k f).port j = s.port j := rfl
@[simp] theorem State.egress_modHead (s : State) (k j : Nat) (f : Head → Head) : (s.modHead k f).egress j = s.egress j := rfl
@[simp] theorem State.page_modHead (s : State) (k j : Nat) (f : Head → Head) : (s.modHead k f).page j = s.page j := rfl
@[simp] theorem State.source_modHead (s : State) (k j : Nat) (f : Head → Head) : (s.modHead k f).source j = s.source j := rfl
@[simp] theorem State.target_modHead (s : State) (k j : Nat) (f : Head → Head) : (s.modHead k f).target j = s.target j := rfl
@[simp] theorem State.reason_modHead (s : State) (k j : Nat) (f : Head → Head) : (s.modHead k f).reason j = s.reason j := rfl
@[simp] theorem State.epoch_modHead (s : State) (k j : Nat) (f : Head → Head) : (s.modHead k f).epoch j = s.epoch j := rfl

/-! ### modPage -/

@[simp] theorem State.modPage_pending (s : State) (k : Nat) (f : Page → Page) : (s.modPage k f).pending = s.pending := rfl
@[simp] theorem State.modPage_pins (s : State) (k : Nat) (f : Page → Page) : (s.modPage k f).pins = s.pins := rfl
@[simp] theorem State.modPage_boot (s : State) (k : Nat) (f : Page → Page) : (s.modPage k f).boot = s.boot := rfl
@[simp] theorem State.modPage_heat (s : State) (k : Nat) (f : Page → Page) : (s.modPage k f).heat = s.heat := rfl
@[simp] theorem State.modPage_starter (s : State) (k : Nat) (f : Page → Page) : (s.modPage k f).starter = s.starter := rfl
@[simp] theorem State.modPage_parts (s : State) (k : Nat) (f : Page → Page) : (s.modPage k f).parts = s.parts := rfl
@[simp] theorem State.modPage_tiers (s : State) (k : Nat) (f : Page → Page) : (s.modPage k f).tiers = s.tiers := rfl
@[simp] theorem State.modPage_dram (s : State) (k : Nat) (f : Page → Page) : (s.modPage k f).dram = s.dram := rfl
@[simp] theorem State.modPage_crucibles (s : State) (k : Nat) (f : Page → Page) : (s.modPage k f).crucibles = s.crucibles := rfl
@[simp] theorem State.modPage_anvils (s : State) (k : Nat) (f : Page → Page) : (s.modPage k f).anvils = s.anvils := rfl
@[simp] theorem State.modPage_tongs (s : State) (k : Nat) (f : Page → Page) : (s.modPage k f).tongs = s.tongs := rfl
@[simp] theorem State.modPage_coh (s : State) (k : Nat) (f : Page → Page) : (s.modPage k f).coh = s.coh := rfl
@[simp] theorem State.modPage_ports (s : State) (k : Nat) (f : Page → Page) : (s.modPage k f).ports = s.ports := rfl
@[simp] theorem State.modPage_routing (s : State) (k : Nat) (f : Page → Page) : (s.modPage k f).routing = s.routing := rfl
@[simp] theorem State.modPage_cxl (s : State) (k : Nat) (f : Page → Page) : (s.modPage k f).cxl = s.cxl := rfl
@[simp] theorem State.modPage_sec (s : State) (k : Nat) (f : Page → Page) : (s.modPage k f).sec = s.sec := rfl
@[simp] theorem State.modPage_bellows (s : State) (k : Nat) (f : Page → Page) : (s.modPage k f).bellows = s.bellows := rfl
@[simp] theorem State.modPage_twin (s : State) (k : Nat) (f : Page → Page) : (s.modPage k f).twin = s.twin := rfl
@[simp] theorem State.modPage_free (s : State) (k : Nat) (f : Page → Page) : (s.modPage k f).free = s.free := rfl
theorem State.page_modPage (s : State) (k j : Nat) (f : Page → Page) : (s.modPage k f).page j = if j = k then f (s.page k) else s.page j :=
  tget_tmod _ _ _ _ _
@[simp] theorem State.page_modPage_same (s : State) (k : Nat) (f : Page → Page) : (s.modPage k f).page k = f (s.page k) := by simp [State.page_modPage]
@[simp] theorem State.part_modPage (s : State) (k j : Nat) (f : Page → Page) : (s.modPage k f).part j = s.part j := rfl
@[simp] theorem State.ext_modPage (s : State) (k j : Nat) (f : Page → Page) : (s.modPage k f).ext j = s.ext j := rfl
@[simp] theorem State.seal_modPage (s : State) (k j : Nat) (f : Page → Page) : (s.modPage k f).seal j = s.seal j := rfl
@[simp] theorem State.forge_modPage (s : State) (k j : Nat) (f : Page → Page) : (s.modPage k f).forge j = s.forge j := rfl
@[simp] theorem State.tag_modPage (s : State) (k j : Nat) (f : Page → Page) : (s.modPage k f).tag j = s.tag j := rfl
@[simp] theorem State.stack_modPage (s : State) (k j : Nat) (f : Page → Page) : (s.modPage k f).stack j = s.stack j := rfl
@[simp] theorem State.bulkCh_modPage (s : State) (k j : Nat) (f : Page → Page) : (s.modPage k f).bulkCh j = s.bulkCh j := rfl
@[simp] theorem State.unit_modPage (s : State) (k j : Nat) (f : Page → Page) : (s.modPage k f).unit j = s.unit j := rfl
@[simp] theorem State.queue_modPage (s : State) (k j : Nat) (f : Page → Page) : (s.modPage k f).queue j = s.queue j := rfl
@[simp] theorem State.walker_modPage (s : State) (k j : Nat) (f : Page → Page) : (s.modPage k f).walker j = s.walker j := rfl
@[simp] theorem State.background_modPage (s : State) (k j : Nat) (f : Page → Page) : (s.modPage k f).background j = s.background j := rfl
@[simp] theorem State.melt_modPage (s : State) (k j : Nat) (f : Page → Page) : (s.modPage k f).melt j = s.melt j := rfl
@[simp] theorem State.anvil_modPage (s : State) (k j : Nat) (f : Page → Page) : (s.modPage k f).anvil j = s.anvil j := rfl
@[simp] theorem State.ctx_modPage (s : State) (k j : Nat) (f : Page → Page) : (s.modPage k f).ctx j = s.ctx j := rfl
@[simp] theorem State.port_modPage (s : State) (k j : Nat) (f : Page → Page) : (s.modPage k f).port j = s.port j := rfl
@[simp] theorem State.egress_modPage (s : State) (k j : Nat) (f : Page → Page) : (s.modPage k f).egress j = s.egress j := rfl
@[simp] theorem State.head_modPage (s : State) (k j : Nat) (f : Page → Page) : (s.modPage k f).head j = s.head j := rfl
@[simp] theorem State.source_modPage (s : State) (k j : Nat) (f : Page → Page) : (s.modPage k f).source j = s.source j := rfl
@[simp] theorem State.target_modPage (s : State) (k j : Nat) (f : Page → Page) : (s.modPage k f).target j = s.target j := rfl
@[simp] theorem State.reason_modPage (s : State) (k j : Nat) (f : Page → Page) : (s.modPage k f).reason j = s.reason j := rfl
@[simp] theorem State.epoch_modPage (s : State) (k j : Nat) (f : Page → Page) : (s.modPage k f).epoch j = s.epoch j := rfl

/-! ### modSource -/

@[simp] theorem State.modSource_pending (s : State) (k : Nat) (f : Source → Source) : (s.modSource k f).pending = s.pending := rfl
@[simp] theorem State.modSource_pins (s : State) (k : Nat) (f : Source → Source) : (s.modSource k f).pins = s.pins := rfl
@[simp] theorem State.modSource_boot (s : State) (k : Nat) (f : Source → Source) : (s.modSource k f).boot = s.boot := rfl
@[simp] theorem State.modSource_heat (s : State) (k : Nat) (f : Source → Source) : (s.modSource k f).heat = s.heat := rfl
@[simp] theorem State.modSource_hearth (s : State) (k : Nat) (f : Source → Source) : (s.modSource k f).hearth = s.hearth := rfl
@[simp] theorem State.modSource_parts (s : State) (k : Nat) (f : Source → Source) : (s.modSource k f).parts = s.parts := rfl
@[simp] theorem State.modSource_tiers (s : State) (k : Nat) (f : Source → Source) : (s.modSource k f).tiers = s.tiers := rfl
@[simp] theorem State.modSource_dram (s : State) (k : Nat) (f : Source → Source) : (s.modSource k f).dram = s.dram := rfl
@[simp] theorem State.modSource_crucibles (s : State) (k : Nat) (f : Source → Source) : (s.modSource k f).crucibles = s.crucibles := rfl
@[simp] theorem State.modSource_anvils (s : State) (k : Nat) (f : Source → Source) : (s.modSource k f).anvils = s.anvils := rfl
@[simp] theorem State.modSource_tongs (s : State) (k : Nat) (f : Source → Source) : (s.modSource k f).tongs = s.tongs := rfl
@[simp] theorem State.modSource_coh (s : State) (k : Nat) (f : Source → Source) : (s.modSource k f).coh = s.coh := rfl
@[simp] theorem State.modSource_ports (s : State) (k : Nat) (f : Source → Source) : (s.modSource k f).ports = s.ports := rfl
@[simp] theorem State.modSource_routing (s : State) (k : Nat) (f : Source → Source) : (s.modSource k f).routing = s.routing := rfl
@[simp] theorem State.modSource_cxl (s : State) (k : Nat) (f : Source → Source) : (s.modSource k f).cxl = s.cxl := rfl
@[simp] theorem State.modSource_sec (s : State) (k : Nat) (f : Source → Source) : (s.modSource k f).sec = s.sec := rfl
@[simp] theorem State.modSource_bellows (s : State) (k : Nat) (f : Source → Source) : (s.modSource k f).bellows = s.bellows := rfl
@[simp] theorem State.modSource_twin (s : State) (k : Nat) (f : Source → Source) : (s.modSource k f).twin = s.twin := rfl
@[simp] theorem State.modSource_free (s : State) (k : Nat) (f : Source → Source) : (s.modSource k f).free = s.free := rfl
theorem State.source_modSource (s : State) (k j : Nat) (f : Source → Source) : (s.modSource k f).source j = if j = k then f (s.source k) else s.source j :=
  tget_tmod _ _ _ _ _
@[simp] theorem State.source_modSource_same (s : State) (k : Nat) (f : Source → Source) : (s.modSource k f).source k = f (s.source k) := by simp [State.source_modSource]
@[simp] theorem State.part_modSource (s : State) (k j : Nat) (f : Source → Source) : (s.modSource k f).part j = s.part j := rfl
@[simp] theorem State.ext_modSource (s : State) (k j : Nat) (f : Source → Source) : (s.modSource k f).ext j = s.ext j := rfl
@[simp] theorem State.seal_modSource (s : State) (k j : Nat) (f : Source → Source) : (s.modSource k f).seal j = s.seal j := rfl
@[simp] theorem State.forge_modSource (s : State) (k j : Nat) (f : Source → Source) : (s.modSource k f).forge j = s.forge j := rfl
@[simp] theorem State.tag_modSource (s : State) (k j : Nat) (f : Source → Source) : (s.modSource k f).tag j = s.tag j := rfl
@[simp] theorem State.stack_modSource (s : State) (k j : Nat) (f : Source → Source) : (s.modSource k f).stack j = s.stack j := rfl
@[simp] theorem State.bulkCh_modSource (s : State) (k j : Nat) (f : Source → Source) : (s.modSource k f).bulkCh j = s.bulkCh j := rfl
@[simp] theorem State.unit_modSource (s : State) (k j : Nat) (f : Source → Source) : (s.modSource k f).unit j = s.unit j := rfl
@[simp] theorem State.queue_modSource (s : State) (k j : Nat) (f : Source → Source) : (s.modSource k f).queue j = s.queue j := rfl
@[simp] theorem State.walker_modSource (s : State) (k j : Nat) (f : Source → Source) : (s.modSource k f).walker j = s.walker j := rfl
@[simp] theorem State.background_modSource (s : State) (k j : Nat) (f : Source → Source) : (s.modSource k f).background j = s.background j := rfl
@[simp] theorem State.melt_modSource (s : State) (k j : Nat) (f : Source → Source) : (s.modSource k f).melt j = s.melt j := rfl
@[simp] theorem State.anvil_modSource (s : State) (k j : Nat) (f : Source → Source) : (s.modSource k f).anvil j = s.anvil j := rfl
@[simp] theorem State.ctx_modSource (s : State) (k j : Nat) (f : Source → Source) : (s.modSource k f).ctx j = s.ctx j := rfl
@[simp] theorem State.port_modSource (s : State) (k j : Nat) (f : Source → Source) : (s.modSource k f).port j = s.port j := rfl
@[simp] theorem State.egress_modSource (s : State) (k j : Nat) (f : Source → Source) : (s.modSource k f).egress j = s.egress j := rfl
@[simp] theorem State.head_modSource (s : State) (k j : Nat) (f : Source → Source) : (s.modSource k f).head j = s.head j := rfl
@[simp] theorem State.page_modSource (s : State) (k j : Nat) (f : Source → Source) : (s.modSource k f).page j = s.page j := rfl
@[simp] theorem State.target_modSource (s : State) (k j : Nat) (f : Source → Source) : (s.modSource k f).target j = s.target j := rfl
@[simp] theorem State.reason_modSource (s : State) (k j : Nat) (f : Source → Source) : (s.modSource k f).reason j = s.reason j := rfl
@[simp] theorem State.epoch_modSource (s : State) (k j : Nat) (f : Source → Source) : (s.modSource k f).epoch j = s.epoch j := rfl

/-! ### modTarget -/

@[simp] theorem State.modTarget_pending (s : State) (k : Nat) (f : Target → Target) : (s.modTarget k f).pending = s.pending := rfl
@[simp] theorem State.modTarget_pins (s : State) (k : Nat) (f : Target → Target) : (s.modTarget k f).pins = s.pins := rfl
@[simp] theorem State.modTarget_boot (s : State) (k : Nat) (f : Target → Target) : (s.modTarget k f).boot = s.boot := rfl
@[simp] theorem State.modTarget_heat (s : State) (k : Nat) (f : Target → Target) : (s.modTarget k f).heat = s.heat := rfl
@[simp] theorem State.modTarget_hearth (s : State) (k : Nat) (f : Target → Target) : (s.modTarget k f).hearth = s.hearth := rfl
@[simp] theorem State.modTarget_parts (s : State) (k : Nat) (f : Target → Target) : (s.modTarget k f).parts = s.parts := rfl
@[simp] theorem State.modTarget_tiers (s : State) (k : Nat) (f : Target → Target) : (s.modTarget k f).tiers = s.tiers := rfl
@[simp] theorem State.modTarget_dram (s : State) (k : Nat) (f : Target → Target) : (s.modTarget k f).dram = s.dram := rfl
@[simp] theorem State.modTarget_crucibles (s : State) (k : Nat) (f : Target → Target) : (s.modTarget k f).crucibles = s.crucibles := rfl
@[simp] theorem State.modTarget_anvils (s : State) (k : Nat) (f : Target → Target) : (s.modTarget k f).anvils = s.anvils := rfl
@[simp] theorem State.modTarget_tongs (s : State) (k : Nat) (f : Target → Target) : (s.modTarget k f).tongs = s.tongs := rfl
@[simp] theorem State.modTarget_coh (s : State) (k : Nat) (f : Target → Target) : (s.modTarget k f).coh = s.coh := rfl
@[simp] theorem State.modTarget_ports (s : State) (k : Nat) (f : Target → Target) : (s.modTarget k f).ports = s.ports := rfl
@[simp] theorem State.modTarget_routing (s : State) (k : Nat) (f : Target → Target) : (s.modTarget k f).routing = s.routing := rfl
@[simp] theorem State.modTarget_cxl (s : State) (k : Nat) (f : Target → Target) : (s.modTarget k f).cxl = s.cxl := rfl
@[simp] theorem State.modTarget_sec (s : State) (k : Nat) (f : Target → Target) : (s.modTarget k f).sec = s.sec := rfl
@[simp] theorem State.modTarget_bellows (s : State) (k : Nat) (f : Target → Target) : (s.modTarget k f).bellows = s.bellows := rfl
@[simp] theorem State.modTarget_twin (s : State) (k : Nat) (f : Target → Target) : (s.modTarget k f).twin = s.twin := rfl
@[simp] theorem State.modTarget_free (s : State) (k : Nat) (f : Target → Target) : (s.modTarget k f).free = s.free := rfl
theorem State.target_modTarget (s : State) (k j : Nat) (f : Target → Target) : (s.modTarget k f).target j = if j = k then f (s.target k) else s.target j :=
  tget_tmod _ _ _ _ _
@[simp] theorem State.target_modTarget_same (s : State) (k : Nat) (f : Target → Target) : (s.modTarget k f).target k = f (s.target k) := by simp [State.target_modTarget]
@[simp] theorem State.part_modTarget (s : State) (k j : Nat) (f : Target → Target) : (s.modTarget k f).part j = s.part j := rfl
@[simp] theorem State.ext_modTarget (s : State) (k j : Nat) (f : Target → Target) : (s.modTarget k f).ext j = s.ext j := rfl
@[simp] theorem State.seal_modTarget (s : State) (k j : Nat) (f : Target → Target) : (s.modTarget k f).seal j = s.seal j := rfl
@[simp] theorem State.forge_modTarget (s : State) (k j : Nat) (f : Target → Target) : (s.modTarget k f).forge j = s.forge j := rfl
@[simp] theorem State.tag_modTarget (s : State) (k j : Nat) (f : Target → Target) : (s.modTarget k f).tag j = s.tag j := rfl
@[simp] theorem State.stack_modTarget (s : State) (k j : Nat) (f : Target → Target) : (s.modTarget k f).stack j = s.stack j := rfl
@[simp] theorem State.bulkCh_modTarget (s : State) (k j : Nat) (f : Target → Target) : (s.modTarget k f).bulkCh j = s.bulkCh j := rfl
@[simp] theorem State.unit_modTarget (s : State) (k j : Nat) (f : Target → Target) : (s.modTarget k f).unit j = s.unit j := rfl
@[simp] theorem State.queue_modTarget (s : State) (k j : Nat) (f : Target → Target) : (s.modTarget k f).queue j = s.queue j := rfl
@[simp] theorem State.walker_modTarget (s : State) (k j : Nat) (f : Target → Target) : (s.modTarget k f).walker j = s.walker j := rfl
@[simp] theorem State.background_modTarget (s : State) (k j : Nat) (f : Target → Target) : (s.modTarget k f).background j = s.background j := rfl
@[simp] theorem State.melt_modTarget (s : State) (k j : Nat) (f : Target → Target) : (s.modTarget k f).melt j = s.melt j := rfl
@[simp] theorem State.anvil_modTarget (s : State) (k j : Nat) (f : Target → Target) : (s.modTarget k f).anvil j = s.anvil j := rfl
@[simp] theorem State.ctx_modTarget (s : State) (k j : Nat) (f : Target → Target) : (s.modTarget k f).ctx j = s.ctx j := rfl
@[simp] theorem State.port_modTarget (s : State) (k j : Nat) (f : Target → Target) : (s.modTarget k f).port j = s.port j := rfl
@[simp] theorem State.egress_modTarget (s : State) (k j : Nat) (f : Target → Target) : (s.modTarget k f).egress j = s.egress j := rfl
@[simp] theorem State.head_modTarget (s : State) (k j : Nat) (f : Target → Target) : (s.modTarget k f).head j = s.head j := rfl
@[simp] theorem State.page_modTarget (s : State) (k j : Nat) (f : Target → Target) : (s.modTarget k f).page j = s.page j := rfl
@[simp] theorem State.source_modTarget (s : State) (k j : Nat) (f : Target → Target) : (s.modTarget k f).source j = s.source j := rfl
@[simp] theorem State.reason_modTarget (s : State) (k j : Nat) (f : Target → Target) : (s.modTarget k f).reason j = s.reason j := rfl
@[simp] theorem State.epoch_modTarget (s : State) (k j : Nat) (f : Target → Target) : (s.modTarget k f).epoch j = s.epoch j := rfl

/-! ### modReason -/

@[simp] theorem State.modReason_pending (s : State) (k : Nat) (f : Reason → Reason) : (s.modReason k f).pending = s.pending := rfl
@[simp] theorem State.modReason_pins (s : State) (k : Nat) (f : Reason → Reason) : (s.modReason k f).pins = s.pins := rfl
@[simp] theorem State.modReason_boot (s : State) (k : Nat) (f : Reason → Reason) : (s.modReason k f).boot = s.boot := rfl
@[simp] theorem State.modReason_heat (s : State) (k : Nat) (f : Reason → Reason) : (s.modReason k f).heat = s.heat := rfl
@[simp] theorem State.modReason_hearth (s : State) (k : Nat) (f : Reason → Reason) : (s.modReason k f).hearth = s.hearth := rfl
@[simp] theorem State.modReason_starter (s : State) (k : Nat) (f : Reason → Reason) : (s.modReason k f).starter = s.starter := rfl
@[simp] theorem State.modReason_parts (s : State) (k : Nat) (f : Reason → Reason) : (s.modReason k f).parts = s.parts := rfl
@[simp] theorem State.modReason_tiers (s : State) (k : Nat) (f : Reason → Reason) : (s.modReason k f).tiers = s.tiers := rfl
@[simp] theorem State.modReason_dram (s : State) (k : Nat) (f : Reason → Reason) : (s.modReason k f).dram = s.dram := rfl
@[simp] theorem State.modReason_crucibles (s : State) (k : Nat) (f : Reason → Reason) : (s.modReason k f).crucibles = s.crucibles := rfl
@[simp] theorem State.modReason_anvils (s : State) (k : Nat) (f : Reason → Reason) : (s.modReason k f).anvils = s.anvils := rfl
@[simp] theorem State.modReason_tongs (s : State) (k : Nat) (f : Reason → Reason) : (s.modReason k f).tongs = s.tongs := rfl
@[simp] theorem State.modReason_coh (s : State) (k : Nat) (f : Reason → Reason) : (s.modReason k f).coh = s.coh := rfl
@[simp] theorem State.modReason_ports (s : State) (k : Nat) (f : Reason → Reason) : (s.modReason k f).ports = s.ports := rfl
@[simp] theorem State.modReason_routing (s : State) (k : Nat) (f : Reason → Reason) : (s.modReason k f).routing = s.routing := rfl
@[simp] theorem State.modReason_cxl (s : State) (k : Nat) (f : Reason → Reason) : (s.modReason k f).cxl = s.cxl := rfl
@[simp] theorem State.modReason_sec (s : State) (k : Nat) (f : Reason → Reason) : (s.modReason k f).sec = s.sec := rfl
@[simp] theorem State.modReason_twin (s : State) (k : Nat) (f : Reason → Reason) : (s.modReason k f).twin = s.twin := rfl
@[simp] theorem State.modReason_free (s : State) (k : Nat) (f : Reason → Reason) : (s.modReason k f).free = s.free := rfl
theorem State.reason_modReason (s : State) (k j : Nat) (f : Reason → Reason) : (s.modReason k f).reason j = if j = k then f (s.reason k) else s.reason j :=
  tget_tmod _ _ _ _ _
@[simp] theorem State.reason_modReason_same (s : State) (k : Nat) (f : Reason → Reason) : (s.modReason k f).reason k = f (s.reason k) := by simp [State.reason_modReason]
@[simp] theorem State.part_modReason (s : State) (k j : Nat) (f : Reason → Reason) : (s.modReason k f).part j = s.part j := rfl
@[simp] theorem State.ext_modReason (s : State) (k j : Nat) (f : Reason → Reason) : (s.modReason k f).ext j = s.ext j := rfl
@[simp] theorem State.seal_modReason (s : State) (k j : Nat) (f : Reason → Reason) : (s.modReason k f).seal j = s.seal j := rfl
@[simp] theorem State.forge_modReason (s : State) (k j : Nat) (f : Reason → Reason) : (s.modReason k f).forge j = s.forge j := rfl
@[simp] theorem State.tag_modReason (s : State) (k j : Nat) (f : Reason → Reason) : (s.modReason k f).tag j = s.tag j := rfl
@[simp] theorem State.stack_modReason (s : State) (k j : Nat) (f : Reason → Reason) : (s.modReason k f).stack j = s.stack j := rfl
@[simp] theorem State.bulkCh_modReason (s : State) (k j : Nat) (f : Reason → Reason) : (s.modReason k f).bulkCh j = s.bulkCh j := rfl
@[simp] theorem State.unit_modReason (s : State) (k j : Nat) (f : Reason → Reason) : (s.modReason k f).unit j = s.unit j := rfl
@[simp] theorem State.queue_modReason (s : State) (k j : Nat) (f : Reason → Reason) : (s.modReason k f).queue j = s.queue j := rfl
@[simp] theorem State.walker_modReason (s : State) (k j : Nat) (f : Reason → Reason) : (s.modReason k f).walker j = s.walker j := rfl
@[simp] theorem State.background_modReason (s : State) (k j : Nat) (f : Reason → Reason) : (s.modReason k f).background j = s.background j := rfl
@[simp] theorem State.melt_modReason (s : State) (k j : Nat) (f : Reason → Reason) : (s.modReason k f).melt j = s.melt j := rfl
@[simp] theorem State.anvil_modReason (s : State) (k j : Nat) (f : Reason → Reason) : (s.modReason k f).anvil j = s.anvil j := rfl
@[simp] theorem State.ctx_modReason (s : State) (k j : Nat) (f : Reason → Reason) : (s.modReason k f).ctx j = s.ctx j := rfl
@[simp] theorem State.port_modReason (s : State) (k j : Nat) (f : Reason → Reason) : (s.modReason k f).port j = s.port j := rfl
@[simp] theorem State.egress_modReason (s : State) (k j : Nat) (f : Reason → Reason) : (s.modReason k f).egress j = s.egress j := rfl
@[simp] theorem State.head_modReason (s : State) (k j : Nat) (f : Reason → Reason) : (s.modReason k f).head j = s.head j := rfl
@[simp] theorem State.page_modReason (s : State) (k j : Nat) (f : Reason → Reason) : (s.modReason k f).page j = s.page j := rfl
@[simp] theorem State.source_modReason (s : State) (k j : Nat) (f : Reason → Reason) : (s.modReason k f).source j = s.source j := rfl
@[simp] theorem State.target_modReason (s : State) (k j : Nat) (f : Reason → Reason) : (s.modReason k f).target j = s.target j := rfl
@[simp] theorem State.epoch_modReason (s : State) (k j : Nat) (f : Reason → Reason) : (s.modReason k f).epoch j = s.epoch j := rfl

/-! ### modEpoch -/

@[simp] theorem State.modEpoch_pending (s : State) (k : Nat) (f : Epoch → Epoch) : (s.modEpoch k f).pending = s.pending := rfl
@[simp] theorem State.modEpoch_pins (s : State) (k : Nat) (f : Epoch → Epoch) : (s.modEpoch k f).pins = s.pins := rfl
@[simp] theorem State.modEpoch_boot (s : State) (k : Nat) (f : Epoch → Epoch) : (s.modEpoch k f).boot = s.boot := rfl
@[simp] theorem State.modEpoch_heat (s : State) (k : Nat) (f : Epoch → Epoch) : (s.modEpoch k f).heat = s.heat := rfl
@[simp] theorem State.modEpoch_hearth (s : State) (k : Nat) (f : Epoch → Epoch) : (s.modEpoch k f).hearth = s.hearth := rfl
@[simp] theorem State.modEpoch_starter (s : State) (k : Nat) (f : Epoch → Epoch) : (s.modEpoch k f).starter = s.starter := rfl
@[simp] theorem State.modEpoch_parts (s : State) (k : Nat) (f : Epoch → Epoch) : (s.modEpoch k f).parts = s.parts := rfl
@[simp] theorem State.modEpoch_tiers (s : State) (k : Nat) (f : Epoch → Epoch) : (s.modEpoch k f).tiers = s.tiers := rfl
@[simp] theorem State.modEpoch_dram (s : State) (k : Nat) (f : Epoch → Epoch) : (s.modEpoch k f).dram = s.dram := rfl
@[simp] theorem State.modEpoch_crucibles (s : State) (k : Nat) (f : Epoch → Epoch) : (s.modEpoch k f).crucibles = s.crucibles := rfl
@[simp] theorem State.modEpoch_anvils (s : State) (k : Nat) (f : Epoch → Epoch) : (s.modEpoch k f).anvils = s.anvils := rfl
@[simp] theorem State.modEpoch_tongs (s : State) (k : Nat) (f : Epoch → Epoch) : (s.modEpoch k f).tongs = s.tongs := rfl
@[simp] theorem State.modEpoch_coh (s : State) (k : Nat) (f : Epoch → Epoch) : (s.modEpoch k f).coh = s.coh := rfl
@[simp] theorem State.modEpoch_ports (s : State) (k : Nat) (f : Epoch → Epoch) : (s.modEpoch k f).ports = s.ports := rfl
@[simp] theorem State.modEpoch_routing (s : State) (k : Nat) (f : Epoch → Epoch) : (s.modEpoch k f).routing = s.routing := rfl
@[simp] theorem State.modEpoch_cxl (s : State) (k : Nat) (f : Epoch → Epoch) : (s.modEpoch k f).cxl = s.cxl := rfl
@[simp] theorem State.modEpoch_sec (s : State) (k : Nat) (f : Epoch → Epoch) : (s.modEpoch k f).sec = s.sec := rfl
@[simp] theorem State.modEpoch_bellows (s : State) (k : Nat) (f : Epoch → Epoch) : (s.modEpoch k f).bellows = s.bellows := rfl
@[simp] theorem State.modEpoch_free (s : State) (k : Nat) (f : Epoch → Epoch) : (s.modEpoch k f).free = s.free := rfl
theorem State.epoch_modEpoch (s : State) (k j : Nat) (f : Epoch → Epoch) : (s.modEpoch k f).epoch j = if j = k then f (s.epoch k) else s.epoch j :=
  tget_tmod _ _ _ _ _
@[simp] theorem State.epoch_modEpoch_same (s : State) (k : Nat) (f : Epoch → Epoch) : (s.modEpoch k f).epoch k = f (s.epoch k) := by simp [State.epoch_modEpoch]
@[simp] theorem State.part_modEpoch (s : State) (k j : Nat) (f : Epoch → Epoch) : (s.modEpoch k f).part j = s.part j := rfl
@[simp] theorem State.ext_modEpoch (s : State) (k j : Nat) (f : Epoch → Epoch) : (s.modEpoch k f).ext j = s.ext j := rfl
@[simp] theorem State.seal_modEpoch (s : State) (k j : Nat) (f : Epoch → Epoch) : (s.modEpoch k f).seal j = s.seal j := rfl
@[simp] theorem State.forge_modEpoch (s : State) (k j : Nat) (f : Epoch → Epoch) : (s.modEpoch k f).forge j = s.forge j := rfl
@[simp] theorem State.tag_modEpoch (s : State) (k j : Nat) (f : Epoch → Epoch) : (s.modEpoch k f).tag j = s.tag j := rfl
@[simp] theorem State.stack_modEpoch (s : State) (k j : Nat) (f : Epoch → Epoch) : (s.modEpoch k f).stack j = s.stack j := rfl
@[simp] theorem State.bulkCh_modEpoch (s : State) (k j : Nat) (f : Epoch → Epoch) : (s.modEpoch k f).bulkCh j = s.bulkCh j := rfl
@[simp] theorem State.unit_modEpoch (s : State) (k j : Nat) (f : Epoch → Epoch) : (s.modEpoch k f).unit j = s.unit j := rfl
@[simp] theorem State.queue_modEpoch (s : State) (k j : Nat) (f : Epoch → Epoch) : (s.modEpoch k f).queue j = s.queue j := rfl
@[simp] theorem State.walker_modEpoch (s : State) (k j : Nat) (f : Epoch → Epoch) : (s.modEpoch k f).walker j = s.walker j := rfl
@[simp] theorem State.background_modEpoch (s : State) (k j : Nat) (f : Epoch → Epoch) : (s.modEpoch k f).background j = s.background j := rfl
@[simp] theorem State.melt_modEpoch (s : State) (k j : Nat) (f : Epoch → Epoch) : (s.modEpoch k f).melt j = s.melt j := rfl
@[simp] theorem State.anvil_modEpoch (s : State) (k j : Nat) (f : Epoch → Epoch) : (s.modEpoch k f).anvil j = s.anvil j := rfl
@[simp] theorem State.ctx_modEpoch (s : State) (k j : Nat) (f : Epoch → Epoch) : (s.modEpoch k f).ctx j = s.ctx j := rfl
@[simp] theorem State.port_modEpoch (s : State) (k j : Nat) (f : Epoch → Epoch) : (s.modEpoch k f).port j = s.port j := rfl
@[simp] theorem State.egress_modEpoch (s : State) (k j : Nat) (f : Epoch → Epoch) : (s.modEpoch k f).egress j = s.egress j := rfl
@[simp] theorem State.head_modEpoch (s : State) (k j : Nat) (f : Epoch → Epoch) : (s.modEpoch k f).head j = s.head j := rfl
@[simp] theorem State.page_modEpoch (s : State) (k j : Nat) (f : Epoch → Epoch) : (s.modEpoch k f).page j = s.page j := rfl
@[simp] theorem State.source_modEpoch (s : State) (k j : Nat) (f : Epoch → Epoch) : (s.modEpoch k f).source j = s.source j := rfl
@[simp] theorem State.target_modEpoch (s : State) (k j : Nat) (f : Epoch → Epoch) : (s.modEpoch k f).target j = s.target j := rfl
@[simp] theorem State.reason_modEpoch (s : State) (k j : Nat) (f : Epoch → Epoch) : (s.modEpoch k f).reason j = s.reason j := rfl

/-! ### countForge -/

@[simp] theorem State.countForge_pending (s : State) (a k n : Nat) : (s.countForge a k n).pending = s.pending := rfl
@[simp] theorem State.countForge_pins (s : State) (a k n : Nat) : (s.countForge a k n).pins = s.pins := rfl
@[simp] theorem State.countForge_boot (s : State) (a k n : Nat) : (s.countForge a k n).boot = s.boot := rfl
@[simp] theorem State.countForge_heat (s : State) (a k n : Nat) : (s.countForge a k n).heat = s.heat := rfl
@[simp] theorem State.countForge_hearth (s : State) (a k n : Nat) : (s.countForge a k n).hearth = s.hearth := rfl
@[simp] theorem State.countForge_starter (s : State) (a k n : Nat) : (s.countForge a k n).starter = s.starter := rfl
@[simp] theorem State.countForge_parts (s : State) (a k n : Nat) : (s.countForge a k n).parts = s.parts := rfl
@[simp] theorem State.countForge_dram (s : State) (a k n : Nat) : (s.countForge a k n).dram = s.dram := rfl
@[simp] theorem State.countForge_crucibles (s : State) (a k n : Nat) : (s.countForge a k n).crucibles = s.crucibles := rfl
@[simp] theorem State.countForge_anvils (s : State) (a k n : Nat) : (s.countForge a k n).anvils = s.anvils := rfl
@[simp] theorem State.countForge_tongs (s : State) (a k n : Nat) : (s.countForge a k n).tongs = s.tongs := rfl
@[simp] theorem State.countForge_coh (s : State) (a k n : Nat) : (s.countForge a k n).coh = s.coh := rfl
@[simp] theorem State.countForge_ports (s : State) (a k n : Nat) : (s.countForge a k n).ports = s.ports := rfl
@[simp] theorem State.countForge_routing (s : State) (a k n : Nat) : (s.countForge a k n).routing = s.routing := rfl
@[simp] theorem State.countForge_cxl (s : State) (a k n : Nat) : (s.countForge a k n).cxl = s.cxl := rfl
@[simp] theorem State.countForge_sec (s : State) (a k n : Nat) : (s.countForge a k n).sec = s.sec := rfl
@[simp] theorem State.countForge_bellows (s : State) (a k n : Nat) : (s.countForge a k n).bellows = s.bellows := rfl
@[simp] theorem State.countForge_twin (s : State) (a k n : Nat) : (s.countForge a k n).twin = s.twin := rfl
@[simp] theorem State.countForge_free (s : State) (a k n : Nat) : (s.countForge a k n).free = s.free := rfl

/-! ### countAnvil -/

@[simp] theorem State.countAnvil_pending (s : State) (a k n : Nat) : (s.countAnvil a k n).pending = s.pending := rfl
@[simp] theorem State.countAnvil_pins (s : State) (a k n : Nat) : (s.countAnvil a k n).pins = s.pins := rfl
@[simp] theorem State.countAnvil_boot (s : State) (a k n : Nat) : (s.countAnvil a k n).boot = s.boot := rfl
@[simp] theorem State.countAnvil_heat (s : State) (a k n : Nat) : (s.countAnvil a k n).heat = s.heat := rfl
@[simp] theorem State.countAnvil_hearth (s : State) (a k n : Nat) : (s.countAnvil a k n).hearth = s.hearth := rfl
@[simp] theorem State.countAnvil_starter (s : State) (a k n : Nat) : (s.countAnvil a k n).starter = s.starter := rfl
@[simp] theorem State.countAnvil_parts (s : State) (a k n : Nat) : (s.countAnvil a k n).parts = s.parts := rfl
@[simp] theorem State.countAnvil_tiers (s : State) (a k n : Nat) : (s.countAnvil a k n).tiers = s.tiers := rfl
@[simp] theorem State.countAnvil_dram (s : State) (a k n : Nat) : (s.countAnvil a k n).dram = s.dram := rfl
@[simp] theorem State.countAnvil_crucibles (s : State) (a k n : Nat) : (s.countAnvil a k n).crucibles = s.crucibles := rfl
@[simp] theorem State.countAnvil_tongs (s : State) (a k n : Nat) : (s.countAnvil a k n).tongs = s.tongs := rfl
@[simp] theorem State.countAnvil_coh (s : State) (a k n : Nat) : (s.countAnvil a k n).coh = s.coh := rfl
@[simp] theorem State.countAnvil_ports (s : State) (a k n : Nat) : (s.countAnvil a k n).ports = s.ports := rfl
@[simp] theorem State.countAnvil_routing (s : State) (a k n : Nat) : (s.countAnvil a k n).routing = s.routing := rfl
@[simp] theorem State.countAnvil_cxl (s : State) (a k n : Nat) : (s.countAnvil a k n).cxl = s.cxl := rfl
@[simp] theorem State.countAnvil_sec (s : State) (a k n : Nat) : (s.countAnvil a k n).sec = s.sec := rfl
@[simp] theorem State.countAnvil_bellows (s : State) (a k n : Nat) : (s.countAnvil a k n).bellows = s.bellows := rfl
@[simp] theorem State.countAnvil_twin (s : State) (a k n : Nat) : (s.countAnvil a k n).twin = s.twin := rfl
@[simp] theorem State.countAnvil_free (s : State) (a k n : Nat) : (s.countAnvil a k n).free = s.free := rfl

/-! ### countPort -/

@[simp] theorem State.countPort_pending (s : State) (a k n : Nat) : (s.countPort a k n).pending = s.pending := rfl
@[simp] theorem State.countPort_pins (s : State) (a k n : Nat) : (s.countPort a k n).pins = s.pins := rfl
@[simp] theorem State.countPort_boot (s : State) (a k n : Nat) : (s.countPort a k n).boot = s.boot := rfl
@[simp] theorem State.countPort_heat (s : State) (a k n : Nat) : (s.countPort a k n).heat = s.heat := rfl
@[simp] theorem State.countPort_hearth (s : State) (a k n : Nat) : (s.countPort a k n).hearth = s.hearth := rfl
@[simp] theorem State.countPort_starter (s : State) (a k n : Nat) : (s.countPort a k n).starter = s.starter := rfl
@[simp] theorem State.countPort_parts (s : State) (a k n : Nat) : (s.countPort a k n).parts = s.parts := rfl
@[simp] theorem State.countPort_tiers (s : State) (a k n : Nat) : (s.countPort a k n).tiers = s.tiers := rfl
@[simp] theorem State.countPort_dram (s : State) (a k n : Nat) : (s.countPort a k n).dram = s.dram := rfl
@[simp] theorem State.countPort_crucibles (s : State) (a k n : Nat) : (s.countPort a k n).crucibles = s.crucibles := rfl
@[simp] theorem State.countPort_anvils (s : State) (a k n : Nat) : (s.countPort a k n).anvils = s.anvils := rfl
@[simp] theorem State.countPort_tongs (s : State) (a k n : Nat) : (s.countPort a k n).tongs = s.tongs := rfl
@[simp] theorem State.countPort_coh (s : State) (a k n : Nat) : (s.countPort a k n).coh = s.coh := rfl
@[simp] theorem State.countPort_routing (s : State) (a k n : Nat) : (s.countPort a k n).routing = s.routing := rfl
@[simp] theorem State.countPort_cxl (s : State) (a k n : Nat) : (s.countPort a k n).cxl = s.cxl := rfl
@[simp] theorem State.countPort_sec (s : State) (a k n : Nat) : (s.countPort a k n).sec = s.sec := rfl
@[simp] theorem State.countPort_bellows (s : State) (a k n : Nat) : (s.countPort a k n).bellows = s.bellows := rfl
@[simp] theorem State.countPort_twin (s : State) (a k n : Nat) : (s.countPort a k n).twin = s.twin := rfl
@[simp] theorem State.countPort_free (s : State) (a k n : Nat) : (s.countPort a k n).free = s.free := rfl

/-! ### countQueue -/

@[simp] theorem State.countQueue_pending (s : State) (a k n : Nat) : (s.countQueue a k n).pending = s.pending := rfl
@[simp] theorem State.countQueue_pins (s : State) (a k n : Nat) : (s.countQueue a k n).pins = s.pins := rfl
@[simp] theorem State.countQueue_boot (s : State) (a k n : Nat) : (s.countQueue a k n).boot = s.boot := rfl
@[simp] theorem State.countQueue_heat (s : State) (a k n : Nat) : (s.countQueue a k n).heat = s.heat := rfl
@[simp] theorem State.countQueue_hearth (s : State) (a k n : Nat) : (s.countQueue a k n).hearth = s.hearth := rfl
@[simp] theorem State.countQueue_starter (s : State) (a k n : Nat) : (s.countQueue a k n).starter = s.starter := rfl
@[simp] theorem State.countQueue_parts (s : State) (a k n : Nat) : (s.countQueue a k n).parts = s.parts := rfl
@[simp] theorem State.countQueue_tiers (s : State) (a k n : Nat) : (s.countQueue a k n).tiers = s.tiers := rfl
@[simp] theorem State.countQueue_dram (s : State) (a k n : Nat) : (s.countQueue a k n).dram = s.dram := rfl
@[simp] theorem State.countQueue_crucibles (s : State) (a k n : Nat) : (s.countQueue a k n).crucibles = s.crucibles := rfl
@[simp] theorem State.countQueue_anvils (s : State) (a k n : Nat) : (s.countQueue a k n).anvils = s.anvils := rfl
@[simp] theorem State.countQueue_tongs (s : State) (a k n : Nat) : (s.countQueue a k n).tongs = s.tongs := rfl
@[simp] theorem State.countQueue_coh (s : State) (a k n : Nat) : (s.countQueue a k n).coh = s.coh := rfl
@[simp] theorem State.countQueue_ports (s : State) (a k n : Nat) : (s.countQueue a k n).ports = s.ports := rfl
@[simp] theorem State.countQueue_cxl (s : State) (a k n : Nat) : (s.countQueue a k n).cxl = s.cxl := rfl
@[simp] theorem State.countQueue_sec (s : State) (a k n : Nat) : (s.countQueue a k n).sec = s.sec := rfl
@[simp] theorem State.countQueue_bellows (s : State) (a k n : Nat) : (s.countQueue a k n).bellows = s.bellows := rfl
@[simp] theorem State.countQueue_twin (s : State) (a k n : Nat) : (s.countQueue a k n).twin = s.twin := rfl
@[simp] theorem State.countQueue_free (s : State) (a k n : Nat) : (s.countQueue a k n).free = s.free := rfl

/-! ### countHead -/

@[simp] theorem State.countHead_pending (s : State) (a k n : Nat) : (s.countHead a k n).pending = s.pending := rfl
@[simp] theorem State.countHead_pins (s : State) (a k n : Nat) : (s.countHead a k n).pins = s.pins := rfl
@[simp] theorem State.countHead_boot (s : State) (a k n : Nat) : (s.countHead a k n).boot = s.boot := rfl
@[simp] theorem State.countHead_heat (s : State) (a k n : Nat) : (s.countHead a k n).heat = s.heat := rfl
@[simp] theorem State.countHead_hearth (s : State) (a k n : Nat) : (s.countHead a k n).hearth = s.hearth := rfl
@[simp] theorem State.countHead_starter (s : State) (a k n : Nat) : (s.countHead a k n).starter = s.starter := rfl
@[simp] theorem State.countHead_parts (s : State) (a k n : Nat) : (s.countHead a k n).parts = s.parts := rfl
@[simp] theorem State.countHead_tiers (s : State) (a k n : Nat) : (s.countHead a k n).tiers = s.tiers := rfl
@[simp] theorem State.countHead_dram (s : State) (a k n : Nat) : (s.countHead a k n).dram = s.dram := rfl
@[simp] theorem State.countHead_crucibles (s : State) (a k n : Nat) : (s.countHead a k n).crucibles = s.crucibles := rfl
@[simp] theorem State.countHead_anvils (s : State) (a k n : Nat) : (s.countHead a k n).anvils = s.anvils := rfl
@[simp] theorem State.countHead_tongs (s : State) (a k n : Nat) : (s.countHead a k n).tongs = s.tongs := rfl
@[simp] theorem State.countHead_coh (s : State) (a k n : Nat) : (s.countHead a k n).coh = s.coh := rfl
@[simp] theorem State.countHead_ports (s : State) (a k n : Nat) : (s.countHead a k n).ports = s.ports := rfl
@[simp] theorem State.countHead_routing (s : State) (a k n : Nat) : (s.countHead a k n).routing = s.routing := rfl
@[simp] theorem State.countHead_sec (s : State) (a k n : Nat) : (s.countHead a k n).sec = s.sec := rfl
@[simp] theorem State.countHead_bellows (s : State) (a k n : Nat) : (s.countHead a k n).bellows = s.bellows := rfl
@[simp] theorem State.countHead_twin (s : State) (a k n : Nat) : (s.countHead a k n).twin = s.twin := rfl
@[simp] theorem State.countHead_free (s : State) (a k n : Nat) : (s.countHead a k n).free = s.free := rfl

/-! ### countCru -/

@[simp] theorem State.countCru_pending (s : State) (a k n : Nat) : (s.countCru a k n).pending = s.pending := rfl
@[simp] theorem State.countCru_pins (s : State) (a k n : Nat) : (s.countCru a k n).pins = s.pins := rfl
@[simp] theorem State.countCru_boot (s : State) (a k n : Nat) : (s.countCru a k n).boot = s.boot := rfl
@[simp] theorem State.countCru_heat (s : State) (a k n : Nat) : (s.countCru a k n).heat = s.heat := rfl
@[simp] theorem State.countCru_hearth (s : State) (a k n : Nat) : (s.countCru a k n).hearth = s.hearth := rfl
@[simp] theorem State.countCru_starter (s : State) (a k n : Nat) : (s.countCru a k n).starter = s.starter := rfl
@[simp] theorem State.countCru_parts (s : State) (a k n : Nat) : (s.countCru a k n).parts = s.parts := rfl
@[simp] theorem State.countCru_tiers (s : State) (a k n : Nat) : (s.countCru a k n).tiers = s.tiers := rfl
@[simp] theorem State.countCru_dram (s : State) (a k n : Nat) : (s.countCru a k n).dram = s.dram := rfl
@[simp] theorem State.countCru_anvils (s : State) (a k n : Nat) : (s.countCru a k n).anvils = s.anvils := rfl
@[simp] theorem State.countCru_tongs (s : State) (a k n : Nat) : (s.countCru a k n).tongs = s.tongs := rfl
@[simp] theorem State.countCru_coh (s : State) (a k n : Nat) : (s.countCru a k n).coh = s.coh := rfl
@[simp] theorem State.countCru_ports (s : State) (a k n : Nat) : (s.countCru a k n).ports = s.ports := rfl
@[simp] theorem State.countCru_routing (s : State) (a k n : Nat) : (s.countCru a k n).routing = s.routing := rfl
@[simp] theorem State.countCru_cxl (s : State) (a k n : Nat) : (s.countCru a k n).cxl = s.cxl := rfl
@[simp] theorem State.countCru_sec (s : State) (a k n : Nat) : (s.countCru a k n).sec = s.sec := rfl
@[simp] theorem State.countCru_bellows (s : State) (a k n : Nat) : (s.countCru a k n).bellows = s.bellows := rfl
@[simp] theorem State.countCru_twin (s : State) (a k n : Nat) : (s.countCru a k n).twin = s.twin := rfl
@[simp] theorem State.countCru_free (s : State) (a k n : Nat) : (s.countCru a k n).free = s.free := rfl

/-! ### countTongs -/

@[simp] theorem State.countTongs_pending (s : State) (a k n : Nat) : (s.countTongs a k n).pending = s.pending := rfl
@[simp] theorem State.countTongs_pins (s : State) (a k n : Nat) : (s.countTongs a k n).pins = s.pins := rfl
@[simp] theorem State.countTongs_boot (s : State) (a k n : Nat) : (s.countTongs a k n).boot = s.boot := rfl
@[simp] theorem State.countTongs_heat (s : State) (a k n : Nat) : (s.countTongs a k n).heat = s.heat := rfl
@[simp] theorem State.countTongs_hearth (s : State) (a k n : Nat) : (s.countTongs a k n).hearth = s.hearth := rfl
@[simp] theorem State.countTongs_starter (s : State) (a k n : Nat) : (s.countTongs a k n).starter = s.starter := rfl
@[simp] theorem State.countTongs_parts (s : State) (a k n : Nat) : (s.countTongs a k n).parts = s.parts := rfl
@[simp] theorem State.countTongs_tiers (s : State) (a k n : Nat) : (s.countTongs a k n).tiers = s.tiers := rfl
@[simp] theorem State.countTongs_dram (s : State) (a k n : Nat) : (s.countTongs a k n).dram = s.dram := rfl
@[simp] theorem State.countTongs_crucibles (s : State) (a k n : Nat) : (s.countTongs a k n).crucibles = s.crucibles := rfl
@[simp] theorem State.countTongs_anvils (s : State) (a k n : Nat) : (s.countTongs a k n).anvils = s.anvils := rfl
@[simp] theorem State.countTongs_coh (s : State) (a k n : Nat) : (s.countTongs a k n).coh = s.coh := rfl
@[simp] theorem State.countTongs_ports (s : State) (a k n : Nat) : (s.countTongs a k n).ports = s.ports := rfl
@[simp] theorem State.countTongs_routing (s : State) (a k n : Nat) : (s.countTongs a k n).routing = s.routing := rfl
@[simp] theorem State.countTongs_cxl (s : State) (a k n : Nat) : (s.countTongs a k n).cxl = s.cxl := rfl
@[simp] theorem State.countTongs_sec (s : State) (a k n : Nat) : (s.countTongs a k n).sec = s.sec := rfl
@[simp] theorem State.countTongs_bellows (s : State) (a k n : Nat) : (s.countTongs a k n).bellows = s.bellows := rfl
@[simp] theorem State.countTongs_twin (s : State) (a k n : Nat) : (s.countTongs a k n).twin = s.twin := rfl
@[simp] theorem State.countTongs_free (s : State) (a k n : Nat) : (s.countTongs a k n).free = s.free := rfl

/-! ### modMem -/

@[simp] theorem State.modMem_pending (s : State) (f : Mem → Mem) : (s.modMem f).pending = s.pending := rfl
@[simp] theorem State.modMem_pins (s : State) (f : Mem → Mem) : (s.modMem f).pins = s.pins := rfl
@[simp] theorem State.modMem_boot (s : State) (f : Mem → Mem) : (s.modMem f).boot = s.boot := rfl
@[simp] theorem State.modMem_heat (s : State) (f : Mem → Mem) : (s.modMem f).heat = s.heat := rfl
@[simp] theorem State.modMem_hearth (s : State) (f : Mem → Mem) : (s.modMem f).hearth = s.hearth := rfl
@[simp] theorem State.modMem_starter (s : State) (f : Mem → Mem) : (s.modMem f).starter = s.starter := rfl
@[simp] theorem State.modMem_parts (s : State) (f : Mem → Mem) : (s.modMem f).parts = s.parts := rfl
@[simp] theorem State.modMem_dram (s : State) (f : Mem → Mem) : (s.modMem f).dram = s.dram := rfl
@[simp] theorem State.modMem_crucibles (s : State) (f : Mem → Mem) : (s.modMem f).crucibles = s.crucibles := rfl
@[simp] theorem State.modMem_anvils (s : State) (f : Mem → Mem) : (s.modMem f).anvils = s.anvils := rfl
@[simp] theorem State.modMem_tongs (s : State) (f : Mem → Mem) : (s.modMem f).tongs = s.tongs := rfl
@[simp] theorem State.modMem_coh (s : State) (f : Mem → Mem) : (s.modMem f).coh = s.coh := rfl
@[simp] theorem State.modMem_ports (s : State) (f : Mem → Mem) : (s.modMem f).ports = s.ports := rfl
@[simp] theorem State.modMem_routing (s : State) (f : Mem → Mem) : (s.modMem f).routing = s.routing := rfl
@[simp] theorem State.modMem_cxl (s : State) (f : Mem → Mem) : (s.modMem f).cxl = s.cxl := rfl
@[simp] theorem State.modMem_sec (s : State) (f : Mem → Mem) : (s.modMem f).sec = s.sec := rfl
@[simp] theorem State.modMem_bellows (s : State) (f : Mem → Mem) : (s.modMem f).bellows = s.bellows := rfl
@[simp] theorem State.modMem_twin (s : State) (f : Mem → Mem) : (s.modMem f).twin = s.twin := rfl
@[simp] theorem State.modMem_free (s : State) (f : Mem → Mem) : (s.modMem f).free = s.free := rfl
@[simp] theorem State.modMem_mem (s : State) (f : Mem → Mem) : (s.modMem f).tiers.mem = f s.tiers.mem := rfl
@[simp] theorem State.part_modMem (s : State) (j : Nat) (f : Mem → Mem) : (s.modMem f).part j = s.part j := rfl
@[simp] theorem State.ext_modMem (s : State) (j : Nat) (f : Mem → Mem) : (s.modMem f).ext j = s.ext j := rfl
@[simp] theorem State.seal_modMem (s : State) (j : Nat) (f : Mem → Mem) : (s.modMem f).seal j = s.seal j := rfl
@[simp] theorem State.forge_modMem (s : State) (j : Nat) (f : Mem → Mem) : (s.modMem f).forge j = s.forge j := rfl
@[simp] theorem State.tag_modMem (s : State) (j : Nat) (f : Mem → Mem) : (s.modMem f).tag j = s.tag j := rfl
@[simp] theorem State.stack_modMem (s : State) (j : Nat) (f : Mem → Mem) : (s.modMem f).stack j = s.stack j := rfl
@[simp] theorem State.bulkCh_modMem (s : State) (j : Nat) (f : Mem → Mem) : (s.modMem f).bulkCh j = s.bulkCh j := rfl
@[simp] theorem State.unit_modMem (s : State) (j : Nat) (f : Mem → Mem) : (s.modMem f).unit j = s.unit j := rfl
@[simp] theorem State.queue_modMem (s : State) (j : Nat) (f : Mem → Mem) : (s.modMem f).queue j = s.queue j := rfl
@[simp] theorem State.walker_modMem (s : State) (j : Nat) (f : Mem → Mem) : (s.modMem f).walker j = s.walker j := rfl
@[simp] theorem State.background_modMem (s : State) (j : Nat) (f : Mem → Mem) : (s.modMem f).background j = s.background j := rfl
@[simp] theorem State.melt_modMem (s : State) (j : Nat) (f : Mem → Mem) : (s.modMem f).melt j = s.melt j := rfl
@[simp] theorem State.anvil_modMem (s : State) (j : Nat) (f : Mem → Mem) : (s.modMem f).anvil j = s.anvil j := rfl
@[simp] theorem State.ctx_modMem (s : State) (j : Nat) (f : Mem → Mem) : (s.modMem f).ctx j = s.ctx j := rfl
@[simp] theorem State.port_modMem (s : State) (j : Nat) (f : Mem → Mem) : (s.modMem f).port j = s.port j := rfl
@[simp] theorem State.egress_modMem (s : State) (j : Nat) (f : Mem → Mem) : (s.modMem f).egress j = s.egress j := rfl
@[simp] theorem State.head_modMem (s : State) (j : Nat) (f : Mem → Mem) : (s.modMem f).head j = s.head j := rfl
@[simp] theorem State.page_modMem (s : State) (j : Nat) (f : Mem → Mem) : (s.modMem f).page j = s.page j := rfl
@[simp] theorem State.source_modMem (s : State) (j : Nat) (f : Mem → Mem) : (s.modMem f).source j = s.source j := rfl
@[simp] theorem State.target_modMem (s : State) (j : Nat) (f : Mem → Mem) : (s.modMem f).target j = s.target j := rfl
@[simp] theorem State.reason_modMem (s : State) (j : Nat) (f : Mem → Mem) : (s.modMem f).reason j = s.reason j := rfl
@[simp] theorem State.epoch_modMem (s : State) (j : Nat) (f : Mem → Mem) : (s.modMem f).epoch j = s.epoch j := rfl

/-! ### modHeat -/

@[simp] theorem State.modHeat_pending (s : State) (f : Heat → Heat) : (s.modHeat f).pending = s.pending := rfl
@[simp] theorem State.modHeat_pins (s : State) (f : Heat → Heat) : (s.modHeat f).pins = s.pins := rfl
@[simp] theorem State.modHeat_boot (s : State) (f : Heat → Heat) : (s.modHeat f).boot = s.boot := rfl
@[simp] theorem State.modHeat_hearth (s : State) (f : Heat → Heat) : (s.modHeat f).hearth = s.hearth := rfl
@[simp] theorem State.modHeat_starter (s : State) (f : Heat → Heat) : (s.modHeat f).starter = s.starter := rfl
@[simp] theorem State.modHeat_parts (s : State) (f : Heat → Heat) : (s.modHeat f).parts = s.parts := rfl
@[simp] theorem State.modHeat_tiers (s : State) (f : Heat → Heat) : (s.modHeat f).tiers = s.tiers := rfl
@[simp] theorem State.modHeat_dram (s : State) (f : Heat → Heat) : (s.modHeat f).dram = s.dram := rfl
@[simp] theorem State.modHeat_crucibles (s : State) (f : Heat → Heat) : (s.modHeat f).crucibles = s.crucibles := rfl
@[simp] theorem State.modHeat_anvils (s : State) (f : Heat → Heat) : (s.modHeat f).anvils = s.anvils := rfl
@[simp] theorem State.modHeat_tongs (s : State) (f : Heat → Heat) : (s.modHeat f).tongs = s.tongs := rfl
@[simp] theorem State.modHeat_coh (s : State) (f : Heat → Heat) : (s.modHeat f).coh = s.coh := rfl
@[simp] theorem State.modHeat_ports (s : State) (f : Heat → Heat) : (s.modHeat f).ports = s.ports := rfl
@[simp] theorem State.modHeat_routing (s : State) (f : Heat → Heat) : (s.modHeat f).routing = s.routing := rfl
@[simp] theorem State.modHeat_cxl (s : State) (f : Heat → Heat) : (s.modHeat f).cxl = s.cxl := rfl
@[simp] theorem State.modHeat_sec (s : State) (f : Heat → Heat) : (s.modHeat f).sec = s.sec := rfl
@[simp] theorem State.modHeat_bellows (s : State) (f : Heat → Heat) : (s.modHeat f).bellows = s.bellows := rfl
@[simp] theorem State.modHeat_twin (s : State) (f : Heat → Heat) : (s.modHeat f).twin = s.twin := rfl
@[simp] theorem State.modHeat_free (s : State) (f : Heat → Heat) : (s.modHeat f).free = s.free := rfl
@[simp] theorem State.modHeat_heat (s : State) (f : Heat → Heat) : (s.modHeat f).heat = f s.heat := rfl
@[simp] theorem State.part_modHeat (s : State) (j : Nat) (f : Heat → Heat) : (s.modHeat f).part j = s.part j := rfl
@[simp] theorem State.ext_modHeat (s : State) (j : Nat) (f : Heat → Heat) : (s.modHeat f).ext j = s.ext j := rfl
@[simp] theorem State.seal_modHeat (s : State) (j : Nat) (f : Heat → Heat) : (s.modHeat f).seal j = s.seal j := rfl
@[simp] theorem State.forge_modHeat (s : State) (j : Nat) (f : Heat → Heat) : (s.modHeat f).forge j = s.forge j := rfl
@[simp] theorem State.tag_modHeat (s : State) (j : Nat) (f : Heat → Heat) : (s.modHeat f).tag j = s.tag j := rfl
@[simp] theorem State.stack_modHeat (s : State) (j : Nat) (f : Heat → Heat) : (s.modHeat f).stack j = s.stack j := rfl
@[simp] theorem State.bulkCh_modHeat (s : State) (j : Nat) (f : Heat → Heat) : (s.modHeat f).bulkCh j = s.bulkCh j := rfl
@[simp] theorem State.unit_modHeat (s : State) (j : Nat) (f : Heat → Heat) : (s.modHeat f).unit j = s.unit j := rfl
@[simp] theorem State.queue_modHeat (s : State) (j : Nat) (f : Heat → Heat) : (s.modHeat f).queue j = s.queue j := rfl
@[simp] theorem State.walker_modHeat (s : State) (j : Nat) (f : Heat → Heat) : (s.modHeat f).walker j = s.walker j := rfl
@[simp] theorem State.background_modHeat (s : State) (j : Nat) (f : Heat → Heat) : (s.modHeat f).background j = s.background j := rfl
@[simp] theorem State.melt_modHeat (s : State) (j : Nat) (f : Heat → Heat) : (s.modHeat f).melt j = s.melt j := rfl
@[simp] theorem State.anvil_modHeat (s : State) (j : Nat) (f : Heat → Heat) : (s.modHeat f).anvil j = s.anvil j := rfl
@[simp] theorem State.ctx_modHeat (s : State) (j : Nat) (f : Heat → Heat) : (s.modHeat f).ctx j = s.ctx j := rfl
@[simp] theorem State.port_modHeat (s : State) (j : Nat) (f : Heat → Heat) : (s.modHeat f).port j = s.port j := rfl
@[simp] theorem State.egress_modHeat (s : State) (j : Nat) (f : Heat → Heat) : (s.modHeat f).egress j = s.egress j := rfl
@[simp] theorem State.head_modHeat (s : State) (j : Nat) (f : Heat → Heat) : (s.modHeat f).head j = s.head j := rfl
@[simp] theorem State.page_modHeat (s : State) (j : Nat) (f : Heat → Heat) : (s.modHeat f).page j = s.page j := rfl
@[simp] theorem State.source_modHeat (s : State) (j : Nat) (f : Heat → Heat) : (s.modHeat f).source j = s.source j := rfl
@[simp] theorem State.target_modHeat (s : State) (j : Nat) (f : Heat → Heat) : (s.modHeat f).target j = s.target j := rfl
@[simp] theorem State.reason_modHeat (s : State) (j : Nat) (f : Heat → Heat) : (s.modHeat f).reason j = s.reason j := rfl
@[simp] theorem State.epoch_modHeat (s : State) (j : Nat) (f : Heat → Heat) : (s.modHeat f).epoch j = s.epoch j := rfl

/-! ### modBellows -/

@[simp] theorem State.modBellows_pending (s : State) (f : Bellows → Bellows) : (s.modBellows f).pending = s.pending := rfl
@[simp] theorem State.modBellows_pins (s : State) (f : Bellows → Bellows) : (s.modBellows f).pins = s.pins := rfl
@[simp] theorem State.modBellows_boot (s : State) (f : Bellows → Bellows) : (s.modBellows f).boot = s.boot := rfl
@[simp] theorem State.modBellows_heat (s : State) (f : Bellows → Bellows) : (s.modBellows f).heat = s.heat := rfl
@[simp] theorem State.modBellows_hearth (s : State) (f : Bellows → Bellows) : (s.modBellows f).hearth = s.hearth := rfl
@[simp] theorem State.modBellows_starter (s : State) (f : Bellows → Bellows) : (s.modBellows f).starter = s.starter := rfl
@[simp] theorem State.modBellows_parts (s : State) (f : Bellows → Bellows) : (s.modBellows f).parts = s.parts := rfl
@[simp] theorem State.modBellows_tiers (s : State) (f : Bellows → Bellows) : (s.modBellows f).tiers = s.tiers := rfl
@[simp] theorem State.modBellows_dram (s : State) (f : Bellows → Bellows) : (s.modBellows f).dram = s.dram := rfl
@[simp] theorem State.modBellows_crucibles (s : State) (f : Bellows → Bellows) : (s.modBellows f).crucibles = s.crucibles := rfl
@[simp] theorem State.modBellows_anvils (s : State) (f : Bellows → Bellows) : (s.modBellows f).anvils = s.anvils := rfl
@[simp] theorem State.modBellows_tongs (s : State) (f : Bellows → Bellows) : (s.modBellows f).tongs = s.tongs := rfl
@[simp] theorem State.modBellows_coh (s : State) (f : Bellows → Bellows) : (s.modBellows f).coh = s.coh := rfl
@[simp] theorem State.modBellows_ports (s : State) (f : Bellows → Bellows) : (s.modBellows f).ports = s.ports := rfl
@[simp] theorem State.modBellows_routing (s : State) (f : Bellows → Bellows) : (s.modBellows f).routing = s.routing := rfl
@[simp] theorem State.modBellows_cxl (s : State) (f : Bellows → Bellows) : (s.modBellows f).cxl = s.cxl := rfl
@[simp] theorem State.modBellows_sec (s : State) (f : Bellows → Bellows) : (s.modBellows f).sec = s.sec := rfl
@[simp] theorem State.modBellows_twin (s : State) (f : Bellows → Bellows) : (s.modBellows f).twin = s.twin := rfl
@[simp] theorem State.modBellows_free (s : State) (f : Bellows → Bellows) : (s.modBellows f).free = s.free := rfl
@[simp] theorem State.modBellows_bellows (s : State) (f : Bellows → Bellows) : (s.modBellows f).bellows = f s.bellows := rfl
@[simp] theorem State.part_modBellows (s : State) (j : Nat) (f : Bellows → Bellows) : (s.modBellows f).part j = s.part j := rfl
@[simp] theorem State.ext_modBellows (s : State) (j : Nat) (f : Bellows → Bellows) : (s.modBellows f).ext j = s.ext j := rfl
@[simp] theorem State.seal_modBellows (s : State) (j : Nat) (f : Bellows → Bellows) : (s.modBellows f).seal j = s.seal j := rfl
@[simp] theorem State.forge_modBellows (s : State) (j : Nat) (f : Bellows → Bellows) : (s.modBellows f).forge j = s.forge j := rfl
@[simp] theorem State.tag_modBellows (s : State) (j : Nat) (f : Bellows → Bellows) : (s.modBellows f).tag j = s.tag j := rfl
@[simp] theorem State.stack_modBellows (s : State) (j : Nat) (f : Bellows → Bellows) : (s.modBellows f).stack j = s.stack j := rfl
@[simp] theorem State.bulkCh_modBellows (s : State) (j : Nat) (f : Bellows → Bellows) : (s.modBellows f).bulkCh j = s.bulkCh j := rfl
@[simp] theorem State.unit_modBellows (s : State) (j : Nat) (f : Bellows → Bellows) : (s.modBellows f).unit j = s.unit j := rfl
@[simp] theorem State.queue_modBellows (s : State) (j : Nat) (f : Bellows → Bellows) : (s.modBellows f).queue j = s.queue j := rfl
@[simp] theorem State.walker_modBellows (s : State) (j : Nat) (f : Bellows → Bellows) : (s.modBellows f).walker j = s.walker j := rfl
@[simp] theorem State.background_modBellows (s : State) (j : Nat) (f : Bellows → Bellows) : (s.modBellows f).background j = s.background j := rfl
@[simp] theorem State.melt_modBellows (s : State) (j : Nat) (f : Bellows → Bellows) : (s.modBellows f).melt j = s.melt j := rfl
@[simp] theorem State.anvil_modBellows (s : State) (j : Nat) (f : Bellows → Bellows) : (s.modBellows f).anvil j = s.anvil j := rfl
@[simp] theorem State.ctx_modBellows (s : State) (j : Nat) (f : Bellows → Bellows) : (s.modBellows f).ctx j = s.ctx j := rfl
@[simp] theorem State.port_modBellows (s : State) (j : Nat) (f : Bellows → Bellows) : (s.modBellows f).port j = s.port j := rfl
@[simp] theorem State.egress_modBellows (s : State) (j : Nat) (f : Bellows → Bellows) : (s.modBellows f).egress j = s.egress j := rfl
@[simp] theorem State.head_modBellows (s : State) (j : Nat) (f : Bellows → Bellows) : (s.modBellows f).head j = s.head j := rfl
@[simp] theorem State.page_modBellows (s : State) (j : Nat) (f : Bellows → Bellows) : (s.modBellows f).page j = s.page j := rfl
@[simp] theorem State.source_modBellows (s : State) (j : Nat) (f : Bellows → Bellows) : (s.modBellows f).source j = s.source j := rfl
@[simp] theorem State.target_modBellows (s : State) (j : Nat) (f : Bellows → Bellows) : (s.modBellows f).target j = s.target j := rfl
@[simp] theorem State.epoch_modBellows (s : State) (j : Nat) (f : Bellows → Bellows) : (s.modBellows f).epoch j = s.epoch j := rfl

/-! ### modTwin -/

@[simp] theorem State.modTwin_pending (s : State) (f : Twin → Twin) : (s.modTwin f).pending = s.pending := rfl
@[simp] theorem State.modTwin_pins (s : State) (f : Twin → Twin) : (s.modTwin f).pins = s.pins := rfl
@[simp] theorem State.modTwin_boot (s : State) (f : Twin → Twin) : (s.modTwin f).boot = s.boot := rfl
@[simp] theorem State.modTwin_heat (s : State) (f : Twin → Twin) : (s.modTwin f).heat = s.heat := rfl
@[simp] theorem State.modTwin_hearth (s : State) (f : Twin → Twin) : (s.modTwin f).hearth = s.hearth := rfl
@[simp] theorem State.modTwin_starter (s : State) (f : Twin → Twin) : (s.modTwin f).starter = s.starter := rfl
@[simp] theorem State.modTwin_parts (s : State) (f : Twin → Twin) : (s.modTwin f).parts = s.parts := rfl
@[simp] theorem State.modTwin_tiers (s : State) (f : Twin → Twin) : (s.modTwin f).tiers = s.tiers := rfl
@[simp] theorem State.modTwin_dram (s : State) (f : Twin → Twin) : (s.modTwin f).dram = s.dram := rfl
@[simp] theorem State.modTwin_crucibles (s : State) (f : Twin → Twin) : (s.modTwin f).crucibles = s.crucibles := rfl
@[simp] theorem State.modTwin_anvils (s : State) (f : Twin → Twin) : (s.modTwin f).anvils = s.anvils := rfl
@[simp] theorem State.modTwin_tongs (s : State) (f : Twin → Twin) : (s.modTwin f).tongs = s.tongs := rfl
@[simp] theorem State.modTwin_coh (s : State) (f : Twin → Twin) : (s.modTwin f).coh = s.coh := rfl
@[simp] theorem State.modTwin_ports (s : State) (f : Twin → Twin) : (s.modTwin f).ports = s.ports := rfl
@[simp] theorem State.modTwin_routing (s : State) (f : Twin → Twin) : (s.modTwin f).routing = s.routing := rfl
@[simp] theorem State.modTwin_cxl (s : State) (f : Twin → Twin) : (s.modTwin f).cxl = s.cxl := rfl
@[simp] theorem State.modTwin_sec (s : State) (f : Twin → Twin) : (s.modTwin f).sec = s.sec := rfl
@[simp] theorem State.modTwin_bellows (s : State) (f : Twin → Twin) : (s.modTwin f).bellows = s.bellows := rfl
@[simp] theorem State.modTwin_free (s : State) (f : Twin → Twin) : (s.modTwin f).free = s.free := rfl
@[simp] theorem State.modTwin_twin (s : State) (f : Twin → Twin) : (s.modTwin f).twin = f s.twin := rfl
@[simp] theorem State.part_modTwin (s : State) (j : Nat) (f : Twin → Twin) : (s.modTwin f).part j = s.part j := rfl
@[simp] theorem State.ext_modTwin (s : State) (j : Nat) (f : Twin → Twin) : (s.modTwin f).ext j = s.ext j := rfl
@[simp] theorem State.seal_modTwin (s : State) (j : Nat) (f : Twin → Twin) : (s.modTwin f).seal j = s.seal j := rfl
@[simp] theorem State.forge_modTwin (s : State) (j : Nat) (f : Twin → Twin) : (s.modTwin f).forge j = s.forge j := rfl
@[simp] theorem State.tag_modTwin (s : State) (j : Nat) (f : Twin → Twin) : (s.modTwin f).tag j = s.tag j := rfl
@[simp] theorem State.stack_modTwin (s : State) (j : Nat) (f : Twin → Twin) : (s.modTwin f).stack j = s.stack j := rfl
@[simp] theorem State.bulkCh_modTwin (s : State) (j : Nat) (f : Twin → Twin) : (s.modTwin f).bulkCh j = s.bulkCh j := rfl
@[simp] theorem State.unit_modTwin (s : State) (j : Nat) (f : Twin → Twin) : (s.modTwin f).unit j = s.unit j := rfl
@[simp] theorem State.queue_modTwin (s : State) (j : Nat) (f : Twin → Twin) : (s.modTwin f).queue j = s.queue j := rfl
@[simp] theorem State.walker_modTwin (s : State) (j : Nat) (f : Twin → Twin) : (s.modTwin f).walker j = s.walker j := rfl
@[simp] theorem State.background_modTwin (s : State) (j : Nat) (f : Twin → Twin) : (s.modTwin f).background j = s.background j := rfl
@[simp] theorem State.melt_modTwin (s : State) (j : Nat) (f : Twin → Twin) : (s.modTwin f).melt j = s.melt j := rfl
@[simp] theorem State.anvil_modTwin (s : State) (j : Nat) (f : Twin → Twin) : (s.modTwin f).anvil j = s.anvil j := rfl
@[simp] theorem State.ctx_modTwin (s : State) (j : Nat) (f : Twin → Twin) : (s.modTwin f).ctx j = s.ctx j := rfl
@[simp] theorem State.port_modTwin (s : State) (j : Nat) (f : Twin → Twin) : (s.modTwin f).port j = s.port j := rfl
@[simp] theorem State.egress_modTwin (s : State) (j : Nat) (f : Twin → Twin) : (s.modTwin f).egress j = s.egress j := rfl
@[simp] theorem State.head_modTwin (s : State) (j : Nat) (f : Twin → Twin) : (s.modTwin f).head j = s.head j := rfl
@[simp] theorem State.page_modTwin (s : State) (j : Nat) (f : Twin → Twin) : (s.modTwin f).page j = s.page j := rfl
@[simp] theorem State.source_modTwin (s : State) (j : Nat) (f : Twin → Twin) : (s.modTwin f).source j = s.source j := rfl
@[simp] theorem State.target_modTwin (s : State) (j : Nat) (f : Twin → Twin) : (s.modTwin f).target j = s.target j := rfl
@[simp] theorem State.reason_modTwin (s : State) (j : Nat) (f : Twin → Twin) : (s.modTwin f).reason j = s.reason j := rfl

/-! ### modCoh -/

@[simp] theorem State.modCoh_pending (s : State) (f : Coh → Coh) : (s.modCoh f).pending = s.pending := rfl
@[simp] theorem State.modCoh_pins (s : State) (f : Coh → Coh) : (s.modCoh f).pins = s.pins := rfl
@[simp] theorem State.modCoh_boot (s : State) (f : Coh → Coh) : (s.modCoh f).boot = s.boot := rfl
@[simp] theorem State.modCoh_heat (s : State) (f : Coh → Coh) : (s.modCoh f).heat = s.heat := rfl
@[simp] theorem State.modCoh_hearth (s : State) (f : Coh → Coh) : (s.modCoh f).hearth = s.hearth := rfl
@[simp] theorem State.modCoh_starter (s : State) (f : Coh → Coh) : (s.modCoh f).starter = s.starter := rfl
@[simp] theorem State.modCoh_parts (s : State) (f : Coh → Coh) : (s.modCoh f).parts = s.parts := rfl
@[simp] theorem State.modCoh_tiers (s : State) (f : Coh → Coh) : (s.modCoh f).tiers = s.tiers := rfl
@[simp] theorem State.modCoh_dram (s : State) (f : Coh → Coh) : (s.modCoh f).dram = s.dram := rfl
@[simp] theorem State.modCoh_crucibles (s : State) (f : Coh → Coh) : (s.modCoh f).crucibles = s.crucibles := rfl
@[simp] theorem State.modCoh_anvils (s : State) (f : Coh → Coh) : (s.modCoh f).anvils = s.anvils := rfl
@[simp] theorem State.modCoh_tongs (s : State) (f : Coh → Coh) : (s.modCoh f).tongs = s.tongs := rfl
@[simp] theorem State.modCoh_ports (s : State) (f : Coh → Coh) : (s.modCoh f).ports = s.ports := rfl
@[simp] theorem State.modCoh_routing (s : State) (f : Coh → Coh) : (s.modCoh f).routing = s.routing := rfl
@[simp] theorem State.modCoh_cxl (s : State) (f : Coh → Coh) : (s.modCoh f).cxl = s.cxl := rfl
@[simp] theorem State.modCoh_sec (s : State) (f : Coh → Coh) : (s.modCoh f).sec = s.sec := rfl
@[simp] theorem State.modCoh_bellows (s : State) (f : Coh → Coh) : (s.modCoh f).bellows = s.bellows := rfl
@[simp] theorem State.modCoh_twin (s : State) (f : Coh → Coh) : (s.modCoh f).twin = s.twin := rfl
@[simp] theorem State.modCoh_free (s : State) (f : Coh → Coh) : (s.modCoh f).free = s.free := rfl
@[simp] theorem State.modCoh_coh (s : State) (f : Coh → Coh) : (s.modCoh f).coh = f s.coh := rfl
@[simp] theorem State.part_modCoh (s : State) (j : Nat) (f : Coh → Coh) : (s.modCoh f).part j = s.part j := rfl
@[simp] theorem State.ext_modCoh (s : State) (j : Nat) (f : Coh → Coh) : (s.modCoh f).ext j = s.ext j := rfl
@[simp] theorem State.seal_modCoh (s : State) (j : Nat) (f : Coh → Coh) : (s.modCoh f).seal j = s.seal j := rfl
@[simp] theorem State.forge_modCoh (s : State) (j : Nat) (f : Coh → Coh) : (s.modCoh f).forge j = s.forge j := rfl
@[simp] theorem State.tag_modCoh (s : State) (j : Nat) (f : Coh → Coh) : (s.modCoh f).tag j = s.tag j := rfl
@[simp] theorem State.stack_modCoh (s : State) (j : Nat) (f : Coh → Coh) : (s.modCoh f).stack j = s.stack j := rfl
@[simp] theorem State.bulkCh_modCoh (s : State) (j : Nat) (f : Coh → Coh) : (s.modCoh f).bulkCh j = s.bulkCh j := rfl
@[simp] theorem State.unit_modCoh (s : State) (j : Nat) (f : Coh → Coh) : (s.modCoh f).unit j = s.unit j := rfl
@[simp] theorem State.queue_modCoh (s : State) (j : Nat) (f : Coh → Coh) : (s.modCoh f).queue j = s.queue j := rfl
@[simp] theorem State.walker_modCoh (s : State) (j : Nat) (f : Coh → Coh) : (s.modCoh f).walker j = s.walker j := rfl
@[simp] theorem State.background_modCoh (s : State) (j : Nat) (f : Coh → Coh) : (s.modCoh f).background j = s.background j := rfl
@[simp] theorem State.melt_modCoh (s : State) (j : Nat) (f : Coh → Coh) : (s.modCoh f).melt j = s.melt j := rfl
@[simp] theorem State.anvil_modCoh (s : State) (j : Nat) (f : Coh → Coh) : (s.modCoh f).anvil j = s.anvil j := rfl
@[simp] theorem State.ctx_modCoh (s : State) (j : Nat) (f : Coh → Coh) : (s.modCoh f).ctx j = s.ctx j := rfl
@[simp] theorem State.port_modCoh (s : State) (j : Nat) (f : Coh → Coh) : (s.modCoh f).port j = s.port j := rfl
@[simp] theorem State.egress_modCoh (s : State) (j : Nat) (f : Coh → Coh) : (s.modCoh f).egress j = s.egress j := rfl
@[simp] theorem State.head_modCoh (s : State) (j : Nat) (f : Coh → Coh) : (s.modCoh f).head j = s.head j := rfl
@[simp] theorem State.page_modCoh (s : State) (j : Nat) (f : Coh → Coh) : (s.modCoh f).page j = s.page j := rfl
@[simp] theorem State.source_modCoh (s : State) (j : Nat) (f : Coh → Coh) : (s.modCoh f).source j = s.source j := rfl
@[simp] theorem State.target_modCoh (s : State) (j : Nat) (f : Coh → Coh) : (s.modCoh f).target j = s.target j := rfl
@[simp] theorem State.reason_modCoh (s : State) (j : Nat) (f : Coh → Coh) : (s.modCoh f).reason j = s.reason j := rfl
@[simp] theorem State.epoch_modCoh (s : State) (j : Nat) (f : Coh → Coh) : (s.modCoh f).epoch j = s.epoch j := rfl

/-! ### modChan, drawn and drive -/

@[simp] theorem State.modChan_pending (s : State) (c : Chan) (f : ChanState → ChanState) : (s.modChan c f).pending = s.pending := rfl
@[simp] theorem State.modChan_pins (s : State) (c : Chan) (f : ChanState → ChanState) : (s.modChan c f).pins = s.pins := rfl
@[simp] theorem State.modChan_boot (s : State) (c : Chan) (f : ChanState → ChanState) : (s.modChan c f).boot = s.boot := rfl
@[simp] theorem State.modChan_heat (s : State) (c : Chan) (f : ChanState → ChanState) : (s.modChan c f).heat = s.heat := rfl
@[simp] theorem State.modChan_starter (s : State) (c : Chan) (f : ChanState → ChanState) : (s.modChan c f).starter = s.starter := rfl
@[simp] theorem State.modChan_parts (s : State) (c : Chan) (f : ChanState → ChanState) : (s.modChan c f).parts = s.parts := rfl
@[simp] theorem State.modChan_tiers (s : State) (c : Chan) (f : ChanState → ChanState) : (s.modChan c f).tiers = s.tiers := rfl
@[simp] theorem State.modChan_dram (s : State) (c : Chan) (f : ChanState → ChanState) : (s.modChan c f).dram = s.dram := rfl
@[simp] theorem State.modChan_crucibles (s : State) (c : Chan) (f : ChanState → ChanState) : (s.modChan c f).crucibles = s.crucibles := rfl
@[simp] theorem State.modChan_anvils (s : State) (c : Chan) (f : ChanState → ChanState) : (s.modChan c f).anvils = s.anvils := rfl
@[simp] theorem State.modChan_tongs (s : State) (c : Chan) (f : ChanState → ChanState) : (s.modChan c f).tongs = s.tongs := rfl
@[simp] theorem State.modChan_coh (s : State) (c : Chan) (f : ChanState → ChanState) : (s.modChan c f).coh = s.coh := rfl
@[simp] theorem State.modChan_ports (s : State) (c : Chan) (f : ChanState → ChanState) : (s.modChan c f).ports = s.ports := rfl
@[simp] theorem State.modChan_routing (s : State) (c : Chan) (f : ChanState → ChanState) : (s.modChan c f).routing = s.routing := rfl
@[simp] theorem State.modChan_cxl (s : State) (c : Chan) (f : ChanState → ChanState) : (s.modChan c f).cxl = s.cxl := rfl
@[simp] theorem State.modChan_sec (s : State) (c : Chan) (f : ChanState → ChanState) : (s.modChan c f).sec = s.sec := rfl
@[simp] theorem State.modChan_bellows (s : State) (c : Chan) (f : ChanState → ChanState) : (s.modChan c f).bellows = s.bellows := rfl
@[simp] theorem State.modChan_twin (s : State) (c : Chan) (f : ChanState → ChanState) : (s.modChan c f).twin = s.twin := rfl
@[simp] theorem State.modChan_free (s : State) (c : Chan) (f : ChanState → ChanState) : (s.modChan c f).free = s.free := rfl
@[simp] theorem State.part_modChan (s : State) (c : Chan) (j : Nat) (f : ChanState → ChanState) : (s.modChan c f).part j = s.part j := rfl
@[simp] theorem State.ext_modChan (s : State) (c : Chan) (j : Nat) (f : ChanState → ChanState) : (s.modChan c f).ext j = s.ext j := rfl
@[simp] theorem State.seal_modChan (s : State) (c : Chan) (j : Nat) (f : ChanState → ChanState) : (s.modChan c f).seal j = s.seal j := rfl
@[simp] theorem State.forge_modChan (s : State) (c : Chan) (j : Nat) (f : ChanState → ChanState) : (s.modChan c f).forge j = s.forge j := rfl
@[simp] theorem State.tag_modChan (s : State) (c : Chan) (j : Nat) (f : ChanState → ChanState) : (s.modChan c f).tag j = s.tag j := rfl
@[simp] theorem State.stack_modChan (s : State) (c : Chan) (j : Nat) (f : ChanState → ChanState) : (s.modChan c f).stack j = s.stack j := rfl
@[simp] theorem State.bulkCh_modChan (s : State) (c : Chan) (j : Nat) (f : ChanState → ChanState) : (s.modChan c f).bulkCh j = s.bulkCh j := rfl
@[simp] theorem State.unit_modChan (s : State) (c : Chan) (j : Nat) (f : ChanState → ChanState) : (s.modChan c f).unit j = s.unit j := rfl
@[simp] theorem State.queue_modChan (s : State) (c : Chan) (j : Nat) (f : ChanState → ChanState) : (s.modChan c f).queue j = s.queue j := rfl
@[simp] theorem State.walker_modChan (s : State) (c : Chan) (j : Nat) (f : ChanState → ChanState) : (s.modChan c f).walker j = s.walker j := rfl
@[simp] theorem State.background_modChan (s : State) (c : Chan) (j : Nat) (f : ChanState → ChanState) : (s.modChan c f).background j = s.background j := rfl
@[simp] theorem State.melt_modChan (s : State) (c : Chan) (j : Nat) (f : ChanState → ChanState) : (s.modChan c f).melt j = s.melt j := rfl
@[simp] theorem State.anvil_modChan (s : State) (c : Chan) (j : Nat) (f : ChanState → ChanState) : (s.modChan c f).anvil j = s.anvil j := rfl
@[simp] theorem State.ctx_modChan (s : State) (c : Chan) (j : Nat) (f : ChanState → ChanState) : (s.modChan c f).ctx j = s.ctx j := rfl
@[simp] theorem State.port_modChan (s : State) (c : Chan) (j : Nat) (f : ChanState → ChanState) : (s.modChan c f).port j = s.port j := rfl
@[simp] theorem State.egress_modChan (s : State) (c : Chan) (j : Nat) (f : ChanState → ChanState) : (s.modChan c f).egress j = s.egress j := rfl
@[simp] theorem State.head_modChan (s : State) (c : Chan) (j : Nat) (f : ChanState → ChanState) : (s.modChan c f).head j = s.head j := rfl
@[simp] theorem State.page_modChan (s : State) (c : Chan) (j : Nat) (f : ChanState → ChanState) : (s.modChan c f).page j = s.page j := rfl
@[simp] theorem State.source_modChan (s : State) (c : Chan) (j : Nat) (f : ChanState → ChanState) : (s.modChan c f).source j = s.source j := rfl
@[simp] theorem State.target_modChan (s : State) (c : Chan) (j : Nat) (f : ChanState → ChanState) : (s.modChan c f).target j = s.target j := rfl
@[simp] theorem State.reason_modChan (s : State) (c : Chan) (j : Nat) (f : ChanState → ChanState) : (s.modChan c f).reason j = s.reason j := rfl
@[simp] theorem State.epoch_modChan (s : State) (c : Chan) (j : Nat) (f : ChanState → ChanState) : (s.modChan c f).epoch j = s.epoch j := rfl
@[simp] theorem State.drawn_pending (s : State)  : (s.drawn).pending = s.pending := rfl
@[simp] theorem State.drawn_pins (s : State)  : (s.drawn).pins = s.pins := rfl
@[simp] theorem State.drawn_boot (s : State)  : (s.drawn).boot = s.boot := rfl
@[simp] theorem State.drawn_heat (s : State)  : (s.drawn).heat = s.heat := rfl
@[simp] theorem State.drawn_hearth (s : State)  : (s.drawn).hearth = s.hearth := rfl
@[simp] theorem State.drawn_starter (s : State)  : (s.drawn).starter = s.starter := rfl
@[simp] theorem State.drawn_parts (s : State)  : (s.drawn).parts = s.parts := rfl
@[simp] theorem State.drawn_tiers (s : State)  : (s.drawn).tiers = s.tiers := rfl
@[simp] theorem State.drawn_dram (s : State)  : (s.drawn).dram = s.dram := rfl
@[simp] theorem State.drawn_crucibles (s : State)  : (s.drawn).crucibles = s.crucibles := rfl
@[simp] theorem State.drawn_anvils (s : State)  : (s.drawn).anvils = s.anvils := rfl
@[simp] theorem State.drawn_tongs (s : State)  : (s.drawn).tongs = s.tongs := rfl
@[simp] theorem State.drawn_coh (s : State)  : (s.drawn).coh = s.coh := rfl
@[simp] theorem State.drawn_ports (s : State)  : (s.drawn).ports = s.ports := rfl
@[simp] theorem State.drawn_routing (s : State)  : (s.drawn).routing = s.routing := rfl
@[simp] theorem State.drawn_cxl (s : State)  : (s.drawn).cxl = s.cxl := rfl
@[simp] theorem State.drawn_sec (s : State)  : (s.drawn).sec = s.sec := rfl
@[simp] theorem State.drawn_bellows (s : State)  : (s.drawn).bellows = s.bellows := rfl
@[simp] theorem State.drawn_twin (s : State)  : (s.drawn).twin = s.twin := rfl
@[simp] theorem State.part_drawn (s : State) (j : Nat) : s.drawn.part j = s.part j := rfl
@[simp] theorem State.ext_drawn (s : State) (j : Nat) : s.drawn.ext j = s.ext j := rfl
@[simp] theorem State.seal_drawn (s : State) (j : Nat) : s.drawn.seal j = s.seal j := rfl
@[simp] theorem State.forge_drawn (s : State) (j : Nat) : s.drawn.forge j = s.forge j := rfl
@[simp] theorem State.tag_drawn (s : State) (j : Nat) : s.drawn.tag j = s.tag j := rfl
@[simp] theorem State.stack_drawn (s : State) (j : Nat) : s.drawn.stack j = s.stack j := rfl
@[simp] theorem State.bulkCh_drawn (s : State) (j : Nat) : s.drawn.bulkCh j = s.bulkCh j := rfl
@[simp] theorem State.unit_drawn (s : State) (j : Nat) : s.drawn.unit j = s.unit j := rfl
@[simp] theorem State.queue_drawn (s : State) (j : Nat) : s.drawn.queue j = s.queue j := rfl
@[simp] theorem State.walker_drawn (s : State) (j : Nat) : s.drawn.walker j = s.walker j := rfl
@[simp] theorem State.background_drawn (s : State) (j : Nat) : s.drawn.background j = s.background j := rfl
@[simp] theorem State.melt_drawn (s : State) (j : Nat) : s.drawn.melt j = s.melt j := rfl
@[simp] theorem State.anvil_drawn (s : State) (j : Nat) : s.drawn.anvil j = s.anvil j := rfl
@[simp] theorem State.ctx_drawn (s : State) (j : Nat) : s.drawn.ctx j = s.ctx j := rfl
@[simp] theorem State.port_drawn (s : State) (j : Nat) : s.drawn.port j = s.port j := rfl
@[simp] theorem State.egress_drawn (s : State) (j : Nat) : s.drawn.egress j = s.egress j := rfl
@[simp] theorem State.head_drawn (s : State) (j : Nat) : s.drawn.head j = s.head j := rfl
@[simp] theorem State.page_drawn (s : State) (j : Nat) : s.drawn.page j = s.page j := rfl
@[simp] theorem State.source_drawn (s : State) (j : Nat) : s.drawn.source j = s.source j := rfl
@[simp] theorem State.target_drawn (s : State) (j : Nat) : s.drawn.target j = s.target j := rfl
@[simp] theorem State.reason_drawn (s : State) (j : Nat) : s.drawn.reason j = s.reason j := rfl
@[simp] theorem State.epoch_drawn (s : State) (j : Nat) : s.drawn.epoch j = s.epoch j := rfl
@[simp] theorem drive_pending (s : State) : (drive s).pending = s.pending := rfl
@[simp] theorem drive_boot (s : State) : (drive s).boot = s.boot := rfl
@[simp] theorem drive_heat (s : State) : (drive s).heat = s.heat := rfl
@[simp] theorem drive_hearth (s : State) : (drive s).hearth = s.hearth := rfl
@[simp] theorem drive_starter (s : State) : (drive s).starter = s.starter := rfl
@[simp] theorem drive_parts (s : State) : (drive s).parts = s.parts := rfl
@[simp] theorem drive_tiers (s : State) : (drive s).tiers = s.tiers := rfl
@[simp] theorem drive_dram (s : State) : (drive s).dram = s.dram := rfl
@[simp] theorem drive_crucibles (s : State) : (drive s).crucibles = s.crucibles := rfl
@[simp] theorem drive_anvils (s : State) : (drive s).anvils = s.anvils := rfl
@[simp] theorem drive_tongs (s : State) : (drive s).tongs = s.tongs := rfl
@[simp] theorem drive_coh (s : State) : (drive s).coh = s.coh := rfl
@[simp] theorem drive_ports (s : State) : (drive s).ports = s.ports := rfl
@[simp] theorem drive_routing (s : State) : (drive s).routing = s.routing := rfl
@[simp] theorem drive_cxl (s : State) : (drive s).cxl = s.cxl := rfl
@[simp] theorem drive_sec (s : State) : (drive s).sec = s.sec := rfl
@[simp] theorem drive_bellows (s : State) : (drive s).bellows = s.bellows := rfl
@[simp] theorem drive_twin (s : State) : (drive s).twin = s.twin := rfl
@[simp] theorem drive_free (s : State) : (drive s).free = s.free := rfl
@[simp] theorem drive_pins (s : State) : (drive s).pins = s.outPins := rfl

/-! ### atNs -/
@[simp] theorem atNs_pending (s : State) (n : Nat) : (s.atNs n).pending = s.pending := rfl
@[simp] theorem atNs_pins (s : State) (n : Nat) : (s.atNs n).pins = s.pins := rfl
@[simp] theorem atNs_boot (s : State) (n : Nat) : (s.atNs n).boot = s.boot := rfl
@[simp] theorem atNs_heat (s : State) (n : Nat) : (s.atNs n).heat = s.heat := rfl
@[simp] theorem atNs_hearth (s : State) (n : Nat) : (s.atNs n).hearth = s.hearth := rfl
@[simp] theorem atNs_starter (s : State) (n : Nat) : (s.atNs n).starter = s.starter := rfl
@[simp] theorem atNs_parts (s : State) (n : Nat) : (s.atNs n).parts = s.parts := rfl
@[simp] theorem atNs_tiers (s : State) (n : Nat) : (s.atNs n).tiers = s.tiers := rfl
@[simp] theorem atNs_dram (s : State) (n : Nat) : (s.atNs n).dram = s.dram := rfl
@[simp] theorem atNs_crucibles (s : State) (n : Nat) : (s.atNs n).crucibles = s.crucibles := rfl
@[simp] theorem atNs_anvils (s : State) (n : Nat) : (s.atNs n).anvils = s.anvils := rfl
@[simp] theorem atNs_tongs (s : State) (n : Nat) : (s.atNs n).tongs = s.tongs := rfl
@[simp] theorem atNs_coh (s : State) (n : Nat) : (s.atNs n).coh = s.coh := rfl
@[simp] theorem atNs_ports (s : State) (n : Nat) : (s.atNs n).ports = s.ports := rfl
@[simp] theorem atNs_cxl (s : State) (n : Nat) : (s.atNs n).cxl = s.cxl := rfl
@[simp] theorem atNs_sec (s : State) (n : Nat) : (s.atNs n).sec = s.sec := rfl
@[simp] theorem atNs_bellows (s : State) (n : Nat) : (s.atNs n).bellows = s.bellows := rfl
@[simp] theorem atNs_twin (s : State) (n : Nat) : (s.atNs n).twin = s.twin := rfl
@[simp] theorem atNs_free (s : State) (n : Nat) : (s.atNs n).free = s.free := rfl
@[simp] theorem atNs_port (s : State) (n i : Nat) : (s.atNs n).port i = s.port i := rfl
@[simp] theorem atNs_egress (s : State) (n i : Nat) : (s.atNs n).egress i = s.egress i := rfl
@[simp] theorem atNs_inChip (s : State) (n d : Nat) : (s.atNs n).inChip d = s.inChip d := rfl
@[simp] theorem atNs_forwards (s : State) (n : Nat) : (s.atNs n).forwards = s.forwards := rfl
@[simp] theorem atNs_chooseOut (s : State) (n d c t : Nat) : (s.atNs n).chooseOut d c t = s.chooseOut d c t := rfl
@[simp] theorem atNs_transitOk (s : State) (n p : Nat) (c : Cell) : (s.atNs n).transitOk p c = s.transitOk p c := rfl
@[simp] theorem atNs_nextCtl (s : State) (n i : Nat) : (s.atNs n).nextCtl i = s.nextCtl i := rfl
@[simp] theorem atNs_stalls (s : State) (n i k : Nat) (a : State) : (s.atNs n).stalls i k a = s.stalls i k a := rfl
@[simp] theorem atNs_nsNow (s : State) (n k : Nat) : (s.atNs n).nsNow k = s.nsNow k := rfl
@[simp] theorem atNs_part (s : State) (n p : Nat) : (s.atNs n).part p = s.part p := rfl

end Sys2Proof.Machine
end

