-- ==== Sys2Proof/Safety.lean ====
section
/-! DEFINITION. What a safe run is, and what it is for a command to complete: the terms the statements use. -/

namespace Sys2Proof.Safety
open Machine

/-- A step is safe when it answers a next state: it neither faults nor is refused. -/
def Safe (o : Host.Outcome State Fault Refusal) : Prop := ∃ t, o = .next t

/-- Command `c` completes on `s` and leaves exactly `t`, with the output pins as `t` drives them. -/
def Gives (c : Instr) (s t : State) : Prop := exec c s = .next (drive t)

/-- Command `c` completes on `s` in a state that satisfies `P`. -/
def Completes (c : Instr) (s : State) (P : State → Prop) : Prop := ∃ t, exec c s = .next t ∧ P t

/-- From `s` to `t` nothing changes but anvil `a`, the output pins and the model's count of free values: every other anvil,
every other component of the block, and all that the anvils share stay as they were. -/
def OnlyAnvil (a : Nat) (s t : State) : Prop :=
  { t with anvils := s.anvils, pins := s.pins, free := s.free } = s ∧
  { t.anvils with anvils := s.anvils.anvils } = s.anvils ∧ ∀ b, b ≠ a → t.anvil b = s.anvil b

/-- From `s` to `t` a vector instruction put `g` of the registers before it in each lane of its destination whose mask bit
is set, and left the rest of them, and everything outside its anvil, as they were; the pc moved to the next instruction. -/
def LaneWise (s t : State) (o : OpA) (g : Nat → AnvilRegs → Nat → Half × Nat) : Prop :=
  let r := (s.anvil o.anvil).regs
  let q := (t.anvil o.anvil).regs
  (∀ i, i < 64 → lane (q.rv o.d) i = if (r.rm o.msk).getLsbD i then (g (64 * s.free + i) r i).1 else lane (r.rv o.d) i) ∧
  (∀ j, j % 32 ≠ o.d % 32 → q.rv j = r.rv j) ∧ q.s = r.s ∧ q.m = r.m ∧ q.acc = r.acc ∧ q.pc = (r.pc + 1) % 8192 ∧
  q.streamKey = r.streamKey ∧ q.streamCtr = r.streamCtr ∧ OnlyAnvil o.anvil s t

/-- The output pins follow the state: READY (R535), THERMTRIP_N (R495), REPLACE_N (R515), BATON_OUT (R503, R504, R541), the
heat pulse of GPIO0 (R45) and the trace pins (R546). -/
abbrev PinsFollow (s : State) : Prop :=
  (s.pins.ready = true ↔ s.boot.step = 7 ∧ s.pins.pwrok = true ∧ s.pins.sysRstN = true) ∧
  (s.pins.thermtripN = false ↔ s.pins.tripped = true) ∧
  (s.pins.replaceN = false ↔
    s.boot.replaceStatus % 32 ≠ 0 ∧ s.pins.pwrok = true ∧ s.pins.sysRstN = true ∧ s.sec.recovery = false) ∧
  (s.pins.batonOut = some true → s.twin.state.isPrimary = true ∧ s.bellows.coolant = none ∧ s.pins.tripped = false ∧
    s.pins.pwrok = true ∧ s.pins.sysRstN = true ∧ s.boot.batonLow = false ∧ 3 ≤ s.boot.step ∧ s.sec.recovery = false) ∧
  (s.pins.pwrok = true → s.boot.batonLow = true → s.pins.batonOut = some false) ∧
  (s.pins.heatPulse ≠ 0 → s.sec.config.gpio0Fn = 1 ∧ s.boot.step = 7 ∧ s.pins.pwrok = true ∧ s.pins.sysRstN = true) ∧
  (s.pins.trace = true → s.sec.config.gpio0Fn = 2 ∧ s.sec.debugUnlocked = true ∧ s.boot.step = 7 ∧ s.pins.pwrok = true ∧ s.pins.sysRstN = true)

/-- The form of a directory entry that R299 gives. -/
def DirectoryForm (e : DirEntry) : Prop :=
  e.pvalid < 16 ∧ e.fidx < 4 ∧
  (e.state = .excl → e.pointers.length = 1 ∧ e.ovf = false) ∧
  (e.state = .shared → (1 ≤ e.pointers.length ∧ e.pointers.length ≤ 4) ∨ e.ovf = true) ∧
  (e.ovf = true → e.pointers = e.fHolder.toList)

/-! ### Commands of the command set (R419–R423) -/

/-- On `s` a command's operand names message `m` on the channel of `q`, of the row `cmd`, whole with the payload of `q`: what
the rules of the command are then decided on is `q`. -/
def Names (s : State) (arg : IcsArg) (cmd : IcsCmd) (m : IcsMsg) (q : IcsReq) : Prop :=
  s.icsTake arg = some (q.chan, m) ∧ m.opcode = cmd.opcode ∧ bits m.flags 3 2 = 0 ∧
  (s.dropHeld q.chan m).wholePayload q.chan m = some q.pay ∧ q.flags = m.flags ∧ q.now = s.taken q.chan m ∧ q.proj = q.now.projected

/-- Checks 1 to 6 of Table — Command checks on a request: none for one that passes. -/
def checks (cmd : IcsCmd) (m : IcsMsg) (q : IcsReq) : Option Nat :=
  q.now.icsRefuses q.proj q.chan { m with payload := q.pay } cmd

/-- Command `c` of the row `cmd`: a message that fails a check, or breaks one of the command's own rules `rules`, is refused
with that status before acceptance and changes nothing else but what its channel holds; one that passes them ends as `body`
says. -/
def Serves (c : IcsArg → Instr) (cmd : IcsCmd) (rules : IcsReq → List (Bool × Nat))
    (body : State → IcsArg → IcsMsg → IcsReq → Prop) : Prop :=
  ∀ (s : State) (arg : IcsArg) (m : IcsMsg) (q : IcsReq), Names s arg cmd m q →
    (∀ st, checks cmd m q = some st → Gives (c arg) s (q.now.refuseIcs q.chan m st)) ∧
    (checks cmd m q = none → ∀ st, (rules q).find? (·.1) = some (true, st) → Gives (c arg) s (q.now.refuseIcs q.chan m st)) ∧
    (checks cmd m q = none → (∀ r, r ∈ rules q → r.1 = false) → body s arg m q)

/-- A command that is accepted and changes `objs` by `change` at the next boundary; while an earlier accepted command still
changes one of them it is BUSY. -/
def Stages (c : IcsArg → Instr) (cmd : IcsCmd) (rules : IcsReq → List (Bool × Nat))
    (objs : IcsReq → List Obj) (change : IcsReq → Change) : Prop :=
  Serves c cmd rules (fun s arg m q =>
    (q.now.conflicts (objs q) (q.now.replaced (change q)) = false →
      Gives (c arg) s ((q.now.superseded (change q)).journal q.chan m (objs q) (.boundary 1 (change q)))) ∧
    (q.now.conflicts (objs q) (q.now.replaced (change q)) = true → Gives (c arg) s (q.now.refuseIcs q.chan m stBusy)))

/-- A command that is accepted, leaves `next`, and ends when `event` comes; BUSY while what it changes is being changed. -/
def Starts (c : IcsArg → Instr) (cmd : IcsCmd) (rules : IcsReq → List (Bool × Nat))
    (objs : IcsReq → List Obj) (event : IcsReq → EventKey) (next : IcsReq → State) : Prop :=
  Serves c cmd rules (fun s arg m q =>
    (q.now.conflicts (objs q) (fun _ => false) = false → Gives (c arg) s ((next q).journal q.chan m (objs q) (.event (event q)))) ∧
    (q.now.conflicts (objs q) (fun _ => false) = true → Gives (c arg) s (q.now.refuseIcs q.chan m stBusy)))

/-- A command that is accepted and answered OK at once with `reply`, leaving `next` beside the reply. -/
def Replies (c : IcsArg → Instr) (cmd : IcsCmd) (rules : IcsReq → List (Bool × Nat))
    (reply : IcsReq → List Byte) (next : IcsReq → State) : Prop :=
  Serves c cmd rules (fun s arg m q =>
    Gives (c arg) s ((next q).answerIcs q.chan m.opcode m.tag m.partition true stOk (reply q)))

/-- A command that is answered OK at once with `reply` and changes nothing else. -/
def Answers (c : IcsArg → Instr) (cmd : IcsCmd) (rules : IcsReq → List (Bool × Nat))
    (reply : IcsReq → List Byte) : Prop := Replies c cmd rules reply (·.now)

end Sys2Proof.Safety
end

