-- ==== Sys2Proof/Laws/Anvil.lean ====
section
/-! SUPPORT. The register files of an anvil, and what an instruction that retires does to its anvil and to nothing else. -/

namespace Sys2Proof.Machine

open Sys2Proof.Safety

/-! ### Register files -/

@[simp] theorem AnvilRegs.rs_zero (r : AnvilRegs) (i : Nat) (h : i % 32 = 0) : r.rs i = 0 := by simp [AnvilRegs.rs, h]

/-- A scalar register reads what was written last; s0 reads 0 and takes no write. -/
theorem AnvilRegs.rs_ws (r : AnvilRegs) (i j : Nat) (v : Word) :
    (r.ws i v).rs j = if j % 32 = i % 32 ∧ j % 32 ≠ 0 then v else r.rs j := by
  unfold AnvilRegs.ws AnvilRegs.rs
  by_cases h0 : j % 32 = 0
  · simp [h0]
  · by_cases hi : i % 32 = 0
    · have : j % 32 ≠ i % 32 := by omega
      simp [hi, h0]
    · simp only [hi, if_false, h0, tget_tset, ne_eq, not_false_eq_true, and_true]

@[simp] theorem AnvilRegs.ws_v (r : AnvilRegs) (i : Nat) (v : Word) : (r.ws i v).v = r.v := by unfold AnvilRegs.ws; split <;> rfl
@[simp] theorem AnvilRegs.ws_m (r : AnvilRegs) (i : Nat) (v : Word) : (r.ws i v).m = r.m := by unfold AnvilRegs.ws; split <;> rfl
@[simp] theorem AnvilRegs.ws_acc (r : AnvilRegs) (i : Nat) (v : Word) : (r.ws i v).acc = r.acc := by unfold AnvilRegs.ws; split <;> rfl
@[simp] theorem AnvilRegs.ws_pc (r : AnvilRegs) (i : Nat) (v : Word) : (r.ws i v).pc = r.pc := by unfold AnvilRegs.ws; split <;> rfl

/-- A vector register reads what was written last. -/
theorem AnvilRegs.rv_wv (r : AnvilRegs) (i j : Nat) (v : BitVec 2048) : (r.wv i v).rv j = if j % 32 = i % 32 then v else r.rv j := by
  simp [AnvilRegs.wv, AnvilRegs.rv, tget_tset]

@[simp] theorem AnvilRegs.wv_s (r : AnvilRegs) (i : Nat) (v : BitVec 2048) : (r.wv i v).s = r.s := rfl
@[simp] theorem AnvilRegs.wv_m (r : AnvilRegs) (i : Nat) (v : BitVec 2048) : (r.wv i v).m = r.m := rfl
@[simp] theorem AnvilRegs.wv_acc (r : AnvilRegs) (i : Nat) (v : BitVec 2048) : (r.wv i v).acc = r.acc := rfl
@[simp] theorem AnvilRegs.wv_streamKey (r : AnvilRegs) (i : Nat) (v : BitVec 2048) : (r.wv i v).streamKey = r.streamKey := rfl
@[simp] theorem AnvilRegs.wv_streamCtr (r : AnvilRegs) (i : Nat) (v : BitVec 2048) : (r.wv i v).streamCtr = r.streamCtr := rfl
@[simp] theorem AnvilRegs.wv_pc (r : AnvilRegs) (i : Nat) (v : BitVec 2048) : (r.wv i v).pc = r.pc := rfl

/-- A mask register reads what was written last; m0 reads all ones and takes no write. -/
theorem AnvilRegs.rm_wm (r : AnvilRegs) (i j : Nat) (v : Word) :
    (r.wm i v).rm j = if j % 8 = i % 8 ∧ j % 8 ≠ 0 then v else r.rm j := by
  unfold AnvilRegs.wm AnvilRegs.rm
  by_cases h0 : j % 8 = 0
  · simp [h0]
  · by_cases hi : i % 8 = 0
    · have : j % 8 ≠ i % 8 := by omega
      simp [hi, h0]
    · simp only [hi, if_false, h0, tget_tset, ne_eq, not_false_eq_true, and_true]

/-! ### The anvil and the rest of the block -/

theorem State.noteAnvil_only (s : State) (a k n : Nat) : OnlyAnvil a s (s.noteAnvil a k n) := by
  unfold State.noteAnvil State.countAnvil
  split
  · exact ⟨rfl, rfl, fun b h => by simp [State.anvil_modAnvil, h]⟩
  · exact ⟨rfl, rfl, fun _ _ => rfl⟩

theorem State.modAnvil_only (s : State) (a : Nat) (f : Anvil → Anvil) : OnlyAnvil a s (s.modAnvil a f) :=
  ⟨rfl, rfl, fun b h => by simp [State.anvil_modAnvil, h]⟩

theorem onlyAnvil_refl (a : Nat) (s : State) : OnlyAnvil a s s := ⟨rfl, rfl, fun _ _ => rfl⟩

theorem onlyAnvil_trans {a : Nat} {s t u : State} (h : OnlyAnvil a s t) (g : OnlyAnvil a t u) : OnlyAnvil a s u := by
  obtain ⟨h1, h2, h3⟩ := h
  obtain ⟨g1, g2, g3⟩ := g
  refine ⟨?_, ?_, fun b e => (g3 b e).trans (h3 b e)⟩
  · rw [← h1]; simp only [State.mk.injEq] at g1 ⊢; grind
  · rw [← h2]; simp only [Anvils.mk.injEq] at g2 ⊢; grind

theorem onlyAnvil_drive {a : Nat} {s t : State} (h : OnlyAnvil a s t) : OnlyAnvil a s (drive t) := onlyAnvil_trans h ⟨rfl, rfl, fun _ _ => rfl⟩

theorem State.drawn_only (s : State) (a : Nat) : OnlyAnvil a s s.drawn := ⟨rfl, rfl, fun _ _ => rfl⟩

theorem State.retire_only (s : State) (a : Nat) (f : AnvilRegs → AnvilRegs) : OnlyAnvil a s (s.retire a f) :=
  onlyAnvil_trans (State.modAnvil_only _ _ _) (State.noteAnvil_only _ _ _ _)

theorem State.retireV_only (s : State) (a n : Nat) (f : AnvilRegs → AnvilRegs) : OnlyAnvil a s (s.retireV a n f) :=
  onlyAnvil_trans (State.retire_only _ _ _) (State.noteAnvil_only _ _ _ _)

/-- Counting leaves the registers. -/
@[simp] theorem State.noteAnvil_regs (s : State) (a b k n : Nat) : ((s.noteAnvil a k n).anvil b).regs = (s.anvil b).regs := by
  unfold State.noteAnvil State.countAnvil
  split
  · rw [State.anvil_modAnvil]; split
    · next h => subst h; rfl
    · rfl
  · rfl

/-- The registers after an instruction that retires. -/
@[simp] theorem State.retire_regs (s : State) (a : Nat) (f : AnvilRegs → AnvilRegs) :
    ((s.retire a f).anvil a).regs = (f (s.anvil a).regs).next := by
  simp [State.retire, State.modRegs]

@[simp] theorem State.retireV_regs (s : State) (a n : Nat) (f : AnvilRegs → AnvilRegs) :
    ((s.retireV a n f).anvil a).regs = (f (s.anvil a).regs).next := by
  simp [State.retireV]

/-- What an instruction does that issues and does not fault. -/
theorem State.instr_ok (s t : State) (a : Nat) (h : s.issues a = true) : s.instr a (.ok t) = t := by simp [State.instr, h]

/-- An instruction that changes only its anvil where it goes on changes only its anvil, issued or not. -/
theorem State.instr_only (s t : State) (a : Nat) (h : OnlyAnvil a s t) : OnlyAnvil a s (s.instr a (.ok t)) := by
  unfold State.instr
  split
  · exact onlyAnvil_refl a s
  · exact h

theorem drive_anvil (s : State) (a : Nat) : (drive s).anvil a = s.anvil a := rfl
theorem State.drawn_anvil (s : State) (a : Nat) : s.drawn.anvil a = s.anvil a := rfl

/-- What an instruction that retires leaves depends only on what it makes of the registers it finds. -/
theorem State.retireV_congr (s : State) (a n : Nat) (f g : AnvilRegs → AnvilRegs) (h : f (s.anvil a).regs = g (s.anvil a).regs) :
    s.retireV a n f = s.retireV a n g := by
  have e : s.modRegs a (fun r => (f r).next) = s.modRegs a (fun r => (g r).next) := by
    unfold State.modRegs State.modAnvil tmod
    unfold State.anvil at h
    simp only [h]
  unfold State.retireV State.retire
  rw [e]

/-- A write of a vector whose lanes are `g` under the mask, and the old ones elsewhere, acts lane by lane. -/
theorem State.laneWise_wv (s : State) (o : OpA) (g : Nat → AnvilRegs → Nat → Half × Nat) (w : BitVec 2048) (n : Nat) (r : AnvilRegs)
    (hr : (s.anvil o.anvil).regs = r)
    (hw : ∀ i, i < 64 → lane w i = if (r.rm o.msk).getLsbD i then (g (64 * s.free + i) r i).1 else lane (r.rv o.d) i) :
    LaneWise s (drive (s.drawn.retireV o.anvil 1 (fun _ => (r.wv o.d w).saturated n))) o g := by
  have hq : (((drive (s.drawn.retireV o.anvil 1 (fun _ => (r.wv o.d w).saturated n))).anvil o.anvil).regs) = ((r.wv o.d w).saturated n).next := by
    rw [drive_anvil, State.retireV_regs]
  unfold LaneWise
  rw [hq, hr]
  refine ⟨fun i hi => ?_, fun j hj => ?_, rfl, rfl, rfl, rfl, rfl, rfl, ?_⟩
  · have e : ((r.wv o.d w).saturated n).next.rv o.d = (r.wv o.d w).rv o.d := rfl
    rw [e, AnvilRegs.rv_wv, if_pos rfl, hw i hi]
  · have e : ((r.wv o.d w).saturated n).next.rv j = (r.wv o.d w).rv j := rfl
    rw [e, AnvilRegs.rv_wv, if_neg hj]
  · exact onlyAnvil_drive (onlyAnvil_trans (State.drawn_only s o.anvil) (State.retireV_only _ _ _ _))

/-- A masked write of a vector whose lanes are `g` acts lane by lane. -/
theorem State.laneWise_write (s : State) (o : OpA) (g : Nat → AnvilRegs → Nat → Half × Nat) (v : BitVec 2048) (n : Nat)
    (hv : ∀ i, i < 64 → lane v i = (g (64 * s.free + i) (s.anvil o.anvil).regs i).1) :
    LaneWise s (drive (s.drawn.retireV o.anvil 1 (fun y => (y.wvMasked o.msk o.d v).saturated n))) o g := by
  rw [State.retireV_congr s.drawn o.anvil 1 _ (fun _ => ((s.anvil o.anvil).regs.wv o.d
    (masked ((s.anvil o.anvil).regs.rm o.msk) ((s.anvil o.anvil).regs.rv o.d) v)).saturated n) (by rw [State.drawn_anvil]; rfl)]
  apply State.laneWise_wv s o g _ n _ rfl
  intro i hi
  rw [lane_masked _ _ _ _ hi, hv i hi]

/-- A vector instruction that issues acts lane by lane. -/
theorem State.vector_laneWise (s : State) (o : OpA) (g : Nat → AnvilRegs → Nat → Half × Nat) (h : s.issues o.anvil = true) :
    LaneWise s (drive (s.vector o g)) o g := by
  unfold State.vector
  rw [State.instr_ok _ _ _ h]
  apply State.laneWise_write
  intro i hi
  rw [lane_ofLanes _ (by simp) i (by simpa using hi)]
  simp

/-! ### The shared operations of the register instructions change only their anvil -/

theorem State.scalarA_only (s : State) (o : OpA) (f : Word → Word → Word) : OnlyAnvil o.anvil s (s.scalarA o f) :=
  State.instr_only _ _ _ (State.retire_only _ _ _)

theorem State.scalarI_only (s : State) (o : OpI) (f : Word → Word → Word) : OnlyAnvil o.anvil s (s.scalarI o f) :=
  State.instr_only _ _ _ (State.retire_only _ _ _)

theorem State.shiftA_only (s : State) (o : OpA) (f : Word → Nat → Word) : OnlyAnvil o.anvil s (s.shiftA o f) :=
  onlyAnvil_trans (State.drawn_only _ _) (State.scalarA_only _ _ _)

theorem State.shiftI_only (s : State) (o : OpI) (f : Word → Nat → Word) : OnlyAnvil o.anvil s (s.shiftI o f) :=
  onlyAnvil_trans (State.drawn_only _ _) (State.scalarI_only _ _ _)

theorem State.branch_only (s : State) (o : OpB) (p : Word → Word → Bool) : OnlyAnvil o.anvil s (s.branch o p) :=
  State.instr_only _ _ _ (onlyAnvil_trans (State.retire_only _ _ _) (State.modAnvil_only _ _ _))

theorem State.vector_only (s : State) (o : OpA) (g : Nat → AnvilRegs → Nat → Half × Nat) : OnlyAnvil o.anvil s (s.vector o g) :=
  State.instr_only _ _ _ (onlyAnvil_trans (State.drawn_only _ _) (State.retireV_only _ _ _ _))

theorem State.vec1_only (s : State) (o : OpA) (f : Nat → Half → Half × Nat) : OnlyAnvil o.anvil s (s.vec1 o f) := State.vector_only _ _ _

theorem State.vec2_only (s : State) (o : OpA) (f : Nat → Half → Half → Half × Nat) : OnlyAnvil o.anvil s (s.vec2 o f) :=
  State.vector_only _ _ _

theorem State.vec3_only (s : State) (o : OpA) (f : Nat → Half → Half → Half → Half × Nat) : OnlyAnvil o.anvil s (s.vec3 o f) :=
  State.vector_only _ _ _

theorem State.reduce_only (s : State) (o : OpA) (f : Nat → List Half → Half × Nat) : OnlyAnvil o.anvil s (s.reduce o f) :=
  State.vector_only _ _ _

theorem State.compare_only (s : State) (o : OpA) (f : Half → Half → Bool) : OnlyAnvil o.anvil s (s.compare o f) :=
  State.instr_only _ _ _ (State.retireV_only _ _ _ _)

end Sys2Proof.Machine
end

