-- ==== Sys2Proof/Laws/Exec.lean ====
section
/-! SUPPORT. One equation per command: what `exec` answers is what its meaning answers. Proofs rewrite with these and never
unfold the dispatch. -/

namespace Sys2Proof.Machine

@[simp] theorem exec_heatBoundary (x : Sample) (s : State) : exec (.heatBoundary x) s = execHeatBoundary x s := rfl
@[simp] theorem exec_heatStart (s : State) : exec (.heatStart) s = execHeatStart s := rfl
@[simp] theorem exec_heatSyncIn (phase : Nat) (s : State) : exec (.heatSyncIn phase) s = execHeatSyncIn phase s := rfl
@[simp] theorem exec_syncReq (port t1 hop t2 t3 : Nat) (s : State) : exec (.syncReq port t1 hop t2 t3) s = execSyncReq port t1 hop t2 t3 s := rfl
@[simp] theorem exec_syncRsp (port t1 t2 t3 hop t4 : Nat) (s : State) : exec (.syncRsp port t1 t2 t3 hop t4) s = execSyncRsp port t1 t2 t3 hop t4 s := rfl
@[simp] theorem exec_syncRspLoss (s : State) : exec (.syncRspLoss) s = execSyncRspLoss s := rfl
@[simp] theorem exec_decayBoundary (s : State) : exec (.decayBoundary) s = execDecayBoundary s := rfl
@[simp] theorem exec_doubledRefreshExit (bulk : Bool) (index : Nat) (s : State) : exec (.doubledRefreshExit bulk index) s = execDoubledRefreshExit bulk index s := rfl
@[simp] theorem exec_postponedRefreshIssue (unit : Nat) (s : State) : exec (.postponedRefreshIssue unit) s = execPostponedRefreshIssue unit s := rfl
@[simp] theorem exec_memRd (port : Nat) (t : Train) (s : State) : exec (.memRd port t) s = execMemRd port t s := rfl
@[simp] theorem exec_memWr (port : Nat) (t : Train) (s : State) : exec (.memWr port t) s = execMemWr port t s := rfl
@[simp] theorem exec_forgeCacheFill (forge sector : Nat) (s : State) : exec (.forgeCacheFill forge sector) s = execForgeCacheFill forge sector s := rfl
@[simp] theorem exec_dramReadComplete (queue pos : Nat) (rowHit : Bool) (errs : List Nat) (s : State) : exec (.dramReadComplete queue pos rowHit errs) s = execDramReadComplete queue pos rowHit errs s := rfl
@[simp] theorem exec_caParityError (unit : Nat) (s : State) : exec (.caParityError unit) s = execCaParityError unit s := rfl
@[simp] theorem exec_ageLimitExpiry (queue : Nat) (write : Bool) (pos : Nat) (s : State) : exec (.ageLimitExpiry queue write pos) s = execAgeLimitExpiry queue write pos s := rfl
@[simp] theorem exec_powerDownEntry (unit : Nat) (s : State) : exec (.powerDownEntry unit) s = execPowerDownEntry unit s := rfl
@[simp] theorem exec_selfRefreshEntry (unit : Nat) (s : State) : exec (.selfRefreshEntry unit) s = execSelfRefreshEntry unit s := rfl
@[simp] theorem exec_patrolScrubUnitComplete (forge : Nat) (found : List Finding) (s : State) : exec (.patrolScrubUnitComplete forge found) s = execPatrolScrubUnitComplete forge found s := rfl
@[simp] theorem exec_scrubWindowEnd (walker : Nat) (s : State) : exec (.scrubWindowEnd walker) s = execScrubWindowEnd walker s := rfl
@[simp] theorem exec_spareMigrationUnitComplete (forge : Nat) (found : List Finding) (s : State) : exec (.spareMigrationUnitComplete forge found) s = execSpareMigrationUnitComplete forge found s := rfl
@[simp] theorem exec_warmUpTestUnitComplete (forge : Nat) (pass : Bool) (s : State) : exec (.warmUpTestUnitComplete forge pass) s = execWarmUpTestUnitComplete forge pass s := rfl
@[simp] theorem exec_placementMigrationUnitComplete (forge : Nat) (found : List Finding) (s : State) : exec (.placementMigrationUnitComplete forge found) s = execPlacementMigrationUnitComplete forge found s := rfl
@[simp] theorem exec_extentFillUnitComplete (forge ext : Nat) (s : State) : exec (.extentFillUnitComplete forge ext) s = execExtentFillUnitComplete forge ext s := rfl
@[simp] theorem exec_quenchScrubUnitComplete (forge ext : Nat) (s : State) : exec (.quenchScrubUnitComplete forge ext) s = execQuenchScrubUnitComplete forge ext s := rfl
@[simp] theorem exec_twinEpochCopyUnitComplete (copy : TwinCopy) (s : State) : exec (.twinEpochCopyUnitComplete copy) s = execTwinEpochCopyUnitComplete copy s := rfl
@[simp] theorem exec_releaseDrainEnd (ext : Nat) (s : State) : exec (.releaseDrainEnd ext) s = execReleaseDrainEnd ext s := rfl
@[simp] theorem exec_tombstoneExpiry (p : Nat) (s : State) : exec (.tombstoneExpiry p) s = execTombstoneExpiry p s := rfl
@[simp] theorem exec_fenceAck (port : Nat) (cell : Cell) (s : State) : exec (.fenceAck port cell) s = execFenceAck port cell s := rfl
@[simp] theorem exec_fenceWaitExpiry (p : Nat) (s : State) : exec (.fenceWaitExpiry p) s = execFenceWaitExpiry p s := rfl
@[simp] theorem exec_quenchZeroingComplete (p : Nat) (s : State) : exec (.quenchZeroingComplete p) s = execQuenchZeroingComplete p s := rfl
@[simp] theorem exec_captureSegmentCopyComplete (sid leaf : Nat) (found : List Finding) (s : State) : exec (.captureSegmentCopyComplete sid leaf found) s = execCaptureSegmentCopyComplete sid leaf found s := rfl
@[simp] theorem exec_pour (port : Nat) (cell : Cell) (s : State) : exec (.pour port cell) s = execPour port cell s := rfl
@[simp] theorem exec_pourCell (port : Nat) (cell : Cell) (s : State) : exec (.pourCell port cell) s = execPourCell port cell s := rfl
@[simp] theorem exec_stagingTruncation (port : Nat) (s : State) : exec (.stagingTruncation port) s = execStagingTruncation port s := rfl
@[simp] theorem exec_windowOpen (s : State) : exec (.windowOpen) s = execWindowOpen s := rfl
@[simp] theorem exec_windowSpill (s : State) : exec (.windowSpill) s = execWindowSpill s := rfl
@[simp] theorem exec_spillWriteComplete (melt window : Nat) (s : State) : exec (.spillWriteComplete melt window) s = execSpillWriteComplete melt window s := rfl
@[simp] theorem exec_windowDeadline (melt window : Nat) (s : State) : exec (.windowDeadline melt window) s = execWindowDeadline melt window s := rfl
@[simp] theorem exec_windowHandOff (melt : Nat) (s : State) : exec (.windowHandOff melt) s = execWindowHandOff melt s := rfl
@[simp] theorem exec_imageReadReport (anvil : Nat) (found : List Finding) (s : State) : exec (.imageReadReport anvil found) s = execImageReadReport anvil found s := rfl
@[simp] theorem exec_windowWritten (anvil : Nat) (found : List Finding) (s : State) : exec (.windowWritten anvil found) s = execWindowWritten anvil found s := rfl
@[simp] theorem exec_stepEnd (melt : Nat) (s : State) : exec (.stepEnd melt) s = execStepEnd melt s := rfl
@[simp] theorem exec_tileTransferComplete (anvil index : Nat) (found : List Finding) (s : State) : exec (.tileTransferComplete anvil index found) s = execTileTransferComplete anvil index found s := rfl
@[simp] theorem exec_mwaitRelease (anvil : Nat) (s : State) : exec (.mwaitRelease anvil) s = execMwaitRelease anvil s := rfl
@[simp] theorem exec_waithRelease (anvil : Nat) (s : State) : exec (.waithRelease anvil) s = execWaithRelease anvil s := rfl
@[simp] theorem exec_waitwRelease (anvil : Nat) (s : State) : exec (.waitwRelease anvil) s = execWaitwRelease anvil s := rfl
@[simp] theorem exec_barRelease (p barrier : Nat) (s : State) : exec (.barRelease p barrier) s = execBarRelease p barrier s := rfl
@[simp] theorem exec_waiteRelease (anvil : Nat) (s : State) : exec (.waiteRelease anvil) s = execWaiteRelease anvil s := rfl
@[simp] theorem exec_contextSaveComplete (anvil : Nat) (s : State) : exec (.contextSaveComplete anvil) s = execContextSaveComplete anvil s := rfl
@[simp] theorem exec_anvilZeroingComplete (anvil : Nat) (s : State) : exec (.anvilZeroingComplete anvil) s = execAnvilZeroingComplete anvil s := rfl
@[simp] theorem exec_contextRestoreComplete (anvil : Nat) (s : State) : exec (.contextRestoreComplete anvil) s = execContextRestoreComplete anvil s := rfl
@[simp] theorem exec_fault (o : OpI) (s : State) : exec (.fault o) s = execFault o s := rfl
@[simp] theorem exec_yield (o : OpI) (s : State) : exec (.yield o) s = execYield o s := rfl
@[simp] theorem exec_phase (o : OpI) (s : State) : exec (.phase o) s = execPhase o s := rfl
@[simp] theorem exec_srd (o : OpI) (s : State) : exec (.srd o) s = execSrd o s := rfl
@[simp] theorem exec_swr (o : OpI) (s : State) : exec (.swr o) s = execSwr o s := rfl
@[simp] theorem exec_live (o : OpI) (s : State) : exec (.live o) s = execLive o s := rfl
@[simp] theorem exec_halt (o : OpI) (s : State) : exec (.halt o) s = execHalt o s := rfl
@[simp] theorem exec_add (o : OpA) (s : State) : exec (.add o) s = execAdd o s := rfl
@[simp] theorem exec_sub (o : OpA) (s : State) : exec (.sub o) s = execSub o s := rfl
@[simp] theorem exec_mul (o : OpA) (s : State) : exec (.mul o) s = execMul o s := rfl
@[simp] theorem exec_and (o : OpA) (s : State) : exec (.and o) s = execAnd o s := rfl
@[simp] theorem exec_or (o : OpA) (s : State) : exec (.or o) s = execOr o s := rfl
@[simp] theorem exec_xor (o : OpA) (s : State) : exec (.xor o) s = execXor o s := rfl
@[simp] theorem exec_shl (o : OpA) (s : State) : exec (.shl o) s = execShl o s := rfl
@[simp] theorem exec_shr (o : OpA) (s : State) : exec (.shr o) s = execShr o s := rfl
@[simp] theorem exec_sar (o : OpA) (s : State) : exec (.sar o) s = execSar o s := rfl
@[simp] theorem exec_slt (o : OpA) (s : State) : exec (.slt o) s = execSlt o s := rfl
@[simp] theorem exec_sltu (o : OpA) (s : State) : exec (.sltu o) s = execSltu o s := rfl
@[simp] theorem exec_min (o : OpA) (s : State) : exec (.min o) s = execMin o s := rfl
@[simp] theorem exec_max (o : OpA) (s : State) : exec (.max o) s = execMax o s := rfl
@[simp] theorem exec_addImmediate (o : OpI) (s : State) : exec (.addImmediate o) s = execAddImmediate o s := rfl
@[simp] theorem exec_subImmediate (o : OpI) (s : State) : exec (.subImmediate o) s = execSubImmediate o s := rfl
@[simp] theorem exec_mulImmediate (o : OpI) (s : State) : exec (.mulImmediate o) s = execMulImmediate o s := rfl
@[simp] theorem exec_andImmediate (o : OpI) (s : State) : exec (.andImmediate o) s = execAndImmediate o s := rfl
@[simp] theorem exec_orImmediate (o : OpI) (s : State) : exec (.orImmediate o) s = execOrImmediate o s := rfl
@[simp] theorem exec_xorImmediate (o : OpI) (s : State) : exec (.xorImmediate o) s = execXorImmediate o s := rfl
@[simp] theorem exec_shlImmediate (o : OpI) (s : State) : exec (.shlImmediate o) s = execShlImmediate o s := rfl
@[simp] theorem exec_shrImmediate (o : OpI) (s : State) : exec (.shrImmediate o) s = execShrImmediate o s := rfl
@[simp] theorem exec_sarImmediate (o : OpI) (s : State) : exec (.sarImmediate o) s = execSarImmediate o s := rfl
@[simp] theorem exec_sltImmediate (o : OpI) (s : State) : exec (.sltImmediate o) s = execSltImmediate o s := rfl
@[simp] theorem exec_sltuImmediate (o : OpI) (s : State) : exec (.sltuImmediate o) s = execSltuImmediate o s := rfl
@[simp] theorem exec_minImmediate (o : OpI) (s : State) : exec (.minImmediate o) s = execMinImmediate o s := rfl
@[simp] theorem exec_maxImmediate (o : OpI) (s : State) : exec (.maxImmediate o) s = execMaxImmediate o s := rfl
@[simp] theorem exec_lui (o : OpI) (s : State) : exec (.lui o) s = execLui o s := rfl
@[simp] theorem exec_beq (o : OpB) (s : State) : exec (.beq o) s = execBeq o s := rfl
@[simp] theorem exec_bne (o : OpB) (s : State) : exec (.bne o) s = execBne o s := rfl
@[simp] theorem exec_blt (o : OpB) (s : State) : exec (.blt o) s = execBlt o s := rfl
@[simp] theorem exec_bge (o : OpB) (s : State) : exec (.bge o) s = execBge o s := rfl
@[simp] theorem exec_bltu (o : OpB) (s : State) : exec (.bltu o) s = execBltu o s := rfl
@[simp] theorem exec_bgeu (o : OpB) (s : State) : exec (.bgeu o) s = execBgeu o s := rfl
@[simp] theorem exec_jal (o : OpB) (s : State) : exec (.jal o) s = execJal o s := rfl
@[simp] theorem exec_jr (o : OpB) (s : State) : exec (.jr o) s = execJr o s := rfl
@[simp] theorem exec_tld (o : OpM) (s : State) : exec (.tld o) s = execTld o s := rfl
@[simp] theorem exec_tst (o : OpM) (s : State) : exec (.tst o) s = execTst o s := rfl
@[simp] theorem exec_tld2 (o : OpM) (s : State) : exec (.tld2 o) s = execTld2 o s := rfl
@[simp] theorem exec_tst2 (o : OpM) (s : State) : exec (.tst2 o) s = execTst2 o s := rfl
@[simp] theorem exec_lds (o : OpM) (s : State) : exec (.lds o) s = execLds o s := rfl
@[simp] theorem exec_sts (o : OpM) (s : State) : exec (.sts o) s = execSts o s := rfl
@[simp] theorem exec_mwait (o : OpM) (s : State) : exec (.mwait o) s = execMwait o s := rfl
@[simp] theorem exec_vld (o : OpM) (s : State) : exec (.vld o) s = execVld o s := rfl
@[simp] theorem exec_vst (o : OpM) (s : State) : exec (.vst o) s = execVst o s := rfl
@[simp] theorem exec_vbc (o : OpM) (s : State) : exec (.vbc o) s = execVbc o s := rfl
@[simp] theorem exec_vadd (o : OpA) (s : State) : exec (.vadd o) s = execVadd o s := rfl
@[simp] theorem exec_vsub (o : OpA) (s : State) : exec (.vsub o) s = execVsub o s := rfl
@[simp] theorem exec_vmul (o : OpA) (s : State) : exec (.vmul o) s = execVmul o s := rfl
@[simp] theorem exec_vfma (o : OpA) (s : State) : exec (.vfma o) s = execVfma o s := rfl
@[simp] theorem exec_vmin (o : OpA) (s : State) : exec (.vmin o) s = execVmin o s := rfl
@[simp] theorem exec_vmax (o : OpA) (s : State) : exec (.vmax o) s = execVmax o s := rfl
@[simp] theorem exec_vabs (o : OpA) (s : State) : exec (.vabs o) s = execVabs o s := rfl
@[simp] theorem exec_vneg (o : OpA) (s : State) : exec (.vneg o) s = execVneg o s := rfl
@[simp] theorem exec_vsign (o : OpA) (s : State) : exec (.vsign o) s = execVsign o s := rfl
@[simp] theorem exec_vsqrt (o : OpA) (s : State) : exec (.vsqrt o) s = execVsqrt o s := rfl
@[simp] theorem exec_vrcp (o : OpA) (s : State) : exec (.vrcp o) s = execVrcp o s := rfl
@[simp] theorem exec_vrsqrt (o : OpA) (s : State) : exec (.vrsqrt o) s = execVrsqrt o s := rfl
@[simp] theorem exec_vexp2 (o : OpA) (s : State) : exec (.vexp2 o) s = execVexp2 o s := rfl
@[simp] theorem exec_vredsum (o : OpA) (s : State) : exec (.vredsum o) s = execVredsum o s := rfl
@[simp] theorem exec_vredmax (o : OpA) (s : State) : exec (.vredmax o) s = execVredmax o s := rfl
@[simp] theorem exec_vcmplt (o : OpA) (s : State) : exec (.vcmplt o) s = execVcmplt o s := rfl
@[simp] theorem exec_vsel (o : OpA) (s : State) : exec (.vsel o) s = execVsel o s := rfl
@[simp] theorem exec_vsplat (o : OpA) (s : State) : exec (.vsplat o) s = execVsplat o s := rfl
@[simp] theorem exec_vlane (o : OpA) (s : State) : exec (.vlane o) s = execVlane o s := rfl
@[simp] theorem exec_vacr (o : OpA) (s : State) : exec (.vacr o) s = execVacr o s := rfl
@[simp] theorem exec_vacw (o : OpA) (s : State) : exec (.vacw o) s = execVacw o s := rfl
@[simp] theorem exec_vaddInt (o : OpA) (s : State) : exec (.vaddInt o) s = execVaddInt o s := rfl
@[simp] theorem exec_vsubInt (o : OpA) (s : State) : exec (.vsubInt o) s = execVsubInt o s := rfl
@[simp] theorem exec_vmulInt (o : OpA) (s : State) : exec (.vmulInt o) s = execVmulInt o s := rfl
@[simp] theorem exec_vfmaInt (o : OpA) (s : State) : exec (.vfmaInt o) s = execVfmaInt o s := rfl
@[simp] theorem exec_vminInt (o : OpA) (s : State) : exec (.vminInt o) s = execVminInt o s := rfl
@[simp] theorem exec_vmaxInt (o : OpA) (s : State) : exec (.vmaxInt o) s = execVmaxInt o s := rfl
@[simp] theorem exec_vabsInt (o : OpA) (s : State) : exec (.vabsInt o) s = execVabsInt o s := rfl
@[simp] theorem exec_vnegInt (o : OpA) (s : State) : exec (.vnegInt o) s = execVnegInt o s := rfl
@[simp] theorem exec_vsignInt (o : OpA) (s : State) : exec (.vsignInt o) s = execVsignInt o s := rfl
@[simp] theorem exec_vsqrtInt (o : OpA) (s : State) : exec (.vsqrtInt o) s = execVsqrtInt o s := rfl
@[simp] theorem exec_vrcpInt (o : OpA) (s : State) : exec (.vrcpInt o) s = execVrcpInt o s := rfl
@[simp] theorem exec_vrsqrtInt (o : OpA) (s : State) : exec (.vrsqrtInt o) s = execVrsqrtInt o s := rfl
@[simp] theorem exec_vexp2Int (o : OpA) (s : State) : exec (.vexp2Int o) s = execVexp2Int o s := rfl
@[simp] theorem exec_vredsumInt (o : OpA) (s : State) : exec (.vredsumInt o) s = execVredsumInt o s := rfl
@[simp] theorem exec_vredmaxInt (o : OpA) (s : State) : exec (.vredmaxInt o) s = execVredmaxInt o s := rfl
@[simp] theorem exec_vcmpltInt (o : OpA) (s : State) : exec (.vcmpltInt o) s = execVcmpltInt o s := rfl
@[simp] theorem exec_vcvtTo (o : OpA) (s : State) : exec (.vcvtTo o) s = execVcvtTo o s := rfl
@[simp] theorem exec_vcvtFrom (o : OpA) (s : State) : exec (.vcvtFrom o) s = execVcvtFrom o s := rfl
@[simp] theorem exec_pack (o : OpA) (s : State) : exec (.pack o) s = execPack o s := rfl
@[simp] theorem exec_unpack (o : OpA) (s : State) : exec (.unpack o) s = execUnpack o s := rfl
@[simp] theorem exec_sgnv (o : OpA) (s : State) : exec (.sgnv o) s = execSgnv o s := rfl
@[simp] theorem exec_mma (o : OpA) (s : State) : exec (.mma o) s = execMma o s := rfl
@[simp] theorem exec_azero (o : OpA) (s : State) : exec (.azero o) s = execAzero o s := rfl
@[simp] theorem exec_fwhs (o : OpA) (s : State) : exec (.fwhs o) s = execFwhs o s := rfl
@[simp] theorem exec_fwhf (o : OpA) (s : State) : exec (.fwhf o) s = execFwhf o s := rfl
@[simp] theorem exec_fwhd (o : OpA) (s : State) : exec (.fwhd o) s = execFwhd o s := rfl
@[simp] theorem exec_treq (o : OpA) (s : State) : exec (.treq o) s = execTreq o s := rfl
@[simp] theorem exec_waith (o : OpI) (s : State) : exec (.waith o) s = execWaith o s := rfl
@[simp] theorem exec_waitw (o : OpI) (s : State) : exec (.waitw o) s = execWaitw o s := rfl
@[simp] theorem exec_bar (o : OpI) (s : State) : exec (.bar o) s = execBar o s := rfl
@[simp] theorem exec_sete (o : OpI) (s : State) : exec (.sete o) s = execSete o s := rfl
@[simp] theorem exec_waite (o : OpI) (s : State) : exec (.waite o) s = execWaite o s := rfl
@[simp] theorem exec_sig (o : OpI) (s : State) : exec (.sig o) s = execSig o s := rfl
@[simp] theorem exec_doorbell (acc : Accessor) (ctx size value : Nat) (s : State) : exec (.doorbell acc ctx size value) s = execDoorbell acc ctx size value s := rfl
@[simp] theorem exec_copy (ctx : Nat) (s : State) : exec (.copy ctx) s = execCopy ctx s := rfl
@[simp] theorem exec_tile (ctx : Nat) (s : State) : exec (.tile ctx) s = execTile ctx s := rfl
@[simp] theorem exec_gather (ctx : Nat) (s : State) : exec (.gather ctx) s = execGather ctx s := rfl
@[simp] theorem exec_scatter (ctx : Nat) (s : State) : exec (.scatter ctx) s = execScatter ctx s := rfl
@[simp] theorem exec_fill (ctx : Nat) (s : State) : exec (.fill ctx) s = execFill ctx s := rfl
@[simp] theorem exec_cast (ctx : Nat) (s : State) : exec (.cast ctx) s = execCast ctx s := rfl
@[simp] theorem exec_seal (ctx : Nat) (s : State) : exec (.seal ctx) s = execSeal ctx s := rfl
@[simp] theorem exec_push (ctx : Nat) (s : State) : exec (.push ctx) s = execPush ctx s := rfl
@[simp] theorem exec_loop (ctx : Nat) (s : State) : exec (.loop ctx) s = execLoop ctx s := rfl
@[simp] theorem exec_wait (ctx : Nat) (s : State) : exec (.wait ctx) s = execWait ctx s := rfl
@[simp] theorem exec_signal (ctx : Nat) (s : State) : exec (.signal ctx) s = execSignal ctx s := rfl
@[simp] theorem exec_waitMet (ctx : Nat) (s : State) : exec (.waitMet ctx) s = execWaitMet ctx s := rfl
@[simp] theorem exec_translationWalkComplete (ctx : Nat) (tva : Nat) (s : State) : exec (.translationWalkComplete ctx tva) s = execTranslationWalkComplete ctx tva s := rfl
@[simp] theorem exec_strokeCommit (ctx idx stroke : Nat) (found : List Finding) (s : State) : exec (.strokeCommit ctx idx stroke found) s = execStrokeCommit ctx idx stroke found s := rfl
@[simp] theorem exec_wrCmp (port : Nat) (t : Train) (s : State) : exec (.wrCmp port t) s = execWrCmp port t s := rfl
@[simp] theorem exec_pushTimeout (ctx idx : Nat) (s : State) : exec (.pushTimeout ctx idx) s = execPushTimeout ctx idx s := rfl
@[simp] theorem exec_invalidationFenceComplete (asid : Nat) (s : State) : exec (.invalidationFenceComplete asid) s = execInvalidationFenceComplete asid s := rfl
@[simp] theorem exec_contextResetComplete (ctx : Nat) (s : State) : exec (.contextResetComplete ctx) s = execContextResetComplete ctx s := rfl
@[simp] theorem exec_rdShared (port : Nat) (t : Train) (s : State) : exec (.rdShared port t) s = execRdShared port t s := rfl
@[simp] theorem exec_rdOwn (port : Nat) (t : Train) (s : State) : exec (.rdOwn port t) s = execRdOwn port t s := rfl
@[simp] theorem exec_upgrade (port : Nat) (t : Train) (s : State) : exec (.upgrade port t) s = execUpgrade port t s := rfl
@[simp] theorem exec_rdCur (port : Nat) (t : Train) (s : State) : exec (.rdCur port t) s = execRdCur port t s := rfl
@[simp] theorem exec_wrBack (port : Nat) (t : Train) (s : State) : exec (.wrBack port t) s = execWrBack port t s := rfl
@[simp] theorem exec_wrLine (port : Nat) (t : Train) (s : State) : exec (.wrLine port t) s = execWrLine port t s := rfl
@[simp] theorem exec_wrPartial (port : Nat) (t : Train) (s : State) : exec (.wrPartial port t) s = execWrPartial port t s := rfl
@[simp] theorem exec_wrPlace (port : Nat) (t : Train) (s : State) : exec (.wrPlace port t) s = execWrPlace port t s := rfl
@[simp] theorem exec_ack (port : Nat) (t : Train) (s : State) : exec (.ack port t) s = execAck port t s := rfl
@[simp] theorem exec_placeTake (port : Nat) (t : Train) (s : State) : exec (.placeTake port t) s = execPlaceTake port t s := rfl
@[simp] theorem exec_placeDecline (port : Nat) (t : Train) (s : State) : exec (.placeDecline port t) s = execPlaceDecline port t s := rfl
@[simp] theorem exec_snoopTimeout (tracker member : Nat) (s : State) : exec (.snoopTimeout tracker member) s = execSnoopTimeout tracker member s := rfl
@[simp] theorem exec_gripTimeExpiry (line member : Nat) (s : State) : exec (.gripTimeExpiry line member) s = execGripTimeExpiry line member s := rfl
@[simp] theorem exec_homeRequestDequeue (forge : Nat) (s : State) : exec (.homeRequestDequeue forge) s = execHomeRequestDequeue forge s := rfl
@[simp] theorem exec_unresponsiveSweepComplete (p : Nat) (s : State) : exec (.unresponsiveSweepComplete p) s = execUnresponsiveSweepComplete p s := rfl
@[simp] theorem exec_signalDetect (port : Nat) (s : State) : exec (.signalDetect port) s = execSignalDetect port s := rfl
@[simp] theorem exec_trainingComplete (port txLanes rxLanes rate : Nat) (s : State) : exec (.trainingComplete port txLanes rxLanes rate) s = execTrainingComplete port txLanes rxLanes rate s := rfl
@[simp] theorem exec_trainingTimeout (port : Nat) (s : State) : exec (.trainingTimeout port) s = execTrainingTimeout port s := rfl
@[simp] theorem exec_ident (port : Nat) (payload : List Byte) (s : State) : exec (.ident port payload) s = execIdent port payload s := rfl
@[simp] theorem exec_identResend (port : Nat) (s : State) : exec (.identResend port) s = execIdentResend port s := rfl
@[simp] theorem exec_linkUnitReceive (port : Nat) (raw : List Byte) (fec : UnitFec) (s : State) : exec (.linkUnitReceive port raw fec) s = execLinkUnitReceive port raw fec s := rfl
@[simp] theorem exec_linkCtl (port : Nat) (payload : List Byte) (s : State) : exec (.linkCtl port payload) s = execLinkCtl port payload s := rfl
@[simp] theorem exec_linkCtlTimer (port : Nat) (s : State) : exec (.linkCtlTimer port) s = execLinkCtlTimer port s := rfl
@[simp] theorem exec_replayTimerExpiry (port lseq : Nat) (s : State) : exec (.replayTimerExpiry port lseq) s = execReplayTimerExpiry port lseq s := rfl
@[simp] theorem exec_laneCmd (port : Nat) (payload : List Byte) (s : State) : exec (.laneCmd port payload) s = execLaneCmd port payload s := rfl
@[simp] theorem exec_laneAck (port : Nat) (payload : List Byte) (s : State) : exec (.laneAck port payload) s = execLaneAck port payload s := rfl
@[simp] theorem exec_laneGo (port : Nat) (payload : List Byte) (s : State) : exec (.laneGo port payload) s = execLaneGo port payload s := rfl
@[simp] theorem exec_laneSwitch (port : Nat) (receive : Bool) (s : State) : exec (.laneSwitch port receive) s = execLaneSwitch port receive s := rfl
@[simp] theorem exec_rateChangeRelock (port : Nat) (s : State) : exec (.rateChangeRelock port) s = execRateChangeRelock port s := rfl
@[simp] theorem exec_laneCmdTimeout (port : Nat) (s : State) : exec (.laneCmdTimeout port) s = execLaneCmdTimeout port s := rfl
@[simp] theorem exec_laneGoTimeout (port : Nat) (s : State) : exec (.laneGoTimeout port) s = execLaneGoTimeout port s := rfl
@[simp] theorem exec_retrainComplete (port txLanes rxLanes rate : Nat) (s : State) : exec (.retrainComplete port txLanes rxLanes rate) s = execRetrainComplete port txLanes rxLanes rate s := rfl
@[simp] theorem exec_retrainTimeout (port : Nat) (s : State) : exec (.retrainTimeout port) s = execRetrainTimeout port s := rfl
@[simp] theorem exec_partnerIdle (port : Nat) (s : State) : exec (.partnerIdle port) s = execPartnerIdle port s := rfl
@[simp] theorem exec_laneLockLoss (port lane : Nat) (s : State) : exec (.laneLockLoss port lane) s = execLaneLockLoss port lane s := rfl
@[simp] theorem exec_frameLockLoss (port : Nat) (s : State) : exec (.frameLockLoss port) s = execFrameLockLoss port s := rfl
@[simp] theorem exec_laneErrorWindowEnd (port : Nat) (corrected symbols : List Nat) (s : State) : exec (.laneErrorWindowEnd port corrected symbols) s = execLaneErrorWindowEnd port corrected symbols s := rfl
@[simp] theorem exec_laneWarmUpEnd (port lane : Nat) (pass : Bool) (s : State) : exec (.laneWarmUpEnd port lane pass) s = execLaneWarmUpEnd port lane pass s := rfl
@[simp] theorem exec_laneWarmUpRetry (port lane : Nat) (s : State) : exec (.laneWarmUpRetry port lane) s = execLaneWarmUpRetry port lane s := rfl
@[simp] theorem exec_tagUnit (port : Nat) (s : State) : exec (.tagUnit port) s = execTagUnit port s := rfl
@[simp] theorem exec_groupCloseTimer (port : Nat) (s : State) : exec (.groupCloseTimer port) s = execGroupCloseTimer port s := rfl
@[simp] theorem exec_rekeyTrigger (port : Nat) (s : State) : exec (.rekeyTrigger port) s = execRekeyTrigger port s := rfl
@[simp] theorem exec_linkKeyExchange1 (port : Nat) (m : KeyMsg) (s : State) : exec (.linkKeyExchange1 port m) s = execLinkKeyExchange1 port m s := rfl
@[simp] theorem exec_linkKeyExchange2 (port : Nat) (m : KeyMsg) (s : State) : exec (.linkKeyExchange2 port m) s = execLinkKeyExchange2 port m s := rfl
@[simp] theorem exec_linkKeyExchange3 (port : Nat) (m : KeyMsg) (s : State) : exec (.linkKeyExchange3 port m) s = execLinkKeyExchange3 port m s := rfl
@[simp] theorem exec_rekeyExchange1 (port : Nat) (m : KeyMsg) (s : State) : exec (.rekeyExchange1 port m) s = execRekeyExchange1 port m s := rfl
@[simp] theorem exec_rekeyExchange2 (port : Nat) (m : KeyMsg) (s : State) : exec (.rekeyExchange2 port m) s = execRekeyExchange2 port m s := rfl
@[simp] theorem exec_keyingTimeout (port : Nat) (s : State) : exec (.keyingTimeout port) s = execKeyingTimeout port s := rfl
@[simp] theorem exec_transitCell (port vc nowNs : Nat) (s : State) : exec (.transitCell port vc nowNs) s = execTransitCell port vc nowNs s := rfl
@[simp] theorem exec_trainTruncation (port vc : Nat) (s : State) : exec (.trainTruncation port vc) s = execTrainTruncation port vc s := rfl
@[simp] theorem exec_egressTrainStart (port granule unitTimes : Nat) (s : State) : exec (.egressTrainStart port granule unitTimes) s = execEgressTrainStart port granule unitTimes s := rfl
@[simp] theorem exec_regRd (port : Nat) (t : Train) (s : State) : exec (.regRd port t) s = execRegRd port t s := rfl
@[simp] theorem exec_regWr (port : Nat) (t : Train) (s : State) : exec (.regWr port t) s = execRegWr port t s := rfl
@[simp] theorem exec_cxlMemRead (head hpa : Nat) (kind : HostRead) (tag : Nat) (s : State) : exec (.cxlMemRead head hpa kind tag) s = execCxlMemRead head hpa kind tag s := rfl
@[simp] theorem exec_cxlMemWrite (head hpa : Nat) (back : Bool) (mask : Nat) (data : List Byte) (s : State) : exec (.cxlMemWrite head hpa back mask data) s = execCxlMemWrite head hpa back mask data s := rfl
@[simp] theorem exec_birsp (head line state : Nat) (s : State) : exec (.birsp head line state) s = execBirsp head line state s := rfl
@[simp] theorem exec_hdmDecoderCommit (head index base size ways granularity position dpaBase : Nat) (s : State) : exec (.hdmDecoderCommit head index base size ways granularity position dpaBase) s = execHdmDecoderCommit head index base size ways granularity position dpaBase s := rfl
@[simp] theorem exec_functionLevelReset (head : Nat) (s : State) : exec (.functionLevelReset head) s = execFunctionLevelReset head s := rfl
@[simp] theorem exec_perstAssert (head : Nat) (s : State) : exec (.perstAssert head) s = execPerstAssert head s := rfl
@[simp] theorem exec_perstRelease (head : Nat) (s : State) : exec (.perstRelease head) s = execPerstRelease head s := rfl
@[simp] theorem exec_cxlLinkDown (head : Nat) (s : State) : exec (.cxlLinkDown head) s = execCxlLinkDown head s := rfl
@[simp] theorem exec_identify (head : Nat) (primary : Bool) (input : List Byte) (s : State) : exec (.identify head primary input) s = execIdentify head primary input s := rfl
@[simp] theorem exec_backgroundOperationStatus (head : Nat) (primary : Bool) (input : List Byte) (s : State) : exec (.backgroundOperationStatus head primary input) s = execBackgroundOperationStatus head primary input s := rfl
@[simp] theorem exec_getSupportedLogs (head : Nat) (primary : Bool) (input : List Byte) (s : State) : exec (.getSupportedLogs head primary input) s = execGetSupportedLogs head primary input s := rfl
@[simp] theorem exec_getLog (head : Nat) (primary : Bool) (input : List Byte) (s : State) : exec (.getLog head primary input) s = execGetLog head primary input s := rfl
@[simp] theorem exec_getTimestamp (head : Nat) (primary : Bool) (input : List Byte) (s : State) : exec (.getTimestamp head primary input) s = execGetTimestamp head primary input s := rfl
@[simp] theorem exec_setTimestamp (head : Nat) (primary : Bool) (input : List Byte) (s : State) : exec (.setTimestamp head primary input) s = execSetTimestamp head primary input s := rfl
@[simp] theorem exec_getEventRecords (head : Nat) (primary : Bool) (input : List Byte) (s : State) : exec (.getEventRecords head primary input) s = execGetEventRecords head primary input s := rfl
@[simp] theorem exec_clearEventRecords (head : Nat) (primary : Bool) (input : List Byte) (s : State) : exec (.clearEventRecords head primary input) s = execClearEventRecords head primary input s := rfl
@[simp] theorem exec_getEventInterruptPolicy (head : Nat) (primary : Bool) (input : List Byte) (s : State) : exec (.getEventInterruptPolicy head primary input) s = execGetEventInterruptPolicy head primary input s := rfl
@[simp] theorem exec_setEventInterruptPolicy (head : Nat) (primary : Bool) (input : List Byte) (s : State) : exec (.setEventInterruptPolicy head primary input) s = execSetEventInterruptPolicy head primary input s := rfl
@[simp] theorem exec_identifyMemoryDevice (head : Nat) (primary : Bool) (input : List Byte) (s : State) : exec (.identifyMemoryDevice head primary input) s = execIdentifyMemoryDevice head primary input s := rfl
@[simp] theorem exec_getPartitionInfo (head : Nat) (primary : Bool) (input : List Byte) (s : State) : exec (.getPartitionInfo head primary input) s = execGetPartitionInfo head primary input s := rfl
@[simp] theorem exec_getPoisonList (head : Nat) (primary : Bool) (input : List Byte) (s : State) : exec (.getPoisonList head primary input) s = execGetPoisonList head primary input s := rfl
@[simp] theorem exec_injectPoison (head : Nat) (primary : Bool) (input : List Byte) (s : State) : exec (.injectPoison head primary input) s = execInjectPoison head primary input s := rfl
@[simp] theorem exec_clearPoison (head : Nat) (primary : Bool) (input : List Byte) (s : State) : exec (.clearPoison head primary input) s = execClearPoison head primary input s := rfl
@[simp] theorem exec_getDynamicCapacityConfiguration (head : Nat) (primary : Bool) (input : List Byte) (s : State) : exec (.getDynamicCapacityConfiguration head primary input) s = execGetDynamicCapacityConfiguration head primary input s := rfl
@[simp] theorem exec_getDynamicCapacityExtentList (head : Nat) (primary : Bool) (input : List Byte) (s : State) : exec (.getDynamicCapacityExtentList head primary input) s = execGetDynamicCapacityExtentList head primary input s := rfl
@[simp] theorem exec_addDynamicCapacityResponse (head : Nat) (primary : Bool) (input : List Byte) (s : State) : exec (.addDynamicCapacityResponse head primary input) s = execAddDynamicCapacityResponse head primary input s := rfl
@[simp] theorem exec_releaseDynamicCapacity (head : Nat) (primary : Bool) (input : List Byte) (s : State) : exec (.releaseDynamicCapacity head primary input) s = execReleaseDynamicCapacity head primary input s := rfl
@[simp] theorem exec_unsupportedCxlCommand (head : Nat) (primary : Bool) (opcode : Nat) (s : State) : exec (.unsupportedCxlCommand head primary opcode) s = execUnsupportedCxlCommand head primary opcode s := rfl
@[simp] theorem exec_hearthFailureDetected (s : State) : exec (.hearthFailureDetected) s = execHearthFailureDetected s := rfl
@[simp] theorem exec_hearthSwitchComplete (s : State) : exec (.hearthSwitchComplete) s = execHearthSwitchComplete s := rfl
@[simp] theorem exec_hearthLost (s : State) : exec (.hearthLost) s = execHearthLost s := rfl
@[simp] theorem exec_hearthWarmUpEnd (core : Nat) (pass : Bool) (s : State) : exec (.hearthWarmUpEnd core pass) s = execHearthWarmUpEnd core pass s := rfl
@[simp] theorem exec_hearthSyncComplete (core : Nat) (s : State) : exec (.hearthSyncComplete core) s = execHearthSyncComplete core s := rfl
@[simp] theorem exec_mbxSubmit (acc : Accessor) (p : Nat) (s : State) : exec (.mbxSubmit acc p) s = execMbxSubmit acc p s := rfl
@[simp] theorem exec_mbxSubmitIndirect (acc : Accessor) (p : Nat) (s : State) : exec (.mbxSubmitIndirect acc p) s = execMbxSubmitIndirect acc p s := rfl
@[simp] theorem exec_mailboxTimeout (p : Nat) (s : State) : exec (.mailboxTimeout p) s = execMailboxTimeout p s := rfl
@[simp] theorem exec_selUnit (head size value : Nat) (s : State) : exec (.selUnit head size value) s = execSelUnit head size value s := rfl
@[simp] theorem exec_rcRegisterRead (acc : Accessor) (offset size : Nat) (s : State) : exec (.rcRegisterRead acc offset size) s = execRcRegisterRead acc offset size s := rfl
@[simp] theorem exec_registerWrite (acc : Accessor) (offset size value : Nat) (s : State) : exec (.registerWrite acc offset size value) s = execRegisterWrite acc offset size value s := rfl
@[simp] theorem exec_icsRequestPart (arg : IcsArg) (s : State) : exec (.icsRequestPart arg) s = execIcsRequestPart arg s := rfl
@[simp] theorem exec_icsContinue (arg : IcsArg) (s : State) : exec (.icsContinue arg) s = execIcsContinue arg s := rfl
@[simp] theorem exec_icsHeldPartsExpiry (chan : Chan) (s : State) : exec (.icsHeldPartsExpiry chan) s = execIcsHeldPartsExpiry chan s := rfl
@[simp] theorem exec_fmChallengeExpiry (chan : Chan) (s : State) : exec (.fmChallengeExpiry chan) s = execFmChallengeExpiry chan s := rfl
@[simp] theorem exec_i3cBusReset (s : State) : exec (.i3cBusReset) s = execI3cBusReset s := rfl
@[simp] theorem exec_deviceInformation (arg : IcsArg) (s : State) : exec (.deviceInformation arg) s = execDeviceInformation arg s := rfl
@[simp] theorem exec_configRecordRead (arg : IcsArg) (s : State) : exec (.configRecordRead arg) s = execConfigRecordRead arg s := rfl
@[simp] theorem exec_certificateChainRead (arg : IcsArg) (s : State) : exec (.certificateChainRead arg) s = execCertificateChainRead arg s := rfl
@[simp] theorem exec_partitionCreate (arg : IcsArg) (s : State) : exec (.partitionCreate arg) s = execPartitionCreate arg s := rfl
@[simp] theorem exec_partitionDestroy (arg : IcsArg) (s : State) : exec (.partitionDestroy arg) s = execPartitionDestroy arg s := rfl
@[simp] theorem exec_partitionInformation (arg : IcsArg) (s : State) : exec (.partitionInformation arg) s = execPartitionInformation arg s := rfl
@[simp] theorem exec_partitionSpanSet (arg : IcsArg) (s : State) : exec (.partitionSpanSet arg) s = execPartitionSpanSet arg s := rfl
@[simp] theorem exec_memberSet (arg : IcsArg) (s : State) : exec (.memberSet arg) s = execMemberSet arg s := rfl
@[simp] theorem exec_coherenceSet (arg : IcsArg) (s : State) : exec (.coherenceSet arg) s = execCoherenceSet arg s := rfl
@[simp] theorem exec_contextRangeSet (arg : IcsArg) (s : State) : exec (.contextRangeSet arg) s = execContextRangeSet arg s := rfl
@[simp] theorem exec_starterBind (arg : IcsArg) (s : State) : exec (.starterBind arg) s = execStarterBind arg s := rfl
@[simp] theorem exec_extentAdd (arg : IcsArg) (s : State) : exec (.extentAdd arg) s = execExtentAdd arg s := rfl
@[simp] theorem exec_extentRelease (arg : IcsArg) (s : State) : exec (.extentRelease arg) s = execExtentRelease arg s := rfl
@[simp] theorem exec_extentInformation (arg : IcsArg) (s : State) : exec (.extentInformation arg) s = execExtentInformation arg s := rfl
@[simp] theorem exec_cxlRegionSet (arg : IcsArg) (s : State) : exec (.cxlRegionSet arg) s = execCxlRegionSet arg s := rfl
@[simp] theorem exec_cxlOffer (arg : IcsArg) (s : State) : exec (.cxlOffer arg) s = execCxlOffer arg s := rfl
@[simp] theorem exec_cxlWithdraw (arg : IcsArg) (s : State) : exec (.cxlWithdraw arg) s = execCxlWithdraw arg s := rfl
@[simp] theorem exec_dcTagSet (arg : IcsArg) (s : State) : exec (.dcTagSet arg) s = execDcTagSet arg s := rfl
@[simp] theorem exec_sealQuotaSet (arg : IcsArg) (s : State) : exec (.sealQuotaSet arg) s = execSealQuotaSet arg s := rfl
@[simp] theorem exec_sealCreate (arg : IcsArg) (s : State) : exec (.sealCreate arg) s = execSealCreate arg s := rfl
@[simp] theorem exec_sealInformation (arg : IcsArg) (s : State) : exec (.sealInformation arg) s = execSealInformation arg s := rfl
@[simp] theorem exec_sealMap (arg : IcsArg) (s : State) : exec (.sealMap arg) s = execSealMap arg s := rfl
@[simp] theorem exec_sealUnmap (arg : IcsArg) (s : State) : exec (.sealUnmap arg) s = execSealUnmap arg s := rfl
@[simp] theorem exec_sealRelease (arg : IcsArg) (s : State) : exec (.sealRelease arg) s = execSealRelease arg s := rfl
@[simp] theorem exec_hintSet (arg : IcsArg) (s : State) : exec (.hintSet arg) s = execHintSet arg s := rfl
@[simp] theorem exec_hintList (arg : IcsArg) (s : State) : exec (.hintList arg) s = execHintList arg s := rfl
@[simp] theorem exec_migrationBudgetSet (arg : IcsArg) (s : State) : exec (.migrationBudgetSet arg) s = execMigrationBudgetSet arg s := rfl
@[simp] theorem exec_coordinateSet (arg : IcsArg) (s : State) : exec (.coordinateSet arg) s = execCoordinateSet arg s := rfl
@[simp] theorem exec_portNeighbourSet (arg : IcsArg) (s : State) : exec (.portNeighbourSet arg) s = execPortNeighbourSet arg s := rfl
@[simp] theorem exec_routeSet (arg : IcsArg) (s : State) : exec (.routeSet arg) s = execRouteSet arg s := rfl
@[simp] theorem exec_routeRead (arg : IcsArg) (s : State) : exec (.routeRead arg) s = execRouteRead arg s := rfl
@[simp] theorem exec_portSet (arg : IcsArg) (s : State) : exec (.portSet arg) s = execPortSet arg s := rfl
@[simp] theorem exec_portRetrain (arg : IcsArg) (s : State) : exec (.portRetrain arg) s = execPortRetrain arg s := rfl
@[simp] theorem exec_transitMaskSet (arg : IcsArg) (s : State) : exec (.transitMaskSet arg) s = execTransitMaskSet arg s := rfl
@[simp] theorem exec_heatSyncSet (arg : IcsArg) (s : State) : exec (.heatSyncSet arg) s = execHeatSyncSet arg s := rfl
@[simp] theorem exec_queueSet (arg : IcsArg) (s : State) : exec (.queueSet arg) s = execQueueSet arg s := rfl
@[simp] theorem exec_groupSet (arg : IcsArg) (s : State) : exec (.groupSet arg) s = execGroupSet arg s := rfl
@[simp] theorem exec_gateSet (arg : IcsArg) (s : State) : exec (.gateSet arg) s = execGateSet arg s := rfl
@[simp] theorem exec_weightSet (arg : IcsArg) (s : State) : exec (.weightSet arg) s = execWeightSet arg s := rfl
@[simp] theorem exec_shaperSet (arg : IcsArg) (s : State) : exec (.shaperSet arg) s = execShaperSet arg s := rfl
@[simp] theorem exec_splitSet (arg : IcsArg) (s : State) : exec (.splitSet arg) s = execSplitSet arg s := rfl
@[simp] theorem exec_splitRead (arg : IcsArg) (s : State) : exec (.splitRead arg) s = execSplitRead arg s := rfl
@[simp] theorem exec_ageLimitSet (arg : IcsArg) (s : State) : exec (.ageLimitSet arg) s = execAgeLimitSet arg s := rfl
@[simp] theorem exec_meltOpen (arg : IcsArg) (s : State) : exec (.meltOpen arg) s = execMeltOpen arg s := rfl
@[simp] theorem exec_meltContributors (arg : IcsArg) (s : State) : exec (.meltContributors arg) s = execMeltContributors arg s := rfl
@[simp] theorem exec_meltArm (arg : IcsArg) (s : State) : exec (.meltArm arg) s = execMeltArm arg s := rfl
@[simp] theorem exec_meltClose (arg : IcsArg) (s : State) : exec (.meltClose arg) s = execMeltClose arg s := rfl
@[simp] theorem exec_meltAbortStep (arg : IcsArg) (s : State) : exec (.meltAbortStep arg) s = execMeltAbortStep arg s := rfl
@[simp] theorem exec_meltInformation (arg : IcsArg) (s : State) : exec (.meltInformation arg) s = execMeltInformation arg s := rfl
@[simp] theorem exec_statusRingSet (arg : IcsArg) (s : State) : exec (.statusRingSet arg) s = execStatusRingSet arg s := rfl
@[simp] theorem exec_rosterSet (arg : IcsArg) (s : State) : exec (.rosterSet arg) s = execRosterSet arg s := rfl
@[simp] theorem exec_rosterRead (arg : IcsArg) (s : State) : exec (.rosterRead arg) s = execRosterRead arg s := rfl
@[simp] theorem exec_anvilStoreSet (arg : IcsArg) (s : State) : exec (.anvilStoreSet arg) s = execAnvilStoreSet arg s := rfl
@[simp] theorem exec_anvilStoreRelease (arg : IcsArg) (s : State) : exec (.anvilStoreRelease arg) s = execAnvilStoreRelease arg s := rfl
@[simp] theorem exec_programLoad (arg : IcsArg) (s : State) : exec (.programLoad arg) s = execProgramLoad arg s := rfl
@[simp] theorem exec_programStart (arg : IcsArg) (s : State) : exec (.programStart arg) s = execProgramStart arg s := rfl
@[simp] theorem exec_programStop (arg : IcsArg) (s : State) : exec (.programStop arg) s = execProgramStop arg s := rfl
@[simp] theorem exec_tongsContextSet (arg : IcsArg) (s : State) : exec (.tongsContextSet arg) s = execTongsContextSet arg s := rfl
@[simp] theorem exec_tongsContextReset (arg : IcsArg) (s : State) : exec (.tongsContextReset arg) s = execTongsContextReset arg s := rfl
@[simp] theorem exec_tongsContextStatus (arg : IcsArg) (s : State) : exec (.tongsContextStatus arg) s = execTongsContextStatus arg s := rfl
@[simp] theorem exec_tongsResume (arg : IcsArg) (s : State) : exec (.tongsResume arg) s = execTongsResume arg s := rfl
@[simp] theorem exec_tongsSpaceSet (arg : IcsArg) (s : State) : exec (.tongsSpaceSet arg) s = execTongsSpaceSet arg s := rfl
@[simp] theorem exec_tongsSpaceFree (arg : IcsArg) (s : State) : exec (.tongsSpaceFree arg) s = execTongsSpaceFree arg s := rfl
@[simp] theorem exec_tongsInvalidate (arg : IcsArg) (s : State) : exec (.tongsInvalidate arg) s = execTongsInvalidate arg s := rfl
@[simp] theorem exec_tongsPlaceSet (arg : IcsArg) (s : State) : exec (.tongsPlaceSet arg) s = execTongsPlaceSet arg s := rfl
@[simp] theorem exec_faultQueueSet (arg : IcsArg) (s : State) : exec (.faultQueueSet arg) s = execFaultQueueSet arg s := rfl
@[simp] theorem exec_powerLimitSet (arg : IcsArg) (s : State) : exec (.powerLimitSet arg) s = execPowerLimitSet arg s := rfl
@[simp] theorem exec_phaseDeclare (arg : IcsArg) (s : State) : exec (.phaseDeclare arg) s = execPhaseDeclare arg s := rfl
@[simp] theorem exec_phaseSet (arg : IcsArg) (s : State) : exec (.phaseSet arg) s = execPhaseSet arg s := rfl
@[simp] theorem exec_dramPowerSet (arg : IcsArg) (s : State) : exec (.dramPowerSet arg) s = execDramPowerSet arg s := rfl
@[simp] theorem exec_powerStatus (arg : IcsArg) (s : State) : exec (.powerStatus arg) s = execPowerStatus arg s := rfl
@[simp] theorem exec_attestationReport (arg : IcsArg) (s : State) : exec (.attestationReport arg) s = execAttestationReport arg s := rfl
@[simp] theorem exec_attestationRead (arg : IcsArg) (s : State) : exec (.attestationRead arg) s = execAttestationRead arg s := rfl
@[simp] theorem exec_fmChallenge (arg : IcsArg) (s : State) : exec (.fmChallenge arg) s = execFmChallenge arg s := rfl
@[simp] theorem exec_fmBind (arg : IcsArg) (s : State) : exec (.fmBind arg) s = execFmBind arg s := rfl
@[simp] theorem exec_fmUnbind (arg : IcsArg) (s : State) : exec (.fmUnbind arg) s = execFmUnbind arg s := rfl
@[simp] theorem exec_debugUnlock (arg : IcsArg) (s : State) : exec (.debugUnlock arg) s = execDebugUnlock arg s := rfl
@[simp] theorem exec_debugLock (arg : IcsArg) (s : State) : exec (.debugLock arg) s = execDebugLock arg s := rfl
@[simp] theorem exec_memoryHealth (arg : IcsArg) (s : State) : exec (.memoryHealth arg) s = execMemoryHealth arg s := rfl
@[simp] theorem exec_scrubFloorSet (arg : IcsArg) (s : State) : exec (.scrubFloorSet arg) s = execScrubFloorSet arg s := rfl
@[simp] theorem exec_unitReturn (arg : IcsArg) (s : State) : exec (.unitReturn arg) s = execUnitReturn arg s := rfl
@[simp] theorem exec_hearthReturn (arg : IcsArg) (s : State) : exec (.hearthReturn arg) s = execHearthReturn arg s := rfl
@[simp] theorem exec_hearthSwitch (arg : IcsArg) (s : State) : exec (.hearthSwitch arg) s = execHearthSwitch arg s := rfl
@[simp] theorem exec_twinSet (arg : IcsArg) (s : State) : exec (.twinSet arg) s = execTwinSet arg s := rfl
@[simp] theorem exec_twinEpoch (arg : IcsArg) (s : State) : exec (.twinEpoch arg) s = execTwinEpoch arg s := rfl
@[simp] theorem exec_twinStatus (arg : IcsArg) (s : State) : exec (.twinStatus arg) s = execTwinStatus arg s := rfl
@[simp] theorem exec_unitRead (arg : IcsArg) (s : State) : exec (.unitRead arg) s = execUnitRead arg s := rfl
@[simp] theorem exec_coherenceStatistics (arg : IcsArg) (s : State) : exec (.coherenceStatistics arg) s = execCoherenceStatistics arg s := rfl
@[simp] theorem exec_queueStatistics (arg : IcsArg) (s : State) : exec (.queueStatistics arg) s = execQueueStatistics arg s := rfl
@[simp] theorem exec_firmwareInfo (arg : IcsArg) (s : State) : exec (.firmwareInfo arg) s = execFirmwareInfo arg s := rfl
@[simp] theorem exec_firmwareWrite (arg : IcsArg) (s : State) : exec (.firmwareWrite arg) s = execFirmwareWrite arg s := rfl
@[simp] theorem exec_firmwareActivate (arg : IcsArg) (s : State) : exec (.firmwareActivate arg) s = execFirmwareActivate arg s := rfl
@[simp] theorem exec_sourceFire (source : Nat) (raiser : Nat) (s : State) : exec (.sourceFire source raiser) s = execSourceFire source raiser s := rfl
@[simp] theorem exec_claim (acc : Accessor) (target : Nat) (s : State) : exec (.claim acc target) s = execClaim acc target s := rfl
@[simp] theorem exec_complete (acc : Accessor) (target value : Nat) (s : State) : exec (.complete acc target value) s = execComplete acc target value s := rfl
@[simp] theorem exec_srcCfg (acc : Accessor) (target value : Nat) (s : State) : exec (.srcCfg acc target value) s = execSrcCfg acc target value s := rfl
@[simp] theorem exec_sourceRelease (acc : Accessor) (target : Nat) (s : State) : exec (.sourceRelease acc target) s = execSourceRelease acc target s := rfl
@[simp] theorem exec_tgtCtrl (acc : Accessor) (target value : Nat) (s : State) : exec (.tgtCtrl acc target value) s = execTgtCtrl acc target value s := rfl
@[simp] theorem exec_delivery (target : Nat) (s : State) : exec (.delivery target) s = execDelivery target s := rfl
@[simp] theorem exec_redeliver (target : Nat) (s : State) : exec (.redeliver target) s = execRedeliver target s := rfl
@[simp] theorem exec_msiXUnmask (head : Nat) (access : Bar2) (s : State) : exec (.msiXUnmask head access) s = execMsiXUnmask head access s := rfl
@[simp] theorem exec_droopDetect (s : State) : exec (.droopDetect) s = execDroopDetect s := rfl
@[simp] theorem exec_droopStretchEnd (ns : Nat) (s : State) : exec (.droopStretchEnd ns) s = execDroopStretchEnd ns s := rfl
@[simp] theorem exec_avsReading (coreMv coreAmps stkWatts estimate : Nat) (s : State) : exec (.avsReading coreMv coreAmps stkWatts estimate) s = execAvsReading coreMv coreAmps stkWatts estimate s := rfl
@[simp] theorem exec_avsReadingMissing (s : State) : exec (.avsReadingMissing) s = execAvsReadingMissing s := rfl
@[simp] theorem exec_sustainedBlockEnd (s : State) : exec (.sustainedBlockEnd) s = execSustainedBlockEnd s := rfl
@[simp] theorem exec_voltageAdjust (up down : Nat) (s : State) : exec (.voltageAdjust up down) s = execVoltageAdjust up down s := rfl
@[simp] theorem exec_regulatorVoltageReport (mv : Nat) (s : State) : exec (.regulatorVoltageReport mv) s = execRegulatorVoltageReport mv s := rfl
@[simp] theorem exec_throttleHoldExpiry (s : State) : exec (.throttleHoldExpiry) s = execThrottleHoldExpiry s := rfl
@[simp] theorem exec_loadStepSlot (s : State) : exec (.loadStepSlot) s = execLoadStepSlot s := rfl
@[simp] theorem exec_pwrBrakeNLow (s : State) : exec (.pwrBrakeNLow) s = execPwrBrakeNLow s := rfl
@[simp] theorem exec_coolantOkLow (s : State) : exec (.coolantOkLow) s = execCoolantOkLow s := rfl
@[simp] theorem exec_coolantStopCclkStep (s : State) : exec (.coolantStopCclkStep) s = execCoolantStopCclkStep s := rfl
@[simp] theorem exec_coolantStopLinkIdle (s : State) : exec (.coolantStopLinkIdle) s = execCoolantStopLinkIdle s := rfl
@[simp] theorem exec_coolantStopSelfRefresh (s : State) : exec (.coolantStopSelfRefresh) s = execCoolantStopSelfRefresh s := rfl
@[simp] theorem exec_thermtrip (s : State) : exec (.thermtrip) s = execThermtrip s := rfl
@[simp] theorem exec_drbgReseed (s : State) : exec (.drbgReseed) s = execDrbgReseed s := rfl
@[simp] theorem exec_drbgHealthFailure (s : State) : exec (.drbgHealthFailure) s = execDrbgHealthFailure s := rfl
@[simp] theorem exec_scrubKeyReplace (s : State) : exec (.scrubKeyReplace) s = execScrubKeyReplace s := rfl
@[simp] theorem exec_pwrokRise (sysRstN coolantOk : Bool) (s : State) : exec (.pwrokRise sysRstN coolantOk) s = execPwrokRise sysRstN coolantOk s := rfl
@[simp] theorem exec_pwrokFall (s : State) : exec (.pwrokFall) s = execPwrokFall s := rfl
@[simp] theorem exec_sysRstNLow (s : State) : exec (.sysRstNLow) s = execSysRstNLow s := rfl
@[simp] theorem exec_warmResetFlushComplete (s : State) : exec (.warmResetFlushComplete) s = execWarmResetFlushComplete s := rfl
@[simp] theorem exec_sysRstNRise (coolantOk : Bool) (s : State) : exec (.sysRstNRise coolantOk) s = execSysRstNRise coolantOk s := rfl
@[simp] theorem exec_romStart (secret : List Byte) (s : State) : exec (.romStart secret) s = execRomStart secret s := rfl
@[simp] theorem exec_floorRecord (vendor kind firmware config : Nat) (s : State) : exec (.floorRecord vendor kind firmware config) s = execFloorRecord vendor kind firmware config s := rfl
@[simp] theorem exec_floorWaitExpiry (s : State) : exec (.floorWaitExpiry) s = execFloorWaitExpiry s := rfl
@[simp] theorem exec_romChecksComplete (s : State) : exec (.romChecksComplete) s = execRomChecksComplete s := rfl
@[simp] theorem exec_sramSelfTestComplete (core0 core1 : Bool) (s : State) : exec (.sramSelfTestComplete core0 core1) s = execSramSelfTestComplete core0 core1 s := rfl
@[simp] theorem exec_memoryTrainingComplete (hbm : List StackFound) (ddr : List BulkFound) (s : State) : exec (.memoryTrainingComplete hbm ddr) s = execMemoryTrainingComplete hbm ddr s := rfl
@[simp] theorem exec_memoryInitialisationComplete (anvils crucibles engines : Nat) (s : State) : exec (.memoryInitialisationComplete anvils crucibles engines) s = execMemoryInitialisationComplete anvils crucibles engines s := rfl
@[simp] theorem exec_bootResume (s : State) : exec (.bootResume) s = execBootResume s := rfl
@[simp] theorem exec_heartbeat (port : Nat) (cell : Cell) (s : State) : exec (.heartbeat port cell) s = execHeartbeat port cell s := rfl
@[simp] theorem exec_lostHeats (s : State) : exec (.lostHeats) s = execLostHeats s := rfl
@[simp] theorem exec_takeoverEnd (s : State) : exec (.takeoverEnd) s = execTakeoverEnd s := rfl
@[simp] theorem exec_undoRestoreUnitComplete (forge : Nat) (s : State) : exec (.undoRestoreUnitComplete forge) s = execUndoRestoreUnitComplete forge s := rfl
@[simp] theorem exec_twinMemWr (port : Nat) (t : Train) (s : State) : exec (.twinMemWr port t) s = execTwinMemWr port t s := rfl
@[simp] theorem exec_epochBegin (port : Nat) (cell : Cell) (s : State) : exec (.epochBegin port cell) s = execEpochBegin port cell s := rfl
@[simp] theorem exec_epochDone (port : Nat) (cell : Cell) (s : State) : exec (.epochDone port cell) s = execEpochDone port cell s := rfl
@[simp] theorem exec_resyncComplete (s : State) : exec (.resyncComplete) s = execResyncComplete s := rfl
@[simp] theorem exec_unitBoundary (port nowNs : Nat) (s : State) : exec (.unitBoundary port nowNs) s = execUnitBoundary port nowNs s := rfl
@[simp] theorem exec_outputVcRelease (port vc : Nat) (s : State) : exec (.outputVcRelease port vc) s = execOutputVcRelease port vc s := rfl
@[simp] theorem exec_tableStream (c : Change) (s : State) : exec (.tableStream c) s = execTableStream c s := rfl
@[simp] theorem exec_standbyFailureDetected (s : State) : exec (.standbyFailureDetected) s = execStandbyFailureDetected s := rfl
@[simp] theorem exec_cxlLinkTrainingComplete (head width rate : Nat) (s : State) : exec (.cxlLinkTrainingComplete head width rate) s = execCxlLinkTrainingComplete head width rate s := rfl
@[simp] theorem exec_reservedInstruction (anvil : Nat) (word : Nat) (s : State) : exec (.reservedInstruction anvil word) s = execReservedInstruction anvil word s := rfl
@[simp] theorem exec_reservedIcsOpcode (arg : IcsArg) (s : State) : exec (.reservedIcsOpcode arg) s = execReservedIcsOpcode arg s := rfl
@[simp] theorem exec_reservedDescriptorType (ctx : Nat) (s : State) : exec (.reservedDescriptorType ctx) s = execReservedDescriptorType ctx s := rfl
@[simp] theorem exec_flashProgrammed (s : State) : exec (.flashProgrammed) s = execFlashProgrammed s := rfl
@[simp] theorem exec_activationVerified (s : State) : exec (.activationVerified) s = execActivationVerified s := rfl
@[simp] theorem exec_reportSigned (chan : Chan) (s : State) : exec (.reportSigned chan) s = execReportSigned chan s := rfl
@[simp] theorem exec_measurementAppended (p slot : Nat) (s : State) : exec (.measurementAppended p slot) s = execMeasurementAppended p slot s := rfl
@[simp] theorem exec_failedUnitRetrainComplete (unit : Nat) (pass : Bool) (s : State) : exec (.failedUnitRetrainComplete unit pass) s = execFailedUnitRetrainComplete unit pass s := rfl
@[simp] theorem exec_batonOutRelease (s : State) : exec (.batonOutRelease) s = execBatonOutRelease s := rfl

end Sys2Proof.Machine
end

