-- ==== Sys2Proof/Laws/Ics.lean ====
section
/-! SUPPORT. What serving a command of the command set does, once for every command that ends in one of the four ways. -/

namespace Sys2Proof.Laws
open Sys2Proof.Machine Sys2Proof.Safety

/-- The first broken rule decides the refusal. -/
theorem firstBroken_find (l : List (Bool × Nat)) (d : Decision) (st : Nat) (h : l.find? (·.1) = some (true, st)) :
    firstBroken l d = .refuse st := by
  induction l with
  | nil => simp at h
  | cons r t ih =>
    rcases r with ⟨b, n⟩
    cases b with
    | true => simp at h; simp [firstBroken, h]
    | false => simp at h; simpa [firstBroken] using ih h

/-- With no broken rule the decision stands. -/
theorem firstBroken_kept (l : List (Bool × Nat)) (d : Decision) (h : ∀ r, r ∈ l → r.1 = false) : firstBroken l d = d := by
  induction l with
  | nil => rfl
  | cons r t ih =>
    rcases r with ⟨b, n⟩
    have hb : b = false := h (b, n) (List.mem_cons_self ..)
    subst hb
    exact ih (fun r hr => h r (List.mem_cons_of_mem _ hr))

/-- A named message is served: the first check that fails decides, else the command's decision is carried out. -/
theorem serve_named {s : State} {arg : IcsArg} {cmd : IcsCmd} {m : IcsMsg} {q : IcsReq} (h : Names s arg cmd m q)
    (f : IcsReq → Decision) :
    s.serve arg cmd f = match checks cmd m q with
      | some st => q.now.refuseIcs q.chan m st
      | none => q.now.carryOut q.chan m (f q) := by
  obtain ⟨h1, h2, h3, h4, h5, h6, h7⟩ := h
  rcases q with ⟨ch, pay, flags, now, proj⟩
  simp only at h1 h4 h5 h6 h7
  subst h5; subst h6; subst h7
  simp only [State.serve, h1, h2, h3, h4, checks, ne_eq, not_true_eq_false, decide_false, Bool.or_self, Bool.false_eq_true, if_false] <;> rfl

/-- A command whose meaning is to be served with its rules and then `d`, serves. -/
theorem serves_of {c : IcsArg → Instr} {cmd : IcsCmd} {rules : IcsReq → List (Bool × Nat)} {d : IcsReq → Decision}
    {body : State → IcsArg → IcsMsg → IcsReq → Prop}
    (h : ∀ arg s, exec (c arg) s = s.serveDone arg cmd (fun q => firstBroken (rules q) (d q)))
    (hb : ∀ s arg m q, Gives (c arg) s (q.now.carryOut q.chan m (d q)) → body s arg m q) : Serves c cmd rules body := by
  intro s arg m q hn
  refine ⟨fun st hs => ?_, fun hs st hr => ?_, fun hs hr => hb s arg m q ?_⟩
  · simp only [Gives, h, State.serveDone, serve_named hn, hs, done]
  · simp only [Gives, h, State.serveDone, serve_named hn, hs, done, firstBroken_find _ _ _ hr, State.carryOut]
  · simp only [Gives, h, State.serveDone, serve_named hn, hs, done, firstBroken_kept _ _ hr]

theorem stages_of {c : IcsArg → Instr} {cmd : IcsCmd} {rules : IcsReq → List (Bool × Nat)} {objs : IcsReq → List Obj}
    {change : IcsReq → Change}
    (h : ∀ arg s, exec (c arg) s = s.serveDone arg cmd (fun q => firstBroken (rules q) (.stage (objs q) (change q)))) :
    Stages c cmd rules objs change :=
  serves_of h (fun s arg m q hg => ⟨fun hc => by simpa [State.carryOut, hc] using hg, fun hc => by simpa [State.carryOut, hc] using hg⟩)

theorem starts_of {c : IcsArg → Instr} {cmd : IcsCmd} {rules : IcsReq → List (Bool × Nat)} {objs : IcsReq → List Obj}
    {event : IcsReq → EventKey} {next : IcsReq → State}
    (h : ∀ arg s, exec (c arg) s = s.serveDone arg cmd (fun q => firstBroken (rules q) (.start (objs q) (event q) (next q)))) :
    Starts c cmd rules objs event next :=
  serves_of h (fun s arg m q hg => ⟨fun hc => by simpa [State.carryOut, hc] using hg, fun hc => by simpa [State.carryOut, hc] using hg⟩)

theorem replies_of {c : IcsArg → Instr} {cmd : IcsCmd} {rules : IcsReq → List (Bool × Nat)} {reply : IcsReq → List Byte}
    {next : IcsReq → State}
    (h : ∀ arg s, exec (c arg) s = s.serveDone arg cmd (fun q => firstBroken (rules q) (.reply stOk (reply q) (next q)))) :
    Replies c cmd rules reply next :=
  serves_of h (fun s arg m q hg => by simpa [State.carryOut] using hg)

end Sys2Proof.Laws
end

