-- ==== Sys2Proof/Laws/Memory.lean ====
section
/-! SUPPORT. Device memory: every operation keeps the canonical form, and a read finds what was written. -/

namespace Sys2Proof.Machine

/-! ### The canonical form as properties of the list -/

theorem bwf_iff (t : Tab Byte) : bwf t = true ↔ (∀ p ∈ t, p.2 ≠ 0) ∧ t.Pairwise (fun p q => p.1 < q.1) := by
  induction t with
  | nil => simp [bwf]
  | cons p r ih =>
    obtain ⟨a, b⟩ := p
    cases r with
    | nil => simp [bwf]
    | cons q r =>
      obtain ⟨c, d⟩ := q
      simp only [bwf, Bool.and_eq_true, bne_iff_ne, ne_eq, decide_eq_true_eq, ih]
      constructor
      · rintro ⟨⟨hb, hac⟩, hz, hp⟩
        refine ⟨fun p hp' => ?_, ?_⟩
        · rcases List.mem_cons.1 hp' with rfl | h
          · exact hb
          · exact hz p h
        · refine List.pairwise_cons.2 ⟨fun p hp' => ?_, hp⟩
          rcases List.mem_cons.1 hp' with rfl | h
          · exact hac
          · exact lt_trans hac ((List.pairwise_cons.1 hp).1 p h)
      · rintro ⟨hz, hp⟩
        have h2 := List.pairwise_cons.1 hp
        exact ⟨⟨hz (a, b) (by simp), h2.1 (c, d) (by simp)⟩, fun p h => hz p (List.mem_cons_of_mem _ h), h2.2⟩

theorem rising_iff (l : List Nat) : rising l = true ↔ l.Pairwise (· < ·) := by
  induction l with
  | nil => simp [rising]
  | cons a r ih =>
    cases r with
    | nil => simp [rising]
    | cons b r =>
      simp only [rising, Bool.and_eq_true, decide_eq_true_eq, ih]
      constructor
      · rintro ⟨hab, hp⟩
        refine List.pairwise_cons.2 ⟨fun c hc => ?_, hp⟩
        rcases List.mem_cons.1 hc with rfl | h
        · exact hab
        · exact lt_trans hab ((List.pairwise_cons.1 hp).1 c h)
      · intro hp
        have h2 := List.pairwise_cons.1 hp
        exact ⟨h2.1 b (by simp), h2.2⟩

/-! ### The table operations -/

theorem mem_tins {α : Type} (t : Tab α) (k : Nat) (v : α) (p : Nat × α) (h : p ∈ tins t k v) : p = (k, v) ∨ p ∈ t := by
  induction t with
  | nil => simpa [tins] using h
  | cons q r ih =>
    obtain ⟨i, w⟩ := q
    unfold tins at h
    split at h
    · simpa using h
    · split at h
      · rcases List.mem_cons.1 h with h | h
        · exact .inl h
        · exact .inr (List.mem_cons_of_mem _ h)
      · rcases List.mem_cons.1 h with h | h
        · exact .inr (by simp [h])
        · rcases ih h with h | h
          · exact .inl h
          · exact .inr (List.mem_cons_of_mem _ h)

theorem pairwise_tins {α : Type} (t : Tab α) (k : Nat) (v : α) (h : t.Pairwise (fun p q => p.1 < q.1)) :
    (tins t k v).Pairwise (fun p q => p.1 < q.1) := by
  induction t with
  | nil => simp [tins]
  | cons q r ih =>
    obtain ⟨i, w⟩ := q
    have h2 := List.pairwise_cons.1 h
    unfold tins
    split
    · next hk =>
      refine List.pairwise_cons.2 ⟨fun p hp => ?_, h⟩
      rcases List.mem_cons.1 hp with rfl | hp
      · exact hk
      · exact lt_trans hk (h2.1 p hp)
    · split
      · next hk => subst hk; exact List.pairwise_cons.2 ⟨fun p hp => h2.1 p hp, h2.2⟩
      · next h1 h3 =>
        refine List.pairwise_cons.2 ⟨fun p hp => ?_, ih h2.2⟩
        rcases mem_tins _ _ _ _ hp with rfl | hp
        · show i < k; omega
        · exact h2.1 p hp

theorem bwf_filter (t : Tab Byte) (f : Nat × Byte → Bool) (h : bwf t = true) : bwf (t.filter f) = true := by
  rw [bwf_iff] at *
  exact ⟨fun p hp => h.1 p (List.mem_filter.1 hp).1, h.2.filter _⟩

theorem bwf_bset (t : Tab Byte) (a : Nat) (b : Byte) (h : bwf t = true) : bwf (bset t a b) = true := by
  unfold bset tset
  split
  · exact bwf_filter _ _ h
  · next hb =>
    rw [bwf_iff] at *
    refine ⟨fun p hp => ?_, pairwise_tins _ _ _ h.2⟩
    rcases mem_tins _ _ _ _ hp with rfl | hp
    · exact hb
    · exact h.1 p hp

theorem bwf_bwrite (t : Tab Byte) (a : Nat) (l : List Byte) (h : bwf t = true) : bwf (bwrite t a l) = true := by
  induction l generalizing t a with
  | nil => exact h
  | cons b r ih => exact ih _ _ (bwf_bset _ _ _ h)

theorem bwf_bclear (t : Tab Byte) (a n : Nat) (h : bwf t = true) : bwf (bclear t a n) = true := bwf_filter _ _ h

theorem rising_filter (l : List Nat) (f : Nat → Bool) (h : rising l = true) : rising (l.filter f) = true := by
  rw [rising_iff] at *
  exact h.filter _

theorem mem_addSorted (x y : Nat) (l : List Nat) (h : y ∈ addSorted x l) : y = x ∨ y ∈ l := by
  induction l with
  | nil => simpa [addSorted] using h
  | cons z r ih =>
    unfold addSorted at h
    split at h
    · simpa using h
    · split at h
      · exact .inr h
      · rcases List.mem_cons.1 h with h | h
        · exact .inr (by simp [h])
        · rcases ih h with h | h
          · exact .inl h
          · exact .inr (List.mem_cons_of_mem _ h)

theorem rising_addSorted (x : Nat) (l : List Nat) (h : rising l = true) : rising (addSorted x l) = true := by
  rw [rising_iff] at *
  induction l with
  | nil => simp [addSorted]
  | cons z r ih =>
    have h2 := List.pairwise_cons.1 h
    unfold addSorted
    split
    · next hx =>
      refine List.pairwise_cons.2 ⟨fun p hp => ?_, h⟩
      rcases List.mem_cons.1 hp with rfl | hp
      · exact hx
      · exact lt_trans hx (h2.1 p hp)
    · split
      · exact h
      · next h1 h3 =>
        refine List.pairwise_cons.2 ⟨fun p hp => ?_, ih h2.2⟩
        rcases mem_addSorted _ _ _ hp with rfl | hp
        · omega
        · exact h2.1 p hp

/-! ### Runs of keys -/

/-- Runs that rise, do not overlap and hold a location each. -/
def keysRise (l : List KeyRun) : Prop := l.Pairwise (fun r q => r.first + r.count ≤ q.first) ∧ ∀ r ∈ l, 0 < r.count

theorem keysRise_cons (r : KeyRun) (l : List KeyRun) :
    keysRise (r :: l) ↔ (∀ q ∈ l, r.first + r.count ≤ q.first) ∧ 0 < r.count ∧ keysRise l := by
  unfold keysRise
  rw [List.pairwise_cons]
  simp only [List.mem_cons, forall_eq_or_imp]
  tauto

theorem keysOk_rise (l : List KeyRun) (h : keysOk l = true) : keysRise l := by
  induction l with
  | nil => exact ⟨.nil, by simp⟩
  | cons r t ih =>
    cases t with
    | nil => exact (keysRise_cons r []).2 ⟨by simp, by simpa [keysOk] using h, .nil, by simp⟩
    | cons q t =>
      simp only [keysOk, Bool.and_eq_true, decide_eq_true_eq] at h
      have hq := ih h.2
      have hc := (keysRise_cons q t).1 hq
      refine (keysRise_cons r _).2 ⟨fun x hx => ?_, h.1.1.1, hq⟩
      rcases List.mem_cons.1 hx with rfl | hx
      · exact h.1.1.2
      · exact le_trans h.1.1.2 (le_trans (Nat.le_add_right _ _) (hc.1 x hx))

theorem joinKeys_head (r : KeyRun) (l : List KeyRun) : ∃ q t, joinKeys (r :: l) = q :: t ∧ q.first = r.first := by
  unfold joinKeys
  cases joinKeys l with
  | nil => exact ⟨r, [], rfl, rfl⟩
  | cons q t =>
    dsimp only
    split
    · exact ⟨_, _, rfl, rfl⟩
    · exact ⟨_, _, rfl, rfl⟩

theorem keysOk_cons (r : KeyRun) (t : List KeyRun) (h : keysOk t = true) (h0 : 0 < r.count)
    (h1 : ∀ q ∈ t.head?, r.first + r.count ≤ q.first ∧ ¬ (r.first + r.count = q.first ∧ r.key = q.key)) : keysOk (r :: t) = true := by
  cases t with
  | nil => simpa [keysOk] using h0
  | cons q t =>
    have hq := h1 q (by simp)
    simp only [keysOk, Bool.and_eq_true, decide_eq_true_eq, Bool.not_eq_true', Bool.and_eq_false_iff, decide_eq_false_iff_not]
    exact ⟨⟨⟨h0, hq.1⟩, by tauto⟩, h⟩

theorem keysOk_tail (r : KeyRun) (t : List KeyRun) (h : keysOk (r :: t) = true) :
    keysOk t = true ∧ ∀ q ∈ t.head?, r.first + r.count ≤ q.first ∧ ¬ (r.first + r.count = q.first ∧ r.key = q.key) := by
  cases t with
  | nil => exact ⟨rfl, by simp⟩
  | cons q t =>
    simp only [keysOk, Bool.and_eq_true, decide_eq_true_eq, Bool.not_eq_true', Bool.and_eq_false_iff, decide_eq_false_iff_not] at h
    refine ⟨h.2, fun x hx => ?_⟩
    obtain rfl : q = x := by simpa using hx
    exact ⟨h.1.1.2, by tauto⟩

theorem keysOk_joinKeys (l : List KeyRun) (h : keysRise l) : keysOk (joinKeys l) = true := by
  induction l with
  | nil => rfl
  | cons r t ih =>
    have hc := (keysRise_cons r t).1 h
    have hj := ih hc.2.2
    have hh : ∀ q u, joinKeys t = q :: u → r.first + r.count ≤ q.first := by
      intro q u hq
      cases t with
      | nil => simp [joinKeys] at hq
      | cons x t =>
        obtain ⟨q', u', e, hf⟩ := joinKeys_head x t
        obtain ⟨rfl, rfl⟩ : q' = q ∧ u' = u := by simpa using e.symm.trans hq
        rw [hf]
        exact hc.1 x (by simp)
    unfold joinKeys
    cases e : joinKeys t with
    | nil => simpa [keysOk] using hc.2.1
    | cons q u =>
      rw [e] at hj
      have hq := keysOk_tail q u hj
      have hr := hh q u e
      dsimp only
      split
      · next hs =>
        refine keysOk_cons _ _ hq.1 (by dsimp only; omega) (fun x hx => ?_)
        have := hq.2 x hx
        dsimp only
        rw [← Nat.add_assoc, hs.1, hs.2]
        exact this
      · next hs =>
        refine keysOk_cons _ _ hj hc.2.1 (fun x hx => ?_)
        obtain rfl : q = x := by simpa using hx
        exact ⟨hr, hs⟩

theorem mem_insertKeys (r x : KeyRun) (l : List KeyRun) : x ∈ insertKeys r l ↔ x = r ∨ x ∈ l := by
  induction l with
  | nil => simp [insertKeys]
  | cons y t ih =>
    unfold insertKeys
    split
    · simp
    · simp only [List.mem_cons, ih]; tauto

theorem keysRise_insert (r : KeyRun) (l : List KeyRun) (h : keysRise l) (h0 : 0 < r.count)
    (hd : ∀ x ∈ l, x.first + x.count ≤ r.first ∨ r.first + r.count ≤ x.first) : keysRise (insertKeys r l) := by
  induction l with
  | nil => exact (keysRise_cons r []).2 ⟨by simp, h0, h⟩
  | cons y t ih =>
    have hc := (keysRise_cons y t).1 h
    have hy := hd y (by simp)
    unfold insertKeys
    split
    · next hle =>
      refine (keysRise_cons r _).2 ⟨fun x hx => ?_, h0, h⟩
      have hr : r.first + r.count ≤ y.first := by omega
      rcases List.mem_cons.1 hx with rfl | hx
      · exact hr
      · have := hc.1 x hx; omega
    · next hle =>
      refine (keysRise_cons y _).2 ⟨fun x hx => ?_, hc.2.1, ih hc.2.2 (fun x hx => hd x (by simp [hx]))⟩
      rcases (mem_insertKeys r x t).1 hx with rfl | hx
      · omega
      · exact hc.1 x hx

/-- The parts of a run outside a range lie in it, outside the range, and have its key. -/
theorem mem_outside (lo n : Nat) (r x : KeyRun) (h : x ∈ r.outside lo n) :
    0 < x.count ∧ r.first ≤ x.first ∧ x.first + x.count ≤ r.first + r.count ∧ (x.first + x.count ≤ lo ∨ lo + n ≤ x.first) ∧ x.key = r.key := by
  simp only [KeyRun.outside, List.mem_filter, List.mem_cons, List.not_mem_nil, or_false, decide_eq_true_eq] at h
  rcases h with ⟨rfl | rfl, h⟩ <;> dsimp only at h ⊢ <;> refine ⟨h, ?_, ?_, ?_, rfl⟩ <;> omega

theorem keysRise_outside (lo n : Nat) (l : List KeyRun) (h : keysRise l) : keysRise (l.flatMap (KeyRun.outside lo n)) := by
  refine ⟨?_, fun x hx => ?_⟩
  · rw [List.pairwise_flatMap]
    refine ⟨fun r _ => ?_, h.1.imp (fun {r q} hrq x hx y hy => ?_)⟩
    · unfold KeyRun.outside
      refine List.Pairwise.filter _ ?_
      refine List.pairwise_cons.2 ⟨fun q hq => ?_, List.pairwise_singleton _ _⟩
      obtain rfl : q = _ := by simpa using hq
      dsimp only
      omega
    · have := mem_outside lo n r x hx
      have := mem_outside lo n q y hy
      omega
  · obtain ⟨r, _, hr⟩ := List.mem_flatMap.1 hx
    exact (mem_outside lo n r x hr).1

/-- Setting a key keeps the runs of keys in their canonical form. -/
theorem keysOk_setKey (m : Mem) (d : List Byte) (lo n : Nat) (k : List Byte) (h : keysOk m.keys = true) :
    keysOk (m.setKey d lo n k).keys = true := by
  have ho := keysRise_outside lo n _ (keysOk_rise _ h)
  unfold Mem.setKey
  dsimp only
  split
  · exact keysOk_joinKeys _ ho
  · next hn =>
    refine keysOk_joinKeys _ (keysRise_insert _ _ ho (by dsimp only; omega) (fun x hx => ?_))
    obtain ⟨r, _, hr⟩ := List.mem_flatMap.1 hx
    exact (mem_outside lo n r x hr).2.2.2.1

theorem keyIn_cons (d : List Byte) (r : KeyRun) (l : List KeyRun) (loc : Nat) :
    keyIn d (r :: l) loc = if r.has loc then r.key else keyIn d l loc := by
  unfold keyIn
  rw [List.find?_cons]
  cases r.has loc <;> rfl

theorem keyIn_joinKeys (d : List Byte) (l : List KeyRun) (loc : Nat) : keyIn d (joinKeys l) loc = keyIn d l loc := by
  induction l with
  | nil => rfl
  | cons r t ih =>
    rw [keyIn_cons, ← ih]
    show keyIn d (match joinKeys t with
      | q :: t => if r.first + r.count = q.first ∧ r.key = q.key then { r with count := r.count + q.count } :: t else r :: q :: t
      | [] => [r]) loc = _
    generalize joinKeys t = j
    cases j with
    | nil => rw [keyIn_cons]
    | cons q u =>
      dsimp only
      split
      · next hs =>
        rw [keyIn_cons, keyIn_cons]
        have e : ({ r with count := r.count + q.count } : KeyRun).has loc = (r.has loc || q.has loc) := by
          unfold KeyRun.has
          rw [Bool.eq_iff_iff]
          simp only [Bool.or_eq_true, Bool.and_eq_true, decide_eq_true_eq]
          omega
        rw [e]
        cases h1 : r.has loc <;> cases h2 : q.has loc <;> simp [hs.2]
      · rw [keyIn_cons]

theorem keyIn_insert (d : List Byte) (r : KeyRun) (l : List KeyRun) (loc : Nat) (h : ∀ x ∈ l, x.has loc = true → r.has loc = false) :
    keyIn d (insertKeys r l) loc = if r.has loc then r.key else keyIn d l loc := by
  induction l with
  | nil => rw [insertKeys, keyIn_cons]
  | cons y t ih =>
    unfold insertKeys
    split
    · rw [keyIn_cons]
    · rw [keyIn_cons, keyIn_cons, ih (fun x hx => h x (by simp [hx]))]
      cases hy : y.has loc
      · simp
      · simp [h y (by simp) hy]

theorem keyIn_append (d : List Byte) (a b : List KeyRun) (loc : Nat) : keyIn d (a ++ b) loc = keyIn (keyIn d b loc) a loc := by
  unfold keyIn
  rw [List.find?_append]
  cases List.find? (fun r => r.has loc) a <;> simp

theorem keyIn_outside_one (d : List Byte) (r : KeyRun) (lo n loc : Nat) :
    keyIn d (r.outside lo n) loc = if r.has loc && !(decide (lo ≤ loc) && decide (loc < lo + n)) then r.key else d := by
  by_cases hin : r.has loc = true ∧ ¬ (lo ≤ loc ∧ loc < lo + n)
  · have hh := hin.1
    simp only [KeyRun.has, Bool.and_eq_true, decide_eq_true_eq] at hh
    rw [if_pos (by simp only [Bool.and_eq_true, Bool.not_eq_true', Bool.and_eq_false_iff, decide_eq_false_iff_not]; exact ⟨hin.1, by tauto⟩)]
    unfold keyIn
    cases e : (r.outside lo n).find? (fun x => x.has loc) with
    | none =>
      exfalso
      rw [List.find?_eq_none] at e
      by_cases hl : loc < lo
      · exact e { r with count := min (r.first + r.count) lo - r.first } (by
          simp only [KeyRun.outside, List.mem_filter, List.mem_cons, decide_eq_true_eq]; exact ⟨by simp, by omega⟩) (by
          simp only [KeyRun.has, Bool.and_eq_true, decide_eq_true_eq]; omega)
      · exact e { r with first := max r.first (lo + n), count := r.first + r.count - max r.first (lo + n) } (by
          simp only [KeyRun.outside, List.mem_filter, List.mem_cons, decide_eq_true_eq]; exact ⟨by simp, by omega⟩) (by
          simp only [KeyRun.has, Bool.and_eq_true, decide_eq_true_eq]; omega)
    | some x => exact (mem_outside lo n r x (List.mem_of_find?_eq_some e)).2.2.2.2
  · rw [if_neg (by simp only [Bool.and_eq_true, Bool.not_eq_true', Bool.and_eq_false_iff, decide_eq_false_iff_not]; tauto)]
    unfold keyIn
    rw [List.find?_eq_none.2]
    · rfl
    · intro x hx hxl
      have hm := mem_outside lo n r x hx
      simp only [KeyRun.has, Bool.and_eq_true, decide_eq_true_eq] at hxl hin
      omega

theorem keyIn_outside (d : List Byte) (l : List KeyRun) (lo n loc : Nat) :
    keyIn d (l.flatMap (KeyRun.outside lo n)) loc = if lo ≤ loc ∧ loc < lo + n then d else keyIn d l loc := by
  induction l with
  | nil => simp [keyIn]
  | cons r t ih =>
    rw [List.flatMap_cons, keyIn_append, ih, keyIn_outside_one, keyIn_cons]
    by_cases hin : lo ≤ loc ∧ loc < lo + n
    · simp [hin]
    · have : (decide (lo ≤ loc) && decide (loc < lo + n)) = false := by
        simp only [Bool.and_eq_false_iff, decide_eq_false_iff_not]; tauto
      rw [this, if_neg hin, if_neg hin]
      simp

/-- A location is encrypted under the key that was set last for it. -/
theorem keyIn_setKey (m : Mem) (d : List Byte) (lo n : Nat) (k : List Byte) (loc : Nat) :
    keyIn d (m.setKey d lo n k).keys loc = if lo ≤ loc ∧ loc < lo + n then k else keyIn d m.keys loc := by
  unfold Mem.setKey
  dsimp only
  rw [keyIn_joinKeys]
  split
  · next h =>
    rw [keyIn_outside]
    split
    · next hin =>
      rcases h with h | h
      · exact h.symm
      · omega
    · rfl
  · rw [keyIn_insert _ _ _ _ (fun x hx hl => by
      obtain ⟨r, _, hr⟩ := List.mem_flatMap.1 hx
      have hm := mem_outside lo n r x hr
      simp only [KeyRun.has, Bool.and_eq_true, decide_eq_true_eq, Bool.and_eq_false_iff, decide_eq_false_iff_not] at hl ⊢
      omega), keyIn_outside]
    by_cases hin : lo ≤ loc ∧ loc < lo + n
    · simp [KeyRun.has, hin]
    · have : ({ first := lo, count := n, key := k } : KeyRun).has loc = false := by
        simp only [KeyRun.has, Bool.and_eq_false_iff, decide_eq_false_iff_not]; tauto
      simp [this, hin]

/-! ### The operations on device memory -/

theorem Mem.wf_iff (m : Mem) : m.wf = true ↔ bwf m.bytes = true ∧ rising m.poison = true ∧ keysOk m.keys = true := by
  simp [Mem.wf, and_assoc]

theorem Mem.wf_reset : Mem.reset.wf = true := rfl

theorem Mem.wf_setPoison (m : Mem) (loc : Nat) (p : Bool) (h : m.wf = true) : (m.setPoison loc p).wf = true := by
  rw [Mem.wf_iff] at *
  refine ⟨h.1, ?_, h.2.2⟩
  cases p
  · exact rising_filter _ _ h.2.1
  · exact rising_addSorted _ _ h.2.1

theorem Mem.wf_write (m : Mem) (a : Nat) (l : List Byte) (h : m.wf = true) : ({ m with bytes := bwrite m.bytes a l } : Mem).wf = true := by
  rw [Mem.wf_iff] at *
  exact ⟨bwf_bwrite _ _ _ h.1, h.2⟩

theorem Mem.wf_clear (m : Mem) (a n : Nat) (h : m.wf = true) : (m.clear a n).wf = true := by
  rw [Mem.wf_iff] at *
  exact ⟨bwf_bclear _ _ _ h.1, rising_filter _ _ h.2.1, h.2.2⟩

theorem Mem.wf_setKey (m : Mem) (d : List Byte) (lo n : Nat) (k : List Byte) (h : m.wf = true) : (m.setKey d lo n k).wf = true := by
  rw [Mem.wf_iff] at *
  exact ⟨h.1, h.2.1, keysOk_setKey _ _ _ _ _ h.2.2⟩

theorem bwf_foldl (l : List (Nat × Byte)) (f : Nat × Byte → Nat) (t : Tab Byte) (h : bwf t = true) :
    bwf (l.foldl (fun b p => bset b (f p) p.2) t) = true := by
  induction l generalizing t with
  | nil => exact h
  | cons p r ih => exact ih _ (bwf_bset _ _ _ h)

theorem rising_foldl (l : List Nat) (f : Nat → Nat) (t : List Nat) (h : rising t = true) :
    rising (l.foldl (fun b k => addSorted (f k) b) t) = true := by
  induction l generalizing t with
  | nil => exact h
  | cons p r ih => exact ih _ (rising_addSorted _ _ h)

theorem Mem.wf_copy (m : Mem) (src dst n : Nat) (h : m.wf = true) : (m.copy src dst n).wf = true := by
  rw [Mem.wf_iff] at *
  exact ⟨bwf_foldl _ (fun p => p.1 - src + dst) _ (bwf_bclear _ _ _ h.1), rising_foldl _ (fun k => k - src / 64 + dst / 64) _ (rising_filter _ _ h.2.1), h.2.2⟩

theorem State.wf_storeLocation (s : State) (a : Nat) (data : List Byte) (poison : Bool) (h : s.tiers.mem.wf = true) :
    (s.storeLocation a data poison).tiers.mem.wf = true := Mem.wf_setKey _ _ _ _ _ (Mem.wf_setPoison _ _ _ (Mem.wf_write _ _ _ h))

/-! ### Reading after writing -/

theorem bget_bset (t : Tab Byte) (a b : Nat) (v : Byte) : bget (bset t a v) b = if b = a then v else bget t b := tget_tset 0 t a b v

theorem bget_bwrite (t : Tab Byte) (a b : Nat) (l : List Byte) :
    bget (bwrite t a l) b = if a ≤ b ∧ b < a + l.length then byteAt l (b - a) else bget t b := by
  induction l generalizing t a with
  | nil => simp [bwrite]; try omega
  | cons v r ih =>
    rw [bwrite, ih, bget_bset]
    by_cases h : a + 1 ≤ b ∧ b < a + 1 + r.length
    · rw [if_pos h, if_pos (by simp; omega)]
      have e : b - a = (b - (a + 1)) + 1 := by omega
      simp [byteAt, e]
    · rw [if_neg h]
      by_cases e : b = a
      · subst e; simp [byteAt]
      · rw [if_neg e, if_neg (by simp at *; omega)]

theorem fit_length (n : Nat) (l : List Byte) : (fit n l).length = n := by simp [fit, zeros]

theorem bread_bwrite_same (t : Tab Byte) (a : Nat) (l : List Byte) : bread (bwrite t a l) a l.length = l := by
  apply List.ext_getElem
  · simp [bread]
  · intro i h1 h2
    simp [bread, bget_bwrite, byteAt, h2]

/-- After a location is stored, an address of it is encrypted under the key of its slot, and every other one as before. -/
theorem State.keyAt_storeLocation (s : State) (a b : Nat) (data : List Byte) (poison : Bool) :
    (s.storeLocation a data poison).keyAt b = if b / 64 = a / 64 then s.slotKey (s.keySlot a) else s.keyAt b := by
  refine Eq.trans (keyIn_setKey _ (s.slotKey 0) (a / 64) 1 _ (b / 64)) ?_
  by_cases h : b / 64 = a / 64
  · rw [if_pos h, if_pos (by omega)]
  · rw [if_neg h, if_neg (by omega)]
    cases poison <;> rfl

theorem State.keySlot_storeLocation (s : State) (a b : Nat) (data : List Byte) (poison : Bool) :
    (s.storeLocation a data poison).slotKey ((s.storeLocation a data poison).keySlot b) = s.slotKey (s.keySlot b) := rfl

theorem State.bread_storeLocation (s : State) (a b : Nat) (data : List Byte) (poison : Bool) :
    bread (s.storeLocation a data poison).tiers.mem.bytes (b / 64 * 64) 64 =
      if b / 64 = a / 64 then fit 64 data else bread s.tiers.mem.bytes (b / 64 * 64) 64 := by
  have e : (s.storeLocation a data poison).tiers.mem.bytes = bwrite s.tiers.mem.bytes (a / 64 * 64) (fit 64 data) := rfl
  rw [e]
  split
  · next h =>
    rw [h]
    have := bread_bwrite_same s.tiers.mem.bytes (a / 64 * 64) (fit 64 data)
    rwa [fit_length] at this
  · next h =>
    apply List.ext_getElem
    · simp [bread]
    · intro i h1 h2
      have hi : i < 64 := by simpa [bread] using h2
      simp [bread, bget_bwrite]
      intro h3 h4
      rw [fit_length] at h4
      exfalso; apply h; omega

theorem State.keySlot_line (s : State) (a b : Nat) (h : b / 64 = a / 64) : s.keySlot b = s.keySlot a := by
  unfold State.keySlot
  rw [h]

theorem mem_addSorted_iff (x y : Nat) (l : List Nat) : y ∈ addSorted x l ↔ y = x ∨ y ∈ l := by
  refine ⟨mem_addSorted x y l, ?_⟩
  induction l with
  | nil => simp [addSorted]
  | cons z r ih =>
    intro h
    unfold addSorted
    split
    · simpa using h
    · split
      · next hx => subst hx; rcases h with rfl | h <;> simp_all
      · rcases h with rfl | h
        · exact List.mem_cons_of_mem _ (ih (.inl rfl))
        · rcases List.mem_cons.1 h with rfl | h
          · simp
          · exact List.mem_cons_of_mem _ (ih (.inr h))

theorem Mem.setPoison_contains (m : Mem) (x y : Nat) (p : Bool) :
    (m.setPoison x p).poison.contains y = if y = x then p else m.poison.contains y := by
  unfold Mem.setPoison
  cases p <;> by_cases h : y = x <;> simp [h, mem_addSorted_iff]

/-- A 64-byte location reads what was stored last, and every other location as before. -/
theorem State.location_storeLocation (s : State) (a b : Nat) (data : List Byte) (poison : Bool) :
    (s.storeLocation a data poison).location b = if b / 64 = a / 64 then (fit 64 data, poison) else s.location b := by
  have hp : (s.storeLocation a data poison).tiers.mem.poison.contains (b / 64) = if b / 64 = a / 64 then poison else s.tiers.mem.poison.contains (b / 64) :=
    Mem.setPoison_contains _ (a / 64) (b / 64) poison
  unfold State.location
  rw [hp]
  by_cases h : b / 64 = a / 64
  · rw [if_pos h, if_pos h]
    refine Prod.ext ?_ rfl
    unfold State.decrypted
    rw [State.keySlot_storeLocation, State.keyAt_storeLocation, if_pos h, State.keySlot_line s a b h, if_pos rfl, State.bread_storeLocation, if_pos h]
  · rw [if_neg h, if_neg h]
    refine Prod.ext ?_ rfl
    unfold State.decrypted State.ciphertext
    rw [State.keySlot_storeLocation, State.keyAt_storeLocation, if_neg h, State.bread_storeLocation, if_neg h]

end Sys2Proof.Machine
end

