-- ==== Sys2Proof/Laws/Regs.lean ====
section
/-! SUPPORT. The register map of BAR0: which register an offset names, and what an admitted access does (R402, R403, R417). -/

namespace Sys2Proof.Machine

/-- The registers of a target page. -/
theorem regAt_target (t o : Nat) (ht : t < 256) (ho : o < 64) (h8 : o % 8 = 0) : regAt ((targetOffset t + o) / 8 * 8) = .target t o := by
  have e : (targetOffset t + o) / 8 * 8 = 0x60000 + t * 0x40 + o := by unfold targetOffset; omega
  rw [e]; unfold regAt
  simp (disch := omega) only [if_neg, if_pos]
  congr 1 <;> omega

/-- The registers of a mailbox page. -/
theorem regAt_page (p o : Nat) (hp : 1 ≤ p) (hq : p < 64) (ho : o < 0x1000) (h8 : o % 8 = 0) :
    regAt ((pageOffset p + o) / 8 * 8) = .page p o := by
  have e : (pageOffset p + o) / 8 * 8 = 0x20000 + p * 0x1000 + o := by unfold pageOffset; omega
  rw [e]; unfold regAt
  simp (disch := omega) only [if_neg, if_pos]
  congr 1 <;> omega

/-- The doorbells. -/
theorem regAt_door (c : Nat) (hc : c < 16384) : regAt (doorOffset c / 8 * 8) = .door c := by
  have e : doorOffset c / 8 * 8 = 0x80000 + c * 8 := by unfold doorOffset; omega
  rw [e]; unfold regAt
  simp (disch := omega) only [if_neg, if_pos]
  congr 1; omega

/-- A write that a head's BAR0 admits is made. -/
theorem State.writeCmd_head (s : State) (h off size value : Nat) (hu : s.headUp h = true) (hs : sizeOk off size = true)
    (ha : s.headAllowed h (regAt (off / 8 * 8)) = true) : s.writeCmd (.head h) off size value = s.write8 off size value := by
  simp [State.writeCmd, State.accessorUp, hu, State.regWrite, hs, ha]

/-- A read that a head's BAR0 admits is made, and its value goes to the host. -/
theorem State.readCmd_head (s : State) (h off size : Nat) (hu : s.headUp h = true) (hs : sizeOk off size = true)
    (ha : s.headAllowed h (regAt (off / 8 * 8)) = true) :
    s.readCmd (.head h) off size = (s.read8 off size).2.modHead h (fun x => { x with bar0 := (s.read8 off size).1 }) := by
  simp [State.readCmd, State.accessorUp, hu, State.regRead, hs, ha]

/-- A write of 8 bytes at a target page. -/
theorem State.write8_target (s : State) (t o value : Nat) (ht : t < 256) (ho : o < 64) (h8 : o % 8 = 0) :
    s.write8 (targetOffset t + o) 8 value = s.writeTarget t o 0 8 (value % 2 ^ 64) := by
  have hl : (targetOffset t + o) % 8 = 0 := by unfold targetOffset; omega
  unfold State.write8
  rw [regAt_target t o ht ho h8, hl]
  simp

/-- A write of 8 bytes at a mailbox page. -/
theorem State.write8_page (s : State) (p o value : Nat) (hp : 1 ≤ p) (hq : p < 64) (ho : o < 0x1000) (h8 : o % 8 = 0) :
    s.write8 (pageOffset p + o) 8 value = s.writePage p o 0 8 (value % 2 ^ 64) := by
  have hl : (pageOffset p + o) % 8 = 0 := by unfold pageOffset; omega
  unfold State.write8
  rw [regAt_page p o hp hq ho h8, hl]
  simp

/-- The low bits of a value do not see its truncation to a register. -/
theorem bits_mod (v n lo len : Nat) (h : lo + len ≤ n) : bits (v % 2 ^ n) lo len = bits v lo len := by
  unfold bits
  obtain ⟨k, rfl⟩ : ∃ k, n = lo + k := ⟨n - lo, by omega⟩
  rw [Nat.pow_add, Nat.mod_mul_right_div_self, Nat.mod_mod_of_dvd _ (Nat.pow_dvd_pow 2 (by omega))]

theorem bit_mod (v n i : Nat) (h : i < n) : bit (v % 2 ^ n) i = bit v i := by
  have := bits_mod v n i 1 (by omega)
  unfold bits at this
  unfold bit
  simpa using congrArg (· == 1) this

end Sys2Proof.Machine
end

