-- ==== Sys2Proof/Laws/Starter.lean ====
section
/-! SUPPORT. A firing of a source changes Starter and nothing else. -/

namespace Sys2Proof.Laws
open Sys2Proof.Machine

/-- A firing leaves everything outside Starter as it was. -/
theorem fire_frame (s : State) (k r : Nat) : ({ s.fire k r with starter := s.starter } : State) = s := by
  unfold State.fire
  split
  · rfl
  · split
    · rfl
    · dsimp only
      cases (s.source k).target <;> dsimp only <;> split <;> rfl

theorem deviceEvent_frame (s : State) (k : Nat) : ({ s.deviceEvent k with starter := s.starter } : State) = s := fire_frame s k 0

@[simp] theorem deviceEvent_sec (s : State) (k : Nat) : (s.deviceEvent k).sec = s.sec := by
  have h := congrArg State.sec (deviceEvent_frame s k); exact h
@[simp] theorem deviceEvent_boot (s : State) (k : Nat) : (s.deviceEvent k).boot = s.boot := by
  have h := congrArg State.boot (deviceEvent_frame s k); exact h
@[simp] theorem deviceEvent_hearth (s : State) (k : Nat) : (s.deviceEvent k).hearth = s.hearth := by
  have h := congrArg State.hearth (deviceEvent_frame s k); exact h
@[simp] theorem deviceEvent_bellows (s : State) (k : Nat) : (s.deviceEvent k).bellows = s.bellows := by
  have h := congrArg State.bellows (deviceEvent_frame s k); exact h
@[simp] theorem deviceEvent_pins (s : State) (k : Nat) : (s.deviceEvent k).pins = s.pins := by
  have h := congrArg State.pins (deviceEvent_frame s k); exact h
@[simp] theorem deviceEvent_pending (s : State) (k : Nat) : (s.deviceEvent k).pending = s.pending := by
  have h := congrArg State.pending (deviceEvent_frame s k); exact h

end Sys2Proof.Laws

namespace Sys2Proof.Machine

/-! ### BAR2 (R450) -/

/-- A write of a word of the MSI-X table of a vector with nothing pending only changes the word. -/
theorem State.bar2Write_quiet (s : State) (h w x : Nat) (hw : w < 1024) (hp : tget false s.starter.msixPend (256 * h + w / 4) = false) :
    s.bar2Write h w x = { s with starter := { s.starter with
      msixTable := tins s.starter.msixTable (1024 * h + w) ((if w % 4 = 0 then x / 4 * 4 else if w % 4 = 3 then x % 2 else x) % 2 ^ 32) } } := by
  unfold State.bar2Write
  rw [if_neg (by omega)]
  simp only [hp, Bool.false_and, Bool.false_eq_true, if_false]

/-- A write that unmasks a vector with a pending message sends it, with the address and the data of the vector's entry. -/
theorem State.bar2Write_unmask (s : State) (h v x : Nat) (hv : v < 256) (hx : x % 2 = 0) (hp : tget false s.starter.msixPend (256 * h + v) = true) :
    s.bar2Write h (4 * v + 3) x = { s with starter := { s.starter with
      msixTable := tins s.starter.msixTable (1024 * h + (4 * v + 3)) 0, msixPend := tset false s.starter.msixPend (256 * h + v) false
      msixSent := { head := h, vector := v, address := s.msixWord h (4 * v) + s.msixWord h (4 * v + 1) * 2 ^ 32, data := s.msixWord h (4 * v + 2) } ::
        s.starter.msixSent } } := by
  have h4 : (4 * v + 3) / 4 = v := by omega
  have h5 : (4 * v + 3) % 4 = 3 := by omega
  unfold State.bar2Write
  rw [if_neg (by omega)]
  simp only [h4, h5, hp, hx]
  simp [State.msixMasked, State.msixWord, State.setPending, State.msixSend, tget_tins, bit]

end Sys2Proof.Machine
end

