-- ==== Sys2Proof/WellFormed.lean ====
section
/-! DEFINITION. The operands that a command of the block can have: which numbers name a port, a head, a partition and the
like, and how long a payload is. A command outside these ranges is no command of the block's interface; its meaning is total
all the same, so that no statement needs this as a premise. -/

namespace Sys2Proof

namespace Machine

/-- A register field of an anvil instruction (R219). -/
def regField (n : Nat) : Bool := decide (n < 32)

/-- Format A (R219): 5-bit register fields, a 3-bit mask field and a 16-bit modifier, on one of the 64 anvils. -/
def OpA.wf (o : OpA) : Bool :=
  decide (o.anvil < 64) && regField o.d && regField o.a && regField o.b && regField o.c && decide (o.msk < 8) && decide (o.modifier < 65536)

/-- Format I (R219). -/
def OpI.wf (o : OpI) : Bool := decide (o.anvil < 64) && regField o.d && regField o.a

/-- Format M (R219). -/
def OpM.wf (o : OpM) : Bool := decide (o.anvil < 64) && regField o.d && regField o.a && regField o.b && regField o.c

/-- Format B (R219). -/
def OpB.wf (o : OpB) : Bool := decide (o.anvil < 64) && regField o.a && regField o.b

/-- The fields of Table — Cell header and a payload of 32 bytes (R322). -/
def Cell.wf (c : Cell) : Bool :=
  decide (c.typ < 16) && decide (c.cls < 8) && decide (c.dst < 65536) && decide (c.src < 65536) && decide (c.part < 64) &&
  decide (c.tag < 4096) && decide (c.seq < 128) && c.payload.length == 32

/-- A train is 1 to 128 cells of 32 bytes (R323). -/
def Train.wf (t : Train) : Bool :=
  decide (t.typ < 16) && decide (t.cls < 8) && decide (t.dst < 65536) && decide (t.src < 65536) && decide (t.part < 64) &&
  decide (t.tag < 4096) && decide (1 ≤ t.cells.length) && decide (t.cells.length ≤ 128) && t.cells.all (·.length == 32)

/-- An access to the 16 KiB of BAR2, by words of 4 bytes (R450). -/
def Bar2.wf : Bar2 → Bool
  | .read w => decide (w < 4096)
  | .write w v => decide (w < 4096) && decide (v < 2 ^ 32)

/-- A channel of the device (R424): the mailboxes of its two heads, a page of partition 1 to 63, or the sideband. -/
def Chan.wf : Chan → Bool
  | .primary h => decide (h < 2)
  | .secondary h => decide (h < 2)
  | .page p => decide (1 ≤ p) && decide (p < 64)
  | .sideband _ => true

/-- The header fields of an ICS message and at most 4,096 bytes of payload (R419). -/
def IcsMsg.wf (m : IcsMsg) : Bool :=
  decide (m.opcode < 65536) && decide (m.flags < 256) && decide (m.status < 256) && decide (m.tag < 2 ^ 32) && decide (m.partition < 256) &&
  decide (m.partNo < 256) && decide (m.reserved < 2 ^ 32) && decide (m.payload.length ≤ 4096)

/-- A message with its channel, or the page of a partition. -/
def IcsArg.wf : IcsArg → Bool
  | .direct c m => c.wf && m.wf
  | .sideband _ v m => decide (v < 2 ^ 32) && m.wf
  | .page p => decide (1 ≤ p) && decide (p < 64)

/-- An accessor of the register map (R402, R417). -/
def Accessor.wf : Accessor → Bool
  | .head h => decide (h < 2)
  | .fabric src part => decide (src < 65536) && decide (part < 64)

/-- What is sampled for a boundary: a temperature of each of the eight stacks and of each of the sixteen channels. -/
def Sample.wf (x : Sample) : Bool := x.stackTemps.length == 8 && x.dimmTemps.length == 16 && x.refreshing.all (fun u => decide (u < 320))

end Machine

open Machine

/-- A command whose operands are in the ranges of the block's interface. -/
def Instr.wf : Instr → Bool
  | .heatBoundary x => x.wf
  | .heatStart => true
  | .heatSyncIn _ => true
  | .syncReq port t1 hop t2 t3 => decide (port < 24) && decide (t1 < 2 ^ 62) && decide (hop < 256) && decide (t2 < 2 ^ 62) && decide (t3 < 2 ^ 62)
  | .syncRsp port t1 t2 t3 hop t4 => decide (port < 24) && decide (t1 < 2 ^ 62) && decide (t2 < 2 ^ 62) && decide (t3 < 2 ^ 62) && decide (hop < 256) && decide (t4 < 2 ^ 62)
  | .syncRspLoss => true
  | .decayBoundary => true
  | .doubledRefreshExit bulk index => decide (index < if bulk then 16 else 8)
  | .postponedRefreshIssue unit => decide (unit < 320)
  | .memRd port t => decide (port < 24) && t.wf
  | .memWr port t => decide (port < 24) && t.wf
  | .forgeCacheFill forge sector => decide (forge < 8) && decide (sector < 2 ^ 38)
  | .dramReadComplete _ _ _ _ => true
  | .caParityError unit => decide (unit < 320)
  | .ageLimitExpiry _ _ _ => true
  | .powerDownEntry unit => decide (unit < 320)
  | .selfRefreshEntry unit => decide (unit < 320)
  | .patrolScrubUnitComplete forge _ => decide (forge < 8)
  | .scrubWindowEnd walker => decide (walker < 24)
  | .spareMigrationUnitComplete forge _ => decide (forge < 8)
  | .warmUpTestUnitComplete forge _ => decide (forge < 8)
  | .placementMigrationUnitComplete forge _ => decide (forge < 8)
  | .extentFillUnitComplete forge ext => decide (forge < 8) && decide (ext < 32768)
  | .quenchScrubUnitComplete forge ext => decide (forge < 8) && decide (ext < 32768)
  | .twinEpochCopyUnitComplete c => decide (c.forge < 8)
  | .releaseDrainEnd ext => decide (ext < 32768)
  | .tombstoneExpiry p => (decide (1 ≤ p) && decide (p < 64))
  | .fenceAck port cell => decide (port < 24) && cell.wf
  | .fenceWaitExpiry p => (decide (1 ≤ p) && decide (p < 64))
  | .quenchZeroingComplete p => (decide (1 ≤ p) && decide (p < 64))
  | .captureSegmentCopyComplete sid _ _ => decide (sid < 256)
  | .pour port cell => decide (port < 24) && cell.wf
  | .pourCell port cell => decide (port < 24) && cell.wf
  | .stagingTruncation port => decide (port < 24)
  | .windowOpen => true
  | .windowSpill => true
  | .spillWriteComplete melt _ => decide (melt < 4096)
  | .windowDeadline melt _ => decide (melt < 4096)
  | .windowHandOff melt => decide (melt < 4096)
  | .imageReadReport anvil _ => decide (anvil < 64)
  | .windowWritten anvil _ => decide (anvil < 64)
  | .stepEnd melt => decide (melt < 4096)
  | .tileTransferComplete anvil _ _ => decide (anvil < 64)
  | .mwaitRelease anvil => decide (anvil < 64)
  | .waithRelease anvil => decide (anvil < 64)
  | .waitwRelease anvil => decide (anvil < 64)
  | .barRelease p barrier => (decide (1 ≤ p) && decide (p < 64)) && decide (barrier < 16)
  | .waiteRelease anvil => decide (anvil < 64)
  | .contextSaveComplete anvil => decide (anvil < 64)
  | .anvilZeroingComplete anvil => decide (anvil < 64)
  | .contextRestoreComplete anvil => decide (anvil < 64)
  | .fault o => o.wf
  | .yield o => o.wf
  | .phase o => o.wf
  | .srd o => o.wf
  | .swr o => o.wf
  | .live o => o.wf
  | .halt o => o.wf
  | .add o => o.wf
  | .sub o => o.wf
  | .mul o => o.wf
  | .and o => o.wf
  | .or o => o.wf
  | .xor o => o.wf
  | .shl o => o.wf
  | .shr o => o.wf
  | .sar o => o.wf
  | .slt o => o.wf
  | .sltu o => o.wf
  | .min o => o.wf
  | .max o => o.wf
  | .addImmediate o => o.wf
  | .subImmediate o => o.wf
  | .mulImmediate o => o.wf
  | .andImmediate o => o.wf
  | .orImmediate o => o.wf
  | .xorImmediate o => o.wf
  | .shlImmediate o => o.wf
  | .shrImmediate o => o.wf
  | .sarImmediate o => o.wf
  | .sltImmediate o => o.wf
  | .sltuImmediate o => o.wf
  | .minImmediate o => o.wf
  | .maxImmediate o => o.wf
  | .lui o => o.wf
  | .beq o => o.wf
  | .bne o => o.wf
  | .blt o => o.wf
  | .bge o => o.wf
  | .bltu o => o.wf
  | .bgeu o => o.wf
  | .jal o => o.wf
  | .jr o => o.wf
  | .tld o => o.wf
  | .tst o => o.wf
  | .tld2 o => o.wf
  | .tst2 o => o.wf
  | .lds o => o.wf
  | .sts o => o.wf
  | .mwait o => o.wf
  | .vld o => o.wf
  | .vst o => o.wf
  | .vbc o => o.wf
  | .vadd o => o.wf
  | .vsub o => o.wf
  | .vmul o => o.wf
  | .vfma o => o.wf
  | .vmin o => o.wf
  | .vmax o => o.wf
  | .vabs o => o.wf
  | .vneg o => o.wf
  | .vsign o => o.wf
  | .vsqrt o => o.wf
  | .vrcp o => o.wf
  | .vrsqrt o => o.wf
  | .vexp2 o => o.wf
  | .vredsum o => o.wf
  | .vredmax o => o.wf
  | .vcmplt o => o.wf
  | .vsel o => o.wf
  | .vsplat o => o.wf
  | .vlane o => o.wf
  | .vacr o => o.wf
  | .vacw o => o.wf
  | .vaddInt o => o.wf
  | .vsubInt o => o.wf
  | .vmulInt o => o.wf
  | .vfmaInt o => o.wf
  | .vminInt o => o.wf
  | .vmaxInt o => o.wf
  | .vabsInt o => o.wf
  | .vnegInt o => o.wf
  | .vsignInt o => o.wf
  | .vsqrtInt o => o.wf
  | .vrcpInt o => o.wf
  | .vrsqrtInt o => o.wf
  | .vexp2Int o => o.wf
  | .vredsumInt o => o.wf
  | .vredmaxInt o => o.wf
  | .vcmpltInt o => o.wf
  | .vcvtTo o => o.wf
  | .vcvtFrom o => o.wf
  | .pack o => o.wf
  | .unpack o => o.wf
  | .sgnv o => o.wf
  | .mma o => o.wf
  | .azero o => o.wf
  | .fwhs o => o.wf
  | .fwhf o => o.wf
  | .fwhd o => o.wf
  | .treq o => o.wf
  | .waith o => o.wf
  | .waitw o => o.wf
  | .bar o => o.wf
  | .sete o => o.wf
  | .waite o => o.wf
  | .sig o => o.wf
  | .doorbell acc ctx size _ => acc.wf && decide (ctx < 16384) && (size == 4 || size == 8)
  | .copy ctx => decide (ctx < 16384)
  | .tile ctx => decide (ctx < 16384)
  | .gather ctx => decide (ctx < 16384)
  | .scatter ctx => decide (ctx < 16384)
  | .fill ctx => decide (ctx < 16384)
  | .cast ctx => decide (ctx < 16384)
  | .seal ctx => decide (ctx < 16384)
  | .push ctx => decide (ctx < 16384)
  | .loop ctx => decide (ctx < 16384)
  | .wait ctx => decide (ctx < 16384)
  | .signal ctx => decide (ctx < 16384)
  | .waitMet ctx => decide (ctx < 16384)
  | .translationWalkComplete ctx tva => decide (ctx < 16384) && decide (tva < 2 ^ 48)
  | .strokeCommit ctx _ _ _ => decide (ctx < 16384)
  | .wrCmp port t => decide (port < 24) && t.wf
  | .pushTimeout ctx _ => decide (ctx < 16384)
  | .invalidationFenceComplete asid => decide (asid < 65536)
  | .contextResetComplete ctx => decide (ctx < 16384)
  | .rdShared port t => decide (port < 24) && t.wf
  | .rdOwn port t => decide (port < 24) && t.wf
  | .upgrade port t => decide (port < 24) && t.wf
  | .rdCur port t => decide (port < 24) && t.wf
  | .wrBack port t => decide (port < 24) && t.wf
  | .wrLine port t => decide (port < 24) && t.wf
  | .wrPartial port t => decide (port < 24) && t.wf
  | .wrPlace port t => decide (port < 24) && t.wf
  | .ack port t => decide (port < 24) && t.wf
  | .placeTake port t => decide (port < 24) && t.wf
  | .placeDecline port t => decide (port < 24) && t.wf
  | .snoopTimeout tracker member => decide (tracker < 32768) && decide (member < 65536)
  | .gripTimeExpiry _ member => decide (member < 65536)
  | .homeRequestDequeue forge => decide (forge < 8)
  | .unresponsiveSweepComplete p => (decide (1 ≤ p) && decide (p < 64))
  | .signalDetect port => decide (port < 24)
  | .trainingComplete port txLanes rxLanes rate => decide (port < 24) && decide (txLanes < 16) && decide (rxLanes < 16) && decide (rate < 2)
  | .trainingTimeout port => decide (port < 24)
  | .ident port payload => decide (port < 24) && payload.length == 32
  | .identResend port => decide (port < 24)
  | .linkUnitReceive port raw _ => decide (port < 24) && raw.length == 44
  | .linkCtl port payload => decide (port < 24) && payload.length == 32
  | .linkCtlTimer port => decide (port < 24)
  | .replayTimerExpiry port lseq => decide (port < 24) && decide (lseq < 4096)
  | .laneCmd port payload => decide (port < 24) && payload.length == 32
  | .laneAck port payload => decide (port < 24) && payload.length == 32
  | .laneGo port payload => decide (port < 24) && payload.length == 32
  | .laneSwitch port _ => decide (port < 24)
  | .rateChangeRelock port => decide (port < 24)
  | .laneCmdTimeout port => decide (port < 24)
  | .laneGoTimeout port => decide (port < 24)
  | .retrainComplete port txLanes rxLanes rate => decide (port < 24) && decide (txLanes < 16) && decide (rxLanes < 16) && decide (rate < 2)
  | .retrainTimeout port => decide (port < 24)
  | .partnerIdle port => decide (port < 24)
  | .laneLockLoss port lane => decide (port < 24) && decide (lane < 4)
  | .frameLockLoss port => decide (port < 24)
  | .laneErrorWindowEnd port corrected symbols => decide (port < 24) && corrected.length == 4 && symbols.length == 4
  | .laneWarmUpEnd port lane _ => decide (port < 24) && decide (lane < 4)
  | .laneWarmUpRetry port lane => decide (port < 24) && decide (lane < 4)
  | .tagUnit port => decide (port < 24)
  | .groupCloseTimer port => decide (port < 24)
  | .rekeyTrigger port => decide (port < 24)
  | .linkKeyExchange1 port _ => decide (port < 24)
  | .linkKeyExchange2 port _ => decide (port < 24)
  | .linkKeyExchange3 port _ => decide (port < 24)
  | .rekeyExchange1 port _ => decide (port < 24)
  | .rekeyExchange2 port _ => decide (port < 24)
  | .keyingTimeout port => decide (port < 24)
  | .transitCell port vc _ => decide (port < 24) && decide (vc < 5)
  | .trainTruncation port vc => decide (port < 24) && decide (vc < 5)
  | .egressTrainStart port _ _ => decide (port < 24)
  | .regRd port t => decide (port < 24) && t.wf
  | .regWr port t => decide (port < 24) && t.wf
  | .cxlMemRead head hpa _ _ => decide (head < 2) && decide (hpa < 2 ^ 52)
  | .cxlMemWrite head hpa _ mask data => decide (head < 2) && decide (hpa < 2 ^ 52) && decide (mask < 2 ^ 64) && data.length == 64
  | .birsp head _ _ => decide (head < 2)
  | .hdmDecoderCommit head index _ _ _ _ _ _ => decide (head < 2) && decide (index < 8)
  | .functionLevelReset head => decide (head < 2)
  | .perstAssert head => decide (head < 2)
  | .perstRelease head => decide (head < 2)
  | .cxlLinkDown head => decide (head < 2)
  | .identify head _ _ => decide (head < 2)
  | .backgroundOperationStatus head _ _ => decide (head < 2)
  | .getSupportedLogs head _ _ => decide (head < 2)
  | .getLog head _ _ => decide (head < 2)
  | .getTimestamp head _ _ => decide (head < 2)
  | .setTimestamp head _ _ => decide (head < 2)
  | .getEventRecords head _ _ => decide (head < 2)
  | .clearEventRecords head _ _ => decide (head < 2)
  | .getEventInterruptPolicy head _ _ => decide (head < 2)
  | .setEventInterruptPolicy head _ _ => decide (head < 2)
  | .identifyMemoryDevice head _ _ => decide (head < 2)
  | .getPartitionInfo head _ _ => decide (head < 2)
  | .getPoisonList head _ _ => decide (head < 2)
  | .injectPoison head _ _ => decide (head < 2)
  | .clearPoison head _ _ => decide (head < 2)
  | .getDynamicCapacityConfiguration head _ _ => decide (head < 2)
  | .getDynamicCapacityExtentList head _ _ => decide (head < 2)
  | .addDynamicCapacityResponse head _ _ => decide (head < 2)
  | .releaseDynamicCapacity head _ _ => decide (head < 2)
  | .unsupportedCxlCommand head _ opcode => decide (head < 2) && decide (opcode < 65536)
  | .hearthFailureDetected => true
  | .hearthSwitchComplete => true
  | .hearthLost => true
  | .hearthWarmUpEnd core _ => decide (core < 2)
  | .hearthSyncComplete core => decide (core < 2)
  | .mbxSubmit acc p => acc.wf && (decide (1 ≤ p) && decide (p < 64))
  | .mbxSubmitIndirect acc p => acc.wf && (decide (1 ≤ p) && decide (p < 64))
  | .mailboxTimeout p => (decide (1 ≤ p) && decide (p < 64))
  | .selUnit head size _ => decide (head < 2) && (size == 4 || size == 8)
  | .rcRegisterRead acc _ _ => acc.wf
  | .registerWrite acc _ _ _ => acc.wf
  | .icsRequestPart arg => arg.wf
  | .icsContinue arg => arg.wf
  | .icsHeldPartsExpiry chan => chan.wf
  | .fmChallengeExpiry chan => chan.wf
  | .i3cBusReset => true
  | .deviceInformation arg => arg.wf
  | .configRecordRead arg => arg.wf
  | .certificateChainRead arg => arg.wf
  | .partitionCreate arg => arg.wf
  | .partitionDestroy arg => arg.wf
  | .partitionInformation arg => arg.wf
  | .partitionSpanSet arg => arg.wf
  | .memberSet arg => arg.wf
  | .coherenceSet arg => arg.wf
  | .contextRangeSet arg => arg.wf
  | .starterBind arg => arg.wf
  | .extentAdd arg => arg.wf
  | .extentRelease arg => arg.wf
  | .extentInformation arg => arg.wf
  | .cxlRegionSet arg => arg.wf
  | .cxlOffer arg => arg.wf
  | .cxlWithdraw arg => arg.wf
  | .dcTagSet arg => arg.wf
  | .sealQuotaSet arg => arg.wf
  | .sealCreate arg => arg.wf
  | .sealInformation arg => arg.wf
  | .sealMap arg => arg.wf
  | .sealUnmap arg => arg.wf
  | .sealRelease arg => arg.wf
  | .hintSet arg => arg.wf
  | .hintList arg => arg.wf
  | .migrationBudgetSet arg => arg.wf
  | .coordinateSet arg => arg.wf
  | .portNeighbourSet arg => arg.wf
  | .routeSet arg => arg.wf
  | .routeRead arg => arg.wf
  | .portSet arg => arg.wf
  | .portRetrain arg => arg.wf
  | .transitMaskSet arg => arg.wf
  | .heatSyncSet arg => arg.wf
  | .queueSet arg => arg.wf
  | .groupSet arg => arg.wf
  | .gateSet arg => arg.wf
  | .weightSet arg => arg.wf
  | .shaperSet arg => arg.wf
  | .splitSet arg => arg.wf
  | .splitRead arg => arg.wf
  | .ageLimitSet arg => arg.wf
  | .meltOpen arg => arg.wf
  | .meltContributors arg => arg.wf
  | .meltArm arg => arg.wf
  | .meltClose arg => arg.wf
  | .meltAbortStep arg => arg.wf
  | .meltInformation arg => arg.wf
  | .statusRingSet arg => arg.wf
  | .rosterSet arg => arg.wf
  | .rosterRead arg => arg.wf
  | .anvilStoreSet arg => arg.wf
  | .anvilStoreRelease arg => arg.wf
  | .programLoad arg => arg.wf
  | .programStart arg => arg.wf
  | .programStop arg => arg.wf
  | .tongsContextSet arg => arg.wf
  | .tongsContextReset arg => arg.wf
  | .tongsContextStatus arg => arg.wf
  | .tongsResume arg => arg.wf
  | .tongsSpaceSet arg => arg.wf
  | .tongsSpaceFree arg => arg.wf
  | .tongsInvalidate arg => arg.wf
  | .tongsPlaceSet arg => arg.wf
  | .faultQueueSet arg => arg.wf
  | .powerLimitSet arg => arg.wf
  | .phaseDeclare arg => arg.wf
  | .phaseSet arg => arg.wf
  | .dramPowerSet arg => arg.wf
  | .powerStatus arg => arg.wf
  | .attestationReport arg => arg.wf
  | .attestationRead arg => arg.wf
  | .fmChallenge arg => arg.wf
  | .fmBind arg => arg.wf
  | .fmUnbind arg => arg.wf
  | .debugUnlock arg => arg.wf
  | .debugLock arg => arg.wf
  | .memoryHealth arg => arg.wf
  | .scrubFloorSet arg => arg.wf
  | .unitReturn arg => arg.wf
  | .hearthReturn arg => arg.wf
  | .hearthSwitch arg => arg.wf
  | .twinSet arg => arg.wf
  | .twinEpoch arg => arg.wf
  | .twinStatus arg => arg.wf
  | .unitRead arg => arg.wf
  | .coherenceStatistics arg => arg.wf
  | .queueStatistics arg => arg.wf
  | .firmwareInfo arg => arg.wf
  | .firmwareWrite arg => arg.wf
  | .firmwareActivate arg => arg.wf
  | .sourceFire source _ => decide (source < 4096)
  | .claim acc target => acc.wf && decide (target < 256)
  | .complete acc target _ => acc.wf && decide (target < 256)
  | .srcCfg acc target _ => acc.wf && decide (target < 256)
  | .sourceRelease acc target => acc.wf && decide (target < 256)
  | .tgtCtrl acc target _ => acc.wf && decide (target < 256)
  | .delivery target => decide (target < 256)
  | .redeliver target => decide (target < 256)
  | .msiXUnmask head access => decide (head < 2) && access.wf
  | .droopDetect => true
  | .droopStretchEnd _ => true
  | .avsReading coreMv _ _ estimate => decide (coreMv < 65536) && decide (estimate < 65536)
  | .avsReadingMissing => true
  | .sustainedBlockEnd => true
  | .voltageAdjust _ _ => true
  | .regulatorVoltageReport mv => decide (mv < 65536)
  | .throttleHoldExpiry => true
  | .loadStepSlot => true
  | .pwrBrakeNLow => true
  | .coolantOkLow => true
  | .coolantStopCclkStep => true
  | .coolantStopLinkIdle => true
  | .coolantStopSelfRefresh => true
  | .thermtrip => true
  | .drbgReseed => true
  | .drbgHealthFailure => true
  | .scrubKeyReplace => true
  | .pwrokRise _ _ => true
  | .pwrokFall => true
  | .sysRstNLow => true
  | .warmResetFlushComplete => true
  | .sysRstNRise _ => true
  | .romStart _ => true
  | .floorRecord _ _ _ _ => true
  | .floorWaitExpiry => true
  | .romChecksComplete => true
  | .sramSelfTestComplete _ _ => true
  | .memoryTrainingComplete hbm ddr => hbm.length == 8 && ddr.length == 16
  | .memoryInitialisationComplete anvils crucibles engines => decide (anvils < 2 ^ 64) && decide (crucibles < 256) && decide (engines < 2 ^ 32)
  | .bootResume => true
  | .heartbeat port cell => decide (port < 24) && cell.wf
  | .lostHeats => true
  | .takeoverEnd => true
  | .undoRestoreUnitComplete forge => decide (forge < 8)
  | .twinMemWr port t => decide (port < 24) && t.wf
  | .epochBegin port cell => decide (port < 24) && cell.wf
  | .epochDone port cell => decide (port < 24) && cell.wf
  | .resyncComplete => true
  | .unitBoundary port _ => decide (port < 24)
  | .outputVcRelease port vc => decide (port < 24) && decide (vc < 5)
  | .tableStream _ => true
  | .standbyFailureDetected => true
  | .cxlLinkTrainingComplete head width _ => decide (head < 2) && decide (width < 17)
  | .reservedInstruction anvil word => decide (anvil < 64) && decide (word < 2 ^ 64)
  | .reservedIcsOpcode arg => arg.wf
  | .reservedDescriptorType ctx => decide (ctx < 16384)
  | .flashProgrammed => true
  | .activationVerified => true
  | .reportSigned chan => chan.wf
  | .measurementAppended p slot => (decide (1 ≤ p) && decide (p < 64)) && decide (slot < 16)
  | .failedUnitRetrainComplete unit _ => decide (unit < 320)
  | .batonOutRelease => true

end Sys2Proof
end

