-- ==== Sys2Proof/Certificates/Slice0/Obligations.lean ====
section
/-! DEFINITION. The statements of slice 0, in the order of OBLIGATIONS.json. -/

open Sys2Proof Sys2Proof.Machine Sys2Proof.Safety

/-- Heat-sync events (R40, R42) and the decay of a boundary taken early (R68): what each leaves, nothing else changed. -/
def Obligations.HeatSyncEventsTakeEffect : Prop :=
  (∀ (s : State) (phase : Nat), s.heat.role = .reference → s.heat.running = true → phase < s.heat.length →
    Gives (.heatSyncIn phase) s { s with heat := { s.heat with
      offset := some (if 2 * phase < s.heat.length then -(phase : Int) else (s.heat.length : Int) - phase) } }) ∧
  (∀ (s : State) (port t1 hop t2 t3 : Nat), s.heat.running = true →
    Gives (.syncReq port t1 hop t2 t3) s (s.sendOn port (s.syncCell port t1 t2 t3 0x02 s.heat.hop))) ∧
  (∀ (s : State) (port t1 t2 t3 hop t4 : Nat), s.heat.role = .child port → s.heat.t1 = some t1 →
    Gives (.syncRsp port t1 t2 t3 hop t4) s
      (State.syncMove { s with heat := { s.heat with
        t1 := none, noRsp := 0, hop := hop + 1, offset := some (syncOffset t1 t2 t3 t4) } } (syncOffset t1 t2 t3 t4))) ∧
  (∀ s : State, 16 ≤ s.heat.noRsp → s.heat.sync = .acquire ∨ s.heat.sync = .locked →
    Gives .syncRspLoss s (State.deviceEvent { s with heat := { s.heat with sync := .holdover, goodRun := 0 } } 0x080)) ∧
  (∀ s : State, s.heat.running = true → s.heat.corrected.1 % 256 = 0 → s.heat.decayDone = false →
    Gives .decayBoundary s { s.decay with heat := { s.decay.heat with decayDone := true } })

/-- DRAM controller events (R38, R39, R110, R111, R119, R120, R127, R128). -/
def Obligations.DramControllerEventsTakeEffect : Prop :=
  (∀ (s : State) (k : Nat), (s.stack k).doubled = true → (s.stack k).refreshP = 39 → (s.stack k).cool = 40 →
    Gives (.doubledRefreshExit false k) s (s.modStack k (fun x => { x with doubled := false }))) ∧
  (∀ (s : State) (c : Nat), (s.bulkCh c).doubled = true → (s.bulkCh c).refreshP = 39 → (s.bulkCh c).cool = 40 →
    Gives (.doubledRefreshExit true c) s (s.modBulk c (fun x => { x with doubled := false }))) ∧
  (∀ (s : State) (u : Nat), 0 < (s.unit u).postponed →
    (s.unit u).exitRefresh = false →
    Gives (.postponedRefreshIssue u) s (s.modUnit u (fun x => { x with
      exitRefresh := false, inRefresh := true, postponed := x.postponed - 1, refreshing := x.refreshing && decide (1 < x.postponed) })).drainAll) ∧
  (∀ (s : State) (u : Nat), (s.unit u).exitRefresh = true →
    Gives (.postponedRefreshIssue u) s (s.modUnit u (fun x => { x with exitRefresh := false, inRefresh := true })).drainAll) ∧
  (∀ (s : State) (q pos : Nat) (hit : Bool) (r : DramRead), (s.queue q).reads[pos]? = some r →
    readMayIssue (s.queue q) s.readBlocked pos hit = true →
    ∀ errs : List Nat, Gives (.dramReadComplete q pos hit errs) s (s.readReturns q pos r hit errs)) ∧
  (∀ (s : State) (u : Nat), (s.unit u).parity = 0 → Gives (.caParityError u) s (s.modUnit u (fun x => { x with parity := 1 }))) ∧
  (∀ (s : State) (u : Nat), (s.unit u).parity ≠ 0 →
    Gives (.caParityError u) s ((s.modUnit u (fun x => { x with
      parity := x.parity + 1, caError := true, failing := x.failing || (x.state == .inService || x.state == .spare || x.state == .failed || x.serving) })).countUnit u 37 22 1)) ∧
  (∀ (s : State) (q pos : Nat) (r : DramRead), (s.queue q).reads = [r] → pos = 0 →
    r.cls = 1 ∨ (r.cls = 2 ∧ s.dram.limit2 ≤ r.age) ∨ (r.cls = 3 ∧ s.dram.limit3 ≤ r.age) ∨ (r.cls = 4 ∧ s.dram.limit4 ≤ r.age) →
    Gives (.ageLimitExpiry q false pos) s (s.modQueue q (fun x => { x with reads := [{ r with promoted := true }] }))) ∧
  (∀ (s : State) (u : Nat), s.dram.pdIdle ≠ 0 → (s.unit u).power = .active → s.dram.pdIdle ≤ (s.unit u).idle →
    Gives (.powerDownEntry u) s (s.modUnit u (fun x => { x with power := .powerDown }))) ∧
  (∀ (s : State) (u : Nat), s.dram.srIdle ≠ 0 → (s.unit u).power ≠ .selfRefresh → s.dram.srIdle ≤ (s.unit u).idle →
    Gives (.selfRefreshEntry u) s (s.modUnit u (fun x => { x with power := .selfRefresh, postponed := 0, refreshing := false, scrubbed := none }))) ∧
  (∀ (s : State) (u : Nat) (pass : Bool), (s.unit u).retraining = true →
    Gives (.failedUnitRetrainComplete u pass) s (s.modUnit u (fun x => { x with retraining := false, dead := x.dead || !pass })))

/-- Background units of the forges (R67, R90, R94, R97, R116, R118, R123, R126): what a completed unit leaves. -/
def Obligations.BackgroundUnitsTakeEffect : Prop :=
  (∀ (s : State) (f w : Nat) (found : List Finding), (s.background f).patrol = some w → s.unitGoes f 1 [s.walkerUnit w (s.walker w).step] = true →
    Gives (.patrolScrubUnitComplete f found) s
      (((((s.foundAll found).countBytes (s.walkerUnit w (s.walker w).step) 0 4096 false).modWalker w (fun x => { x with
        running := false, step := s.seekStep w (s.walkerSteps w) (x.step + 1)
        corrected := x.corrected + (found.filter (fun y => eccOf (isBulk (y.1 * 64)) y.2 == .corrected)).length
        skipped := x.skipped + s.stepPoison w x.step })).modUnit (s.walkerUnit w (s.walker w).step) ServiceUnit.scrubEnds).modBackground f
          (fun b => { b with patrol := none }))) ∧
  (∀ (s : State) (w : Nat), (s.walker w).windowEnd = false → (s.walker w).window = 65535 → 4 ≤ (s.walker w).corrected →
    Gives (.scrubWindowEnd w) s (s.modWalker w (fun x => { x with
      windowEnd := true, window := 0, corrected := 0, level := min 3 ((s.walker w).level + 1), clean := 0 }))) ∧
  (∀ (s : State) (w : Nat), (s.walker w).windowEnd = false → (s.walker w).window = 65535 → (s.walker w).corrected = 0 → 7 ≤ (s.walker w).clean →
    Gives (.scrubWindowEnd w) s (s.modWalker w (fun x => { x with
      windowEnd := true, window := 0, corrected := 0, level := max s.dram.scrubFloor ((s.walker w).level - 1), clean := 0 }))) ∧
  (∀ (s : State) (w : Nat), (s.walker w).windowEnd = false → (s.walker w).window = 65535 → 0 < (s.walker w).corrected → (s.walker w).corrected < 4 →
    Gives (.scrubWindowEnd w) s (s.modWalker w (fun x => { x with windowEnd := true, window := 0, corrected := 0, clean := 0 }))) ∧
  (∀ (s : State) (w : Nat), (s.walker w).windowEnd = false → (s.walker w).window = 65535 → (s.walker w).corrected = 0 → (s.walker w).clean < 7 →
    Gives (.scrubWindowEnd w) s (s.modWalker w (fun x => { x with
      windowEnd := true, window := 0, corrected := 0, clean := (s.walker w).clean + 1 }))) ∧
  (∀ (s : State) (f u : Nat) (found : List Finding), (s.background f).spare = some u → s.unitGoes f 2 [u, s.spareTarget u] = true →
    Gives (.spareMigrationUnitComplete f found) s
      ((((((((((s.foundAll found).piecePoison u).foldl (fun a l =>
        ((a.modMem (fun m => m.setPoison l true)).countPoisonRead u).countPoisonWrite (s.spareTarget u)) (s.foundAll found)).countBytes u 0 65536 false).touchUnit u).modUnit u (fun x => { x with
        pieces := x.pieces + 1, switchNext := decide (s.unitPieces u ≤ x.pieces + 1) })).countBytes (s.spareTarget u) 0 65536 true).touchUnit
          (s.spareTarget u)).countUnit u 30 34 1).modBackground f (fun b => { b with spare := none })).drainAll) ∧
  (∀ (s : State) (f u : Nat), (s.background f).test = some u → s.unitGoes f 3 [u] = true →
    Gives (.warmUpTestUnitComplete f true) s
      (((((s.countBytes u 0 4096 true).countBytes u 0 4096 false).touchUnit u).modBackground f (fun b => { b with test := none })).modUnit u (fun x => { x with
        testUnits := x.testUnits + 1, admitNext := decide (s.testTotal u ≤ x.testUnits + 1) })) ∧
    Gives (.warmUpTestUnitComplete f false) s
      ((((((s.countBytes u 0 4096 true).countBytes u 0 4096 false).touchUnit u).modBackground f (fun b => { b with test := none })).modUnit u (fun x => { x with
        state := x.before, testUnits := 0 })).deviceEvent 0x082)) ∧
  (∀ (s : State) (f : Nat) (u : PlaceUnit) (found : List Finding), (s.forge f).placeUnit = some u → (s.tag u.way).state ≠ .invalid → s.placeGoes f u = true →
    Gives (.placementMigrationUnitComplete f found) s ((s.foundAll found).placementDone f u (s.tag u.way))) ∧
  (∀ (s : State) (f ext : Nat), ext ∈ (s.background f).scrub → (s.ext ext).state = .filling → s.scrubGoes f ext = true →
    Gives (.extentFillUnitComplete f ext) s (s.scrubUnit f ext)) ∧
  (∀ (s : State) (f ext : Nat), ext ∈ (s.background f).scrub → (s.ext ext).state = .scrubbing → s.scrubGoes f ext = true →
    Gives (.quenchScrubUnitComplete f ext) s (s.scrubUnit f ext))

/-- MEM trains and cache fills (R54, R57, R85, R101, R289, R296, R324). -/
def Obligations.MemoryAccessesTakeEffect : Prop :=
  (∀ (s : State) (port d : Nat) (t : Train), s.isMemReq t = true → le t.head 0 1 = 0x01 → s.admits port t.part = true →
    s.memStatus t false = (stOk, d) → s.homeBlocked d (le t.head 4 4) = false → s.rangeFree t.part d (le t.head 4 4) = true →
    Gives (.memRd port t) s ((s.takeTrain port t).memLoad t port d)) ∧
  (∀ (s : State) (port d : Nat) (t : Train), s.isMemReq t = true → le t.head 0 1 = 0x01 → s.admits port t.part = true →
    s.memStatus t false = (stOk, d) → s.rangeFree t.part d (le t.head 4 4) = false → Gives (.memRd port t) s s) ∧
  (∀ (s : State) (port st d : Nat) (t : Train), s.isMemReq t = true → le t.head 0 1 = 0x01 → s.admits port t.part = true →
    s.memStatus t false = (st, d) → st ≠ stOk → Gives (.memRd port t) s ((s.takeTrain port t).send (memAnswer t.cell0 0x81 0 st 0 []))) ∧
  (∀ (s : State) (port : Nat) (t : Train), s.isMemReq t = true → le t.head 0 1 ≠ 0x02 → s.admits port t.part = false →
    Gives (.memRd port t) s ((s.takeTrain port t).countPort port 40 t.cells.length)) ∧
  (∀ (s : State) (port d : Nat) (t : Train), s.isMemReq t = true → le t.head 0 1 = 0x02 → s.admits port t.part = true →
    (t.part = 0 → (s.egress port).twin = false) → s.memStatus t true = (stOk, d) → s.homeBlocked d (le t.head 4 4) = false → s.writeWaits t.part d (le t.head 4 4) = false →
    Gives (.memWr port t) s ((s.takeTrain port t).memStore t port d)) ∧
  (∀ (s : State) (port d : Nat) (t : Train), s.isMemReq t = true → le t.head 0 1 = 0x02 → s.admits port t.part = true →
    (t.part = 0 → (s.egress port).twin = false) → s.memStatus t true = (stOk, d) → s.homeBlocked d (le t.head 4 4) = false → s.writeWaits t.part d (le t.head 4 4) = true →
    Gives (.memWr port t) s (((s.takeTrain port t).hold (.store port t d)).hasten d (le t.head 4 4))) ∧
  (∀ (s : State) (port d : Nat) (t : Train), s.isMemReq t = true → s.admits port t.part = true → s.homeBlocked d (le t.head 4 4) = true →
    (le t.head 0 1 = 0x01 → s.memStatus t false = (stOk, d) → Gives (.memRd port t) s s) ∧
    (le t.head 0 1 = 0x02 → (t.part = 0 → (s.egress port).twin = false) → s.memStatus t true = (stOk, d) → Gives (.memWr port t) s s)) ∧
  (∀ (s : State) (port st d : Nat) (t : Train), s.isMemReq t = true → le t.head 0 1 = 0x02 → s.admits port t.part = true →
    (t.part = 0 → (s.egress port).twin = false) → s.memStatus t true = (st, d) → st ≠ stOk →
    Gives (.memWr port t) s ((s.takeTrain port t).send (memAnswer t.cell0 0x82 0 st 0 []))) ∧
  (∀ (s : State) (forge sector : Nat) (r : Returned), (s.forge forge).returned.find? (fun x => x.sector == sector) = some r →
    Gives (.forgeCacheFill forge sector) s (s.sectorFills forge sector r))

/-- Events of partitions, extents and captures (R80, R92, R96, R100, R304, R413, R452). -/
def Obligations.PartitionEventsTakeEffect : Prop :=
  (∀ (s : State) (ext d : Nat), (s.ext ext).state = .releasing → (s.ext ext).drain = some d → 3 ≤ d → s.frozen = false →
    Gives (.releaseDrainEnd ext) s (s.endDrain ext)) ∧
  (∀ (s : State) (port i : Nat) (cell : Cell) (q : Quench), cell.typ = 0x6 → le cell.payload 0 1 = 0x21 →
    (s.part (le cell.payload 1 1)).quench = some q → s.memberIndex (le cell.payload 1 1) cell.src = some i →
    (s.part (le cell.payload 1 1)).fenceComplete = false → s.frozen = false →
    Gives (.fenceAck port cell) s
      (let t := (s.takeCells port 0 [cell]).modPart (le cell.payload 1 1) (fun x => { x with quench := some { q with acked := addSorted i q.acked } })
       if (t.silentMembers (le cell.payload 1 1)).isEmpty then t.fenceDone (le cell.payload 1 1) else t)) ∧
  (∀ (s : State) (p : Nat) (q : Quench), (s.part p).quench = some q → 64 ≤ q.age → (s.part p).fenceComplete = false → s.frozen = false →
    Gives (.fenceWaitExpiry p) s (((s.silentMembers p).foldl (fun a i => (a.modPart p (fun x => { x with
      silent := x.silent ++ [((x.members[i]?).map (·.ep)).getD 0] })).deviceEvent 0x085) s).fenceDone p)) ∧
  (∀ (s : State) (p : Nat) (q : Quench), (s.part p).quench = some q → q.drained = true → (s.part p).zeroingComplete = false → s.frozen = false →
    Gives (.quenchZeroingComplete p) s
      (((s.dropLinesOf p).modPage p (fun g => { g with buf := [] })).modPart p (fun x => { x with zeroingComplete := true }))) ∧
  (∀ (s : State) (p : Nat), (s.part p).state = .tombstone → 512 ≤ (s.part p).tombAge → s.frozen = false → Gives (.tombstoneExpiry p) s (s.partFree p)) ∧
  (∀ (s : State) (sid leaf : Nat) (found : List Finding), (s.seal sid).state = .capturing → s.nextLeaf (s.seal sid) = some leaf → s.parts.copied < 16 →
    s.segmentOpen (s.leafAddress (s.seal sid) leaf) = false → s.readReady (s.seal sid).part (s.leafAddress (s.seal sid) leaf) 65536 = true →
    s.captureFits sid leaf = true → anyUncorrectable found = false →
    Gives (.captureSegmentCopyComplete sid leaf found) s ((s.foundAll found).copyCounted.captureCopied sid leaf).releaseHeld) ∧
  (∀ (s : State) (sid leaf : Nat) (found : List Finding), (s.seal sid).state = .capturing → s.nextLeaf (s.seal sid) = some leaf → s.parts.copied < 16 →
    s.segmentOpen (s.leafAddress (s.seal sid) leaf) = false → s.readReady (s.seal sid).part (s.leafAddress (s.seal sid) leaf) 65536 = true →
    s.captureFits sid leaf = true → anyUncorrectable found = true → s.frozen = false →
    Gives (.captureSegmentCopyComplete sid leaf found) s ((s.foundAll found).copyCounted.abortSeal sid false).releaseHeld) ∧
  (∀ (s : State) (sid leaf : Nat) (found : List Finding), (s.seal sid).state = .capturing → s.nextLeaf (s.seal sid) = some leaf → s.parts.copied < 16 →
    s.segmentOpen (s.leafAddress (s.seal sid) leaf) = false →
    (s.readReady (s.seal sid).part (s.leafAddress (s.seal sid) leaf) 65536 = false →
      Gives (.captureSegmentCopyComplete sid leaf found) s (s.fetchRead 3 (s.seal sid).part (s.leafAddress (s.seal sid) leaf) 65536)) ∧
    (s.readReady (s.seal sid).part (s.leafAddress (s.seal sid) leaf) 65536 = true → s.captureFits sid leaf = false →
      Gives (.captureSegmentCopyComplete sid leaf found) s s)) ∧
  (∀ (s : State) (p b : Nat) (l : List Member), s.coh.sweeps.find? (fun x => x.1 == p && !x.2.2.2) = some (p, b, l, false) →
    Gives (.unresponsiveSweepComplete p) s
      (((sweptMembers (s.part p).members l).foldl (fun a m => a.sweepMember p m) s).modCoh (fun c => { c with
        sweeps := c.sweeps.map (fun x => if x.1 = p then (x.1, x.2.1, x.2.2.1, true) else x) })))

/-- Twin cells and events (R502, R503, R505–R509, R512). -/
def Obligations.TwinEventsTakeEffect : Prop :=
  (∀ (s : State) (port : Nat) (cell : Cell), s.twinMsg port 0x40 cell = true →
    Gives (.heartbeat port cell) s
      (((s.takeCells port 0 [cell]).heartbeatMoves (le cell.payload 1 1)).modTwin (fun t => { t with
        heardThisHeat := true, partnerState := le cell.payload 1 1, lastHeard := le cell.payload 4 6 }))) ∧
  (∀ s : State, 4 ≤ s.twin.lost → s.twin.heardThisHeat = false → s.twin.state = .primary → Gives .lostHeats s s.enterSolo) ∧
  (∀ s : State, 4 ≤ s.twin.lost → s.twin.heardThisHeat = false → s.twin.state = .syncing → Gives .lostHeats s (s.twinTo .stale)) ∧
  (∀ s : State, 4 ≤ s.twin.lost → s.twin.heardThisHeat = false → s.twin.state = .standby → s.twin.batonIn = true → Gives .lostHeats s (s.twinTo .stale)) ∧
  (∀ s : State, 4 ≤ s.twin.lost → s.twin.heardThisHeat = false → s.twin.state = .standby → s.twin.batonIn = false → Gives .lostHeats s s.takeOver) ∧
  (∀ s : State, s.twin.heardThisHeat = true → Gives .lostHeats s s) ∧
  (∀ s : State, s.twin.state = .takeover → 2 ≤ s.twin.sinceD → Gives .takeoverEnd s (s.twinTo .solo)) ∧
  (∀ s : State, s.twin.state = .syncing → Gives .resyncComplete s (s.modTwin (fun t => { t with resyncDone := true }))) ∧
  (∀ (s : State) (port : Nat) (cell : Cell), s.twinMsg port 0x41 cell = true → s.twin.state = .standby → le cell.payload 8 4 ≤ s.undoFree →
    Gives (.epochBegin port cell) s
      (let t := (s.takeCells port 0 [cell]).modEpoch (le cell.payload 1 1) (fun e => { e with
        number := le cell.payload 4 4, reserved := le cell.payload 8 4, undo := [], frozen := [] })
       if le cell.payload 8 4 = 0 then t.commitEpoch port (le cell.payload 1 1) else t)) ∧
  (∀ (s : State) (port : Nat) (cell : Cell), s.twinMsg port 0x42 cell = true → (s.epoch (le cell.payload 1 1)).copying = true →
    (s.epoch (le cell.payload 1 1)).number = le cell.payload 4 4 →
    Gives (.epochDone port cell) s
      (((s.takeCells port 0 [cell]).modEpoch (le cell.payload 1 1) (fun e => { e with committed := e.number, copying := false, frozen := [], reserved := 0 })).releaseHeld.resolve)) ∧
  (∀ (s : State) (f g : Nat) (found : List Finding), (s.background f).twin = some g → s.restoring g = false → s.twinGoes f g = true →
    Gives (.twinEpochCopyUnitComplete { forge := f, found := found }) s
      ((((s.foundAll found).modBackground f (fun b => { b with twin := none })).sendSegment g).modTwin (fun t => { t with
        resync := t.resync.erase g
        epochs := tmap t.epochs (fun _ e => if e.copying then { e with frozen := e.frozen.erase g } else e) })).releaseHeld) ∧
  (∀ (s : State) (f g : Nat), (s.background f).twin = some g → s.restoring g = true → s.twinGoes f g = true →
    Gives (.undoRestoreUnitComplete f) s
      (((s.modBackground f (fun b => { b with twin := none })).wakeUnits (s.unitsHit [(65536 * g, 65536)])).modTwin (fun t =>
        { t with restore := t.restore.erase g })).releaseHeld) ∧
  (∀ (s : State) (port : Nat) (t : Train), s.isReady = true → (s.egress port).twin = true → t.typ = 0x7 → t.cls = 1 → t.part = 0 →
    le t.head 0 1 = 0x02 → s.twin.state = .syncing ∨ s.twin.state = .standby →
    s.rangeFree (s.partAt (le t.head 8 8 % 2 ^ 44)) (le t.head 8 8 % 2 ^ 44) (le t.head 4 4) = true →
    Gives (.twinMemWr port t) s
      (((s.takeTrain port t).twinStore port (le t.head 8 8 % 2 ^ 44) (t.data.take (le t.head 4 4)) (bit (le t.head 1 1) 0)).sendOn port
        (memAnswer t.cell0 0x82 0 stOk (le t.head 4 4) []))) ∧
  (∀ (s : State) (c : Change), c.streamed = true → s.isReady = true → s.twin.state = .syncing ∨ s.twin.state = .standby →
    Gives (.tableStream c) s (s.modTwin (fun t => { t with stream := t.stream ++ [c] })))

/-- Pours at the crucible complex (R172–R174, R176, R179). -/
def Obligations.PoursTakeEffect : Prop :=
  (∀ (s : State) (port k : Nat) (cell : Cell), cell.typ = 0x9 → cell.cls = 4 → cell.seq = 0 → cell.dst = s.endpoint 33 →
    s.admits port cell.part = true → (s.part cell.part).state = .active → s.twin.state = .unpaired → s.coolantStop = false →
    (s.melt cell.tag).state ≠ .free → (s.melt cell.tag).part = cell.part → s.pourChecks cell = .accept k →
    Gives (.pour port cell) s (((s.takeCells port 4 [cell]).truncateStaging port).pourOpened port cell k)) ∧
  (∀ (s : State) (port rest : Nat) (ks : List Nat) (status : Option Nat) (cell : Cell), cell.typ = 0x9 → cell.cls = 4 → cell.seq = 0 →
    cell.dst = s.endpoint 33 → s.admits port cell.part = true → (s.part cell.part).state = .active → s.twin.state = .unpaired →
    s.coolantStop = false → (s.melt cell.tag).state ≠ .free → (s.melt cell.tag).part = cell.part → s.pourChecks cell = .refuse ks rest status →
    Gives (.pour port cell) s
      (let c := s.pourCrucible cell.tag (le cell.payload 2 2)
       let t := (ks.foldl (fun a k => a.countPour cell.part c k 1) ((s.takeCells port 4 [cell]).truncateStaging port)).refuseRest port cell.tag c rest
       match status with | some st => t.pourStatus cell st | none => t)) ∧
  (∀ (s : State) (port : Nat) (cell : Cell), cell.typ = 0x9 → cell.cls = 4 → cell.seq = 0 → cell.dst = s.endpoint 33 →
    s.admits port cell.part = false →
    Gives (.pour port cell) s
      ((((s.takeCells port 4 [cell]).truncateStaging port).countPort port 40 1).refuseRest port cell.tag 0 3)) ∧
  (∀ (s : State) (port : Nat) (cell : Cell), cell.typ = 0x9 → cell.cls = 4 → cell.seq ≠ 0 → cell.dst = s.endpoint 33 →
    tfind s.crucibles.staging port = none → Gives (.pourCell port cell) s ((s.takeCells port 4 [cell]).strayCell port cell)) ∧
  (∀ (s : State) (port : Nat) (cell : Cell) (t : Staging), cell.typ = 0x9 → cell.cls = 4 → cell.seq = t.taken + 1 → cell.dst = s.endpoint 33 →
    tfind s.crucibles.staging port = some t → s.coolantStop = false → cell.tag = t.melt → cell.part = (s.melt t.melt).part →
    t.held.length + 1 < t.unitCells →
    Gives (.pourCell port cell) s
      (((s.takeCells port 4 [cell]).keepStaging port (some { t with taken := t.taken + 1, heats := 0, held := t.held ++ [cell.payload] })).countPour cell.part t.cru 2 1)) ∧
  (∀ (s : State) (port : Nat) (cell : Cell) (t : Staging), cell.typ = 0x9 → cell.cls = 4 → cell.seq = t.taken + 1 → cell.dst = s.endpoint 33 →
    tfind s.crucibles.staging port = some t → s.coolantStop = false → cell.tag = t.melt → cell.part = (s.melt t.melt).part →
    t.unitCells ≤ t.held.length + 1 →
    Gives (.pourCell port cell) s
      ((s.takeCells port 4 [cell]).pourUnit port cell.part { t with taken := t.taken + 1, heats := 0, held := t.held ++ [cell.payload] })) ∧
  (∀ (s : State) (port : Nat) (t : Staging), tfind s.crucibles.staging port = some t →
    (1 ≤ t.heats → Gives (.stagingTruncation port) s (s.truncateStaging port)) ∧
    (t.heats = 0 → Gives (.stagingTruncation port) s s)) ∧
  (∀ (s : State) (port : Nat), tfind s.crucibles.staging port = none → Gives (.stagingTruncation port) s s)

/-- Windows and their casts (R165, R166, R180–R182, R187–R190, R192). -/
def Obligations.WindowEventsTakeEffect : Prop :=
  (∀ (s : State) (m c k : Nat), s.waitingMelts.find? (fun m => decide ((s.melt m).slotsHeld < (s.melt m).maxSlots)) = some m →
    s.slotFor m (s.melt m).nextWindow = some (c, k) → Gives .windowOpen s (s.openWindow m c k)) ∧
  (∀ (s : State) (m w : Nat), s.spillChoice = some (m, w) →
    Gives .windowSpill s (s.modWindow m w (fun v => match v.place with | .closed c k => { v with place := .spilling c k } | _ => v))) ∧
  (∀ (s : State) (m w c k : Nat) (v : Window), tfind (s.melt m).windows w = some v → v.place = .spilling c k →
    s.allReady (s.spillAccesses m w) = true →
    Gives (.spillWriteComplete m w) s (s.spillDone m w c k v (s.spillAccesses m w))) ∧
  (∀ (s : State) (m w : Nat) (v : Window), tfind (s.melt m).windows w = some v → v.open = true → v.left = 0 →
    Gives (.windowDeadline m w) s ((s.discardStaging m w).closeWindow m w true)) ∧
  (∀ (s : State) (m w c k a : Nat) (v : Window), (s.melt m).state = .final → (s.melt m).faultWindow = none →
    (s.melt m).nextHand = some (w, v) → v.place = .closed c k → s.handTo (s.melt m).part c = some a →
    Gives (.windowHandOff m) s ((s.modWindow m w (fun y => { y with place := .handed a (some (c, k)) c })).modAnvil a (fun y =>
      y.takesEntry { melt := m, window := w, step := (s.melt m).step, slot := some (c, k) }))) ∧
  (∀ (s : State) (m w c a : Nat) (v : Window), (s.melt m).state = .final → (s.melt m).faultWindow = none →
    (s.melt m).nextHand = some (w, v) → v.place = .spilled c → s.handTo (s.melt m).part c = some a →
    Gives (.windowHandOff m) s ((s.modWindow m w (fun y => { y with place := .handed a none c })).modAnvil a (fun y =>
      y.takesEntry { melt := m, window := w, step := (s.melt m).step, slot := none }))) ∧
  (∀ (s : State) (a : Nat) (j : RunnerJob) (found : List Finding), s.runnerJob a = some j → j.imageRead = false →
    s.allReady (j.imageAccesses (s.melt j.melt)) = true →
    Gives (.imageReadReport a found) s
      (match (s.foundAll found).readFault (j.imageAccesses (s.melt j.melt)) with
       | some f => (s.foundAll found).runnerFault a f
       | none => (s.foundAll found).imageTaken a j (j.imageAccesses (s.melt j.melt)))) ∧
  (∀ (s : State) (a : Nat) (j : RunnerJob) (found : List Finding), s.runnerJob a = some j → j.imageRead = true →
    s.allReady ((s.melt j.melt).windowReads j.window ++ (s.melt j.melt).windowWrites j.window) = true →
    Gives (.windowWritten a found) s
      (match (s.foundAll found).readFault ((s.melt j.melt).windowReads j.window ++ (s.melt j.melt).windowWrites j.window) with
       | some f => (s.foundAll found).runnerFault a f
       | none => (s.foundAll found).windowApplied a j ((s.melt j.melt).windowReads j.window ++ (s.melt j.melt).windowWrites j.window))) ∧
  (∀ (s : State) (m : Nat), (s.melt m).stepDone = true →
    Gives (.stepEnd m) s (s.endStep m (s.melt m).outcome.1 (s.melt m).outcome.2 ((s.melt m).faultWindow.getD 0xFFFFFFFF)))

/-- Anvil events (R230–R232, R237, R238, R244). -/
def Obligations.AnvilEventsTakeEffect : Prop :=
  (∀ (s : State) (a n : Nat), (s.anvil a).wait = .mwait n → (s.anvil a).xfers.length ≤ n →
    Gives (.mwaitRelease a) s (s.modAnvil a (fun v => { v with wait := .none }))) ∧
  (∀ (s : State) (a h : Nat), (s.anvil a).wait = .heat h → heatReached s.heat.count h = true →
    Gives (.waithRelease a) s (s.modAnvil a (fun v => { v with wait := .none }))) ∧
  (∀ (s : State) (a d : Nat), (s.anvil a).wait = .waitw d → (s.anvil a).mode = .runner → (s.anvil a).enabled = true → s.coolantStop = false →
    Gives (.waitwRelease a) s (s.takeWindow a d)) ∧
  (∀ (s : State) (p b : Nat), s.barDue p b = true → Gives (.barRelease p b) s (s.barReleased p b)) ∧
  (∀ (s : State) (a f : Nat), (s.anvil a).wait = .flag f → s.flag (s.anvil a).holder f = true → s.testsFlag (s.anvil a).holder f a = true →
    (∀ b, b < a → s.testsFlag (s.anvil a).holder f b = false) →
    Gives (.waiteRelease a) s ((s.setFlag (s.anvil a).holder f false).modAnvil a (fun v => { v with wait := .none }))) ∧
  (∀ (s : State) (a : Nat), (s.anvil a).mode = .saving → (s.anvil a).xfers = [] → Gives (.contextSaveComplete a) s (s.contextSaved a)) ∧
  (∀ (s : State) (a : Nat), (s.anvil a).mode = .zeroing → (s.anvil a).halted = false → (s.anvil a).xfers = [] →
    Gives (.anvilZeroingComplete a) s (s.modAnvil a (fun y => { y with
      sram := [], regs := AnvilRegs.reset, imem := [], wait := .none, lastWindow := none, holder := 0, mode := .held }))) ∧
  (∀ (s : State) (a : Nat), (s.anvil a).mode = .restoring →
    (s.restoreReads a).all (fun q => s.readReady (s.anvil a).holder q.1 q.2) = true →
    Gives (.contextRestoreComplete a) s (s.contextRestored a)) ∧
  (∀ (s : State) (a : Nat), (s.anvil a).mode = .restoring →
    (s.restoreReads a).all (fun q => s.readReady (s.anvil a).holder q.1 q.2) = false →
    Gives (.contextRestoreComplete a) s ((s.restoreReads a).foldl (fun b q => b.fetchRead 2 (s.anvil a).holder q.1 q.2) s))

/-- The scalar ALU with two registers, or a register and an immediate, sign-extended to 64 bits (R217, R219, R220). A shift by 64 or more gives a free value (DESIGN CHOICE, log entry 20: no result is stated). -/
def Obligations.ScalarFormsTakeEffect : Prop :=
  (∀ (s : State) (o : OpA), s.issues o.anvil = true →
    Gives (.add o) s (s.retire o.anvil (fun r => r.ws o.d ((r.rs o.a) + (r.rs o.b))))) ∧
  (∀ (s : State) (o : OpA), s.issues o.anvil = true →
    Gives (.sub o) s (s.retire o.anvil (fun r => r.ws o.d ((r.rs o.a) - (r.rs o.b))))) ∧
  (∀ (s : State) (o : OpA), s.issues o.anvil = true →
    Gives (.mul o) s (s.retire o.anvil (fun r => r.ws o.d ((r.rs o.a) * (r.rs o.b))))) ∧
  (∀ (s : State) (o : OpA), s.issues o.anvil = true →
    Gives (.and o) s (s.retire o.anvil (fun r => r.ws o.d ((r.rs o.a) &&& (r.rs o.b))))) ∧
  (∀ (s : State) (o : OpA), s.issues o.anvil = true →
    Gives (.or o) s (s.retire o.anvil (fun r => r.ws o.d ((r.rs o.a) ||| (r.rs o.b))))) ∧
  (∀ (s : State) (o : OpA), s.issues o.anvil = true →
    Gives (.xor o) s (s.retire o.anvil (fun r => r.ws o.d ((r.rs o.a) ^^^ (r.rs o.b))))) ∧
  (∀ (s : State) (o : OpA), s.issues o.anvil = true →
    Gives (.slt o) s (s.retire o.anvil (fun r => r.ws o.d (if (r.rs o.a).slt (r.rs o.b) then 1 else 0)))) ∧
  (∀ (s : State) (o : OpA), s.issues o.anvil = true →
    Gives (.sltu o) s (s.retire o.anvil (fun r => r.ws o.d (if (r.rs o.a).ult (r.rs o.b) then 1 else 0)))) ∧
  (∀ (s : State) (o : OpA), s.issues o.anvil = true →
    Gives (.min o) s (s.retire o.anvil (fun r => r.ws o.d (if (r.rs o.a).slt (r.rs o.b) then (r.rs o.a) else (r.rs o.b))))) ∧
  (∀ (s : State) (o : OpA), s.issues o.anvil = true →
    Gives (.max o) s (s.retire o.anvil (fun r => r.ws o.d (if (r.rs o.a).slt (r.rs o.b) then (r.rs o.b) else (r.rs o.a))))) ∧
  (∀ (s : State) (o : OpA), s.issues o.anvil = true →
    Gives (.shl o) s (s.drawn.retire o.anvil (fun r => r.ws o.d (
      if (r.rs o.b).toNat < 64 then (r.rs o.a) <<< (r.rs o.b).toNat else BitVec.ofNat 64 (Config.freeValue s.free))))) ∧
  (∀ (s : State) (o : OpA), s.issues o.anvil = true →
    Gives (.shr o) s (s.drawn.retire o.anvil (fun r => r.ws o.d (
      if (r.rs o.b).toNat < 64 then (r.rs o.a) >>> (r.rs o.b).toNat else BitVec.ofNat 64 (Config.freeValue s.free))))) ∧
  (∀ (s : State) (o : OpA), s.issues o.anvil = true →
    Gives (.sar o) s (s.drawn.retire o.anvil (fun r => r.ws o.d (
      if (r.rs o.b).toNat < 64 then (r.rs o.a).sshiftRight (r.rs o.b).toNat else BitVec.ofNat 64 (Config.freeValue s.free))))) ∧
  (∀ (s : State) (o : OpI), s.issues o.anvil = true →
    Gives (.addImmediate o) s (s.retire o.anvil (fun r => r.ws o.d ((r.rs o.a) + (immS o.imm))))) ∧
  (∀ (s : State) (o : OpI), s.issues o.anvil = true →
    Gives (.subImmediate o) s (s.retire o.anvil (fun r => r.ws o.d ((r.rs o.a) - (immS o.imm))))) ∧
  (∀ (s : State) (o : OpI), s.issues o.anvil = true →
    Gives (.mulImmediate o) s (s.retire o.anvil (fun r => r.ws o.d ((r.rs o.a) * (immS o.imm))))) ∧
  (∀ (s : State) (o : OpI), s.issues o.anvil = true →
    Gives (.andImmediate o) s (s.retire o.anvil (fun r => r.ws o.d ((r.rs o.a) &&& (immS o.imm))))) ∧
  (∀ (s : State) (o : OpI), s.issues o.anvil = true →
    Gives (.orImmediate o) s (s.retire o.anvil (fun r => r.ws o.d ((r.rs o.a) ||| (immS o.imm))))) ∧
  (∀ (s : State) (o : OpI), s.issues o.anvil = true →
    Gives (.xorImmediate o) s (s.retire o.anvil (fun r => r.ws o.d ((r.rs o.a) ^^^ (immS o.imm))))) ∧
  (∀ (s : State) (o : OpI), s.issues o.anvil = true →
    Gives (.sltImmediate o) s (s.retire o.anvil (fun r => r.ws o.d (if (r.rs o.a).slt (immS o.imm) then 1 else 0)))) ∧
  (∀ (s : State) (o : OpI), s.issues o.anvil = true →
    Gives (.sltuImmediate o) s (s.retire o.anvil (fun r => r.ws o.d (if (r.rs o.a).ult (immS o.imm) then 1 else 0)))) ∧
  (∀ (s : State) (o : OpI), s.issues o.anvil = true →
    Gives (.minImmediate o) s (s.retire o.anvil (fun r => r.ws o.d (if (r.rs o.a).slt (immS o.imm) then (r.rs o.a) else (immS o.imm))))) ∧
  (∀ (s : State) (o : OpI), s.issues o.anvil = true →
    Gives (.maxImmediate o) s (s.retire o.anvil (fun r => r.ws o.d (if (r.rs o.a).slt (immS o.imm) then (immS o.imm) else (r.rs o.a))))) ∧
  (∀ (s : State) (o : OpI), s.issues o.anvil = true →
    Gives (.shlImmediate o) s (s.drawn.retire o.anvil (fun r => r.ws o.d (
      if (immS o.imm).toNat < 64 then (r.rs o.a) <<< (immS o.imm).toNat else BitVec.ofNat 64 (Config.freeValue s.free))))) ∧
  (∀ (s : State) (o : OpI), s.issues o.anvil = true →
    Gives (.shrImmediate o) s (s.drawn.retire o.anvil (fun r => r.ws o.d (
      if (immS o.imm).toNat < 64 then (r.rs o.a) >>> (immS o.imm).toNat else BitVec.ofNat 64 (Config.freeValue s.free))))) ∧
  (∀ (s : State) (o : OpI), s.issues o.anvil = true →
    Gives (.sarImmediate o) s (s.drawn.retire o.anvil (fun r => r.ws o.d (
      if (immS o.imm).toNat < 64 then (r.rs o.a).sshiftRight (immS o.imm).toNat else BitVec.ofNat 64 (Config.freeValue s.free)))))

/-- Instruction words (R219, R220). `anvilWord` is the encoder, `anvilInstr a` the decoder of anvil `a`. -/
def Obligations.AnvilWordsDecode : Prop :=
  (∀ (i : Instr) (w : Nat), Instr.wf i = true → anvilWord i = some w → w < 2 ^ 64 ∧ ∃ a, a < 64 ∧ anvilInstr a w = some i) ∧
  (∀ (a w : Nat) (i : Instr), anvilInstr a w = some i → ∃ v, anvilWord i = some v ∧ v < 2 ^ 64 ∧ anvilInstr a v = some i) ∧
  (∀ a : Nat, anvilInstr a 0 = some (.fault { anvil := a, d := 0, a := 0, imm := 0 })) ∧
  (∀ a w : Nat, anvilInstr a w = none ↔ bits w 52 6 ∉
    (match bits w 58 6 with
     | 0x00 => List.range 7
     | 0x01 => List.range 13
     | 0x02 => 0x10 :: List.range 13
     | 0x04 => List.range 8
     | 0x08 => List.range 7
     | 0x0C => List.range 3
     | 0x10 => List.range 0x15 ++ List.range' 0x20 16
     | 0x14 => List.range 5
     | 0x18 => List.range 2
     | 0x1C => List.range 3
     | 0x20 => [0]
     | 0x24 => List.range 6
     | _ => []))

/-- Branches, jumps and LUI (R217, R219–R221). -/
def Obligations.ControlFlowTakesEffect : Prop :=
  (∀ (s : State) (o : OpB), s.issues o.anvil = true →
    Gives (.beq o) s ((s.retire o.anvil id).modRegs o.anvil (fun _ =>
      let r := (s.anvil o.anvil).regs
      { r with pc := if (r.rs o.a) = (r.rs o.b) then pcAt r.pc o.imm else (r.pc + 1) % 8192 }))) ∧
  (∀ (s : State) (o : OpB), s.issues o.anvil = true →
    Gives (.bne o) s ((s.retire o.anvil id).modRegs o.anvil (fun _ =>
      let r := (s.anvil o.anvil).regs
      { r with pc := if (r.rs o.a) ≠ (r.rs o.b) then pcAt r.pc o.imm else (r.pc + 1) % 8192 }))) ∧
  (∀ (s : State) (o : OpB), s.issues o.anvil = true →
    Gives (.blt o) s ((s.retire o.anvil id).modRegs o.anvil (fun _ =>
      let r := (s.anvil o.anvil).regs
      { r with pc := if (r.rs o.a).slt (r.rs o.b) = true then pcAt r.pc o.imm else (r.pc + 1) % 8192 }))) ∧
  (∀ (s : State) (o : OpB), s.issues o.anvil = true →
    Gives (.bge o) s ((s.retire o.anvil id).modRegs o.anvil (fun _ =>
      let r := (s.anvil o.anvil).regs
      { r with pc := if (r.rs o.a).slt (r.rs o.b) = false then pcAt r.pc o.imm else (r.pc + 1) % 8192 }))) ∧
  (∀ (s : State) (o : OpB), s.issues o.anvil = true →
    Gives (.bltu o) s ((s.retire o.anvil id).modRegs o.anvil (fun _ =>
      let r := (s.anvil o.anvil).regs
      { r with pc := if (r.rs o.a).ult (r.rs o.b) = true then pcAt r.pc o.imm else (r.pc + 1) % 8192 }))) ∧
  (∀ (s : State) (o : OpB), s.issues o.anvil = true →
    Gives (.bgeu o) s ((s.retire o.anvil id).modRegs o.anvil (fun _ =>
      let r := (s.anvil o.anvil).regs
      { r with pc := if (r.rs o.a).ult (r.rs o.b) = false then pcAt r.pc o.imm else (r.pc + 1) % 8192 }))) ∧
  (∀ (s : State) (o : OpB), s.issues o.anvil = true →
    Gives (.jal o) s ((s.retire o.anvil id).modRegs o.anvil (fun _ =>
      let r := (s.anvil o.anvil).regs
      { r.ws 31 (BitVec.ofNat 64 ((r.pc + 1) % 8192)) with pc := pcAt r.pc o.imm }))) ∧
  (∀ (s : State) (o : OpB), s.issues o.anvil = true →
    Gives (.jr o) s ((s.retire o.anvil id).modRegs o.anvil (fun _ =>
      let r := (s.anvil o.anvil).regs
      { r with pc := (r.rs o.a).toNat % 8192 }))) ∧
  (∀ (s : State) (o : OpI), s.issues o.anvil = true →
    Gives (.lui o) s (s.retire o.anvil (fun r => r.ws o.d (o.imm ++ (r.rs o.a).truncate 32))))

/-- The system and synchronisation instructions (R217, R226, R231, R232, R243, R244, R483). -/
def Obligations.SystemInstructionsTakeEffect : Prop :=
  (∀ (s : State) (o : OpI), s.issues o.anvil = true →
    Gives (.fault o) s (s.anvilFault o.anvil (s.anvil o.anvil).regs.pc
      { code := fProgram, user := o.imm.toNat % 65536, word := o.word 0x00 0x00, addr := 0, status := 0 })) ∧
  (∀ (s : State) (o : OpI), s.issues o.anvil = true →
    Gives (.yield o) s ((s.retire o.anvil id).modAnvil o.anvil (fun v => { v with wait := .yield }))) ∧
  (∀ (s : State) (o : OpI), s.issues o.anvil = true →
    Gives (.phase o) s { s.retire o.anvil id with hearth := { (s.retire o.anvil id).hearth with
      staged := (s.retire o.anvil id).hearth.staged ++ [(1, .phaseDeclare (s.anvil o.anvil).holder (o.imm.toNat % 8))] } }) ∧
  (∀ (s : State) (o : OpI) (x : Word), s.issues o.anvil = true → s.special o.anvil (o.imm.toNat % 256) = some x →
    o.imm.toNat % 256 ≠ 2 → Gives (.srd o) s (s.retire o.anvil (fun r => r.ws o.d x))) ∧
  (∀ (s : State) (o : OpI), s.issues o.anvil = true → o.imm.toNat % 256 = 2 →
    Gives (.srd o) s ((s.drawn.modHeat (fun h => { h with cycle := s.cycleNow })).retire o.anvil (fun r => r.ws o.d (BitVec.ofNat 64 s.cycleNow)))) ∧
  (∀ (s : State) (o : OpI), s.issues o.anvil = true → s.special o.anvil (o.imm.toNat % 256) = none →
    Gives (.srd o) s (s.anvilFault o.anvil (s.anvil o.anvil).regs.pc (illegal (o.word 0x00 0x03)))) ∧
  (∀ (s : State) (o : OpI) (t : AnvilRegs), s.issues o.anvil = true →
    (s.anvil o.anvil).regs.writeSpecial (o.imm.toNat % 256) ((s.anvil o.anvil).regs.rs o.a) = some t →
    Gives (.swr o) s (s.retire o.anvil (fun _ => t))) ∧
  (∀ (s : State) (o : OpI), s.issues o.anvil = true →
    (s.anvil o.anvil).regs.writeSpecial (o.imm.toNat % 256) ((s.anvil o.anvil).regs.rs o.a) = none →
    Gives (.swr o) s (s.anvilFault o.anvil (s.anvil o.anvil).regs.pc (illegal (o.word 0x00 0x04)))) ∧
  (∀ (s : State) (o : OpI), s.issues o.anvil = true → o.imm.toNat ≤ s.liveMax o.anvil → o.imm.toNat % 4096 = 0 →
    ((s.anvil o.anvil).regs.rs o.a).toNat % 4096 = 0 → ((s.anvil o.anvil).regs.rs o.a).toNat + o.imm.toNat ≤ 2 ^ 21 →
    Gives (.live o) s (s.retire o.anvil (fun y => { y with liveBase := ((s.anvil o.anvil).regs.rs o.a).toNat, liveLen := o.imm.toNat }))) ∧
  (∀ (s : State) (o : OpI) (i : Instance), s.issues o.anvil = true → (s.anvil o.anvil).mode = .program →
    s.inst o.anvil (s.anvil o.anvil).holder = some i →
    Gives (.halt o) s (((s.retire o.anvil id).modAnvil o.anvil (fun y => { y with mode := .idle })).setInst o.anvil (s.anvil o.anvil).holder none)) ∧
  (∀ (s : State) (o : OpI), s.issues o.anvil = true →
    Gives (.waith o) s ((s.retire o.anvil id).modAnvil o.anvil (fun v => { v with
      wait := if ((s.anvil o.anvil).regs.rs o.a).toNat = 0 then .nextHeat else .heat (((s.anvil o.anvil).regs.rs o.a).toNat % 2 ^ 48) }))) ∧
  (∀ (s : State) (o : OpI), s.issues o.anvil = true → (s.anvil o.anvil).mode = .runner → 1 ≤ o.d → o.d ≤ 28 →
    Gives (.waitw o) s ((s.retire o.anvil id).takeWindow o.anvil o.d)) ∧
  (∀ (s : State) (o : OpI), s.issues o.anvil = true →
    Gives (.bar o) s (((s.retire o.anvil id).modAnvil o.anvil (fun y => { y with
      wait := .bar (o.imm.toNat % 16) ((s.anvil o.anvil).regs.rs o.a).toNat })).barArrives (16 * (s.anvil o.anvil).holder + o.imm.toNat % 16))) ∧
  (∀ (s : State) (o : OpI), s.issues o.anvil = true →
    Gives (.sete o) s ((s.retire o.anvil id).setFlag (s.anvil o.anvil).holder o.imm.toNat true)) ∧
  (∀ (s : State) (o : OpI), s.issues o.anvil = true → s.flag (s.anvil o.anvil).holder (o.imm.toNat % 64) = true →
    Gives (.waite o) s ((s.retire o.anvil id).setFlag (s.anvil o.anvil).holder (o.imm.toNat % 64) false)) ∧
  (∀ (s : State) (o : OpI), s.issues o.anvil = true → s.flag (s.anvil o.anvil).holder (o.imm.toNat % 64) = false →
    Gives (.waite o) s ((s.retire o.anvil id).modAnvil o.anvil (fun v => { v with wait := .flag (o.imm.toNat % 64) }))) ∧
  (∀ (s : State) (o : OpI), s.issues o.anvil = true →
    Gives (.sig o) s ((s.retire o.anvil id).fire (0x900 + 16 * o.anvil + o.imm.toNat % 16) (s.anvil o.anvil).holder)) ∧
  (∀ (s : State) (a word : Nat), reservedWord word = true → s.issues a = true →
    Gives (.reservedInstruction a word) s (s.anvilFault a (s.anvil a).regs.pc (illegal (word % 2 ^ 64))))

/-- Tile memory and tile SRAM (R216, R220, R228, R229). -/
def Obligations.TileMemoryTakesEffect : Prop :=
  (∀ (s : State) (o : OpM), s.issues o.anvil = true → (s.anvil o.anvil).xfers.length < 64 → (s.linear o true).inLimits true = true →
    sramOk (s.linear o true).sram ((s.linear o true).rows * (s.linear o true).len) = true →
    Gives (.tld o) s ((s.retire o.anvil id).modAnvil o.anvil (fun v => { v with xfers := v.xfers ++ [s.linear o true] }))) ∧
  (∀ (s : State) (o : OpM), s.issues o.anvil = true → (s.anvil o.anvil).xfers.length < 64 → (s.linear o false).inLimits true = true →
    sramOk (s.linear o false).sram ((s.linear o false).rows * (s.linear o false).len) = true →
    Gives (.tst o) s ((s.retire o.anvil id).modAnvil o.anvil (fun v => { v with xfers := v.xfers ++ [s.linear o false] }))) ∧
  (∀ (s : State) (o : OpM), s.issues o.anvil = true → (s.anvil o.anvil).xfers.length < 64 → (s.rowsOf o true).inLimits false = true →
    sramOk (s.rowsOf o true).sram ((s.rowsOf o true).rows * (s.rowsOf o true).len) = true →
    Gives (.tld2 o) s ((s.retire o.anvil id).modAnvil o.anvil (fun v => { v with xfers := v.xfers ++ [s.rowsOf o true] }))) ∧
  (∀ (s : State) (o : OpM), s.issues o.anvil = true → (s.anvil o.anvil).xfers.length < 64 → (s.rowsOf o false).inLimits false = true →
    sramOk (s.rowsOf o false).sram ((s.rowsOf o false).rows * (s.rowsOf o false).len) = true →
    Gives (.tst2 o) s ((s.retire o.anvil id).modAnvil o.anvil (fun v => { v with xfers := v.xfers ++ [s.rowsOf o false] }))) ∧
  (∀ (s : State) (o : OpM), s.issues o.anvil = true → ((s.anvil o.anvil).regs.address o.a o.imm) + 8 ≤ 2 ^ 21 →
    Gives (.lds o) s (s.retire o.anvil (fun r => r.ws o.d (BitVec.ofNat 64 (leVal (bread (s.anvil o.anvil).sram ((s.anvil o.anvil).regs.address o.a o.imm) 8)))))) ∧
  (∀ (s : State) (o : OpM), s.issues o.anvil = true → ((s.anvil o.anvil).regs.address o.a o.imm) + 8 ≤ 2 ^ 21 →
    Gives (.sts o) s ((s.retire o.anvil id).modAnvil o.anvil (fun y => { y with
      sram := bwrite y.sram ((s.anvil o.anvil).regs.address o.a o.imm) (leBytes 8 ((s.anvil o.anvil).regs.rs o.d).toNat) }))) ∧
  (∀ (s : State) (o : OpM), s.issues o.anvil = true → ((s.anvil o.anvil).regs.address o.a o.imm) + 256 ≤ 2 ^ 21 → ((s.anvil o.anvil).regs.address o.a o.imm) % 256 = 0 →
    Gives (.vld o) s (s.retireV o.anvil 1 (fun r => r.wv o.d (BitVec.ofNat 2048 (leVal (bread (s.anvil o.anvil).sram ((s.anvil o.anvil).regs.address o.a o.imm) 256)))))) ∧
  (∀ (s : State) (o : OpM), s.issues o.anvil = true → ((s.anvil o.anvil).regs.address o.a o.imm) + 256 ≤ 2 ^ 21 → ((s.anvil o.anvil).regs.address o.a o.imm) % 256 = 0 →
    Gives (.vst o) s ((s.retireV o.anvil 1 id).modAnvil o.anvil (fun y => { y with
      sram := bwrite y.sram ((s.anvil o.anvil).regs.address o.a o.imm) (leBytes 256 ((s.anvil o.anvil).regs.rv o.d).toNat) }))) ∧
  (∀ (s : State) (o : OpM), s.issues o.anvil = true → ((s.anvil o.anvil).regs.address o.a o.imm) + 4 ≤ 2 ^ 21 →
    Gives (.vbc o) s (s.retireV o.anvil 1 (fun r => r.wv o.d (mkLanes (fun _ => BitVec.ofNat 32 (leVal (bread (s.anvil o.anvil).sram ((s.anvil o.anvil).regs.address o.a o.imm) 4))))))) ∧
  (∀ (s : State) (o : OpM), s.issues o.anvil = true →
    Gives (.mwait o) s ((s.retire o.anvil id).modAnvil o.anvil (fun v =>
      if v.xfers.length ≤ o.imm.toNat % 128 then v else { v with wait := .mwait (o.imm.toNat % 128) }))) ∧
  (∀ (s : State) (a i : Nat) (x : TileXfer) (found : List Finding), (s.anvil a).xfers[i]? = some x →
    s.allReady (x.accesses (s.anvil a).holder) = true →
    Gives (.tileTransferComplete a i found) s
      (((s.foundAll found).modAnvil a (fun y => { y with xfers := y.xfers.eraseIdx i })).tileMoves a (s.anvil a).holder x))

/-- Conversions, transforms and MMA (R219, R222–R227). -/
def Obligations.ConversionsTakeEffect : Prop :=
  (∀ (s : State) (o : OpA), s.issues o.anvil = true → s.convertOk o = true → flatFmt (fwFmt o.modifier) = true →
    Gives (.vcvtTo o) s
      (let c := (lanes ((s.anvil o.anvil).regs.rv o.a)).zipIdx.map (fun p => encodeElem o.modifier ((s.anvil o.anvil).regs.scale o.c) (s.convertBits o 0 p.2) p.1)
       let f := fwFmt o.modifier
       s.retireV o.anvil 1 (fun y => ((y.wvMasked o.msk o.d (BitVec.ofNat 2048 (leVal (packCodes (elemBits f) (8 * elemBits f) (c.map (·.1)))))).events
         (sumEvents (c.map (·.2)))).streamed o.modifier 1))) ∧
  (∀ (s : State) (o : OpA), s.issues o.anvil = true → s.convertOk o = false ∨ flatFmt (fwFmt o.modifier) = false →
    Gives (.vcvtTo o) s (s.anvilFault o.anvil (s.anvil o.anvil).regs.pc (illegal (o.word 0x14 0x00)))) ∧
  (∀ (s : State) (o : OpA), s.issues o.anvil = true → fmtKnown (fwFmt o.modifier) = true → s.msOk o = true →
    (isInt (fwFmt o.modifier) = true → scaleOk ((s.anvil o.anvil).regs.scale o.c) = true) → flatFmt (fwFmt o.modifier) = true →
    Gives (.vcvtFrom o) s
      (let f := fwFmt o.modifier
       let c := (List.range 64).map (fun i => decodeElem f ((s.anvil o.anvil).regs.scale o.c) (bits ((s.anvil o.anvil).regs.rv o.a).toNat (elemBits f * i) (elemBits f)))
       s.retireV o.anvil 1 (fun y => (y.wvMasked o.msk o.d (ofLanes (c.map (·.1)))).events (sumEvents (c.map (·.2)))))) ∧
  (∀ (s : State) (o : OpA), s.issues o.anvil = true → fmtKnown (fwFmt o.modifier) = false ∨ s.msOk o = false ∨
      (isInt (fwFmt o.modifier) = true ∧ scaleOk ((s.anvil o.anvil).regs.scale o.c) = false) ∨ flatFmt (fwFmt o.modifier) = false →
    Gives (.vcvtFrom o) s (s.anvilFault o.anvil (s.anvil o.anvil).regs.pc (illegal (o.word 0x14 0x01)))) ∧
  (∀ (s : State) (o : OpA), s.issues o.anvil = true → s.convertOk o = true → flatFmt (fwFmt o.modifier) = false →
    o.a % 32 + packRegs (fwFmt o.modifier) ≤ 32 → ((s.anvil o.anvil).regs.rs o.b).toNat < packBlocks (fwFmt o.modifier) →
    packInSram (fwFmt o.modifier) ((s.anvil o.anvil).regs.rs o.d).toNat ((s.anvil o.anvil).regs.rs o.b).toNat = true →
    Gives (.pack o) s
      (let f := fwFmt o.modifier
       let at_ := packPlaces f ((s.anvil o.anvil).regs.rs o.d).toNat ((s.anvil o.anvil).regs.rs o.b).toNat
       let q := packBlock o.modifier (fun i => s.convertBits o (i / 64) (i % 64)) ((List.range (packRegs f)).flatMap (fun i => lanes ((s.anvil o.anvil).regs.rv (o.a + i))))
       (s.retireV o.anvil (packCycles f) (fun y => (y.events q.2.2).streamed o.modifier (packRegs f))).modAnvil o.anvil (fun y => { y with
         sram := bwrite (bwrite y.sram at_.1 q.1) at_.2 q.2.1 }))) ∧
  (∀ (s : State) (o : OpA), s.issues o.anvil = true → s.convertOk o = false ∨ flatFmt (fwFmt o.modifier) = true ∨
      32 < o.a % 32 + packRegs (fwFmt o.modifier) ∨ packBlocks (fwFmt o.modifier) ≤ ((s.anvil o.anvil).regs.rs o.b).toNat →
    Gives (.pack o) s (s.anvilFault o.anvil (s.anvil o.anvil).regs.pc (illegal (o.word 0x14 0x02)))) ∧
  (∀ (s : State) (o : OpA), s.issues o.anvil = true → fmtKnown (fwFmt o.modifier) = true → s.msOk o = true → flatFmt (fwFmt o.modifier) = false →
    o.d % 32 + packRegs (fwFmt o.modifier) ≤ 32 → ((s.anvil o.anvil).regs.rs o.b).toNat < packBlocks (fwFmt o.modifier) →
    packInSram (fwFmt o.modifier) ((s.anvil o.anvil).regs.rs o.a).toNat ((s.anvil o.anvil).regs.rs o.b).toNat = true →
    Gives (.unpack o) s
      (let f := fwFmt o.modifier
       let at_ := packPlaces f ((s.anvil o.anvil).regs.rs o.a).toNat ((s.anvil o.anvil).regs.rs o.b).toNat
       let q := unpackBlock f (bread (s.anvil o.anvil).sram at_.1 (packHead f)) (bread (s.anvil o.anvil).sram at_.2 (packBytes f))
       s.retireV o.anvil (packCycles f) (fun y =>
         ((List.range (packRegs f)).foldl (fun z i => z.wvMasked o.msk (o.d + i) (ofLanes ((q.1.drop (64 * i)).take 64))) y).events q.2))) ∧
  (∀ (s : State) (o : OpA), s.issues o.anvil = true → fmtKnown (fwFmt o.modifier) = false ∨ s.msOk o = false ∨
      flatFmt (fwFmt o.modifier) = true ∨ 32 < o.d % 32 + packRegs (fwFmt o.modifier) ∨
      packBlocks (fwFmt o.modifier) ≤ ((s.anvil o.anvil).regs.rs o.b).toNat →
    Gives (.unpack o) s (s.anvilFault o.anvil (s.anvil o.anvil).regs.pc (illegal (o.word 0x14 0x03)))) ∧
  (∀ (s : State) (o : OpA), s.issues o.anvil = true → o.d % 8 = 0 ∨ o.d % 8 = 7 →
    Gives (.sgnv o) s (s.anvilFault o.anvil (s.anvil o.anvil).regs.pc (illegal (o.word 0x14 0x04)))) ∧
  (∀ (s : State) (o : OpA), s.issues o.anvil = true → 1 ≤ o.d % 8 → o.d % 8 ≤ 6 →
    Gives (.sgnv o) s
      (let x := signVector ((s.anvil o.anvil).regs.rs o.a).toNat
       s.retireV o.anvil 1 (fun r => (r.wm (o.d % 8) (BitVec.ofNat 64 x)).wm (o.d % 8 + 1) (BitVec.ofNat 64 (x / 2 ^ 64))))) ∧
  (∀ (s : State) (o : OpA), s.issues o.anvil = true → o.a % 32 ≠ 31 → o.d % 32 ≠ 31 → o.modifier % 8 ≠ 7 →
    Gives (.fwhs o) s
      (let q := fwStage (4096 * s.free) (o.modifier % 8) ((s.anvil o.anvil).regs.pair o.a)
       s.drawn.retireV o.anvil 1 (fun r => ((r.wvMasked o.msk o.d (ofLanes (q.1.take 64))).wvMasked o.msk (o.d + 1) (ofLanes (q.1.drop 64))).saturated q.2))) ∧
  (∀ (s : State) (o : OpA), s.issues o.anvil = true → o.a % 32 ≠ 31 → o.d % 32 ≠ 31 → o.c % 8 ≠ 7 →
    Gives (.fwhf o) s
      (let q := fwhf (4096 * s.free) ((s.anvil o.anvil).regs.signPair o.c) ((s.anvil o.anvil).regs.pair o.a)
       s.drawn.retireV o.anvil 8 (fun r => ((r.wvMasked o.msk o.d (ofLanes (q.1.take 64))).wvMasked o.msk (o.d + 1) (ofLanes (q.1.drop 64))).saturated q.2))) ∧
  (∀ (s : State) (o : OpA), s.issues o.anvil = true → o.a % 32 ≠ 31 → o.d % 32 ≠ 31 → o.c % 8 ≠ 7 →
    Gives (.fwhd o) s
      (let q := fwhd (4096 * s.free) ((s.anvil o.anvil).regs.signPair o.c) ((s.anvil o.anvil).regs.pair o.a)
       s.drawn.retireV o.anvil 8 (fun r => ((r.wvMasked o.msk o.d (ofLanes (q.1.take 64))).wvMasked o.msk (o.d + 1) (ofLanes (q.1.drop 64))).saturated q.2))) ∧
  (∀ (s : State) (o : OpA), s.issues o.anvil = true → o.a % 32 = 31 ∨ o.d % 32 = 31 ∨ o.modifier % 8 = 7 →
    Gives (.fwhs o) s (s.anvilFault o.anvil (s.anvil o.anvil).regs.pc (illegal (o.word 0x1C 0x00)))) ∧
  (∀ (s : State) (o : OpA), s.issues o.anvil = true → o.a % 32 = 31 ∨ o.d % 32 = 31 ∨ o.c % 8 = 7 →
    Gives (.fwhf o) s (s.anvilFault o.anvil (s.anvil o.anvil).regs.pc (illegal (o.word 0x1C 0x01))) ∧
    Gives (.fwhd o) s (s.anvilFault o.anvil (s.anvil o.anvil).regs.pc (illegal (o.word 0x1C 0x02)))) ∧
  (∀ (s : State) (o : OpA), s.issues o.anvil = true → s.mmaFault o = none → Gives (.mma o) s (s.mmaRuns o)) ∧
  (∀ (s : State) (o : OpA) (f : AFault), s.issues o.anvil = true → s.mmaFault o = some f →
    Gives (.mma o) s (s.anvilFault o.anvil (s.anvil o.anvil).regs.pc f)) ∧
  (∀ (s : State) (o : OpA), s.issues o.anvil = true →
    Gives (.azero o) s (s.retire o.anvil (fun r => { r with acc := r.acc.filter (fun p => p.1 / 1024 != o.d % 4) })))

/-- FP32 vector arithmetic, selection and reduction (R217, R219, R220, R222): lane by lane, and nothing else. -/
def Obligations.FloatVectorsActLaneByLane : Prop :=
  (∀ p ∈ ([(.vadd, fAdd),
      (.vsub, fSub),
      (.vmul, fMul),
      (.vmin, fMin),
      (.vmax, fMax)] : List ((OpA → Instr) × (Nat → Half → Half → Half × Nat))), ∀ (s : State) (o : OpA), s.issues o.anvil = true → Completes (p.1 o) s (fun t => LaneWise s t o (fun k r i => p.2 k (lane (r.rv o.a) i) (lane (r.rv o.b) i)))) ∧
  (∀ (s : State) (o : OpA), s.issues o.anvil = true → Completes (.vfma o) s (fun t => LaneWise s t o (fun k r i => fFma k (lane (r.rv o.a) i) (lane (r.rv o.b) i) (lane (r.rv o.c) i)))) ∧
  (∀ p ∈ ([(.vabs, fun _ x => (x &&& 0x7FFFFFFF, 0)),
      (.vneg, fun _ x => (x ^^^ 0x80000000, 0)),
      (.vsign, fun k x => (fSign k x, 0)),
      (.vsqrt, fSqrt),
      (.vrcp, fRcp),
      (.vrsqrt, fRsqrt),
      (.vexp2, fExp2)] : List ((OpA → Instr) × (Nat → Half → Half × Nat))), ∀ (s : State) (o : OpA), s.issues o.anvil = true → Completes (p.1 o) s (fun t => LaneWise s t o (fun k r i => p.2 k (lane (r.rv o.a) i)))) ∧
  (∀ (s : State) (o : OpA), s.issues o.anvil = true → Completes (.vsel o) s (fun t => LaneWise s t o (fun _ r i => (if (r.rm o.c).getLsbD i then lane (r.rv o.a) i else lane (r.rv o.b) i, 0)))) ∧
  (∀ (s : State) (o : OpA), s.issues o.anvil = true → Completes (.vsplat o) s (fun t => LaneWise s t o (fun _ r _ => ((r.rs o.a).truncate 32, 0)))) ∧
  (∀ (s : State) (o : OpA), s.issues o.anvil = true → Completes (.vacr o) s (fun t => LaneWise s t o (fun _ r i => (r.racc o.a (pickRow s.free 16 (r.rs o.b)) i, 0)))) ∧
  (∀ (s : State) (o : OpA), s.issues o.anvil = true → Completes (.vredsum o) s (fun t => LaneWise s t o (fun k r i => if i = 0 then fRedSum k (lanes (r.rv o.a)) else (lane (r.rv o.d) i, 0)))) ∧
  (∀ (s : State) (o : OpA), s.issues o.anvil = true → Completes (.vredmax o) s (fun t => LaneWise s t o (fun k r i => if i = 0 then fRedMax k (lanes (r.rv o.a)) else (lane (r.rv o.d) i, 0))))

/-- Integer vector arithmetic and reduction (R217, R219, R220): lane by lane, and nothing else. -/
def Obligations.IntegerVectorsActLaneByLane : Prop :=
  (∀ p ∈ ([(.vaddInt, fun _ x y => (x + y, 0)),
      (.vsubInt, fun _ x y => (x - y, 0)),
      (.vmulInt, fun _ x y => (x * y, 0)),
      (.vminInt, fun _ x y => (if x.slt y then x else y, 0)),
      (.vmaxInt, fun _ x y => (if x.slt y then y else x, 0))] : List ((OpA → Instr) × (Nat → Half → Half → Half × Nat))), ∀ (s : State) (o : OpA), s.issues o.anvil = true → Completes (p.1 o) s (fun t => LaneWise s t o (fun k r i => p.2 k (lane (r.rv o.a) i) (lane (r.rv o.b) i)))) ∧
  (∀ (s : State) (o : OpA), s.issues o.anvil = true → Completes (.vfmaInt o) s (fun t => LaneWise s t o (fun _ r i => (lane (r.rv o.a) i * lane (r.rv o.b) i + lane (r.rv o.c) i, 0)))) ∧
  (∀ p ∈ ([(.vabsInt, fun k x => (iAbs k x, 0)),
      (.vnegInt, fun _ x => (-x, 0)),
      (.vsignInt, fun _ x => (if x = 0 then 0 else if x.msb then -1 else 1, 0)),
      (.vsqrtInt, fun k x => (iSqrt k x, 0)),
      (.vrcpInt, fun k x => (iRcp k x, 0)),
      (.vrsqrtInt, fun k x => (iRsqrt k x, 0)),
      (.vexp2Int, fun k x => (iExp2 k x, 0))] : List ((OpA → Instr) × (Nat → Half → Half × Nat))), ∀ (s : State) (o : OpA), s.issues o.anvil = true → Completes (p.1 o) s (fun t => LaneWise s t o (fun k r i => p.2 k (lane (r.rv o.a) i)))) ∧
  (∀ (s : State) (o : OpA), s.issues o.anvil = true → Completes (.vredsumInt o) s (fun t => LaneWise s t o (fun _ r i => if i = 0 then ((lanes (r.rv o.a)).foldl (· + ·) 0, 0) else (lane (r.rv o.d) i, 0)))) ∧
  (∀ (s : State) (o : OpA), s.issues o.anvil = true → Completes (.vredmaxInt o) s (fun t => LaneWise s t o (fun _ r i => if i = 0 then ((lanes (r.rv o.a)).foldl iMax 0x80000000, 0) else (lane (r.rv o.d) i, 0))))

/-- Vector compares and moves (R217, R219, R220). -/
def Obligations.VectorComparesAndMovesTakeEffect : Prop :=
  (∀ (s : State) (o : OpA) (j : Nat), s.issues o.anvil = true → j < 64 →
    Completes (.vcmplt o) s (fun t => OnlyAnvil o.anvil s t ∧ (t.anvil o.anvil).regs.pc = ((s.anvil o.anvil).regs.pc + 1) % 8192 ∧
      ((t.anvil o.anvil).regs.rm o.d).getLsbD j = if o.d % 8 = 0 then true else if ((s.anvil o.anvil).regs.rm o.msk).getLsbD j then
        fpLt (f32 (lane ((s.anvil o.anvil).regs.rv o.a) j)) (f32 (lane ((s.anvil o.anvil).regs.rv o.b) j)) else ((s.anvil o.anvil).regs.rm o.d).getLsbD j)) ∧
  (∀ (s : State) (o : OpA) (j : Nat), s.issues o.anvil = true → j < 64 →
    Completes (.vcmpltInt o) s (fun t => OnlyAnvil o.anvil s t ∧ (t.anvil o.anvil).regs.pc = ((s.anvil o.anvil).regs.pc + 1) % 8192 ∧
      ((t.anvil o.anvil).regs.rm o.d).getLsbD j = if o.d % 8 = 0 then true else if ((s.anvil o.anvil).regs.rm o.msk).getLsbD j then
        (lane ((s.anvil o.anvil).regs.rv o.a) j).slt (lane ((s.anvil o.anvil).regs.rv o.b) j) else ((s.anvil o.anvil).regs.rm o.d).getLsbD j)) ∧
  (∀ (s : State) (o : OpA), s.issues o.anvil = true → ((s.anvil o.anvil).regs.rs o.b).toNat < 64 →
    Gives (.vlane o) s (s.drawn.retireV o.anvil 1 (fun r => r.ws o.d ((lane (r.rv o.a) (r.rs o.b).toNat).zeroExtend 64)))) ∧
  (∀ (s : State) (o : OpA) (i : Nat), s.issues o.anvil = true → ((s.anvil o.anvil).regs.rs o.b).toNat < 16 → i < 64 →
    Completes (.vacw o) s (fun t => OnlyAnvil o.anvil s t ∧ (t.anvil o.anvil).regs.racc o.d ((s.anvil o.anvil).regs.rs o.b).toNat i =
      if ((s.anvil o.anvil).regs.rm o.msk).getLsbD i then lane ((s.anvil o.anvil).regs.rv o.a) i else (s.anvil o.anvil).regs.racc o.d ((s.anvil o.anvil).regs.rs o.b).toNat i))

/-- Descriptors of a tongs context start (R256, R257, R260, R261, R264, R270, R271). -/
def Obligations.DescriptorsStart : Prop :=
  (∀ p ∈ ([(.copy, 1), (.tile, 2), (.gather, 3), (.scatter, 4), (.fill, 5), (.cast, 6), (.seal, 7), (.wait, 10), (.signal, 11)] : List ((Nat → Instr) × Nat)), ∀ (s : State) (c : Nat), s.mayStart c = true → 0 < (s.ctx c).waitingSlots → s.allReady (s.startAccesses c) = true →
    (((s.refreshed c).fetch c).unread = false → dType ((s.refreshed c).fetch c).words = p.2) →
    (((s.refreshed c).ctx c).hasRoom = true → Gives (p.1 c) s ((s.refreshed c).startNow c ((s.refreshed c).fetch c))) ∧
    (((s.refreshed c).ctx c).hasRoom = false → (s.ctx c).held = false →
      Gives (p.1 c) s (((s.refreshed c).modCtx c (fun y => { y with held := true })).noteTongs c 22 1)) ∧
    (((s.refreshed c).ctx c).hasRoom = false → (s.ctx c).held = true → Gives (p.1 c) s s)) ∧
  (∀ (s : State) (c : Nat), s.pushGoes c = false → (s.ctx c).pushes = [] → s.mayStart c = true → 0 < (s.ctx c).waitingSlots → s.allReady (s.startAccesses c) = true →
    (((s.refreshed c).fetch c).unread = false → dType ((s.refreshed c).fetch c).words = 8) →
    ((s.refreshed c).ctx c).hasRoom = true →
    Gives (.push c) s ((s.refreshed c).startNow c ((s.refreshed c).fetch c))) ∧
  (∀ (s : State) (c : Nat) (d : Desc) (q : List Desc), s.pushGoes c = false → (s.ctx c).pushes = d :: q → s.mayStart c = true → s.allReady (s.startAccesses c) = true →
    ((s.refreshed c).ctx c).hasRoom = true →
    Gives (.push c) s ((s.refreshed c).startNow c d)) ∧
  (∀ (s : State) (c : Nat), s.pushGoes c = true → Gives (.push c) s (s.pump c)) ∧
  (∀ (s : State) (c : Nat), (s.ctx c).started.any Desc.entering = false → s.mayStart c = true → 0 < (s.ctx c).waitingSlots → s.allReady (s.startAccesses c) = true →
    (((s.refreshed c).fetch c).unread = false → dType ((s.refreshed c).fetch c).words = 9) →
    ((s.refreshed c).ctx c).hasRoom = true →
    Gives (.loop c) s ((s.refreshed c).startNow c ((s.refreshed c).fetch c))) ∧
  (∀ (s : State) (c : Nat), (s.ctx c).started.any Desc.entering = true → Gives (.loop c) s (s.pump c)) ∧
  (∀ (s : State) (c : Nat), s.mayStart c = true → 0 < (s.ctx c).waitingSlots → s.allReady (s.startAccesses c) = true →
    (((s.refreshed c).fetch c).unread = false → (dType ((s.refreshed c).fetch c).words = 0 ∨ 11 < dType ((s.refreshed c).fetch c).words)) →
    ((s.refreshed c).ctx c).hasRoom = true →
    Gives (.reservedDescriptorType c) s ((s.refreshed c).startNow c ((s.refreshed c).fetch c)))

/-- Tongs events and TREQ (R228, R265, R266, R269, R271, R275, R277, R278, R286). -/
def Obligations.TongsEventsTakeEffect : Prop :=
  (∀ (s : State) (c : Nat) (d : Desc), (s.ctx c).started.find? Desc.waiting = some d → s.waitMet c d.eff = true → (s.ctx c).state ≠ .faulted →
    Gives (.waitMet c) s (s.waitEnds c d)) ∧
  (∀ (s : State) (c tva : Nat) (w : Walk), s.tongs.walks.find? (fun w => w.ctx == c && w.tva / 65536 == tva / 65536) = some w →
    Gives (.translationWalkComplete c tva) s (s.walkDone w)) ∧
  (∀ (s : State) (c idx n : Nat) (d : Desc) (k : Stroke) (found : List Finding),
    (s.ctx c).started.find? (fun d => d.idx == idx && d.push.isNone) = some d → d.inFlight.find? (fun k => k.index == n) = some k →
    dType d.eff ≠ tPush → d.strokeHeld n = false →
    s.allReady (k.accesses (s.ctx c).part) = true →
    Gives (.strokeCommit c idx n found) s ((s.foundAll found).strokeCommits c d k)) ∧
  (∀ (s : State) (port c : Nat) (t : Train) (d : Desc) (k : Stroke), t.typ = 0x7 → le t.head 0 1 = 0x82 → t ∉ s.routing.loop →
    t.dst = s.endpoint 34 → s.pushOf t.tag = some (c, d, k) →
    Gives (.wrCmp port t) s ((s.takeTrain port t).pushAnswered t)) ∧
  (∀ (s : State) (port : Nat) (t : Train), t.typ = 0x7 → le t.head 0 1 = 0x82 → t ∉ s.routing.loop → t.dst ≠ s.endpoint 34 →
    port = 22 ∨ port = 23 → (s.egress port).twin = true → Gives (.wrCmp port t) s ((s.takeTrain port t).mirrorAnswered t.tag)) ∧
  (∀ (s : State) (c idx : Nat) (d : Desc),
    (s.ctx c).started.find? (fun d => d.idx == idx && d.inFlight.any (fun k => k.age.any (fun a => decide (64 ≤ a)))) = some d →
    dType d.eff = tPush →
    Gives (.pushTimeout c idx) s ((s.modDesc c d.serial (fun y => { y with
      inFlight := y.inFlight.filter (fun k => !k.age.any (fun a => decide (64 ≤ a)))
      status := y.status.orElse (fun _ => some stTimeout) })).pump c)) ∧
  (∀ (s : State) (c : Nat), (s.ctx c).state ≠ .free → (s.ctx c).resetting = true → (s.part (s.ctx c).part).state = .active →
    (∀ d ∈ (s.ctx c).started, d.inFlight = []) →
    Gives (.contextResetComplete c) s (s.endReset c).resolve) ∧
  (∀ (s : State) (asid : Nat), (asid ∈ s.tongs.cleared → Gives (.invalidationFenceComplete asid) s s.resolve) ∧
    (asid ∉ s.tongs.cleared → Gives (.invalidationFenceComplete asid) s s)) ∧
  (∀ (s : State) (o : OpA), s.issues o.anvil = true → s.holdsCtx (s.anvil o.anvil).holder (s.treqCtx o) = true →
    ((s.anvil o.anvil).regs.rs o.a).toNat + 64 ≤ 2 ^ 21 → (s.ctx (s.treqCtx o)).state ≠ .free → (s.ctx (s.treqCtx o)).resetting = false →
    s.allReady [s.treqAccess o] = true →
    ((s.ctx (s.treqCtx o)).subTail + 1 + 2 ^ 32 - (s.ctx (s.treqCtx o)).subHead) % 2 ^ 32 ≤ (s.ctx (s.treqCtx o)).entries →
    Gives (.treq o) s (s.treqPosts o)) ∧
  (∀ (s : State) (o : OpA), s.issues o.anvil = true → s.holdsCtx (s.anvil o.anvil).holder (s.treqCtx o) = true →
    ((s.anvil o.anvil).regs.rs o.a).toNat + 64 ≤ 2 ^ 21 → (s.ctx (s.treqCtx o)).state = .free ∨ ((s.ctx (s.treqCtx o)).resetting = true ∧ s.allReady [s.treqAccess o] = true) →
    Gives (.treq o) s (s.treqAnswers o stInvalid)) ∧
  (∀ (s : State) (o : OpA), s.issues o.anvil = true → s.holdsCtx (s.anvil o.anvil).holder (s.treqCtx o) = true →
    ((s.anvil o.anvil).regs.rs o.a).toNat + 64 ≤ 2 ^ 21 → (s.ctx (s.treqCtx o)).state ≠ .free → (s.ctx (s.treqCtx o)).resetting = false →
    s.allReady [s.treqAccess o] = true →
    (s.ctx (s.treqCtx o)).entries < ((s.ctx (s.treqCtx o)).subTail + 1 + 2 ^ 32 - (s.ctx (s.treqCtx o)).subHead) % 2 ^ 32 →
    Gives (.treq o) s (s.treqAnswers o stBusy))

/-- Coherence messages and timers (R289, R291, R294, R296, R302, R303, R306). -/
def Obligations.CoherenceMessagesTakeEffect : Prop :=
  (∀ p ∈ ([(.rdShared, .rdShared), (.rdOwn, .rdOwn), (.upgrade, .upgrade), (.rdCur, .rdCur), (.wrBack, .wrBack), (.wrLine, .wrLine), (.wrPartial, .wrPartial), (.wrPlace, .wrPlace)] : List ((Nat → Train → Instr) × CohReq)), ∀ (s : State) (port d : Nat) (t : Train), t.typ = 0x8 → t.cls = 1 → le t.head 0 1 = p.2.cop → s.inChip t.dst = true → s.admits port t.part = true →
    s.cohStatus t p.2 = (stOk, d) → (p.2.writes = true → s.writeWaits t.part d 64 = false) → s.rangeFree t.part d 64 = true →
    Gives (p.1 port t) s ((s.takeTrain port t).cohArrive {
      req := p.2, src := t.src, member := (s.memberIndex t.part t.src).getD 0xFFFE, part := t.part, tag := t.tag
      psa := le t.head 8 6 / 64 * 64, line := d / 64, data := t.data.take 64, poison := bit (le t.head 1 1) 0
      mask := le t.head 18 8, peer := le t.head 16 2, port := port, waiter := 0 })) ∧
  (∀ p ∈ ([(.rdShared, .rdShared), (.rdOwn, .rdOwn), (.upgrade, .upgrade), (.rdCur, .rdCur), (.wrBack, .wrBack), (.wrLine, .wrLine), (.wrPartial, .wrPartial), (.wrPlace, .wrPlace)] : List ((Nat → Train → Instr) × CohReq)), ∀ (s : State) (port d : Nat) (t : Train), t.typ = 0x8 → t.cls = 1 → le t.head 0 1 = p.2.cop → s.inChip t.dst = true → s.admits port t.part = true →
    s.cohStatus t p.2 = (stOk, d) →
    (p.2.writes = true → s.writeWaits t.part d 64 = true → Gives (p.1 port t) s (((s.takeTrain port t).hold (.coherent (s.cohMsgOf port t p.2 d))).hasten d 64)) ∧
    (p.2.writes = false → s.rangeFree t.part d 64 = false → Gives (p.1 port t) s s)) ∧
  (∀ p ∈ ([(.rdShared, .rdShared), (.rdOwn, .rdOwn), (.upgrade, .upgrade), (.rdCur, .rdCur), (.wrBack, .wrBack), (.wrLine, .wrLine), (.wrPartial, .wrPartial), (.wrPlace, .wrPlace)] : List ((Nat → Train → Instr) × CohReq)), ∀ (s : State) (port st d : Nat) (t : Train), t.typ = 0x8 → t.cls = 1 → le t.head 0 1 = p.2.cop → s.inChip t.dst = true → s.admits port t.part = true →
    s.cohStatus t p.2 = (st, d) → st ≠ stOk → Gives (p.1 port t) s
      (if p.2 = .wrBack ∧ st = stNoExtent then ((s.takeTrain port t).cohRefuse t st).backLate t else (s.takeTrain port t).cohRefuse t st)) ∧
  (∀ (s : State) (port k m : Nat) (t : Train), s.isCohRsp t 0x23 = true → s.admits port t.part = true →
    s.answeredSnoop t false = some (k, m) → (t.hasData = true → s.ackWaits k = false) →
    Gives (.ack port t) s ((s.takeTrain port t).cohAck k m (le t.head 2 1)
      (if t.hasData then some (t.data.take 64, bit (le t.head 1 1) 0) else none))) ∧
  (∀ (s : State) (port k m : Nat) (t : Train), s.isCohRsp t 0x23 = true → s.admits port t.part = true →
    s.answeredSnoop t false = some (k, m) → t.hasData = true → s.ackWaits k = true →
    Gives (.ack port t) s ((s.hasten (((tfind s.coh.trackers k).map (·.msg.line)).getD 0 * 64) 64).ackReached k m)) ∧
  (∀ (s : State) (port : Nat) (t : Train), s.isCohRsp t 0x23 = true → s.admits port t.part = true →
    s.answeredSnoop t false = none → Gives (.ack port t) s ((s.takeTrain port t).snpLate t)) ∧
  (∀ (s : State) (port : Nat) (t : Train), s.isCohRsp t 0x25 = true → Gives (.placeTake port t) s (s.placeEnd port t true)) ∧
  (∀ (s : State) (port : Nat) (t : Train), s.isCohRsp t 0x26 = true → Gives (.placeDecline port t) s (s.placeEnd port t false)) ∧
  (∀ (s : State) (f : Nat) (m : CohMsg) (r : List CohMsg), s.wayWaiter f = none → s.readWaiter f = none → s.coh.lineWait = [] → tget [] s.coh.ingress f = m :: r →
    s.homeForge (m.line * 64) = f → s.trackerOf m.line = none → s.trackerFree f m = true →
    Gives (.homeRequestDequeue f) s ((s.modCoh (fun c => { c with ingress := tins c.ingress f r })).cohStart m)) ∧
  (∀ (s : State) (f : Nat) (m : CohMsg), s.wayWaiter f = none → s.readWaiter f = none → s.coh.lineWait.find? (fun m => s.homeForge (m.line * 64) == f && (s.trackerOf m.line).isNone && s.trackerFree f m) = some m →
    Gives (.homeRequestDequeue f) s ((s.modCoh (fun c => { c with lineWait := c.lineWait.erase m })).cohStart m)) ∧
  (∀ (s : State) (f k : Nat) (x : Tracker2), s.wayWaiter f = some (k, x) → Gives (.homeRequestDequeue f) s (s.cohWay k x)) ∧
  (∀ (s : State) (f k : Nat), s.wayWaiter f = none → s.readWaiter f = some k → Gives (.homeRequestDequeue f) s (s.settle k)) ∧
  (∀ (s : State) (k m : Nat), Gives (.snoopTimeout k m) s (s.cohExpire k m)) ∧
  (∀ (s : State) (line m : Nat), Gives (.gripTimeExpiry line m) s (s.gripEnds line m))

/-- Training of a port and of its lanes (R315, R317, R318, R320, R321, R333, R338, R345). -/
def Obligations.PortTrainingTakesEffect : Prop :=
  (∀ (s : State) (i : Nat), (s.port i).state = .down → s.linksIdle = false →
    Gives (.signalDetect i) s (s.modPort i (fun p => { p with state := .train, stateHeats := 0 }))) ∧
  (∀ (s : State) (i tx rx rate : Nat), (s.port i).state = .train → (s.port i).widestSet (tx &&& rx) ≠ 0 → rate ≤ (s.port i).maxRate →
    Gives (.trainingComplete i tx rx rate) s
      (let t := s.modPort i (fun x => { x with state := .ident, stateHeats := 0,
                                                txLanes := (s.port i).widestSet (tx &&& rx), rxLanes := (s.port i).widestSet (tx &&& rx), rate := rate })
       t.sendLink i (t.identUnit i))) ∧
  (∀ (s : State) (i : Nat), (s.port i).state = .train → 256 ≤ (s.port i).stateHeats → Gives (.trainingTimeout i) s (s.goDown i)) ∧
  (∀ (s : State) (i : Nat), (s.port i).state = .ident → Gives (.identResend i) s (s.sendLink i (s.identUnit i))) ∧
  (∀ (s : State) (i : Nat) (payload : List Byte), (s.port i).state = .ident → s.refusesLink i (identOf payload) = true →
    Gives (.ident i payload) s (s.goDown i)) ∧
  (∀ (s : State) (i : Nat) (payload : List Byte), (s.port i).state = .ident → s.refusesLink i (identOf payload) = false → (s.port i).wantsEnc (identOf payload) = true →
    Gives (.ident i payload) s (((s.modPort i (fun p => { p with partner := some (identOf payload) })).checkWiring i).enterKeying i)) ∧
  (∀ (s : State) (i : Nat) (payload : List Byte), (s.port i).state = .ident → s.refusesLink i (identOf payload) = false → (s.port i).wantsEnc (identOf payload) = false →
    Gives (.ident i payload) s (((s.modPort i (fun p => { p with partner := some (identOf payload) })).checkWiring i).enterActive i)) ∧
  (∀ (s : State) (i tx rx rate : Nat), (s.port i).state = .retrain → (s.port i).widestSet (tx &&& rx) ≠ 0 → rate ≤ (s.port i).maxRate →
    Gives (.retrainComplete i tx rx rate) s ((s.modPort i (fun x => { x with
      txLanes := (s.port i).widestSet (tx &&& rx), rxLanes := (s.port i).widestSet (tx &&& rx), rate := rate, ctlDue := true, resync := true
      replay := tmap x.replay (fun _ u => { u with replays := 0, due := false }) })).enterActive i)) ∧
  (∀ (s : State) (i : Nat), (s.port i).state = .retrain → 64 ≤ (s.port i).stateHeats → Gives (.retrainTimeout i) s (s.goDown i)) ∧
  (∀ (s : State) (i : Nat), (s.port i).state ≠ .disabled → (s.port i).state ≠ .down → Gives (.partnerIdle i) s (s.goDown i)) ∧
  (∀ (s : State) (i lane : Nat), Gives (.laneLockLoss i lane) s ((s.modLane i lane (fun l => { l with out := true, badWindows := 0 })).startRetrain i)) ∧
  (∀ (s : State) (i : Nat), Gives (.frameLockLoss i) s (s.startRetrain i)) ∧
  (∀ (s : State) (i lane : Nat), (tget Lane.reset (s.port i).lanes lane).warm = true → 4096 ≤ (tget Lane.reset (s.port i).lanes lane).heats →
    Gives (.laneWarmUpEnd i lane true) s (s.modLane i lane (fun x => { x with warm := false, admitted := true })) ∧
    Gives (.laneWarmUpEnd i lane false) s (s.modLane i lane (fun x => { x with warm := false, retry := true, heats := 0 }))) ∧
  (∀ (s : State) (i lane : Nat), (tget Lane.reset (s.port i).lanes lane).retry = true → 65536 ≤ (tget Lane.reset (s.port i).lanes lane).heats →
    Gives (.laneWarmUpRetry i lane) s (s.modLane i lane (fun x => { x with retry := false, heats := 0 }))) ∧
  (∀ (s : State) (i : Nat) (c n : List Nat), 256 ≤ (s.port i).errorHeats →
    Gives (.laneErrorWindowEnd i c n) s
      ((((List.range 4).foldl (fun a k => a.laneWindow i c n k) (s.modPort i (fun p => { p with errorHeats := 0 }))).countPort i 24 (c.foldl (· + ·) 0)).requestWidth i))

/-- Sequenced units and what a port sends (R315, R322, R325, R327, R328, R330, R331, R339). -/
def Obligations.LinkUnitsTakeEffect : Prop :=
  (∀ (s : State) (i : Nat) (raw : List Byte), (s.port i).state = .active ∨ (s.port i).state = .keying → unitCrcOk raw = true →
    ((s.port i).holds = true ∨ (cellOf (unitOf raw).body).typ ≠ 0x0) →
    (seqDist (unitOf raw).lseq (s.port i).rxE < (if (s.port i).holds then 256 else 512) → tfind (s.port i).reorder (unitOf raw).lseq = none →
      Gives (.linkUnitReceive i raw .clean) s ((s.unitCame i).unitTaken i (unitOf raw))) ∧
    (2048 ≤ seqDist (unitOf raw).lseq (s.port i).rxE ∨ (tfind (s.port i).reorder (unitOf raw).lseq).isSome = true →
      Gives (.linkUnitReceive i raw .clean) s ((s.unitCame i).countPort i 36 1)) ∧
    ((if (s.port i).holds then 256 else 512) ≤ seqDist (unitOf raw).lseq (s.port i).rxE → seqDist (unitOf raw).lseq (s.port i).rxE < 2048 →
      tfind (s.port i).reorder (unitOf raw).lseq = none → Gives (.linkUnitReceive i raw .clean) s ((s.unitCame i).countPort i 38 1))) ∧
  (∀ (s : State) (i n : Nat) (raw : List Byte), (s.port i).state = .active ∨ (s.port i).state = .keying →
    Gives (.linkUnitReceive i raw (.uncorrectable n)) s ((s.countPort i 20 1).countPort i 22 n)) ∧
  (∀ (s : State) (i : Nat) (raw : List Byte), (s.port i).state = .active ∨ (s.port i).state = .keying → unitCrcOk raw = false →
    Gives (.linkUnitReceive i raw .clean) s (s.countPort i 20 1)) ∧
  (∀ (s : State) (i : Nat) (payload : List Byte), (s.port i).state = .active ∨ (s.port i).state = .keying → Gives (.linkCtl i payload) s (s.ctlApplied i payload)) ∧
  (∀ (s : State) (i : Nat), 0 < (s.port i).sinceCtl → Gives (.linkCtlTimer i) s (s.modPort i (fun p => { p with ctlDue := true }))) ∧
  (∀ (s : State) (i q : Nat) (u : ReplayUnit), (s.port i).state = .active → (s.port i).quiet = false → tfind (s.port i).replay q = some u → u.replays < 8 →
    Gives (.replayTimerExpiry i q) s ((s.countPort i 30 1).modPort i (fun x => { x with replay := tins x.replay q { u with due := true } }))) ∧
  (∀ (s : State) (i q : Nat) (u : ReplayUnit), (s.port i).state = .active → (s.port i).quiet = false → tfind (s.port i).replay q = some u → 8 ≤ u.replays →
    Gives (.replayTimerExpiry i q) s ((s.countPort i 30 1).startRetrain i)) ∧
  (∀ (s : State) (i ns : Nat), (s.port i).state = .active → (s.port i).quiet = false → (s.port i).ctlDue = true →
    Gives (.unitBoundary i ns) s (s.stalls i ns
      ((((s.atNs ns).modPort i (fun x => { x with ctlDue := false, sinceCtl := 0 })).sentUnit i (s.port i).linkCtl).countPort i 32
        (min 4 (s.port i).gaps.length)))) ∧
  (∀ (s : State) (i ns : Nat) (u : List Byte) (r : List (List Byte)), (s.port i).state = .active → (s.port i).quiet = false → (s.port i).ctlDue = false → (s.port i).linkOut = u :: r →
    Gives (.unitBoundary i ns) s (s.stalls i ns (((s.atNs ns).modPort i (fun x => { x with linkOut := r })).sentUnit i u))) ∧
  (∀ (s : State) (i ns q : Nat) (u : ReplayUnit), (s.port i).state = .active → (s.port i).quiet = false → (s.port i).ctlDue = false → (s.port i).linkOut = [] →
    (s.port i).dueReplay = some (q, u) → Gives (.unitBoundary i ns) s (s.stalls i ns ((s.atNs ns).replays i q u))) ∧
  (∀ (s : State) (i ns : Nat) (c : Cell), (s.port i).state = .active → (s.port i).quiet = false → (s.port i).ctlDue = false → (s.port i).linkOut = [] → (s.port i).dueReplay = none →
    (s.port i).replay.length < 1024 → (s.port i).encOn = false → s.nextCtl i = some c → tget 0 (s.port i).credits 0 ≠ 0 →
    Gives (.unitBoundary i ns) s (s.stalls i ns ((s.atNs ns).sendCtl i ns c))) ∧
  (∀ (s : State) (i ns k : Nat), (s.port i).state = .active → (s.port i).quiet = false → (s.port i).ctlDue = false → (s.port i).linkOut = [] → (s.port i).dueReplay = none →
    (s.port i).replay.length < 1024 → (s.port i).encOn = false → s.nextCtl i = none → (s.egress i).readyQueue = some k → tget 0 (s.port i).credits (k / 64) ≠ 0 →
    Gives (.unitBoundary i ns) s (s.stalls i ns ((s.atNs ns).sendQueued i k ns))) ∧
  (∀ (s : State) (i ns : Nat), (s.port i).state = .active → (s.port i).quiet = false → (s.port i).ctlDue = false → (s.port i).linkOut = [] → (s.port i).dueReplay = none →
    (s.port i).replay.length < 1024 → (s.port i).encOn = true → 16 ≤ (s.port i).txGroup.length → Gives (.unitBoundary i ns) s (s.stalls i ns ((s.atNs ns).sendTag i))) ∧
  (∀ (s : State) (i ns : Nat), (s.port i).state = .active → (s.port i).quiet = false → (s.port i).ctlDue = false → (s.port i).linkOut = [] → (s.port i).dueReplay = none →
    (s.port i).replay.length < 1024 → (s.port i).encOn = false → s.nextCtl i = none → (s.egress i).readyQueue = none →
    Gives (.unitBoundary i ns) s (s.stalls i ns ((s.atNs ns).sentUnit i (linkUnit []))))

/-- Lane commands (R332–R335). -/
def Obligations.LaneCommandsTakeEffect : Prop :=
  (∀ (s : State) (i : Nat) (payload : List Byte) (op : LaneOp), (s.port i).state = .active → laneOpOf (le payload 2 1) = some op → (s.port i).laneCmd = none →
    Gives (.laneCmd i payload) s (s.laneAnswers i (laneCmdOf payload op) none)) ∧
  (∀ (s : State) (i : Nat) (payload : List Byte) (c : LaneCmd), (s.port i).laneCmd = some c → c.own = true → c.phase = .sent → c.id = le payload 1 1 →
    (le payload 2 1 = 0 →
      Gives (.laneAck i payload) s ((s.modPort i (fun p => { p with laneCmd := some { c with phase := .goSent, heats := 0 } })).sendLink i (laneGoUnit c.id))) ∧
    (le payload 2 1 ≠ 0 → Gives (.laneAck i payload) s (s.endLane i))) ∧
  (∀ (s : State) (i : Nat) (payload : List Byte) (c : LaneCmd), (s.port i).laneCmd = some c → c.id = le payload 1 1 →
    (c.own = true ∧ c.phase = .goSent ∨ c.own = false ∧ c.phase = .acked ∧ c.op ≠ .retrain →
      Gives (.laneGo i payload) s (s.modPort i (fun p => { p with laneCmd := some { c with phase := .switching } }))) ∧
    (c.own = false → c.phase = .acked → c.op = .retrain →
      Gives (.laneGo i payload) s ((s.modPort i (fun p => { p with laneCmd := some { c with phase := .switching } })).sendLink i (laneGoUnit c.id)))) ∧
  (∀ (s : State) (i : Nat) (rx : Bool) (c : LaneCmd), (s.port i).laneCmd = some c → c.phase = .switching → c.op = .retrain →
    Gives (.laneSwitch i rx) s (s.startRetrain i)) ∧
  (∀ (s : State) (i : Nat) (rx : Bool) (c : LaneCmd), (s.port i).laneCmd = some c → c.op ≠ .retrain → c.maySwitch rx = true →
    Gives (.laneSwitch i rx) s (if rx = true ∧ c.own = false then ((s.modPort i (fun p => p.switched c rx)).sendLink i (laneGoUnit c.id)).laneDone i
      else (s.modPort i (fun p => p.switched c rx)).laneDone i)) ∧
  (∀ (s : State) (i : Nat), (s.port i).quiet = true →
    Gives (.rateChangeRelock i) s ((s.modPort i (fun p => { p with quiet := false })).laneDone i)) ∧
  (∀ (s : State) (i : Nat) (c : LaneCmd), (s.port i).laneCmd = some c → c.own = true → c.phase = .sent → 1 ≤ c.heats →
    (c.resends < 3 → Gives (.laneCmdTimeout i) s
      ((s.modPort i (fun p => { p with laneCmd := some { c with resends := c.resends + 1, heats := 0 } })).sendLink i ((s.port i).laneCmdUnit c))) ∧
    (3 ≤ c.resends → Gives (.laneCmdTimeout i) s (s.startRetrain i))) ∧
  (∀ (s : State) (i : Nat) (c : LaneCmd), (s.port i).laneCmd = some c → c.own = true → c.phase = .goSent → 1 ≤ c.heats →
    Gives (.laneGoTimeout i) s (s.startRetrain i))

/-- Link encryption (R339–R342, R466–R469). -/
def Obligations.LinkKeysAndGroupsTakeEffect : Prop :=
  (∀ (s : State) (i : Nat) (m : KeyMsg) (k : Keying), (s.port i).state = .keying → (s.port i).isA = false → (s.port i).keying = some k → k.step = 0 →
    (s.port i).keyBelongs m.pk = true → s.canKey = true → Gives (.linkKeyExchange1 i m) s (s.answerStepOne i m)) ∧
  (∀ (s : State) (i : Nat) (m : KeyMsg) (k : Keying), (s.port i).state = .keying → (s.port i).isA = false → (s.port i).keying = some k → k.step = 0 →
    (s.port i).keyBelongs m.pk = false ∨ s.canKey = false → Gives (.linkKeyExchange1 i m) s (s.goDown i)) ∧
  (∀ (s : State) (i : Nat) (m : KeyMsg) (k : Keying), (s.port i).state = .keying → (s.port i).keying = some k → k.initiator = true → k.step = 1 →
    Gives (.linkKeyExchange2 i m) s
      (if (s.port i).keyBelongs m.pk && Config.slhVerify m.pk (s.stepTwoText i k m) m.sig then s.answerStepTwo i k m else s.goDown i)) ∧
  (∀ (s : State) (i : Nat) (m : KeyMsg) (k : Keying) (tx rx : LinkKey), (s.port i).state = .keying → (s.port i).keying = some k → (s.port i).txNext = some tx → (s.port i).rxNext = some rx →
    k.step = 2 → Gives (.linkKeyExchange3 i m) s
      (if Config.slhVerify k.peerKey (sha256 (k.transcript ++ [1])) m.sig then s.keysIn i tx rx else s.goDown i)) ∧
  (∀ (s : State) (i : Nat), (s.port i).state = .keying → 4096 ≤ (s.port i).stateHeats → Gives (.keyingTimeout i) s (s.goDown i)) ∧
  (∀ (s : State) (i : Nat), (s.port i).state = .active → (s.port i).encOn = true → (s.port i).keying = none → (s.port i).txNext = none →
    (s.port i).rxNext = none → s.canKey = true → Gives (.rekeyTrigger i) s (s.sendStepOne i true)) ∧
  (∀ (s : State) (i : Nat), (s.port i).state = .active → (s.port i).encOn = true →
    (s.port i).keying ≠ none ∨ (s.port i).txNext ≠ none ∨ (s.port i).rxNext ≠ none ∨ s.canKey = false →
    Gives (.rekeyTrigger i) s (s.modPort i (fun x => { x with rekeyWanted := true }))) ∧
  (∀ (s : State) (i : Nat) (m : KeyMsg), (s.port i).state = .active → (s.port i).encOn = true → s.canKey = true →
    ((s.port i).keying = none ∨ (s.port i).isA = false → Gives (.rekeyExchange1 i m) s (s.answerRekey i m)) ∧
    ((s.port i).keying ≠ none → (s.port i).isA = true → Gives (.rekeyExchange1 i m) s s)) ∧
  (∀ (s : State) (i : Nat) (m : KeyMsg) (k : Keying), (s.port i).state = .active → (s.port i).keying = some k → k.rekey = true → k.step = 1 →
    Gives (.rekeyExchange2 i m) s (s.modPort i (fun x =>
      let ks := (s.port i).nextKeys (kemOpen k.secret m.kem) k.nonce m.nonce true
      { x with txNext := some ks.1, rxNext := some ks.2.1, chain := ks.2.2, keying := none }))) ∧
  (∀ (s : State) (i : Nat), (s.port i).encOn = true → (s.port i).txGroup ≠ [] → Gives (.groupCloseTimer i) s (s.modPort i (fun p => { p with groupClose := true }))) ∧
  (∀ (s : State) (i : Nat) (us : List LinkUnit) (c : Cell), (s.port i).encOn = true → (s.port i).heldGroup = some (us, c) →
    Gives (.tagUnit i) s (match (s.port i).opens us c with | some plain => s.groupVerified i us c plain | none => s.groupFailed i us c))

/-- Transit and the egress scheduler (R348, R352–R354, R359, R361, R365, R367). -/
def Obligations.TransitAndEgressTakeEffect : Prop :=
  (∀ (s : State) (i vc ns out : Nat) (c : Cell) (r : List Cell), tget [] (s.port i).vcBuf vc = c :: r → s.inChip c.dst = false → (s.egress i).twin = false →
    (c.seq = 0 ∧ s.forwards = true ∧ s.chooseOut c.dst c.src c.tag = some out ∨ c.seq ≠ 0 ∧ tget dropMark (s.egress i).route vc = out) → out ≠ dropMark →
    (s.transitOk i c = true → s.transitOk out c = true → (tget [] (s.egress out).waiting vc).any (fun x => x.1 == i) = false →
      Gives (.transitCell i vc ns) s (((s.atNs ns).modEgress i (fun e => { e with route := tins e.route vc out })).comeUp out i (s.nsNow ns) c)) ∧
    (s.transitOk i c = true → s.transitOk out c = true → (tget [] (s.egress out).waiting vc).any (fun x => x.1 == i) = true →
      Gives (.transitCell i vc ns) s (s.atNs ns)) ∧
    (s.transitOk i c = false ∨ s.transitOk out c = false →
      Gives (.transitCell i vc ns) s ((((s.atNs ns).takeCells i vc [c]).modEgress i (fun e => { e with route := tins e.route vc out })).countQueue out 8 1))) ∧
  (∀ (s : State) (i vc ns : Nat) (c : Cell) (r : List Cell), tget [] (s.port i).vcBuf vc = c :: r → s.inChip c.dst = false → (s.egress i).twin = false →
    c.seq = 0 → s.chooseOut c.dst c.src c.tag = none → s.transitOk i c = true →
    Gives (.transitCell i vc ns) s ((((s.atNs ns).takeCells i vc [c]).modEgress i (fun e => { e with route := tins e.route vc dropMark })).noOutput c i)) ∧
  (∀ (s : State) (i granule units k : Nat), (s.egress i).free = true → s.pickQueue i granule units = some k →
    Gives (.egressTrainStart i granule units) s (s.startTrain i k)) ∧
  (∀ (s : State) (i vc : Nat) (o : OpenTrain), tfind (s.port i).openTrain vc = some o → 1 ≤ o.heats → Gives (.trainTruncation i vc) s (s.truncateTrain i vc)) ∧
  (∀ (s : State) (i vc h : Nat), tfind (s.egress i).heldVc vc = some h → 1 ≤ h →
    Gives (.outputVcRelease i vc) s ((s.modEgress i (fun e => e.released vc)).roomCame i (s.nsNow 0)))

/-- Register accesses (R402, R403, R405, R408, R409, R411, R414–R418). -/
def Obligations.RegistersTakeEffect : Prop :=
  (∀ (s : State) (h off size : Nat), s.headUp h = true → sizeOk off size = true → s.headAllowed h (regAt (off / 8 * 8)) = true →
    Gives (.rcRegisterRead (.head h) off size) s ((s.read8 off size).2.modHead h (fun x => { x with bar0 := (s.read8 off size).1 })) ∧
    ∀ v, Gives (.registerWrite (.head h) off size v) s (s.write8 off size v)) ∧
  (∀ (s : State) (h off size : Nat), s.headUp h = true → (sizeOk off size = false ∨ s.headAllowed h (regAt (off / 8 * 8)) = false) →
    Gives (.rcRegisterRead (.head h) off size) s (s.refuseBar.modHead h (fun x => { x with bar0 := 0 })) ∧
    ∀ v, Gives (.registerWrite (.head h) off size v) s s.refuseBar) ∧
  (∀ (s : State) (h v : Nat), s.headUp h = true → bits v 8 8 ≤ 8 →
    Gives (.selUnit h 8 v) s { s with hearth := { s.hearth with
      selUnit := v % 256, selClass := bits v 8 8, selGen := (s.hearth.selGen + 1) % 2 ^ 16 } }) ∧
  (∀ (s : State) (h c v : Nat), s.headUp h = true → c < 16384 → s.headAllowed h (.door c) = true → (s.ctx c).state ≠ .free → v < 2 ^ 32 →
    Gives (.doorbell (.head h) c 8 v) s (s.ring c v) ∧ Gives (.doorbell (.head h) c 4 v) s (s.ring c v)) ∧
  (∀ (s : State) (h p : Nat), s.headUp h = true → 1 ≤ p → p < 64 → s.headAllowed h (.page p 0) = true → (s.part p).state ≠ .free →
    (s.page p).state = 0 ∨ (s.page p).state = 3 → Gives (.mbxSubmit (.head h) p) s (s.submit p false (s.page p).inlineMsg)) ∧
  (∀ (s : State) (h p : Nat), s.headUp h = true → 1 ≤ p → p < 64 → s.headAllowed h (.page p 0) = true → (s.part p).state ≠ .free →
    (s.page p).state = 1 ∨ (s.page p).state = 2 →
    Gives (.mbxSubmit (.head h) p) s (s.modPage p (fun x => { x with stray := satAdd 32 x.stray 1 })) ∧
    Gives (.mbxSubmitIndirect (.head h) p) s (s.modPage p (fun x => { x with stray := satAdd 32 x.stray 1 }))) ∧
  (∀ (s : State) (h p : Nat), s.headUp h = true → 1 ≤ p → p < 64 → s.headAllowed h (.page p 0) = true → (s.part p).state ≠ .free →
    (s.page p).state = 0 ∨ (s.page p).state = 3 →
    Gives (.mbxSubmitIndirect (.head h) p) s
      ((s.modPage p (fun x => { x with
        state := 1, accepted := false, timedOut := false, status := 0, replyLen := 0, message := [], indirect := true
        bufPsa := x.psa, left := if x.timeout = 0 then none else some x.timeout, due := none, fetch := true })).fetchMsg p)) ∧
  (∀ (s : State) (p : Nat), (s.page p).left = some 0 → (s.page p).state = 1 ∨ (s.page p).state = 2 →
    Gives (.mailboxTimeout p) s (s.timeoutPage p)) ∧
  (∀ (s : State) (port : Nat) (t : Train), s.isRegReq t = true → s.admits port t.part = true → (s.part t.part).state = .active →
    s.hearth.bridge = [] → (s.takeTrain port t).bridgeCanReply t = true →
    (le t.head 0 1 = 0x01 →
      ((s.takeTrain port t).regStatus t false = stOk →
        Gives (.regRd port t) s (((s.takeTrain port t).bridgeReads t).2.send (regAnswer t 0x81 stOk (le t.head 4 4) ((s.takeTrain port t).bridgeReads t).1))) ∧
      ((s.takeTrain port t).regStatus t false ≠ stOk →
        Gives (.regRd port t) s (((s.takeTrain port t).noteDenied ((s.takeTrain port t).regStatus t false)).send
          (regAnswer t 0x81 ((s.takeTrain port t).regStatus t false) 0 [])))) ∧
    (le t.head 0 1 = 0x02 →
      ((s.takeTrain port t).regStatus t true = stOk →
        Gives (.regWr port t) s (((s.takeTrain port t).bridgeWrites t).send (regAnswer t 0x82 stOk (le t.head 4 4) []))) ∧
      ((s.takeTrain port t).regStatus t true ≠ stOk →
        Gives (.regWr port t) s (((s.takeTrain port t).noteDenied ((s.takeTrain port t).regStatus t true)).send
          (regAnswer t 0x82 ((s.takeTrain port t).regStatus t true) 0 []))))) ∧
  (∀ (s : State) (port : Nat) (t : Train), s.isRegReq t = true → s.admits port t.part = true → (s.part t.part).state = .active →
    s.hearth.bridge = [] → (s.takeTrain port t).bridgeCanReply t = false →
    (le t.head 0 1 = 0x01 → Gives (.regRd port t) s { s.takeTrain port t with hearth := { s.hearth with bridge := [(port, t)] } }) ∧
    (le t.head 0 1 = 0x02 → Gives (.regWr port t) s { s.takeTrain port t with hearth := { s.hearth with bridge := [(port, t)] } }))

/-- Starter (R441–R443, R445–R450). -/
def Obligations.StarterTakesEffect : Prop :=
  (∀ (s : State) (k r : Nat), Gives (.sourceFire k r) s (s.fire k r)) ∧
  (∀ (s : State) (h t k : Nat), t < 256 → s.headUp h = true → s.headAllowed h (.target t 0x10) = true → s.winner t = some k →
    Gives (.claim (.head h) t) s
      (((s.modSource k (fun x => { x with count := 0, active := some t })).modTarget t (fun x => { x with armed := true })).modHead h (fun x => { x with
        bar0 := k + 2 ^ 12 + (s.source k).count * 2 ^ 16 }))) ∧
  (∀ (s : State) (h t : Nat), t < 256 → s.headUp h = true → s.headAllowed h (.target t 0x10) = true → s.winner t = none →
    Gives (.claim (.head h) t) s ((s.modTarget t (fun x => { x with armed := true })).modHead h (fun x => { x with bar0 := 0 }))) ∧
  (∀ (s : State) (h t v : Nat), t < 256 → s.headUp h = true → s.headAllowed h (.target t 0x18) = true → (s.source (v % 4096)).active = some t →
    Gives (.complete (.head h) t v) s (s.modSource (v % 4096) (fun x => { x with active := none }))) ∧
  (∀ (s : State) (h t v : Nat), t < 256 → s.headUp h = true → s.headAllowed h (.target t 0x18) = true → (s.source (v % 4096)).active ≠ some t →
    Gives (.complete (.head h) t v) s (s.modTarget t (fun x => { x with completeStray := satAdd 16 x.completeStray 1 }))) ∧
  (∀ (s : State) (h t v : Nat), t < 256 → v < 2 ^ 64 → bit v 1 = false → s.headUp h = true → s.headAllowed h (.target t 0x28) = true →
    s.mayConfigure t (s.target t).srcSel = true → (∀ u, (s.source (s.target t).srcSel).active = some u → u = t) →
    Gives (.srcCfg (.head h) t v) s (s.modSource (s.target t).srcSel (fun x => { x with
      enable := bit v 0, priority := bits v 4 4, target := some t, via := t
      owner := if claimable (s.target t).srcSel then (s.target t).ownerKey else x.owner }))) ∧
  (∀ (s : State) (h t v : Nat), t < 256 → s.headUp h = true → s.headAllowed h (.target t 0x28) = true →
    (s.mayConfigure t (s.target t).srcSel = false ∨ ∃ u, (s.source (s.target t).srcSel).active = some u ∧ u ≠ t) →
    Gives (.srcCfg (.head h) t v) s (s.strayComplete t)) ∧
  (∀ (s : State) (h t : Nat), t < 256 → s.headUp h = true → s.headAllowed h (.target t 0x28) = true →
    s.mayConfigure t (s.target t).srcSel = true → (s.source (s.target t).srcSel).active = none →
    Gives (.sourceRelease (.head h) t) s (s.modSource (s.target t).srcSel (fun x => { x with
      enable := false, priority := 0, target := some t, via := t
      owner := if claimable (s.target t).srcSel then none else x.owner }))) ∧
  (∀ (s : State) (h t v : Nat), t < 256 → v < 2 ^ 64 → s.headUp h = true → s.headAllowed h (.target t 0) = true →
    (s.tgtCtrlOk t v = false → Gives (.tgtCtrl (.head h) t v) s s) ∧ (s.tgtCtrlOk t v = true → Gives (.tgtCtrl (.head h) t v) s (s.modTarget t (fun x => { x with
      threshold := bits v 0 4, enable := bit v 4, idle := bit v 5, delivery := s.ctrlDelivery t v
      modHeats := bits v 8 8, modCount := bits v 16 8, dest := bits v 32 16 })))) ∧
  (∀ (s : State) (t k : Nat), s.winner t = some k → s.deliveryDue t = true →
    Gives (.delivery t) s
      (match (s.target t).delivery with
       | 0 => if ((s.modTarget t (fun x => x.delivered s.heat.count)).chooseOut (s.eventCell t k).dst (s.eventCell t k).src (s.eventCell t k).tag).isSome
           then (s.modTarget t (fun x => x.delivered s.heat.count)).send (s.eventCell t k)
           else ((s.modTarget t (fun x => x.delivered s.heat.count)).send (s.eventCell t k)).modTarget t (fun x => { x with lost := satAdd 16 x.lost 1 })
       | 1 => (s.modTarget t (fun x => x.delivered s.heat.count)).msix 0 t
       | _ => (s.modTarget t (fun x => x.delivered s.heat.count)).msix 1 t)) ∧
  (∀ (s : State) (t n k : Nat), (s.target t).armed = false → (s.target t).since = some n → 256 ≤ n → s.winner t = some k →
    Gives (.redeliver t) s (s.modTarget t (fun y => { y with armed := true, redeliver := satAdd 16 y.redeliver 1 }))) ∧
  (∀ (s : State) (h w : Nat), Gives (.msiXUnmask h (.read w)) s (s.modHead h (fun x => { x with bar2 := s.bar2Read h w }))) ∧
  (∀ (s : State) (h v x : Nat), v < 256 → x % 2 = 0 → tget false s.starter.msixPend (256 * h + v) = true →
    Gives (.msiXUnmask h (.write (4 * v + 3) x)) s { s with starter := { s.starter with
      msixTable := tins s.starter.msixTable (1024 * h + (4 * v + 3)) 0, msixPend := tset false s.starter.msixPend (256 * h + v) false
      msixSent := { head := h, vector := v, address := s.msixWord h (4 * v) + s.msixWord h (4 * v + 1) * 2 ^ 32, data := s.msixWord h (4 * v + 2) } ::
        s.starter.msixSent } }) ∧
  (∀ (s : State) (h w x : Nat), w < 1024 → tget false s.starter.msixPend (256 * h + w / 4) = false →
    Gives (.msiXUnmask h (.write w x)) s { s with starter := { s.starter with
      msixTable := tins s.starter.msixTable (1024 * h + w) ((if w % 4 = 0 then x / 4 * 4 else if w % 4 = 3 then x % 2 else x) % 2 ^ 32) } }) ∧
  (∀ (s : State) (h w x : Nat), 1024 ≤ w → Gives (.msiXUnmask h (.write w x)) s s)

/-- Hearth and security events (R397, R399, R400, R428, R429, R463, R464). -/
def Obligations.HearthAndSecurityEventsTakeEffect : Prop :=
  (∀ s : State, s.coresServe = true → s.hearth.switching = false → Gives .hearthFailureDetected s (s.beginSwitch false)) ∧
  (∀ s : State, s.coresServe = true → s.hearth.switching = true →
    Gives .hearthFailureDetected s { s with hearth := { s.hearth with planned := false } }) ∧
  (∀ s : State, s.hearth.switching = true → s.hearth.switchLeft = 0 → s.otherStands = true →
    Gives .hearthSwitchComplete s (s.passRole.evalReplace.deviceEvent 0x087).resolve) ∧
  (∀ s : State, s.hearth.switching = true → s.hearth.switchLeft = 0 → s.otherStands = false → s.hearth.planned = false →
    Gives .hearthLost s (({ s.setCore s.hearth.active .failed with
      hearth := { (s.setCore s.hearth.active .failed).hearth with switching := false, lost := true } } : State).deviceEvent 0x087)) ∧
  (∀ (s : State) (c : Nat), c ≤ 1 → s.core c = .warmUp →
    Gives (.hearthWarmUpEnd c true) s ((s.setCore c .syncing).deviceEvent 0x087) ∧
    Gives (.hearthWarmUpEnd c false) s ((s.setCore c .failed).deviceEvent 0x087).resolve) ∧
  (∀ (s : State) (c : Nat), c ≤ 1 → s.core c = .syncing → s.coreless = false → c ∉ s.hearth.synced →
    Gives (.hearthSyncComplete c) s { s with hearth := { s.hearth with synced := addSorted c s.hearth.synced } }) ∧
  (∀ s : State, s.coresServe = true → s.otherStands = true →
    Gives .standbyFailureDetected s (((s.setCore (1 - s.hearth.active) .failed).evalReplace).deviceEvent 0x087)) ∧
  (∀ (s : State) (ch : Chan) (n : List Byte), (s.chan ch).nonce = some (n, 0) →
    Gives (.fmChallengeExpiry ch) s (s.modChan ch (fun c => { c with nonce := none, bindPart := none }))) ∧
  (∀ (s : State) (r : Nat), s.hearth.binding = some (.sideband r) → Gives .i3cBusReset s { s with hearth := { s.hearth with binding := none } }) ∧
  (∀ s : State, s.sec.reseedDue = true → s.sec.drbgStopped = false →
    Gives .drbgReseed s { s with sec := { s.sec with reseedDue := false, reseeds := s.sec.reseeds + 1 } }) ∧
  (∀ s : State, s.pins.pwrok = true → s.sec.drbgStopped = false →
    Gives .drbgHealthFailure s (({ s with sec := { s.sec with drbgStopped := true } } : State).deviceEvent 0x082).dropKeying) ∧
  (∀ s : State, s.sec.scrubKeyDue = true → s.sec.drbgStopped = false →
    Gives .scrubKeyReplace s { s with sec := { s.sec with 
      scrubKeyDue := false, scrubKeys := s.sec.scrubKeys + 1, reseeds := s.sec.reseeds + 1, draws := s.sec.draws + 1, memKeys := tins s.sec.memKeys 64 (fit 64 (Config.drbg s.sec.draws 64)) } })

/-- Events of Bellows (R480, R487–R493, R495, R498). -/
def Obligations.BellowsTakesEffect : Prop :=
  (∀ (s : State) (mv a w e : Nat), s.isReady = true →
    ((s.bellows.compare (mv * a / 1000 + w) e).divergence = false ∨ s.bellows.divergence = true →
      Gives (.avsReading mv a w e) s (s.modBellows (fun b => { b.compare (mv * a / 1000 + w) e with coreAmps := a, reportedMv := mv }))) ∧
    ((s.bellows.compare (mv * a / 1000 + w) e).divergence = true → s.bellows.divergence = false →
      Gives (.avsReading mv a w e) s
        ((s.modBellows (fun b => { b.compare (mv * a / 1000 + w) e with coreAmps := a, reportedMv := mv })).deviceEvent 0x088))) ∧
  (∀ (b : Bellows) (r e : Nat), (b.compare r e).reading = r ∧ (b.compare r e).missing = false ∧
    (b.divergence = false → ((b.compare r e).divergence = true ↔ 12 * b.limit < 100 * ((r - e) + (e - r)) ∧ 15 ≤ b.overRun)) ∧
    (b.divergence = true → ((b.compare r e).divergence = false ↔ 100 * ((r - e) + (e - r)) ≤ 6 * b.limit ∧ 255 ≤ b.underRun))) ∧
  (∀ s : State, s.isReady = true → s.bellows.missing = false → 29 ≤ s.bellows.readAge → Gives .avsReadingMissing s { s with bellows := { s.bellows with
    missing := true, missingCount := satAdd 16 s.bellows.missingCount 1 } }) ∧
  (∀ s : State, s.bellows.blockDue = true → Gives .sustainedBlockEnd s { s with bellows := { s.bellows with
    blocks := (s.bellows.blockSum / max 1 s.bellows.blockHeats :: s.bellows.blocks).take 477
    meanSustained := meanOf ((s.bellows.blockSum / max 1 s.bellows.blockHeats :: s.bellows.blocks).take 477)
    blockSum := 0, blockHeats := 0, blockDue := false } }) ∧
  (∀ s : State, s.isReady = true → Gives .droopDetect s { s with bellows := { s.bellows with stretched := true } }) ∧
  (∀ (s : State) (ns : Nat), s.bellows.stretched = true → Gives (.droopStretchEnd ns) s
    ((s.modBellows (fun b => { b with stretched := false, stretchNs := b.stretchNs + ns })).modReason 5 (fun x => x.addNs ns))) ∧
  (∀ (s : State) (up down : Nat), s.bellows.adjustDue = true → Completes (.voltageAdjust up down) s (fun t =>
    (∀ k, k < 6 → t.bellows.mvOf k =
      if bit up k then min 850 (s.bellows.mvOf k + 5) else if bit down k then max 650 (s.bellows.mvOf k - 5) else s.bellows.mvOf k) ∧
    t.bellows.setMv = t.bellows.mvOf (s.bellows.wanted.getD s.bellows.step) ∧
    { t.bellows with stepMv := s.bellows.stepMv, setMv := s.bellows.setMv, adjustDue := true } = s.bellows ∧
    { t with bellows := s.bellows, pins := s.pins } = s)) ∧
  (∀ (s : State) (mv : Nat), Gives (.regulatorVoltageReport mv) s { s with bellows := { s.bellows with reportedMv := mv } }) ∧
  (∀ s : State, Gives .throttleHoldExpiry s { s with bellows := { s.bellows with reasons := tmap s.bellows.reasons (fun r x =>
    if r < 8 ∧ x.live = true ∧ holdHeats r ≤ x.quiet then { x with live := false, quiet := 0 } else x) } }) ∧
  (∀ (s : State) (x : HeldChange) (r : List HeldChange), s.bellows.held = x :: r → Gives .loadStepSlot s
    ((((s.modBellows (fun b => { b with held := r, enable := setBit b.enable x.anvil x.start })).drawn).modReason 6
      (fun y => y.addNs (Config.freeValue s.free % 2048))).followRoster x.anvil)) ∧
  (∀ s : State, s.pins.pwrok = true → Gives .pwrBrakeNLow s { s with pins := { s.pins with pwrBrakeN := false } }) ∧
  (∀ s : State, 4 ≤ s.boot.step → s.coolantStop = false →
    Gives .coolantOkLow s { s with pins := { s.pins with coolantOk := false }, bellows := { s.bellows with coolantNext := true } } ∧
    (s.pins.pwrok = true →
      Gives .thermtrip s { s with pins := { s.pins with tripped := true }, bellows := { s.bellows with coolantNext := true } })) ∧
  (∀ s : State, s.boot.step < 4 →
    Gives .coolantOkLow s { s with pins := { s.pins with coolantOk := false } } ∧
    (s.pins.pwrok = true → Gives .thermtrip s { s with pins := { s.pins with tripped := true } })) ∧
  (∀ s : State, s.coolantStop = true → s.bellows.cclkFalls = true → Gives .coolantStopCclkStep s { s with bellows := { s.bellows with
    step := s.bellows.step + 1, cclkFalls := false, wanted := none, setMv := s.bellows.mvOf (s.bellows.step + 1) } }) ∧
  (∀ s : State, s.linksIdle = true → Gives .coolantStopLinkIdle s s.linksStopped) ∧
  (∀ (s : State) (n : Nat), s.bellows.coolant = some n → 7 ≤ n → Gives .coolantStopSelfRefresh s { s with dram := { s.dram with
    units := tmap s.dram.units (fun _ u => if u.state = .absent then u else { u with power := .selfRefresh, postponed := 0, refreshing := false, scrubbed := none }) } })

/-- Boot events (R395, R399, R454–R457, R527, R529, R531, R533, R536, R540). -/
def Obligations.BootTakesEffect : Prop :=
  (∀ s : State, s.pins.pwrok = true → Gives .pwrokFall s s.unpowered) ∧
  (∀ (s : State) (r c : Bool), s.pins.pwrok = false → Gives (.pwrokRise r c) s { s with
    pins := { s.pins with pwrok := true, sysRstN := r, coolantOk := c }, boot := { s.boot with step := if r then 1 else 0, cold := true } }) ∧
  (∀ s : State, s.pins.pwrok = true → s.pins.sysRstN = true →
    (s.boot.wasReady = true → Gives .sysRstNLow s s.enterWarm) ∧
    (s.boot.wasReady = false → Gives .sysRstNLow s { s.unpowered with
      pins := { s.unpowered.pins with pwrok := true, sysRstN := false, tripped := s.pins.tripped }
      boot := { s.unpowered.boot with batonLow := true } })) ∧
  (∀ s : State, Gives .batonOutRelease s { s with boot := { s.boot with batonLow := false } }) ∧
  (∀ (s : State) (c : Bool), s.pins.pwrok = true → s.pins.sysRstN = false → Gives (.sysRstNRise c) s { s with
    pins := { s.pins with sysRstN := true, coolantOk := c }, boot := { s.boot with step := if s.boot.flushing then 0 else 1 } }) ∧
  (∀ s : State, s.boot.flushing = true → Gives .warmResetFlushComplete s { s.flushed.restUnits.keepTables with
    starter := Starter.reset
    boot := { s.flushed.restUnits.keepTables.boot with
      flushing := false, step := if s.flushed.restUnits.keepTables.pins.sysRstN then 1 else 0 } }) ∧
  (∀ (s : State) (k : List Byte), s.boot.step = 1 → Gives (.romStart k) s (s.romStarted k)) ∧
  (∀ (s : State) (k : List Byte), (s.romStarted k).sec.identitySecret = s.pufSecret k ∧
    (s.romStarted k).sec.publicKey = fit 32 (Config.slhPublic (identitySeed (s.pufSecret k))) ∧
    (s.romStarted k).sec.identityHash = sha256 (fit 32 (Config.slhPublic (identitySeed (s.pufSecret k)))) ∧ (s.romStarted k).boot.step = 2 ∧
    ((s.romStarted k).sec.recovery = true ↔
      configChecks ((s.sec.flash.takeStaged (s.boot.cold || s.sec.recovery)).object 3) 0 = false)) ∧
  (∀ (s : State) (f c : Nat), s.boot.step = 2 → s.sec.floorSeen = false → s.sec.recovery = false →
    Gives (.floorRecord s.sec.config.sbVendorId 0xF1 f c) s { s with sec := { s.sec with
      fwFloor := f % 2 ^ 32, cfgFloor := c % 2 ^ 32, floorAbsent := false, floorSeen := true } } ∧
    Gives .floorWaitExpiry s { s with sec := { s.sec with fwFloor := 0, cfgFloor := 0, floorAbsent := true, floorSeen := true } }) ∧
  (∀ s : State, s.boot.step = 2 → s.sec.floorSeen = true → s.sec.recovery = false →
    (∀ k, s.sec.cfgFloor ≤ s.sec.config.version → s.bootImage = some k → Gives .romChecksComplete s (s.measured k)) ∧
    (s.sec.config.version < s.sec.cfgFloor ∨ s.bootImage = none →
      Gives .romChecksComplete s { s with sec := { s.sec with recovery := true } })) ∧
  (∀ (s : State) (a b : Bool), s.boot.step = 3 → s.boot.held = false → s.sec.recovery = false →
    Gives (.sramSelfTestComplete a b) s (s.coresTested a b).leaveSelfTest) ∧
  (∀ (s : State) (b : Bool), (s.coresTested true b).hearth.active = 0 ∧ (s.coresTested true b).hearth.core0 = .active) ∧
  (∀ s : State, (s.coresTested false true).hearth.active = 1 ∧ (s.coresTested false true).hearth.core1 = .active ∧
    (s.coresTested false false).hearth.lost = true) ∧
  (∀ s : State, s.boot.held = true → s.pins.tripped = false → Gives .bootResume s { s with
    pins := { s.pins with coolantOk := true }, boot := { s.boot with step := 4, held := false } }) ∧
  (∀ (s : State) (h : List StackFound) (d : List BulkFound), s.boot.step = 4 → s.sec.recovery = false →
    (s.boot.cold = true → s.stacksFound h = true →
      Gives (.memoryTrainingComplete h d) s { (s.trainCold h d).linksStart with boot := { (s.trainCold h d).linksStart.boot with step := 5 } }) ∧
    (s.boot.cold = true → s.stacksFound h = false → Gives (.memoryTrainingComplete h d) s { s with sec := { s.sec with recovery := true } }) ∧
    (s.boot.cold = false →
      Gives (.memoryTrainingComplete h d) s { (s.trainWarm h d).linksStart with boot := { (s.trainWarm h d).linksStart.boot with step := 5 } })) ∧
  (∀ (s : State) (a c e : Nat), s.boot.step = 5 → s.boot.cold = true → s.sec.recovery = false →
    Gives (.memoryInitialisationComplete a c e) s (s.memoryReady a c e) ∧ (s.memoryReady a c e).tiers.mem = Mem.reset) ∧
  (∀ s : State, s.sec.recovery = false → s.boot.step = 6 ∨ (s.boot.step = 5 ∧ s.boot.cold = false) →
    Gives .heatStart s (State.abortedSteps { s with
      heat := { s.heat with running := true }, boot := { s.boot with step := 7, wasReady := true, first := true } }))

/-- Host accesses and head events (R93, R101, R296, R303, R309, R376, R381, R384, R391, R392, R539). -/
def Obligations.CxlHeadsTakeEffect : Prop :=
  (∀ (s : State) (h a d tag : Nat) (k : HostRead), s.headUp h = true → s.cxlCheck h (a / 64 * 64) = (0, some d) →
    ((s.ext ((s.extentAt (d / 64 * 64)).getD 0)).coh = 1 → k ≠ .current → s.headCaches h (d / 64 * 64) = false →
      Gives (.cxlMemRead h a k tag) s (s.headPoison h)) ∧
    ((s.ext ((s.extentAt (d / 64 * 64)).getD 0)).coh = 1 → k = .current ∨ s.headCaches h (d / 64 * 64) = true →
      s.rangeFree (s.ext ((s.extentAt (d / 64 * 64)).getD 0)).part (d / 64 * 64) 64 = true → s.homeBlocked (d / 64 * 64) 64 = false →
      Gives (.cxlMemRead h a k tag) s (s.cohArrive (s.hostMsg h (d / 64 * 64) tag k.req [] 0))) ∧
    ((s.ext ((s.extentAt (d / 64 * 64)).getD 0)).coh ≠ 1 →
      s.rangeFree (s.ext ((s.extentAt (d / 64 * 64)).getD 0)).part (d / 64 * 64) 64 = true → s.homeBlocked (d / 64 * 64) 64 = false →
      Gives (.cxlMemRead h a k tag) s
        ((s.readRange (s.ext ((s.extentAt (d / 64 * 64)).getD 0)).part 1 (d / 64 * 64) 64).1.await
          { head := hostTrain tag, port := 0, origin := 1 + h, dpa := d / 64 * 64, len := 64, id := 0, trans := []
            need := (s.readRange (s.ext ((s.extentAt (d / 64 * 64)).getD 0)).part 1 (d / 64 * 64) 64).2 })) ∧
    ((s.ext ((s.extentAt (d / 64 * 64)).getD 0)).coh ≠ 1 ∨ k = .current ∨ s.headCaches h (d / 64 * 64) = true →
      s.rangeFree (s.ext ((s.extentAt (d / 64 * 64)).getD 0)).part (d / 64 * 64) 64 = false ∨ s.homeBlocked (d / 64 * 64) 64 = true →
      Gives (.cxlMemRead h a k tag) s s)) ∧
  (∀ (s : State) (h a n tag : Nat) (d : Option Nat) (k : HostRead), s.headUp h = true → n ≠ 0 → s.cxlCheck h (a / 64 * 64) = (n, d) →
    Gives (.cxlMemRead h a k tag) s
      ((s.cxlRefuse h n d false).headPoison h) ∧
    ∀ (b : Bool) (m : Nat) (l : List Byte), Gives (.cxlMemWrite h a b m l) s
      (match d with
       | some x => if b then (s.cxlRefuse h n d true).lateLine (x / 64) else s.cxlRefuse h n d true
       | none => s.cxlRefuse h n d true)) ∧
  (∀ (s : State) (h a d m : Nat) (l : List Byte), s.headUp h = true → s.cxlCheck h (a / 64 * 64) = (0, some d) → m < 2 ^ 64 →
    (s.head h).bisnp.any (fun x => x.1 == d / 64 * 64 / 64) = true →
    (s.dirtyWaits (d / 64 * 64 / 64) = false → Gives (.cxlMemWrite h a true m l) s
      ((s.countHead h 8 (pop64 m)).lineMerge (s.ext ((s.extentAt (d / 64 * 64)).getD 0)).part (d / 64 * 64 / 64) m (fit 64 l) false)) ∧
    (s.dirtyWaits (d / 64 * 64 / 64) = true → Gives (.cxlMemWrite h a true m l) s
      ((s.hasten (d / 64 * 64) 64).hostReached h (d / 64 * 64 / 64)))) ∧
  (∀ (s : State) (h a d m : Nat) (b : Bool) (l : List Byte), s.headUp h = true → s.cxlCheck h (a / 64 * 64) = (0, some d) → m < 2 ^ 64 →
    b = false ∨ (s.head h).bisnp.any (fun x => x.1 == d / 64 * 64 / 64) = false →
    (s.homeBlocked (d / 64 * 64) 64 = true → Gives (.cxlMemWrite h a b m l) s s) ∧
    (s.homeBlocked (d / 64 * 64) 64 = false → (s.ext ((s.extentAt (d / 64 * 64)).getD 0)).coh = 1 →
      (s.writeWaits (s.ext ((s.extentAt (d / 64 * 64)).getD 0)).part (d / 64 * 64) 64 = false → Gives (.cxlMemWrite h a b m l) s
        ((s.countHead h 8 (pop64 m)).cohArrive (s.hostMsg h (d / 64 * 64) 0 (writeReq b m) (fit 64 l) m))) ∧
      (s.writeWaits (s.ext ((s.extentAt (d / 64 * 64)).getD 0)).part (d / 64 * 64) 64 = true → Gives (.cxlMemWrite h a b m l) s
        (((s.countHead h 8 (pop64 m)).hold (.coherent (s.hostMsg h (d / 64 * 64) 0 (writeReq b m) (fit 64 l) m))).hasten (d / 64 * 64) 64))) ∧
    (s.homeBlocked (d / 64 * 64) 64 = false → (s.ext ((s.extentAt (d / 64 * 64)).getD 0)).coh ≠ 1 →
      (s.writeWaits (s.ext ((s.extentAt (d / 64 * 64)).getD 0)).part (d / 64 * 64) 64 = false → Gives (.cxlMemWrite h a b m l) s ((maskRuns m).foldl (fun t (q : Nat × Nat) =>
        t.writeRange ((s.countHead h 8 (pop64 m)).partAt (d / 64 * 64)) 1 (d / 64 * 64 + q.1) (((fit 64 l).drop q.1).take q.2) false)
        (s.countHead h 8 (pop64 m)))) ∧
      (s.writeWaits (s.ext ((s.extentAt (d / 64 * 64)).getD 0)).part (d / 64 * 64) 64 = true → Gives (.cxlMemWrite h a b m l) s
        (((s.countHead h 8 (pop64 m)).hold (.host h (d / 64 * 64) m (fit 64 l))).hasten (d / 64 * 64) 64)))) ∧
  (∀ (s : State) (h line st : Nat), s.headUp h = true → (s.head h).bisnp.find? (fun x => x.1 == line) = none ∨ s.trackerOf line = none →
    Gives (.birsp h line st) s ((s.countHead h 22 1).lateLine line)) ∧
  (∀ (s : State) (h line st k mem : Nat) (b : Nat × Snoop) (t : Tracker2), s.headUp h = true →
    (s.head h).bisnp.find? (fun x => x.1 == line) = some b → s.trackerOf line = some k → tfind s.coh.trackers k = some t →
    s.memberIndex t.msg.part (s.endpoint (40 + h)) = some mem →
    Gives (.birsp h line st) s (((s.countHead h 22 1).modHead h (fun x => { x with bisnp := x.bisnp.erase b })).cohAck k mem st none)) ∧
  (∀ (s : State) (h i base size ways gran pos dpa : Nat), s.headUp h = true → i < 8 →
    (ways ∈ [1, 2, 4, 8] → gran ∈ [256, 512, 1024, 2048, 4096, 8192, 16384] →
      Gives (.hdmDecoderCommit h i base size ways gran pos dpa) s (s.modHead h (fun x => { x with
        decoders := tins x.decoders i { committed := true, error := false, base := base, size := size, ways := ways, granularity := gran, position := pos, dpaBase := dpa } }))) ∧
    (ways ∉ [1, 2, 4, 8] ∨ gran ∉ [256, 512, 1024, 2048, 4096, 8192, 16384] →
      Gives (.hdmDecoderCommit h i base size ways gran pos dpa) s (s.modHead h (fun x => { x with
        decoders := tins x.decoders i { (tget HdmDecoder.reset x.decoders i) with committed := false, error := true } })))) ∧
  (∀ (s : State) (h : Nat), h < 2 → (s.head h).perst = false →
    Gives (.perstAssert h) s
      (((s.headReset h).modHead h (fun x => { x with perst := true, link := .perst, width := 0, rate := 0, flit := false })).countHead h 33 1)) ∧
  (∀ (s : State) (h : Nat), h < 2 → (s.head h).perst = true →
    Gives (.perstRelease h) s (s.modHead h (fun x => { x with perst := false, link := if 5 ≤ s.boot.step then .training else .down }))) ∧
  (∀ (s : State) (h : Nat), h < 2 → (s.head h).link = .active →
    Gives (.cxlLinkDown h) s
      (((s.headReset h).modHead h (fun x => { x with link := .down, width := 0, rate := 0, flit := false })).countHead h 30 1)) ∧
  (∀ (s : State) (h w r : Nat), h < 2 → (s.head h).perst = false → (s.head h).link ≠ .active → 5 ≤ s.boot.step → s.sec.recovery = false →
    s.linksIdle = false → Gives (.cxlLinkTrainingComplete h w r) s (s.modHead h (fun x => { x with
      link := .active, width := w, rate := r, flit := r == 6 || Config.freeValue s.free % 2 == 1 })).drawn) ∧
  (∀ (s : State) (h : Nat), h < 2 → s.isReady = true → Gives (.functionLevelReset h) s (s.modHead h (fun x => { x with flr := true })))

/-- CXL mailbox commands (R382, R383, R385–R390, R426; payload layouts of log entry 23). -/
def Obligations.CxlMailboxCommandsTakeEffect : Prop :=
  (∀ (s : State) (h op : Nat) (p : Bool) (a : CxlAnswer), s.headUp h = true →
    (s.hearthRefuses = none → s.mailbox h p op a = (a.state.modHead h (fun x =>
      if p then { x with primary := some { opcode := op, code := a.code, payload := a.payload } }
      else { x with secondary := some { opcode := op, code := a.code, payload := a.payload } })).countHead h (if p then 36 else 38) 1) ∧
    ∀ st, s.hearthRefuses = some st → s.mailbox h p op a = (s.modHead h (fun x =>
      if p then { x with primary := some { opcode := op, code := rcRefused st, payload := [] } }
      else { x with secondary := some { opcode := op, code := rcRefused st, payload := [] } })).countHead h (if p then 36 else 38) 1) ∧
  (∀ (s : State) (h : Nat) (p : Bool) (i : List Byte),
    Gives (.identify h p i) s (s.mailbox h p 0x0001 (if i = [] then { code := 0, payload := s.freeBytes 16 ++ [13, 3], state := s.drawn } else s.answer rcLength))) ∧
  (∀ (s : State) (h : Nat) (p : Bool) (i : List Byte),
    Gives (.backgroundOperationStatus h p i) s (s.mailbox h p 0x0002 (if i = [] then { code := 0, payload := zeros 8, state := s } else s.answer rcLength))) ∧
  (∀ (s : State) (h : Nat) (p : Bool) (i : List Byte),
    Gives (.getSupportedLogs h p i) s (s.mailbox h p 0x0400 (if i = [] then { code := 0, payload := [1, 0] ++ zeros 6 ++ celUuid ++ leBytes 4 (4 * (celOpcodes p).length), state := s } else s.answer rcLength))) ∧
  (∀ (s : State) (h : Nat) (p : Bool) (i : List Byte),
    Gives (.getEventInterruptPolicy h p i) s (s.mailbox h p 0x0102 (if i = [] then { code := 0, payload := fit 5 (s.head h).policy, state := s } else s.answer rcLength))) ∧
  (∀ (s : State) (h : Nat) (p : Bool) (i : List Byte),
    Gives (.getPartitionInfo h p i) s (s.mailbox h p 0x4100 (if i = [] then { code := 0, payload := zeros 32, state := s } else s.answer rcLength))) ∧
  (∀ (s : State) (h : Nat) (p : Bool) (i : List Byte),
    Gives (.identifyMemoryDevice h p i) s (s.mailbox h p 0x4000 (if i = [] then { code := 0, state := s.drawn, payload := s.freeBytes 16 ++ zeros 32 ++ leBytes 2 64 ++ leBytes 2 64 ++ leBytes 2 64 ++ leBytes 2 16 ++ zeros 4 ++ leBytes 3 256 ++ (s.freeBytes 20).drop 16 ++ leBytes 2 256 } else s.answer rcLength))) ∧
  (∀ (s : State) (h : Nat) (p : Bool) (i : List Byte), Gives (.getTimestamp h p i) s (s.mailbox h p 0x0300 (if i = [] then { code := 0, state := s.drawn, payload := leBytes 8 (if (s.head h).timestamp = 0 then 0 else (s.head h).timestamp + Config.freeValue s.free % 2048) } else s.answer rcLength))) ∧
  (∀ (s : State) (h : Nat) (p : Bool) (i : List Byte), i.length = 24 → i.take 16 = celUuid → le i 20 4 ≤ 8192 →
    le i 16 4 + le i 20 4 ≤ (s.celBytes p).length →
    Gives (.getLog h p i) s (s.mailbox h p 0x0401 { code := 0, payload := ((s.celBytes p).drop (le i 16 4)).take (le i 20 4), state := s.drawn })) ∧
  (∀ (s : State) (h : Nat) (i : List Byte), i.length = 8 →
    Gives (.setTimestamp h true i) s (s.mailbox h true 0x0301 ((s.modHead h (fun x => { x with timestamp := le i 0 8 })).answer 0)) ∧
    Gives (.setTimestamp h false i) s (s.mailbox h false 0x0301 (s.answer rcUnsupported))) ∧
  (∀ (s : State) (h : Nat) (p : Bool) (b : Byte), b.toNat < 5 → Completes (.getEventRecords h p [b]) s (fun t => ∃ l, t = drive (s.mailbox h p 0x0100
      { code := 0, payload := l, state := s.drawn }) ∧
      le l 20 2 = min 63 ((tget EventLog.reset (s.head h).logs b.toNat).recs.flatMap EventRec.parts).length)) ∧
  (∀ (s : State) (h l n : Nat) (p : Bool) (i : List Byte), le i 0 1 = l → l < 5 → le i 2 1 = n → i.length = 6 + 2 * n →
    (bit (le i 1 1) 0 = true → Gives (.clearEventRecords h p i) s (s.mailbox h p 0x0101
      ((s.modHead h (fun y => { y with logs := tins y.logs l { recs := [], overflow := false, lost := 0 } })).answer 0))) ∧
    (bit (le i 1 1) 0 = false → inOrder (tget EventLog.reset (s.head h).logs l).recs (leList 2 n (i.drop 6)) = true →
      Gives (.clearEventRecords h p i) s (s.mailbox h p 0x0101 ((s.modHead h (fun y => { y with
        logs := tins y.logs l { recs := (tget EventLog.reset (s.head h).logs l).recs.drop n, overflow := false, lost := 0 } })).answer 0))) ∧
    (bit (le i 1 1) 0 = false → inOrder (tget EventLog.reset (s.head h).logs l).recs (leList 2 n (i.drop 6)) = false →
      Gives (.clearEventRecords h p i) s (s.mailbox h p 0x0101 (s.answer rcHandle)))) ∧
  (∀ (s : State) (h : Nat) (p : Bool) (i : List Byte), i.length = 4 ∨ i.length = 5 → (∀ b, b ∈ i → b.toNat % 4 < 2) →
    Gives (.setEventInterruptPolicy h p i) s (s.mailbox h p 0x0103
      ((s.modHead h (fun x => { x with policy := fit 5 (i ++ x.policy.drop i.length) })).answer 0))) ∧
  (∀ (s : State) (h : Nat) (p : Bool) (i : List Byte), i.length = 16 → Completes (.getPoisonList h p i) s (fun t => ∃ l, t = drive (s.mailbox h p 0x4300
      { code := 0, payload := l, state := s.drawn }) ∧
      le l 10 2 = ((s.head h).poisonList.filter (fun k => s.acceptedAt h (k * 64) && decide (le i 0 8 / 64 * 64 ≤ k * 64) &&
        decide (k * 64 < le i 0 8 / 64 * 64 + le i 8 8 * 64))).length % 2 ^ 16)) ∧
  (∀ (s : State) (h : Nat) (i : List Byte), s.headUp h = true → i.length = 8 → le i 0 8 % 64 = 0 → s.acceptedAt h (le i 0 8) = true →
    s.writeWaits (s.ext ((s.extentAt (le i 0 8)).getD 0)).part (le i 0 8) 64 = false →
    Gives (.injectPoison h true i) s (s.mailbox h true 0x4301
      (((s.headStore h (le i 0 8) (s.freeBytes 64) true).notePoison (le i 0 8)).drawn.answer 0))) ∧
  (∀ (s : State) (h : Nat) (i : List Byte), s.headUp h = true → i.length = 72 → le i 0 8 % 64 = 0 → s.acceptedAt h (le i 0 8) = true →
    s.writeWaits (s.ext ((s.extentAt (le i 0 8)).getD 0)).part (le i 0 8) 64 = false →
    Gives (.clearPoison h true i) s (s.mailbox h true 0x4302 ((s.headStore h (le i 0 8) (i.drop 8) false).answer 0))) ∧
  (∀ (s : State) (h : Nat) (i : List Byte), Gives (.injectPoison h false i) s (s.mailbox h false 0x4301 (s.answer rcUnsupported)) ∧
    Gives (.clearPoison h false i) s (s.mailbox h false 0x4302 (s.answer rcUnsupported))) ∧
  (∀ (s : State) (h : Nat) (p : Bool) (i : List Byte), i.length = 2 → Completes (.getDynamicCapacityConfiguration h p i) s (fun t => ∃ l,
      t = drive (s.mailbox h p 0x4800 { code := 0, payload := l, state := s.drawn }) ∧
      le l 0 1 = (((List.range 8).filter (fun r => (tfind s.cxl.regions r).isSome)).length) % 256)) ∧
  (∀ (s : State) (h : Nat) (p : Bool) (i : List Byte), i.length = 8 → le i 4 4 ≤ (s.mergedExtents (s.head h).accepted).length →
    Completes (.getDynamicCapacityExtentList h p i) s (fun t => ∃ l,
      t = drive (s.mailbox h p 0x4801 { code := 0, payload := l, state := s.drawn }) ∧
      le l 4 4 = (s.mergedExtents (s.head h).accepted).length % 2 ^ 32)) ∧
  (∀ (s : State) (h : Nat) (p : Bool) (i : List Byte), listWellFormed i = true →
    ((listedBlocks i).map (fun b => (s.head h).offered.find? (fun n => (s.ext n).dpaBlk == b))).any (·.isNone) = false →
    ∀ l, l = ((listedBlocks i).map (fun b => (s.head h).offered.find? (fun n => (s.ext n).dpaBlk == b))).filterMap id →
    (l = [] → Gives (.addDynamicCapacityResponse h p i) s (s.mailbox h p 0x4802 ((s.modHead h (fun x => { x with offered := [] })).answer 0))) ∧
    (l ≠ [] → Gives (.addDynamicCapacityResponse h p i) s (s.mailbox h p 0x4802 ((s.modHead h (fun x => { x with
      offered := x.offered.filter (fun n => !l.contains n)
      accepting := x.accepting ++ l.filter (fun n => !x.accepting.contains n) })).answer 0)))) ∧
  (∀ (s : State) (h : Nat) (p : Bool) (i : List Byte), listWellFormed i = true → (∀ b, b ∈ listedBlocks i → s.regionOf (b * 2 ^ 28) ≠ none) →
    Gives (.releaseDynamicCapacity h p i) s (s.mailbox h p 0x4803 ((s.modHead h (fun x => { x with
      releasing := x.releasing ++ (((s.head h).accepted ++ (s.head h).accepting).filter (fun n => (listedBlocks i).contains (s.ext n).dpaBlk)).filter
        (fun n => !x.releasing.contains n) })).answer 0))) ∧
  (∀ (s : State) (h op : Nat) (p : Bool), cxlServed p op = false →
    Gives (.unsupportedCxlCommand h p op) s (s.mailbox h p op (s.answer rcUnsupported)))

/-- Parts and ends of commands (R242, R421, R422, R433, R439, R454, R461, R529). -/
def Obligations.CommandPartsAndEndsTakeEffect : Prop :=
  (∀ (s : State) (arg : IcsArg) (ch : Chan) (m : IcsMsg), s.icsTake arg = some (ch, m) → bit m.flags 3 = true →
    ∀ s1, s1 = s.dropHeld ch m →
    (∀ st, s1.coreRefuses ch m.opcode = some st → Gives (.icsRequestPart arg) s (s1.refuseIcs ch m st)) ∧
    (s1.coreRefuses ch m.opcode = none → bit m.flags 4 = false → takesParts m.opcode = true → m.headerOk false = true →
      m.partNo = ((s1.chan ch).parts.map (·.next)).getD 0 → m.payload.length ≤ 4096 → m.partNo < 15 →
      (((s1.chan ch).parts.map (·.got)).getD []).length + m.payload.length ≤ 65536 →
      Gives (.icsRequestPart arg) s ((s1.modChan ch (fun c => { c with parts := some {
        opcode := m.opcode, tag := m.tag, got := ((s1.chan ch).parts.map (·.got)).getD [] ++ m.payload
        next := m.partNo + 1, heatsLeft := 64 } })).refuseIcs ch m stOk)) ∧
    (s1.coreRefuses ch m.opcode = none → (bit m.flags 4 = true ∨ takesParts m.opcode = false ∨ m.headerOk false = false ∨ 4096 < m.payload.length) →
      Gives (.icsRequestPart arg) s (s1.refuseIcs ch m stInvalid)) ∧
    (s1.coreRefuses ch m.opcode = none → bit m.flags 4 = false → takesParts m.opcode = true → m.headerOk false = true → m.payload.length ≤ 4096 →
      (m.partNo ≠ ((s1.chan ch).parts.map (·.next)).getD 0 ∨ 15 ≤ m.partNo ∨
        65536 < (((s1.chan ch).parts.map (·.got)).getD []).length + m.payload.length) →
      Gives (.icsRequestPart arg) s ((s1.modChan ch (fun c => { c with parts := none })).refuseIcs ch m stInvalid))) ∧
  (∀ (s : State) (arg : IcsArg) (ch : Chan) (m : IcsMsg), s.icsTake arg = some (ch, m) → bits m.flags 3 2 = 2 →
    ∀ s1, s1 = s.dropHeld ch m → s1.coreRefuses ch m.opcode = none →
    ((s1.chan ch).result = none → Gives (.icsContinue arg) s (s1.refuseIcs ch m stInvalid)) ∧
    ∀ r, (s1.chan ch).result = some r →
      (m.headerOk false = true → m.payload = [] → m.partNo = r.next → m.partition = ch.part →
        Gives (.icsContinue arg) s ((s1.modChan ch (fun c => { c with result := if s1.replyRoom ch < r.rest.length then some { r with rest := r.rest.drop (s1.replyRoom ch), next := r.next + 1, heatsLeft := 64 } else none })).writeReply ch {
          opcode := m.opcode, flags := replyFlags r.accepted (decide (s1.replyRoom ch < r.rest.length)), status := r.status, tag := m.tag
          partition := m.partition, partNo := m.partNo, payload := r.rest.take (s1.replyRoom ch) })) ∧
      (m.headerOk false = false ∨ m.payload ≠ [] ∨ m.partNo ≠ r.next → Gives (.icsContinue arg) s (s1.refuseIcs ch m stInvalid))) ∧
  (∀ (s : State) (ch : Chan), (∃ h, (s.chan ch).parts = some h ∧ h.heatsLeft = 0) ∨ (∃ h, (s.chan ch).result = some h ∧ h.heatsLeft = 0) →
    Gives (.icsHeldPartsExpiry ch) s (s.modChan ch (fun c => { c with
      parts := c.parts.filter (fun h => h.heatsLeft != 0), result := c.result.filter (fun h => h.heatsLeft != 0) }))) ∧
  (∀ (s : State) (arg : IcsArg) (ch : Chan) (m : IcsMsg), s.icsTake arg = some (ch, m) → bits m.flags 3 2 = 0 → catalogue.contains m.opcode = false →
    Gives (.reservedIcsOpcode arg) s ((s.taken ch m).refuseIcs ch m (((s.taken ch m).coreRefuses ch m.opcode).getD stInvalid))) ∧
  (∀ (s : State) (t off : Nat) (d : List Byte) (r : Running), s.sec.programming = some (t, off, d) → s.waiting .programmed = some r → s.noCore = false →
    Gives .flashProgrammed s (State.endRunning { s with sec := { s.sec with
      programming := none
      flash := { s.sec.flash with
        objects := tins s.sec.flash.objects t (bwrite (s.sec.flash.object t) off d)
        lengths := tins s.sec.flash.lengths t (max (tget 0 s.sec.flash.lengths t) (off + d.length)) } } } r stOk [])) ∧
  (∀ (s : State) (t : Nat) (r : Running), s.sec.activating = some t → s.waiting (.verified t) = some r → s.noCore = false →
    (s.targetOk t = true → Gives .activationVerified s (State.endRunning { s with sec := { s.sec with
      activating := none
      flash := if t = 2 then { s.sec.flash with cfgPending := true } else { s.sec.flash with activeImage := t } } } r stOk [])) ∧
    (s.targetOk t = false → Gives .activationVerified s (State.endRunning { s with sec := { s.sec with activating := none } } r stInvalid []))) ∧
  (∀ (s : State) (ch : Chan) (q : List Byte) (r : Running), (s.chan ch).unsigned = some q → s.hearthRefuses = none →
    s.hearth.running.find? (fun r => r.chan == ch && r.wait == .event .report) = some r →
    Gives (.reportSigned ch) s ((s.modChan ch (fun c => { c with report := some (s.signedReport ch q), unsigned := none })).endRunning r stOk
      (leBytes 4 (s.signedReport ch q).length))) ∧
  (∀ (s : State) (p g psa n live : Nat) (r : Running), s.pendingLoad p g = some (r, psa, n, live) → s.hearthRefuses = none →
    s.allReady [{ part := p, psa := psa, len := n, write := false }] = true →
    Gives (.measurementAppended p g) s ((s.useLines 3 [{ part := p, psa := psa, len := n, write := false }]).measure p g r psa n live)) ∧
  (∀ (s : State) (p g psa n live d : Nat) (r : Running) (l : List Byte), s.programSlot p g = some d → s.pLoad p psa n = (stOk, l) →
    s.measure p g r psa n live = State.endRunning { (s.engineStore 3 p d l false).appendLog p (logEntry 2 g n live s.heat.count (sha256 l)) with
      anvils := { ((s.engineStore 3 p d l false).appendLog p (logEntry 2 g n live s.heat.count (sha256 l))).anvils with
        programs := tins ((s.engineStore 3 p d l false).appendLog p (logEntry 2 g n live s.heat.count (sha256 l))).anvils.programs (16 * p + g)
          { length := n, liveMax := live, digest := sha256 l } } } r stOk (sha256 l))

/-- Information and partition commands of the command set (0xC0xx, 0xC1xx): each row, with its check, its own rules and what it changes. -/
def Obligations.PartitionCommandsServe : Prop :=
  Answers .deviceInformation deviceInformationCmd (fun _ => [])
    (fun q => q.now.deviceInfo) ∧
  Answers .configRecordRead configRecordReadCmd configRecordReadRules
    (fun q => bread (tget [] q.now.sec.flash.objects 3) (le q.pay 0 4) (le q.pay 4 4)) ∧
  Answers .certificateChainRead certificateChainReadCmd certificateChainReadRules
    (fun q => bread q.now.sec.flash.chain (le q.pay 0 4) (le q.pay 4 4)) ∧
  Stages .partitionCreate partitionCreateCmd partitionCreateRules
    (fun q => [.partition (le q.pay 0 1)])
    (fun q => let conf := le q.pay 1 1 == 1; .partitionCreate (le q.pay 0 1) conf (le q.pay 4 4) (le q.pay 8 2) (le q.pay 10 2)) ∧
  Stages .partitionDestroy partitionDestroyCmd (fun _ => [])
    (fun q => [.partition (le q.pay 0 1)])
    (fun q => .partitionDestroy (le q.pay 0 1)) ∧
  Answers .partitionInformation partitionInformationCmd partitionInformationRules
    (fun q => q.now.partRecord (le q.pay 0 1)) ∧
  Stages .partitionSpanSet partitionSpanSetCmd partitionSpanSetRules
    (fun q => [.partition (le q.pay 0 1)])
    (fun q => .spanSet (le q.pay 0 1) (le q.pay 4 4) (le q.pay 8 2)) ∧
  Stages .memberSet memberSetCmd memberSetRules
    (fun q => [.memberList (le q.pay 0 1)])
    (fun q => let ms := memberList q.pay (le q.pay 2 2); .memberSet (le q.pay 0 1) ms) ∧
  Stages .coherenceSet coherenceSetCmd coherenceSetRules
    (fun q => [.coherence (le q.pay 0 1)])
    (fun q => .coherenceSet (le q.pay 0 1) (le q.pay 2 2) (le q.pay 4 1)) ∧
  Stages .contextRangeSet contextRangeSetCmd contextRangeSetRules
    (fun q => [.contextRange (le q.pay 0 1)])
    (fun q => .contextRange (le q.pay 0 1) (le q.pay 2 2) (le q.pay 4 2)) ∧
  Stages .starterBind starterBindCmd starterBindRules
    (fun q => [.target (le q.pay 0 1)])
    (fun q => .starterBind (le q.pay 0 1) (le q.pay 1 1))

/-- Extent, region, offer and tag commands (0xC200 to 0xC206): each row, with its check, its own rules and what it changes. -/
def Obligations.ExtentCommandsServe : Prop :=
  Stages .extentAdd extentAddCmd extentAddRules
    (fun q => let n := (q.proj.lowestExtent).getD 0; [.extent n, .psaBlock (le q.pay 0 1) (le q.pay 4 4)])
    (fun q => let n := (q.proj.lowestExtent).getD 0; .extentAdd n q.newExtent) ∧
  Stages .extentRelease extentReleaseCmd extentReleaseRules
    (fun q => let found := q.proj.extAt (le q.pay 0 1) (le q.pay 4 4); let n := (found.map (·.1)).getD 0; [.extent n])
    (fun q => let found := q.proj.extAt (le q.pay 0 1) (le q.pay 4 4); let n := (found.map (·.1)).getD 0; .extentRelease n) ∧
  Answers .extentInformation extentInformationCmd extentInformationRules
    (fun q => ((q.now.extAt (le q.pay 0 1) (le q.pay 4 4)).map (fun e => e.2.entry)).getD []) ∧
  Stages .cxlRegionSet cxlRegionSetCmd cxlRegionSetRules
    (fun _ => [.table "regions"])
    (fun q => .regionSet (le q.pay 0 1) (le q.pay 4 2) (le q.pay 6 2)) ∧
  Stages .cxlOffer cxlOfferCmd cxlOfferRules
    (fun q => let bs := blockList q.pay (le q.pay 2 2); let es := bs.filterMap (q.proj.extAt (le q.pay 1 1)); es.map (fun e => .extent e.1))
    (fun q => let bs := blockList q.pay (le q.pay 2 2); let es := bs.filterMap (q.proj.extAt (le q.pay 1 1)); .cxlOffer (le q.pay 0 1) (es.map (·.1))) ∧
  Stages .cxlWithdraw cxlWithdrawCmd cxlWithdrawRules
    (fun q => let bs := blockList q.pay (le q.pay 2 2); let es := bs.filterMap (q.proj.extAt (le q.pay 1 1)); es.map (fun e => .extent e.1))
    (fun q => let bs := blockList q.pay (le q.pay 2 2); let es := bs.filterMap (q.proj.extAt (le q.pay 1 1)); .cxlWithdraw (le q.pay 0 1) (es.map (·.1))) ∧
  Stages .dcTagSet dcTagSetCmd dcTagSetRules
    (fun _ => [.table "tags"])
    (fun q => .dcTagSet (le q.pay 0 1) (q.pay.drop 16))

/-- Seal, hint and migration-budget commands (0xC207 to 0xC3xx): each row, with its check, its own rules and what it changes. -/
def Obligations.SealAndHintCommandsServe : Prop :=
  Stages .sealQuotaSet sealQuotaSetCmd sealQuotaSetRules
    (fun q => [.sealQuota (le q.pay 0 1)])
    (fun q => .sealQuota (le q.pay 0 1) (le q.pay 2 2)) ∧
  Stages .sealCreate sealCreateCmd sealCreateRules
    (fun q => let bs := blockList q.pay (le q.pay 0 2); let es := bs.filterMap (q.proj.extAt q.part); let sid := (q.proj.lowestSeal).getD 0; .sealObj sid :: es.map (fun e => .extent e.1))
    (fun q => let bs := blockList q.pay (le q.pay 0 2); let es := bs.filterMap (q.proj.extAt q.part); let sid := (q.proj.lowestSeal).getD 0; .sealCreate sid q.part (es.map (·.1)) bs) ∧
  Answers .sealInformation sealInformationCmd sealInformationRules
    (fun q => q.now.sealRecord (le q.pay 0 1) ++ (q.now.seal (le q.pay 0 1)).psaBlks.flatMap (leBytes 4)) ∧
  Stages .sealMap sealMapCmd sealMapRules
    (fun q => let x := q.proj.seal (le q.pay 0 1); let n := (x.blocks[(le q.pay 2 2)]?).getD 0; [.extent n, .psaBlock q.part (le q.pay 4 4), .sealObj (le q.pay 0 1)])
    (fun q => let x := q.proj.seal (le q.pay 0 1); let n := (x.blocks[(le q.pay 2 2)]?).getD 0; .sealMap n (le q.pay 4 4)) ∧
  Stages .sealUnmap sealUnmapCmd sealUnmapRules
    (fun q => let found := q.proj.extAt q.part (le q.pay 0 4); let n := (found.map (·.1)).getD 0; [.extent n, .psaBlock q.part (le q.pay 0 4)])
    (fun q => let found := q.proj.extAt q.part (le q.pay 0 4); let n := (found.map (·.1)).getD 0; .sealUnmap n) ∧
  Stages .sealRelease sealReleaseCmd sealReleaseRules
    (fun q => let x := q.proj.seal (le q.pay 0 1); .sealObj (le q.pay 0 1) :: x.blocks.map .extent)
    (fun q => .sealRelease (le q.pay 0 1)) ∧
  Stages .hintSet hintSetCmd hintSetRules
    (fun q => [.item q.part "hints"])
    (fun q => .hintSet q.part (le q.pay 0 8) (le q.pay 8 6) (le q.pay 14 1)) ∧
  Answers .hintList hintListCmd (fun _ => [])
    (fun q => let l := (tget [] q.now.tiers.hints q.part).foldl (fun a r => putRange r a) []; l.flatMap (fun r => leBytes 8 r.base ++ leBytes 6 r.len ++ [BitVec.ofNat 8 r.hint, 0])) ∧
  Stages .migrationBudgetSet migrationBudgetSetCmd migrationBudgetSetRules
    (fun _ => [.table "budget"])
    (fun q => .budgetSet (le q.pay 0 1))

/-- Fabric and route commands (0xC4xx): each row, with its check, its own rules and what it changes. -/
def Obligations.FabricCommandsServe : Prop :=
  Stages .coordinateSet coordinateSetCmd coordinateSetRules
    (fun _ => [.table "coordinate"])
    (fun q => .coordinate (le q.pay 0 1) (le q.pay 1 1)) ∧
  Stages .portNeighbourSet portNeighbourSetCmd portNeighbourSetRules
    (fun q => [.port (le q.pay 0 1)])
    (fun q => let nb := neighbourOf q.pay; .neighbour (le q.pay 0 1) nb) ∧
  Stages .routeSet routeSetCmd routeSetRules
    (fun _ => [.table "routes"])
    (fun q => let es := leList 2 (le q.pay 2 2) (q.pay.drop 4); .routeSet (le q.pay 0 2) es) ∧
  Answers .routeRead routeReadCmd routeReadRules
    (fun q => (List.range (le q.pay 2 2)).flatMap (fun k => leBytes 2 (if 1048 ≤ (le q.pay 0 2) + k then 0 else tget 0 q.now.routing.table ((le q.pay 0 2) + k)))) ∧
  Stages .portSet portSetCmd portSetRules
    (fun q => [.port (le q.pay 0 1)])
    (fun q => .portSet (le q.pay 0 1) (bit (le q.pay 1 1) 0) (bit (le q.pay 1 1) 1) (le q.pay 2 1) (le q.pay 3 1)) ∧
  Stages .portRetrain portRetrainCmd portRetrainRules
    (fun q => [.port (le q.pay 0 1)])
    (fun q => .portRetrain (le q.pay 0 1)) ∧
  Stages .transitMaskSet transitMaskSetCmd transitMaskSetRules
    (fun q => [.port (le q.pay 0 1)])
    (fun q => .transitMask (le q.pay 0 1) (le q.pay 8 8)) ∧
  Stages .heatSyncSet heatSyncSetCmd heatSyncSetRules
    (fun _ => [.table "sync"])
    (fun q => let role : SyncRole := if (le q.pay 0 1) = 0 then .free else if (le q.pay 0 1) = 1 then .reference else .child (le q.pay 1 1); .heatSync role)

/-- Scheduling commands (0xC5xx): each row, with its check, its own rules and what it changes. -/
def Obligations.SchedulingCommandsServe : Prop :=
  Stages .queueSet queueSetCmd queueSetRules
    (fun q => [.port (le q.pay 0 1)])
    (fun q => .queueSet (le q.pay 0 1) (le q.pay 1 1) (le q.pay 2 2) (le q.pay 4 1)) ∧
  Stages .groupSet groupSetCmd groupSetRules
    (fun q => [.gateGroup (le q.pay 0 1)])
    (fun q => .groupSet (le q.pay 0 1) (le q.pay 1 1)) ∧
  Stages .gateSet gateSetCmd gateSetRules
    (fun q => [.port (le q.pay 0 1)])
    (fun q => .gateSet (le q.pay 0 1) (gateListOf q.pay)) ∧
  Stages .weightSet weightSetCmd weightSetRules
    (fun q => (bitList 24 (le q.pay 0 3)).map .port)
    (fun q => .weightSet (le q.pay 0 3) (le q.pay 4 1) (le q.pay 5 1) (le q.pay 6 1)) ∧
  Stages .shaperSet shaperSetCmd shaperSetRules
    (fun q => (bitList 24 (le q.pay 0 3)).map .port)
    (fun q => .shaperSet (le q.pay 0 3) (le q.pay 4 1) (bit (le q.pay 5 1) 0) (le q.pay 8 4) (le q.pay 12 3)) ∧
  Stages .splitSet splitSetCmd splitSetRules
    (fun q => [.port (le q.pay 0 1)])
    (fun q => let w := watchedPairs q.pay; .splitSet (le q.pay 0 1) ((le q.pay 1 1) + 1) (le q.pay 2 2) (w.map (fun x => qkey x.1 x.2))) ∧
  Replies .splitRead splitReadCmd splitReadRules
    (fun q => let r := q.now.splitRead (le q.pay 0 1); r.1)
    (fun q => let r := q.now.splitRead (le q.pay 0 1); r.2) ∧
  Stages .ageLimitSet ageLimitSetCmd ageLimitSetRules
    (fun _ => [.table "ages"])
    (fun q => .ageLimits (le q.pay 0 4) (le q.pay 4 1) (le q.pay 5 1) (le q.pay 6 1))

/-- Melt, ring and roster commands (0xC60x, 0xC61x): each row, with its check, its own rules and what it changes. -/
def Obligations.MeltAndRosterCommandsServe : Prop :=
  Stages .meltOpen meltOpenCmd meltOpenRules
    (fun q => let m := (q.proj.lowestMelt).getD 0; [.melt m])
    (fun q => let m := (q.proj.lowestMelt).getD 0; .meltOpen m q.part q.pay) ∧
  Stages .meltContributors meltContributorsCmd meltContributorsRules
    (fun q => [.melt (meltId q.pay)])
    (fun q => let t := contributorList q.pay; .meltContributors (meltId q.pay) t) ∧
  Stages .meltArm meltArmCmd meltArmRules
    (fun q => [.melt (meltId q.pay)])
    (fun q => .meltArm (meltId q.pay) (le q.pay 2 1)) ∧
  Stages .meltClose meltCloseCmd meltCloseRules
    (fun q => [.melt (meltId q.pay)])
    (fun q => .meltClose (meltId q.pay)) ∧
  Stages .meltAbortStep meltAbortStepCmd meltAbortStepRules
    (fun q => [.melt (meltId q.pay)])
    (fun q => .meltAbort (meltId q.pay)) ∧
  Answers .meltInformation meltInformationCmd meltInformationRules
    (fun q => let x := q.now.melt (meltId q.pay); fit 128 x.desc ++ x.stateBlock ++ leBytes 2 x.contributors.length ++ zeros 14 ++ x.contributors.flatMap (·.bytes)) ∧
  Stages .statusRingSet statusRingSetCmd statusRingSetRules
    (fun q => [.item q.part ("ring" ++ toString (le q.pay 0 1))])
    (fun q => .ringSet q.part (le q.pay 0 1) (le q.pay 8 8) (le q.pay 4 4)) ∧
  Stages .rosterSet rosterSetCmd rosterSetRules
    (fun _ => [.table "roster"])
    (fun q => .rosterSet { lap := (le q.pay 0 2), start := le q.pay 2 6, entries := rosterEntries q.pay }) ∧
  Answers .rosterRead rosterReadCmd (fun _ => [])
    (fun q => q.now.anvils.roster.bytes q.part)

/-- Anvil-store, program and tongs commands (0xC62x, 0xC63x): each row, with its check, its own rules and what it changes. -/
def Obligations.ProgramAndTongsCommandsServe : Prop :=
  Stages .anvilStoreSet anvilStoreSetCmd anvilStoreSetRules
    (fun q => let found := q.proj.extAt q.part (le q.pay 0 4); let n := (found.map (·.1)).getD 0; [.extent n, .psaBlock q.part (le q.pay 0 4), .item q.part "store"])
    (fun q => let found := q.proj.extAt q.part (le q.pay 0 4); let n := (found.map (·.1)).getD 0; .storeSet q.part n) ∧
  Stages .anvilStoreRelease anvilStoreReleaseCmd anvilStoreReleaseRules
    (fun q => let n := (tfind q.proj.anvils.stores q.part).getD 0; [.extent n, .psaBlock q.part (le q.pay 0 4), .item q.part "store"])
    (fun q => let n := (tfind q.proj.anvils.stores q.part).getD 0; .storeRelease q.part n (le q.pay 0 4)) ∧
  Starts .programLoad programLoadCmd programLoadRules
    (fun q => [.programSlot q.part (le q.pay 0 1)])
    (fun q => .digest q.part (le q.pay 0 1) (le q.pay 8 8) (le q.pay 4 4) (le q.pay 16 4))
    (fun q => q.now) ∧
  Stages .programStart programStartCmd programStartRules
    (fun q => [.programSlot q.part (le q.pay 0 1)])
    (fun q => .programStart q.part (le q.pay 0 1) (le q.pay 8 8) (leList 8 8 (q.pay.drop 16))) ∧
  Stages .programStop programStopCmd programStopRules
    (fun q => [.programSlot q.part (le q.pay 0 1)])
    (fun q => .programStop q.part (le q.pay 0 1) (le q.pay 8 8)) ∧
  Stages .tongsContextSet tongsContextSetCmd tongsContextSetRules
    (fun q => [.context (le q.pay 0 2)])
    (fun q => .ctxSet (le q.pay 0 2) q.part (le q.pay 2 2) (le q.pay 8 8) (le q.pay 16 8) (le q.pay 4 4) (le q.pay 24 1)) ∧
  Stages .tongsContextReset tongsContextResetCmd tongsContextResetRules
    (fun q => [.context (le q.pay 0 2)])
    (fun q => .ctxReset (le q.pay 0 2)) ∧
  Answers .tongsContextStatus tongsContextStatusCmd tongsContextStatusRules
    (fun q => let x := q.now.ctx (le q.pay 0 2); [BitVec.ofNat 8 x.state.code, BitVec.ofNat 8 (ofBool x.fault.isSome), 0, 0] ++ leBytes 4 x.subHead ++ fit 32 (x.fault.getD [])) ∧
  Stages .tongsResume tongsResumeCmd tongsResumeRules
    (fun q => [.context (le q.pay 0 2)])
    (fun q => .ctxResume (le q.pay 0 2) (le q.pay 2 1 == 1)) ∧
  Stages .tongsSpaceSet tongsSpaceSetCmd tongsSpaceSetRules
    (fun q => let a := if (le q.pay 0 2) = 0xFFFF then (q.proj.lowestSpace).getD 0 else (le q.pay 0 2); [.space a])
    (fun q => let a := if (le q.pay 0 2) = 0xFFFF then (q.proj.lowestSpace).getD 0 else (le q.pay 0 2); .spaceSet a q.part (le q.pay 8 8)) ∧
  Stages .tongsSpaceFree tongsSpaceFreeCmd tongsSpaceFreeRules
    (fun q => [.space (le q.pay 0 2)])
    (fun q => .spaceFree (le q.pay 0 2)) ∧
  Stages .tongsInvalidate tongsInvalidateCmd tongsInvalidateRules
    (fun q => [.space (le q.pay 0 2)])
    (fun q => .invalidate (le q.pay 0 2) (le q.pay 8 8) (le q.pay 16 8) (bit (le q.pay 2 1) 0)) ∧
  Stages .tongsPlaceSet tongsPlaceSetCmd tongsPlaceSetRules
    (fun q => [.context (le q.pay 0 2)])
    (fun q => .placeSet (le q.pay 0 2) (if (le q.pay 2 2) = 0xFFFF then none else some (le q.pay 2 2))) ∧
  Stages .faultQueueSet faultQueueSetCmd faultQueueSetRules
    (fun q => [.item q.part "faults"])
    (fun q => .faultQueue q.part (le q.pay 8 8) (le q.pay 0 4))

/-- Power and security commands (0xC7xx, 0xC8xx): each row, with its check, its own rules and what it changes. -/
def Obligations.PowerAndSecurityCommandsServe : Prop :=
  Stages .powerLimitSet powerLimitSetCmd powerLimitSetRules
    (fun _ => [.table "power limit"])
    (fun q => .powerLimit (le q.pay 0 2)) ∧
  Stages .phaseDeclare phaseDeclareCmd phaseDeclareRules
    (fun q => [.item q.part "phase"])
    (fun q => .phaseDeclare q.part (le q.pay 0 1)) ∧
  Stages .phaseSet phaseSetCmd phaseSetRules
    (fun _ => [.table "phases"])
    (fun q => let pt : PhasePoint := { step := le q.pay 1 1, cls := le q.pay 2 1, mask := le q.pay 8 8 }; .phaseSet (le q.pay 0 1) pt) ∧
  Stages .dramPowerSet dramPowerSetCmd dramPowerSetRules
    (fun _ => [.table "DRAM power"])
    (fun q => .dramPower (le q.pay 0 1) (le q.pay 2 2)) ∧
  Answers .powerStatus powerStatusCmd (fun _ => [])
    (fun q => q.now.powerBytes) ∧
  Starts .attestationReport attestationReportCmd attestationReportRules
    (fun _ => [])
    (fun _ => .report)
    (fun q => q.now.modChan q.chan (fun c => { c with report := none, unsigned := some q.pay })) ∧
  Answers .attestationRead attestationReadCmd attestationReadRules
    (fun q => let b := (q.now.chan q.chan).report; ((b.getD []).drop (le q.pay 0 4)).take (le q.pay 4 4)) ∧
  Replies .fmChallenge fmChallengeCmd fmChallengeRules
    (fun q => let d := q.now.draw 32; fit 32 d.1)
    (fun q => let d := q.now.draw 32; d.2.modChan q.chan (fun c => { c with nonce := some (fit 32 d.1, 64), bindPart := none })) ∧
  Replies .fmUnbind fmUnbindCmd (fun _ => [])
    (fun _ => [])
    (fun q => { q.now with hearth := { q.now.hearth with binding := none } }) ∧
  Stages .debugUnlock debugUnlockCmd debugUnlockRules
    (fun _ => [.table "debug"])
    (fun _ => .debugUnlock) ∧
  Stages .debugLock debugLockCmd (fun _ => [])
    (fun _ => [.table "debug"])
    (fun _ => .debugLock) ∧
  (∀ (s : State) (arg : IcsArg) (m : IcsMsg) (q : IcsReq), Names s arg fmBindCmd m q →
    (∀ st, checks fmBindCmd m q = some st → Gives (.fmBind arg) s (q.now.refuseIcs q.chan m st)) ∧
    (checks fmBindCmd m q = none → (q.now.chan q.chan).nonce = none → Gives (.fmBind arg) s (q.now.refuseIcs q.chan m stDenied)) ∧
    (checks fmBindCmd m q = none → ∀ (n : List Byte) (k : Nat), (q.now.chan q.chan).nonce = some (n, k) →
      (k = 0 → Gives (.fmBind arg) s (q.now.refuseIcs q.chan m stDenied)) ∧
      (k ≠ 0 → le q.pay 0 1 = 0 →
        Gives (.fmBind arg) s ((q.now.modChan q.chan (fun c => { c with bindPart := some (q.pay.drop 4) })).refuseIcs q.chan m stOk)) ∧
      (k ≠ 0 → le q.pay 0 1 ≠ 0 → (q.now.chan q.chan).bindPart = none → Gives (.fmBind arg) s (q.now.refuseIcs q.chan m stInvalid)) ∧
      (k ≠ 0 → le q.pay 0 1 ≠ 0 → ∀ l, (q.now.chan q.chan).bindPart = some l →
        (q.now.bindOk (q.chan.bindCode.getD 0) n l (q.pay.drop 4) = true →
          Gives (.fmBind arg) s (State.answerIcs { q.now.modChan q.chan (fun c => { c with nonce := none, bindPart := none }) with
            hearth := { (q.now.modChan q.chan (fun c => { c with nonce := none, bindPart := none })).hearth with binding := some q.chan } }
            q.chan m.opcode m.tag m.partition true stOk [])) ∧
        (q.now.bindOk (q.chan.bindCode.getD 0) n l (q.pay.drop 4) = false →
          Gives (.fmBind arg) s ((q.now.modChan q.chan (fun c => { c with nonce := none, bindPart := none })).refuseIcs q.chan m stDenied)))))

/-- Reliability, twin, telemetry and firmware commands (0xC9xx to 0xCBxx): each row, with its check, its own rules and what it changes. -/
def Obligations.ReliabilityAndFirmwareCommandsServe : Prop :=
  Answers .memoryHealth memoryHealthCmd memoryHealthRules
    (fun q => q.now.healthBytes (le q.pay 0 1) (le q.pay 1 1)) ∧
  Stages .scrubFloorSet scrubFloorSetCmd scrubFloorSetRules
    (fun _ => [.table "scrub floor"])
    (fun q => .scrubFloor (le q.pay 0 1)) ∧
  Stages .unitReturn unitReturnCmd unitReturnRules
    (fun q => let u := if (le q.pay 0 1) = 2 then 32 * (le q.pay 1 1) + (le q.pay 2 1) else 256 + 4 * (le q.pay 1 1) + (le q.pay 2 1); [.item 0 ("unit " ++ toString u)])
    (fun q => let u := if (le q.pay 0 1) = 2 then 32 * (le q.pay 1 1) + (le q.pay 2 1) else 256 + 4 * (le q.pay 1 1) + (le q.pay 2 1); .unitReturn u) ∧
  Stages .hearthReturn hearthReturnCmd hearthReturnRules
    (fun _ => [.core])
    (fun q => .hearthReturn (le q.pay 0 1)) ∧
  Starts .hearthSwitch hearthSwitchCmd hearthSwitchRules
    (fun _ => [.core])
    (fun _ => .hearthSwitch)
    (fun q => q.now.beginSwitch true) ∧
  Stages .twinSet twinSetCmd twinSetRules
    (fun _ => [.table "twin"])
    (fun q => .twinSet (le q.pay 0 1) ((q.pay.drop 8).take 32)) ∧
  Stages .twinEpoch twinEpochCmd twinEpochRules
    (fun q => [.item q.part "epoch"])
    (fun q => .twinEpoch q.part) ∧
  Answers .twinStatus twinStatusCmd (fun _ => [])
    (fun q => q.now.twinBytes q.part) ∧
  Answers .unitRead unitReadCmd unitReadRules
    (fun q => (List.range 64).flatMap (fun w => leBytes 8 (q.now.window (le q.pay 0 1) (le q.pay 1 1) w))) ∧
  Replies .coherenceStatistics coherenceStatisticsCmd (fun _ => [])
    (fun q => q.now.coherenceBytes)
    (fun q => if bit q.flags 2 then { q.now with coh := { q.now.coh with counters := [] } } else q.now) ∧
  Replies .queueStatistics queueStatisticsCmd (fun _ => [])
    (fun q => q.now.queueBytes)
    (fun q => if bit q.flags 2 then (List.range 24).foldl (fun a i => a.modEgress i (fun e => { e with stats := [] })) q.now else q.now) ∧
  Answers .firmwareInfo firmwareInfoCmd (fun _ => [])
    (fun q => q.now.firmwareBytes) ∧
  Starts .firmwareWrite firmwareWriteCmd firmwareWriteRules
    (fun _ => [.table "boot flash"])
    (fun _ => .programmed)
    (fun q => { q.now with sec := { q.now.sec with programming := some ((le q.pay 0 1), (le q.pay 4 4), q.pay.drop 16) } }) ∧
  Starts .firmwareActivate firmwareActivateCmd firmwareActivateRules
    (fun _ => [.table "boot flash"])
    (fun q => .verified (le q.pay 0 1))
    (fun q => { q.now with sec := { q.now.sec with activating := some (le q.pay 0 1) } })

/-- Boundaries (R28, R31, R538). -/
def Obligations.BoundaryRunsTheDuties : Prop :=
  (∀ (s : State) (x : Sample), s.heat.running = true → s.pins.pwrok = true → s.isReady = true → Gives (.heatBoundary x) s (s.boundary x)) ∧
  (∀ (s0 : State) (x : Sample), ∀ s, s = s0.cohTick → ∀ s3, s3 = (((s.sweptLists.map (·.1)).foldl State.disableContributors
      s.dutySync.partsTick).firstBoundary.coolantTick.runChanges).runStream →
    ∀ s5, s5 = (((((s3.dutyGates).dutyShapers).dutyBellows x).anvilsTick).dutyMemory x).dutySplit s.heat.count →
    ∀ s7, s7 = ((((((s5.meltTick).tongsTick).linkTick).headTick).functionReset 0).functionReset 1).releaseHeld.runPosts →
    ∀ s9, s9 = ((((((List.range 8).foldl State.lendSlots s7.syncRequest).rekeyTick).securityTick).starterTick).chansTick).resolve →
    s0.boundary x = (((s9.hearthTick.evalReplace).twinTick
      x.batonIn).clearFences).modHeat (fun y => { y with cycle := 0, pulse := true })) ∧
  (∀ s : State, s.heat.offset = none → s.dutySync.heat.count = (s.heat.count + 1) % 2 ^ 48) ∧
  (∀ (s : State) (x : Sample), s.heat.running = true → s.pins.pwrok = true → s.isReady = false → Gives (.heatBoundary x) s (State.hearthTick { s.idleLinks with
    heat := { s.idleLinks.heat with count := (s.idleLinks.heat.count + 1) % 2 ^ 48, cycle := 0, time := s.idleLinks.heat.time + s.idleLinks.heat.length, pulse := false }
    parts := { s.idleLinks.parts with parts := tmap s.idleLinks.parts.parts (fun _ p =>
      { p with tombAge := if p.state = .tombstone then min 512 (p.tombAge + 1) else p.tombAge, quench := p.quench.map (fun q => { q with age := q.age + 1 }) }) }
    cxl := { s.idleLinks.cxl with heads := tmap s.idleLinks.cxl.heads (fun _ h => { h with timestamp := if h.timestamp = 0 then 0 else h.timestamp + 2048 }) } })) ∧
  (∀ s : State, (5 ≤ s.boot.step → s.idleLinks = s.linkTick) ∧ (s.boot.step < 5 → s.idleLinks = s)) ∧
  (∀ (s : State) (x : Sample), s.pins.pwrok = false → Gives (.heatBoundary x) s s) ∧
  (∀ (s : State) (x : Sample), s.pins.pwrok = true → s.heat.running = false → Gives (.heatBoundary x) s s.idleLinks)

/-- R488: the rung of a boundary, over every state and sample. -/
def Obligations.ThrottleRungMovesByOne : Prop :=
  ∀ (s : State) (x : Sample), s.bellows.rung ≤ 6 →
    (s.throttle x).bellows.rung ≤ 6 ∧ (s.throttle x).bellows.rung ≤ s.bellows.rung + 1 ∧ s.bellows.rung ≤ (s.throttle x).bellows.rung + 1 ∧
    (s.bellows.rung < (s.throttle x).bellows.rung → ∃ r, r ∈ s.reasonTests x ∧ r.2.1 = true) ∧
    ((s.throttle x).bellows.rung < s.bellows.rung → ∀ r, r ∈ s.reasonTests x → r.2.1 = false)

/-- The step of the block: first in, first out; idling on an empty queue is a DESIGN CHOICE (log entry 1). -/
def Obligations.StepRunsTheFront : Prop :=
  (∀ (c : Instr) (r : List Instr) (s : State), s.pending = c :: r → step s = exec c { s with pending := r }) ∧
  (∀ s : State, s.pending = [] → step s = .next s) ∧
  (∀ (c : Instr) (s : State), step (s.withFront c) = exec c s) ∧
  (∀ (n w : Nat) (s : State), Sys2Proof.decodeTableWord n w = none ∧ s.withFetchWord n w = s)

/-- An invariant of every step: the output pins follow the state (R45, R495, R503, R504, R515, R535). -/
def Obligations.PinsFollowTheState : Prop :=
  ∀ s t : State, PinsFollow s → step s = .next t → PinsFollow t

/-- What reset leaves; a clause on a value that the spec does not give states the model's choice (log entries 3 to 9). -/
def Obligations.ResetLeaves : Prop :=
  PinsFollow State.reset ∧ State.reset.pending = [] ∧ State.reset.pins.ready = false ∧ State.reset.heat.count = 0 ∧ State.reset.heat.running = false ∧
  State.reset.boot.step = 0 ∧ State.reset.parts.extents = [] ∧ State.reset.parts.dir = [] ∧ State.reset.parts.seals = [] ∧
  State.reset.tiers.mem.wf = true ∧ State.reset.tiers.mem.bytes = [] ∧
  (∀ p, (State.reset.part p).state = .free) ∧ (∀ k, (State.reset.source k).pending = false) ∧ (∀ h, (State.reset.head h).link ≠ .active) ∧
  (∀ i, (State.reset.port i).state ≠ .active) ∧ (∀ c, (State.reset.ctx c).state = .free)

/-- Every command, in every state, answers a next state. -/
def Obligations.EveryCommandAnswersANextState : Prop :=
  (∀ (c : Instr) (s : State), Safe (exec c s)) ∧ (∀ s : State, Safe (step s))

/-- The memory laws, over every state. -/
def Obligations.MemoryReadsWhatWasWritten : Prop :=
  (∀ (s : State) (a b : Nat) (d : List Byte) (p : Bool),
    (s.storeLocation a d p).location b = if b / 64 = a / 64 then (fit 64 d, p) else s.location b) ∧
  (∀ (t : Tab Byte) (a b : Nat) (l : List Byte),
    bget (bwrite t a l) b = if a ≤ b ∧ b < a + l.length then byteAt l (b - a) else bget t b) ∧
  (∀ (t : Tab Byte) (a b n : Nat), bget (bclear t a n) b = if a ≤ b ∧ b < a + n then 0 else bget t b) ∧
  (∀ (s : State) (a : Nat) (d : List Byte) (p : Bool), s.tiers.mem.wf = true → (s.storeLocation a d p).tiers.mem.wf = true) ∧
  (∀ (m : Mem) (a b n : Nat), m.wf = true → (m.copy a b n).wf = true ∧ (m.clear a n).wf = true) ∧
  (∀ (s : State) (a : Nat) (d : List Byte) (p : Bool), { s.storeLocation a d p with tiers := { (s.storeLocation a d p).tiers with mem := s.tiers.mem } } = s)

/-- The frame of the register instructions: of the whole block only their anvil changes. -/
def Obligations.RegisterInstructionsStayInTheirAnvil : Prop :=
  (∀ c ∈ ([.add, .sub, .mul, .and, .or, .xor, .shl, .shr, .sar, .slt, .sltu, .min, .max, .vadd, .vsub, .vmul, .vfma, .vmin,
      .vmax, .vabs, .vneg, .vsign, .vsqrt, .vrcp, .vrsqrt, .vexp2, .vredsum, .vredmax, .vsel, .vsplat, .vacr,
      .vaddInt, .vsubInt, .vmulInt, .vfmaInt, .vminInt, .vmaxInt, .vabsInt, .vnegInt, .vsignInt, .vsqrtInt, .vrcpInt,
      .vrsqrtInt, .vexp2Int, .vredsumInt, .vredmaxInt, .vcmplt, .vlane, .vacw, .vcmpltInt] : List (OpA → Instr)),
    ∀ (s t : State) (o : OpA), exec (c o) s = .next t → OnlyAnvil o.anvil s t) ∧
  (∀ c ∈ ([.addImmediate, .subImmediate, .mulImmediate, .andImmediate, .orImmediate, .xorImmediate, .shlImmediate,
      .shrImmediate, .sarImmediate, .sltImmediate, .sltuImmediate, .minImmediate, .maxImmediate, .lui] : List (OpI → Instr)), ∀ (s t : State) (o : OpI), exec (c o) s = .next t → OnlyAnvil o.anvil s t) ∧
  (∀ c ∈ ([.beq, .bne, .blt, .bge, .bltu, .bgeu, .jal, .jr] : List (OpB → Instr)), ∀ (s t : State) (o : OpB), exec (c o) s = .next t → OnlyAnvil o.anvil s t)

/-- Accepted changes (R32, R423), and what each setting writes. -/
def Obligations.AcceptedChangesTakeEffect : Prop :=
  (∀ (s : State) (r y : Running) (n : Nat) (c : Change), s.hearth.running.find? (fun y => y.id == r.id) = some y → y.wait = .boundary n c →
    c.due s.heat.count = true → (∀ p, c ≠ .partitionDestroy p) → s.runChange r = (s.apply c).state.afterApply y c (s.apply c)) ∧
  (∀ (s : State) (r y : Running) (n : Nat) (c : Change), s.hearth.running.find? (fun y => y.id == r.id) = some y → y.wait = .boundary n c →
    c.due s.heat.count = false → s.runChange r = s) ∧
  (∀ (s : State) (p g t : Nat), s.apply (.coherenceSet p g t) = (s.modPart p (fun x => { x with grip := g, snoopTimeout := t })).ok) ∧
  (∀ (s : State) (p f n : Nat), s.apply (.contextRange p f n) = (s.modPart p (fun x => { x with ctxFirst := if n = 0 then 0 else f, ctxCount := n })).ok) ∧
  (∀ (s : State) (p q : Nat), s.apply (.sealQuota p q) = (s.modPart p (fun x => { x with sealQuota := q })).ok) ∧
  (∀ (s : State) (p g : Nat), s.apply (.groupSet p g) = (s.modPart p (fun x => { x with group := some g })).ok) ∧
  (∀ (s : State) (p ph : Nat), (s.part p).state = .active → s.apply (.phaseDeclare p ph) = (s.modPart p (fun x => { x with phase := ph })).ok) ∧
  (∀ (s : State) (p ph : Nat), (s.part p).state ≠ .active → s.apply (.phaseDeclare p ph) = s.ok) ∧
  (∀ (s : State) (c m : Nat), s.apply (.placeSet c m) = (s.modCtx c (fun x => { x with place := m })).ok) ∧
  (∀ (s : State) (m : Nat) (t : List Contributor), (s.apply (.meltContributors m t)).state.melt m = { s.melt m with contributors := t, tableSet := true }) ∧
  (∀ (s : State) (i g q o : Nat), s.apply (.queueSet i g q o) = ((s.modEgress i (fun e => { e with guard := g, qcap := q, overhead := o })).roomCame i (s.nsNow 0)).ok) ∧
  (∀ s : State, (s.apply .debugUnlock).state = { s with sec := { s.sec with debugUnlocked := true } } ∧
    (s.apply .debugUnlock).status = if s.sec.config.gpio0Fn = 1 then stPartial else stOk) ∧
  (∀ s : State, s.apply .debugLock = State.ok { s with sec := { s.sec with debugUnlocked := false } }) ∧
  (∀ (s : State) (n : Nat), s.apply (.budgetSet n) = State.ok { s with tiers := { s.tiers with budget := n } }) ∧
  (∀ (s : State) (w : Nat), s.apply (.powerLimit w) = State.ok { s with bellows := { s.bellows with limit := w } }) ∧
  (∀ (s : State) (ph : Nat) (pt : PhasePoint), s.apply (.phaseSet ph pt) = State.ok { s with bellows := { s.bellows with phases := tins s.bellows.phases ph pt } }) ∧
  (∀ (s : State) (a b d e : Nat), s.apply (.ageLimits a b d e) = State.ok { s with dram := { s.dram with limit1 := a, limit2 := b, limit3 := d, limit4 := e } }) ∧
  (∀ (s : State) (pd sr : Nat), s.apply (.dramPower pd sr) = State.ok { s with dram := { s.dram with pdIdle := pd, srIdle := sr } }) ∧
  (∀ (s : State) (n : Nat), (s.apply (.scrubFloor n)).state.dram.scrubFloor = n ∧
    ∀ k w, tfind s.dram.walkers k = some w → tfind (s.apply (.scrubFloor n)).state.dram.walkers k =
      some (if w.level < n then { w with level := n, window := 0, corrected := 0, clean := 0, windowEnd := true } else w))

/-- R235: the refusal, what a short run is, and the lap of one partition. -/
def Obligations.ShortRunsAreRefused : Prop :=
  (∀ (s : State) (arg : IcsArg) (m : IcsMsg) (q : IcsReq), Names s arg rosterSetCmd m q → checks rosterSetCmd m q = none →
    (∃ a, a < 64 ∧ shortRun (le q.pay 0 2) (fun k => le q.pay (8 + 64 * k + a) 1) = true) →
    Gives (.rosterSet arg) s (q.now.refuseIcs q.chan m stInvalid)) ∧
  (∀ (lap : Nat) (f : Nat → Nat), shortRun lap f = true ↔
    ∃ k n, k < lap ∧ 1 ≤ n ∧ n < 4 ∧ f k ≠ 0 ∧ f ((k + lap - 1) % lap) ≠ f k ∧
      (∀ j, j < n → f ((k + j) % lap) = f k) ∧ f ((k + n) % lap) ≠ f k) ∧
  (∀ (lap p : Nat), shortRun lap (fun _ => p) = false)

/-- R258. Counter 18 of Table — Tongs counters is DOORBELL_BAD; R288 leaves confidential partitions out of it. -/
def Obligations.DoorbellsSetTheTail : Prop :=
  (∀ (s : State) (c t : Nat), t < 2 ^ 32 → (s.ctx c).entries < (t + 2 ^ 32 - (s.ctx c).subHead) % 2 ^ 32 →
    s.ring c t = if (s.part (s.ctx c).part).confidential then s else s.countTongs (s.ctx c).engine 18 1) ∧
  (∀ (s : State) (c t : Nat), t < 2 ^ 32 → (t + 2 ^ 32 - (s.ctx c).subHead) % 2 ^ 32 ≤ (s.ctx c).entries →
    s.ring c t = if (s.ctx c).held then ((s.modCtx c (fun y => { y with subTail := t })).reread c).wake c
      else (s.modCtx c (fun y => { y with subTail := t })).wake c) ∧
  (∀ (s : State) (c t u : Nat), t < 2 ^ 32 → u < 2 ^ 32 → (t + 2 ^ 32 - (s.ctx c).subHead) % 2 ^ 32 ≤ (s.ctx c).entries →
    (u + 2 ^ 32 - (s.ctx c).subHead) % 2 ^ 32 ≤ (s.ctx c).entries → (s.ctx c).held = false → (s.ctx c).state ≠ .idle → (s.ctx c).state ≠ .active →
    s.ring c t = s.modCtx c (fun y => { y with subTail := t }) ∧ (((s.ring c t).ring c u).ctx c).subTail = u ∧
    (((s.ring c t).ring c u).ctx c).subHead = (s.ctx c).subHead)

/-- R147, over the one encoder of Billet blocks. -/
def Obligations.SpecialBilletBlocks : Prop :=
  (∀ (w : Nat) (r : Nat → Nat) (xs : List Fp), (∃ x ∈ xs, x.isFinite = false) →
    encodeBillet w r xs = (0xFF * 2 ^ 56, List.replicate xs.length 0, { EventCounts.zero with nonfinite := 1 })) ∧
  (∀ (w : Nat) (r : Nat → Nat) (xs : List Fp), (∀ x ∈ xs, ∃ (neg : Bool) (d : Nat), x = .fin neg 0 d) →
    encodeBillet w r xs = (0, List.replicate xs.length 0, EventCounts.zero))

/-- R370: the change as a boundary makes it, and the duty that follows it at the same boundary. -/
def Obligations.ShaperSetReplacesTheRefill : Prop :=
  (∀ (s : State) (ports p : Nat) (full : Bool) (rate burst i : Nat), i ∈ s.maskPorts ports →
    tget Shaper.reset (((s.apply (.shaperSet ports p full rate burst)).state.dutyShapers).egress i).shapers p =
      { rate := rate, burst := burst, tokens := if full then (burst : Int) else 0, pendingReset := none }) ∧
  (∀ (s : State) (ports p : Nat) (full : Bool) (rate burst i q : Nat), i ∉ s.maskPorts ports ∨ q ≠ p →
    tget Shaper.reset (((s.apply (.shaperSet ports p full rate burst)).state.dutyShapers).egress i).shapers q =
      tget Shaper.reset ((s.dutyShapers).egress i).shapers q)

/-- R508. -/
def Obligations.EpochsInSolo : Prop :=
  (∀ (s : State) (d n : Nat) (data : List Byte) (poison : Bool) (answer : Option Train), s.twin.state = .solo → s.extentAt d = some n →
    (s.ext n).mirror = 2 →
    let t := (s.mirror d data poison answer).1
    t.twin.resync = (segsOf d data.length).foldl (fun l g => addSorted g l) s.twin.resync ∧
    (t.epoch (s.ext n).part).dirty = (segsOf d data.length).foldl (fun l g => addSorted g l) (s.epoch (s.ext n).part).dirty ∧
    (∀ g ∈ segsOf d data.length, g ∈ t.twin.resync) ∧ t.routing = s.routing ∧ t.ports = s.ports) ∧
  (∀ (s : State) (p : Nat), s.twin.state = .solo →
    s.apply (.twinEpoch p) = { state := s, status := stOk, payload := leBytes 4 (s.epoch p).number })

/-- R306. -/
def Obligations.LateAnswersAreDiscarded : Prop :=
  ∀ (s : State) (port : Nat) (t : Train), s.isCohRsp t 0x23 = true → s.admits port t.part = true → (s.part t.part).state = .active →
    s.answeredSnoop t false = none →
    ∃ u, Gives (.ack port t) s u ∧ u.tiers = s.tiers ∧ u.dram = s.dram ∧ u.parts = s.parts ∧
      { u.coh with counters := s.coh.counters } = s.coh ∧
      ((s.part t.part).confidential = false →
        u.coh.counters = tcount 32 s.coh.counters (16 * bits (le t.head 4 2) 12 3 + 8) 1) ∧
      ((s.part t.part).confidential = true → u.coh.counters = s.coh.counters)

/-- R412: `left` counts the boundaries to the timeout of the submission that runs (R411). -/
def Obligations.TimeoutReadAtSubmission : Prop :=
  (∀ (s : State) (p : Nat) (indirect : Bool) (msg : List Byte), s.hearthRefuses = none →
    ((s.submit p indirect msg).page p).left = if (s.page p).timeout = 0 then none else some (s.page p).timeout) ∧
  (∀ (s : State) (p n v : Nat), (s.part p).state ≠ .free →
    s.writePage p 0x10 0 n v = s.modPage p (fun g => { g with timeout := v % 2 ^ 16 }) ∧
    ((s.writePage p 0x10 0 n v).page p).left = (s.page p).left ∧ ((s.writePage p 0x10 0 n v).page p).state = (s.page p).state) ∧
  (∀ (s : State) (p n v : Nat) (indirect : Bool) (msg : List Byte), (s.part p).state ≠ .free → s.hearthRefuses = none →
    (((s.writePage p 0x10 0 n v).submit p indirect msg).page p).left = if v % 2 ^ 16 = 0 then none else some (v % 2 ^ 16))

/-- R299, over the operations that every change of an entry is made of. -/
def Obligations.DirectoryEntriesKeepTheirForm : Prop :=
  (∀ (e : DirEntry) (m : Nat), DirectoryForm (e.excl m) ∧ (e.excl m).pointers = [m] ∧ (e.excl m).ovf = false) ∧
  (∀ (e : DirEntry) (m : Nat) (f : Bool), DirectoryForm e → e.state ≠ .invalid →
    DirectoryForm (e.add m f).1 ∧ (e.add m f).1.state = .shared ∧ (e.ovf = true → (e.add m f).1.ovf = true)) ∧
  (∀ (e : DirEntry) (m : Nat), DirectoryForm e → DirectoryForm (e.remove m) ∧ (e.remove m).ovf = e.ovf) ∧
  (∀ (e : DirEntry) (m : Nat), DirectoryForm e → e.ovf = false → e.pointers.length = 4 → m ∉ e.pointers →
    (e.add m false).1.ovf = true ∧ (e.add m false).1.pointers = e.fHolder.toList) ∧
  (∀ (e : DirEntry) (m : Nat), e.ovf = true → m ∉ e.pointers → (e.add m false).1 = { e with state := .shared }) ∧
  (∀ (s : State) (k : Nat) (e : DirEntry), e.state = .invalid → tget DirEntry.reset (s.setEntry k e).coh.dir k = DirEntry.reset)
end

