-- ==== Sys2Proof/Tests/Slice0.lean ====
section
/-! SUPPORT. Tests of slice 0. First, commands that `Instr.wf` refuses, one for each of its checks; then the worked examples
of the spec; then, for every obligation with hypotheses, a concrete state and operands that meet them together. -/

set_option maxRecDepth 4000

namespace Sys2Proof.Tests

open Machine Safety

/-! ### What WellFormed refuses -/

def okA : OpA := { anvil := 63, d := 31, a := 31, b := 31, c := 31, msk := 7, ms := true, modifier := 65535 }
def okI : OpI := { anvil := 63, d := 31, a := 31, imm := 0 }
def okM : OpM := { anvil := 63, d := 31, a := 31, b := 31, c := 31, imm := 0 }
def okB : OpB := { anvil := 63, a := 31, b := 31, imm := 0 }
def okCell : Cell := { typ := 15, cls := 7, dst := 65535, src := 65535, part := 63, tag := 4095, seq := 127, payload := zeros 32 }
def okTrain : Train := { typ := 15, cls := 7, dst := 65535, src := 65535, part := 63, tag := 4095, cells := [zeros 32] }
def okMsg : IcsMsg :=
  { opcode := 65535, flags := 255, status := 255, tag := 2 ^ 32 - 1, partition := 255, partNo := 255, reserved := 0, payload := zeros 16 }

/-- Every command of the list is refused. -/
def refuses (l : List Instr) : Bool := l.all (fun i => !i.wf)

/-- The greatest value of every field is a command of the interface. -/
theorem test_wf_accepts :
    ([.memRd 23 okTrain, .pour 23 okCell, .add okA, .addImmediate okI, .beq okB, .memoryHealth (.direct (.primary 1) okMsg),
      .memoryHealth (.page 63), .tile 16383, .delivery 255] : List Instr).all (·.wf) = true := by decide

theorem test_wf_refuses_format_a :
    refuses [.add { okA with anvil := 64 }, .add { okA with d := 32 }, .add { okA with a := 32 }, .add { okA with b := 32 },
      .add { okA with c := 32 }, .add { okA with msk := 8 }, .add { okA with modifier := 65536 }] = true := by decide

theorem test_wf_refuses_formats_i_m_b :
    refuses [.addImmediate { okI with anvil := 64 }, .addImmediate { okI with d := 32 }, .addImmediate { okI with a := 32 },
      .tld { okM with anvil := 64 }, .tld { okM with d := 32 }, .tld { okM with a := 32 },
      .tld { okM with b := 32 }, .tld { okM with c := 32 },
      .beq { okB with anvil := 64 }, .beq { okB with a := 32 }, .beq { okB with b := 32 }] = true := by decide

theorem test_wf_refuses_cells :
    refuses [.pour 24 okCell, .pour 0 { okCell with typ := 16 }, .pour 0 { okCell with cls := 8 }, .pour 0 { okCell with dst := 65536 },
      .pour 0 { okCell with src := 65536 }, .pour 0 { okCell with part := 64 }, .pour 0 { okCell with tag := 4096 },
      .pour 0 { okCell with seq := 128 }, .pour 0 { okCell with payload := zeros 31 }] = true := by decide

theorem test_wf_refuses_trains :
    refuses [.memWr 24 okTrain, .memWr 0 { okTrain with typ := 16 }, .memWr 0 { okTrain with cls := 8 }, .memWr 0 { okTrain with dst := 65536 },
      .memWr 0 { okTrain with src := 65536 }, .memWr 0 { okTrain with part := 64 }, .memWr 0 { okTrain with tag := 4096 },
      .memWr 0 { okTrain with cells := [] }, .memWr 0 { okTrain with cells := [zeros 33] },
      .memWr 0 { okTrain with cells := List.replicate 129 (zeros 32) }] = true := by decide

theorem test_wf_refuses_messages :
    refuses [.memoryHealth (.direct (.primary 2) okMsg), .memoryHealth (.direct (.secondary 2) okMsg), .memoryHealth (.direct (.page 0) okMsg),
      .memoryHealth (.direct (.page 64) okMsg), .memoryHealth (.page 0), .memoryHealth (.page 64),
      .memoryHealth (.sideband 0 (2 ^ 32) okMsg), .memoryHealth (.sideband 0 0 { okMsg with tag := 2 ^ 32 }),
      .memoryHealth (.direct (.primary 0) { okMsg with opcode := 65536 }), .memoryHealth (.direct (.primary 0) { okMsg with flags := 256 }),
      .memoryHealth (.direct (.primary 0) { okMsg with status := 256 }), .memoryHealth (.direct (.primary 0) { okMsg with tag := 2 ^ 32 }),
      .memoryHealth (.direct (.primary 0) { okMsg with partition := 256 }), .memoryHealth (.direct (.primary 0) { okMsg with partNo := 256 }),
      .memoryHealth (.direct (.primary 0) { okMsg with reserved := 2 ^ 32 })] = true := by decide

/-- A payload has at most 4,096 bytes (R421). -/
theorem test_wf_refuses_long_payload : Instr.wf (.memoryHealth (.direct (.primary 0) { okMsg with payload := zeros 4097 })) = false := by
  have h : (zeros 4097).length = 4097 := List.length_replicate
  simp [Instr.wf, IcsArg.wf, IcsMsg.wf, h]

theorem test_wf_refuses_numbers :
    refuses [.heatBoundary { dieTemp := 0, stackTemps := [], dimmTemps := List.replicate 16 0, estimate := 0, railEstimate := 0, pwrBrakeN := true, batonIn := false },
      .heatBoundary { dieTemp := 0, stackTemps := List.replicate 8 0, dimmTemps := [], estimate := 0, railEstimate := 0, pwrBrakeN := true, batonIn := false },
      .syncReq 24 0 0 0 0, .syncReq 0 (2 ^ 62) 0 0 0, .syncReq 0 0 256 0 0, .syncReq 0 0 0 (2 ^ 62) 0, .syncReq 0 0 0 0 (2 ^ 62),
      .syncRsp 24 0 0 0 0 0, .syncRsp 0 (2 ^ 62) 0 0 0 0, .syncRsp 0 0 (2 ^ 62) 0 0 0, .syncRsp 0 0 0 (2 ^ 62) 0 0, .syncRsp 0 0 0 0 256 0,
      .syncRsp 0 0 0 0 0 (2 ^ 62), .doubledRefreshExit false 8, .doubledRefreshExit true 16, .powerDownEntry 320, .forgeCacheFill 8 0,
      .forgeCacheFill 0 (2 ^ 38), .scrubWindowEnd 24, .extentFillUnitComplete 0 32768, .tombstoneExpiry 0, .tombstoneExpiry 64,
      .captureSegmentCopyComplete 256 0 [], .stepEnd 4096, .tileTransferComplete 64 0 [], .barRelease 1 16] = true := by decide

theorem test_wf_refuses_more_numbers :
    refuses [.doorbell (.head 2) 0 4 0, .doorbell (.fabric 65536 0) 0 4 0, .doorbell (.fabric 0 64) 0 4 0, .doorbell (.head 0) 16384 4 0,
      .doorbell (.head 0) 0 3 0, .tile 16384, .translationWalkComplete 0 (2 ^ 48), .invalidationFenceComplete 65536, .snoopTimeout 32768 0,
      .snoopTimeout 0 65536, .gripTimeExpiry 0 65536, .homeRequestDequeue 8, .trainingComplete 0 16 15 1, .trainingComplete 0 15 16 1,
      .trainingComplete 0 15 15 2, .ident 0 (zeros 31), .linkUnitReceive 0 (zeros 43) .clean, .replayTimerExpiry 0 4096,
      .laneLockLoss 0 4, .laneErrorWindowEnd 0 [0] [0, 0, 0, 0], .laneErrorWindowEnd 0 [0, 0, 0, 0] [0], .transitCell 0 5 0,
      .cxlMemRead 2 0 .shared 0, .cxlMemRead 0 (2 ^ 52) .shared 0, .cxlMemWrite 0 0 false (2 ^ 64) (zeros 64), .cxlMemWrite 0 0 false 0 (zeros 63),
      .hdmDecoderCommit 0 8 0 0 1 256 0 0, .unsupportedCxlCommand 0 true 65536, .hearthWarmUpEnd 2 true, .selUnit 0 5 0, .sourceFire 4096 0,
      .claim (.head 0) 256, .msiXUnmask 0 (.read 4096), .msiXUnmask 0 (.write 4096 0), .msiXUnmask 0 (.write 0 (2 ^ 32)), .msiXUnmask 2 (.read 0), .avsReading 65536 0 0 0, .avsReading 0 0 0 65536, .regulatorVoltageReport 65536,
      .memoryTrainingComplete [] [], .memoryInitialisationComplete (2 ^ 64) 0 0, .memoryInitialisationComplete 0 256 0,
      .memoryInitialisationComplete 0 0 (2 ^ 32), .cxlLinkTrainingComplete 0 17 0, .reservedInstruction 0 (2 ^ 64),
      .measurementAppended 1 16] = true := by decide

/-! ### The step -/

/-- The front command runs on the rest of the queue, and an empty queue leaves the state as it is. -/
theorem test_step_queue :
    step { State.reset with pending := [.thermtrip, .pwrBrakeNLow] } = exec .thermtrip { State.reset with pending := [.pwrBrakeNLow] } ∧
    step State.reset = .next State.reset := ⟨rfl, rfl⟩

/-- No word of the table spells a command: its rows give no bits. -/
theorem test_no_words : decodeTableWord 16 0 = none ∧ State.reset.withFetchWord 16 0 = State.reset := ⟨rfl, rfl⟩

/-! ### Worked examples of the spec -/

/-- R51, "Worked decode, RKP740-8H, STACK_SPARES = 1, DPA 0x012_3456_7890". -/
theorem test_stack_decode :
    (let s := { State.reset with sec := { State.reset.sec with config := { State.reset.sec.config with orderCode := 0, stackSpares := 1 } } }
     let d := 0x01234567890
     s.stackOf d == 7 && s.homeForge d == 7 && s.stackLocal d == 0x2468AC890 && s.stackChannel d == 28 && s.stackChanAddr d == 315271312) = true := by
  decide

/-- R52: a 64 KiB segment of the bulk tier holds one granule on each channel. -/
theorem test_bulk_decode :
    ((List.range 16).map (fun i => bulkChannelOf (0x10000000000 + 0x30000 + 4096 * i))) = List.range 16 := by decide

/-- R381: 4 ways at 4 KiB, offset 0x5_3A40: position 3, at the region base + 0x1_4A40. -/
theorem test_hdm_decode :
    (let x (p : Nat) : HdmDecoder := { committed := true, error := false, base := 0, size := 2 ^ 30, ways := 4, granularity := 4096, position := p, dpaBase := 0x40000000 }
     (x 3).dpa 0x53A40 == some 0x40014A40 && (x 2).dpa 0x53A40 == none) = true := by decide

/-- The codes of "Worked example: one B4 block", by position. -/
def b4Data : Nat := 0x7 * 16 ^ 3 + 0xB * 16 ^ 5 + 0x2 * 16 ^ 6 + 0x5 * 16 ^ 44

set_option exponentiation.threshold 512 in
/-- Its header decodes, with both escapes, to the values of its table (FP32 words of 0.0546875, −0.0234375, 0.015625, 0.0390625,
0.9375 and −0.40625). -/
theorem test_b4_decode :
    (let r := decodeBillet 0x10 0x780402D1100CD577 b4Data 128
     r.1[3]? == some 0x3D600000#32 && r.1[5]? == some 0xBCC00000#32 && r.1[6]? == some 0x3C800000#32 && r.1[44]? == some 0x3D200000#32 &&
     r.1[17]? == some 0x3F700000#32 && r.1[90]? == some 0xBED00000#32 && r.1[0]? == some 0#32 && r.2.escapes == 2 && r.2.malformed == 0) = true := by
  decide

/-- Its header is stored as the bytes 77 D5 0C 10 D1 02 04 78, and its CHK is 7. -/
theorem test_b4_header :
    leBytes 8 0x780402D1100CD577 = [0x77, 0xD5, 0x0C, 0x10, 0xD1, 0x02, 0x04, 0x78] ∧ billetChk 0x780402D1100CD577 = 7 := by decide

/-- The elements of the example: six as its table gives them, the others 0 (which lie within ±0.0525). -/
def b4Elements : List Fp :=
  (List.range 128).map (fun i => match i with
    | 3 => .fin false 525 10000 | 5 => .fin true 21 1000 | 6 => .fin false 131 10000 | 17 => .fin false 91 100
    | 44 => .fin false 41 1000 | 90 => .fin true 40 100 | _ => .fin false 0 1)

/-- The encoder gives the header and the codes of the example, with 2 escapes and no saturation (FMT 0x10, LADDER 0, ESC_MAX 3, RND 0). -/
theorem test_b4_encode :
    (let r := encodeBillet 0x190 (fun _ => 0) b4Elements
     r.1 == 0x780402D1100CD577 && r.2.1.foldr (fun c v => v * 16 + c) 0 == b4Data && r.2.2.escapes == 2 && r.2.2.saturated == 0) = true := by
  decide

/-- "Under MXFP4 the same 32 elements around element 17": S = 0x7D, and element 17 is rounded to 4, the code 6 of E2M1. -/
theorem test_mxfp4_encode :
    (let r := encodeMx 0x09 (fun _ => 0) (b4Elements.take 32)
     r.1 == 0x7D && r.2.1[17]? == some 6) = true := by decide

/-! ### Witnesses: states and operands that meet the hypotheses of the obligations -/

/-- A device that is READY, with nothing configured. -/
def ready : State := { State.reset with
  pins := { Pins.reset with pwrok := true, sysRstN := true, ready := true, batonOut := some false }
  boot := { Boot.reset with step := 7, cold := true, wasReady := true }
  heat := { Heat.reset with running := true } }

/-- A device whose partition 1 owns one shared coherent extent at PSA 0, whose traffic port 3 admits. -/
def pool : State :=
  { ready with
    parts := { ready.parts with
      parts := [(1, { Partition.reset with state := .active, span := 1, members := [{ ep := 2080, caching := true, unresponsive := false }] })]
      extents := [(0, { Extent.reset with part := 1, state := .active, mapped := true, coh := 1 })]
      dir := [(0, 0)] } }
  |>.modEgress 3 (fun e => { e with admitMask := 2 })

/-- `s` with the data of an engine's read of a range of a partition there. -/
def fetched (s : State) (part d len : Nat) : State :=
  { s with tiers := { s.tiers with fetches := s.tiers.fetches ++ [{ part := part, dpa := d, len := len, need := [] }] } }

/-- A line of partition 1 whose sectors wait for their fills. -/
def fullLine : Line :=
  { addr := 6144, part := 1, valid := 0, dirty := 0, rrv := 0, prefetched := false, wcls := 4, pending := 15, poison := 0, covered := 0, data := [], merges := [] }

/-- A train of one or more cells of TYPE `typ` and class `cls` from the member of `pool`, with the head given. -/
def train (typ cls dst : Nat) (cells : List (List Byte)) : Train :=
  { typ := typ, cls := cls, dst := dst, src := 2080, part := 1, tag := 5, cells := cells }

/-- `pool` with anvil 0 running a program of partition 1. -/
def forgeAnvil : State := pool.modAnvil 0 (fun v => { v with passed := true, enabled := true, part := 1, holder := 1, mode := .program })

/-- Request `q` that message `m` on channel `ch` makes on `s`. -/
def reqOf (s : State) (ch : Chan) (m : IcsMsg) : IcsReq :=
  { chan := ch, pay := m.payload, flags := m.flags, now := s.taken ch m, proj := (s.taken ch m).projected }

/-- A command of a row passes the checks and its own rules, and nothing that it changes is being changed. -/
def passes (s : State) (arg : IcsArg) (cmd : IcsCmd) (rules : IcsReq → List (Bool × Nat)) : Bool :=
  match s.icsTake arg with
  | none => false
  | some (ch, m) =>
    m.opcode == cmd.opcode && bits m.flags 3 2 == 0 && (s.dropHeld ch m).wholePayload ch m == some m.payload &&
    checks cmd m (reqOf s ch m) == none && (rules (reqOf s ch m)).all (fun r => !r.1) && (s.taken ch m).hearth.running.isEmpty

/-- What `passes` says: the hypotheses of `Serves`, and that no command runs that could conflict. -/
theorem passes_meets {s : State} {arg : IcsArg} {cmd : IcsCmd} {rules : IcsReq → List (Bool × Nat)} (h : passes s arg cmd rules = true) :
    ∃ m q, Names s arg cmd m q ∧ checks cmd m q = none ∧ (∀ r, r ∈ rules q → r.1 = false) ∧
      ∀ objs skip, q.now.conflicts objs skip = false := by
  unfold passes at h
  split at h
  · cases h
  · rename_i ch m ht
    simp only [Bool.and_eq_true, beq_iff_eq, List.all_eq_true, Bool.not_eq_true', List.isEmpty_iff] at h
    obtain ⟨⟨⟨⟨⟨h1, h2⟩, h3⟩, h4⟩, h5⟩, h6⟩ := h
    refine ⟨m, reqOf s ch m, ⟨ht, h1, h2, h3, rfl, rfl, rfl⟩, h4, h5, ?_⟩
    intro objs skip
    simp [State.conflicts, reqOf, h6]

/-- `pool` with head 0 up and bound to the fabric manager, and partition 1 given what its commands name: extents 1 (offered to
CXL), 2 (a mapped seal block) and 3 (a seal block), context 256, space 0, melts 0 (IDLE) and 1 (ARMED), ring 0, program 0. -/
def desk : State :=
  let s := (pool.modHead 0 (fun x => { x with link := .active })).modPart 1 (fun p => { p with
    span := 8, ctxFirst := 256, ctxCount := 16, sealQuota := 10 })
  let ext (d b : Nat) : Extent := { Extent.reset with dpaBlk := d, psaBlk := b, part := 1, state := .active, mapped := true }
  { s with
    hearth := { s.hearth with binding := some (.primary 0) }
    parts := { s.parts with
      extents := s.parts.extents ++ [(1, { ext 1 1 with dcValid := true }), (2, { ext 4096 2 with tier := 1, ro := true, sealId := 0 }),
        (3, { ext 4097 0 with tier := 1, ro := true, mapped := false, sealId := 0 })]
      dir := [(0, 0), (1, 1), (2, 2)], seals := [(0, { Seal.reset with part := 1, state := .sealed, blocks := [2, 3] })] }
    cxl := { s.cxl with regions := [(0, (0, 4))] }
    dram := { s.dram with bulk := (List.range 16).map (fun c => (c, { BulkChannel.reset with populated := true, capacity := 16 })) }
    crucibles := { s.crucibles with
      rings := [(16, { base := 0, entries := 16, writeIdx := 0, dropped := 0 })]
      melts := [(0, { Melt.reset with state := .idle, part := 1, tableSet := true, desc := zeros 12 ++ [1, 0, 1, 0] ++ zeros 112 }),
        (1, { Melt.reset with state := .armed, part := 1 })] }
    anvils := { s.anvils with programs := [(16, { length := 8, liveMax := 0, digest := [] })] }
    tongs := { s.tongs with
      spaces := [(0, { part := 1, root := none }), (1, { part := 1, root := none })]
      ctxs := [(256, { Ctx.reset with state := .faulted, part := 1, asid := 0 }), (257, { Ctx.reset with state := .idle, part := 1 })] } }

/-- A command of the fabric manager on the primary mailbox of head 0. -/
def viaHead (op : Nat) (pay : List Byte) : IcsArg :=
  .direct (.primary 0) { opcode := op, flags := 0, status := 0, tag := 7, partition := 0, partNo := 0, reserved := 0, payload := pay }

/-- `s` with a command of partition 1's runtime submitted on its page. -/
def viaPage (s : State) (op : Nat) (pay : List Byte) : State :=
  s.modPage 1 (fun g => { g with state := 1, message := icsBytes op 0 0 7 1 0 pay })

/-- `desk` with a decoder of head 0 that maps the first GiB, and extents 0 and 1 accepted there. -/
def hosted : State :=
  let s := desk.modHead 0 (fun x => { x with
    decoders := [(0, { committed := true, error := false, base := 0, size := 2 ^ 30, ways := 1, granularity := 256, position := 0, dpaBase := 0 })]
    accepted := [0, 1] })
  s.modExt 0 (fun e => { e with dcValid := true })

/-! HeatSync -/

theorem witness_heatSync :
    (let s := { ready with heat := { ready.heat with role := .reference } }; s.heat.role = .reference ∧ s.heat.running = true ∧ 5 < s.heat.length) ∧
    ready.heat.running = true ∧
    (let s := { ready with heat := { ready.heat with role := .child 3, t1 := some 7 } }; s.heat.role = .child 3 ∧ s.heat.t1 = some 7) ∧
    (let s := { ready with heat := { ready.heat with noRsp := 16, sync := .locked } }; 16 ≤ s.heat.noRsp ∧ s.heat.sync = .locked) ∧
    (let s := { ready with heat := { ready.heat with count := 255 } }; s.heat.corrected.1 % 256 = 0 ∧ s.heat.decayDone = false) := by decide

/-! Dram -/

theorem witness_dram :
    (let s := ready.modStack 2 (fun x => { x with doubled := true, cool := 40, refreshP := 39 }); (s.stack 2).doubled = true ∧ (s.stack 2).refreshP = 39 ∧ (s.stack 2).cool = 40) ∧
    (let s := ready.modBulk 5 (fun x => { x with doubled := true, cool := 40, refreshP := 39 }); (s.bulkCh 5).doubled = true ∧ (s.bulkCh 5).refreshP = 39 ∧ (s.bulkCh 5).cool = 40) ∧
    (let s := ready.modUnit 9 (fun x => { x with postponed := 1, parity := 1, state := .inService, retraining := true, idle := 9000 })
     0 < (s.unit 9).postponed ∧ (s.unit 9).exitRefresh = false ∧ (s.unit 9).parity ≠ 0 ∧ (s.unit 9).retraining = true ∧
     s.dram.pdIdle ≠ 0 ∧ (s.unit 9).power = .active ∧ s.dram.pdIdle ≤ (s.unit 9).idle ∧ s.dram.srIdle ≠ 0 ∧ (s.unit 9).power ≠ .selfRefresh ∧
     s.dram.srIdle ≤ (s.unit 9).idle) ∧
    (ready.unit 9).parity = 0 ∧ (let s := ready.modUnit 9 (fun x => { x with exitRefresh := true }); (s.unit 9).exitRefresh = true) ∧
    (let r : DramRead := { sector := 0, place := 0, cls := 2, age := 1, promoted := false, prefetch := false, passed := 0, part := 1, seq := 0, kept := true }
     let s := ready.modQueue 0 (fun q => { q with reads := [r] })
     (s.queue 0).reads[0]? = some r ∧ readMayIssue (s.queue 0) s.readBlocked 0 false = true ∧
     (s.queue 0).reads = [r] ∧ r.cls = 2 ∧ s.dram.limit2 ≤ r.age) := by decide

/-! Background -/

theorem witness_background :
    (let s := ready.modBackground 2 (fun b => { b with patrol := some 3, spare := some 8, test := some 9, scrub := [4] })
     (s.background 2).patrol = some 3 ∧ (s.background 2).spare = some 8 ∧ (s.background 2).test = some 9 ∧ 4 ∈ (s.background 2).scrub ∧
     s.unitGoes 2 1 [s.walkerUnit 3 (s.walker 3).step] = true ∧ s.unitGoes 2 2 [8, s.spareTarget 8] = true ∧ s.unitGoes 2 3 [9] = true) ∧
    (let s := ready.modWalker 1 (fun x => { x with window := 65535, corrected := 4 }); (s.walker 1).windowEnd = false ∧ (s.walker 1).window = 65535 ∧ 4 ≤ (s.walker 1).corrected) ∧
    (let s := ready.modWalker 1 (fun x => { x with window := 65535, clean := 7 }); (s.walker 1).windowEnd = false ∧ (s.walker 1).window = 65535 ∧ (s.walker 1).corrected = 0 ∧ 7 ≤ (s.walker 1).clean) ∧
    (let s := ready.modWalker 1 (fun x => { x with window := 65535, corrected := 3 }); (s.walker 1).windowEnd = false ∧ (s.walker 1).window = 65535 ∧ 0 < (s.walker 1).corrected ∧ (s.walker 1).corrected < 4) ∧
    (let s := ready.modWalker 1 (fun x => { x with window := 65535, clean := 6 }); (s.walker 1).windowEnd = false ∧ (s.walker 1).window = 65535 ∧ (s.walker 1).corrected = 0 ∧ (s.walker 1).clean < 7) ∧
    (let u : PlaceUnit := { way := 0, fill := false, current := 0 }
     let s := (ready.modForge 2 (fun g => { g with placeUnit := some u })).modTag 0 (fun t => { t with state := .evicting, dirty := 0 })
     (s.forge 2).placeUnit = some u ∧ (s.tag u.way).state ≠ .invalid ∧ s.placeGoes 2 u = true) ∧
    (let s := ready.modExt 4 (fun e => { e with state := .filling }); (s.ext 4).state = .filling ∧ s.scrubGoes 2 4 = true) ∧
    (let s := ready.modExt 4 (fun e => { e with state := .scrubbing }); (s.ext 4).state = .scrubbing ∧ s.scrubGoes 2 4 = true) := by decide

/-! Memory -/

theorem witness_memory :
    (let t := train 7 1 37 [leBytes 1 1 ++ zeros 3 ++ leBytes 4 64 ++ zeros 24]
     pool.isMemReq t = true ∧ le t.head 0 1 = 0x01 ∧ pool.admits 3 t.part = true ∧ pool.memStatus t false = (stOk, 0) ∧ pool.homeBlocked 0 (le t.head 4 4) = false ∧ pool.rangeFree t.part 0 (le t.head 4 4) = true ∧
     (let s := pool.modForge 0 (fun g => { g with lines := (List.range 16).map (fun w => (w, fullLine)) })
      s.memStatus t false = (stOk, 0) ∧ s.rangeFree t.part 0 (le t.head 4 4) = false)) ∧
    (let t := train 7 1 37 [leBytes 1 1 ++ zeros 31]
     pool.isMemReq t = true ∧ le t.head 0 1 = 0x01 ∧ pool.admits 3 t.part = true ∧ pool.memStatus t false = (stInvalid, 0) ∧ stInvalid ≠ stOk) ∧
    (let t := train 7 1 37 [leBytes 1 1 ++ zeros 31]; pool.isMemReq t = true ∧ le t.head 0 1 ≠ 0x02 ∧ pool.admits 4 t.part = false) ∧
    (let t := train 7 1 37 [leBytes 1 2 ++ zeros 3 ++ leBytes 4 32 ++ zeros 24, zeros 32]
     pool.isMemReq t = true ∧ le t.head 0 1 = 0x02 ∧ pool.admits 3 t.part = true ∧ (t.part = 0 → (pool.egress 3).twin = false) ∧
     pool.memStatus t true = (stOk, 0) ∧ pool.homeBlocked 0 (le t.head 4 4) = false ∧ pool.writeWaits t.part 0 (le t.head 4 4) = false ∧
     (pool.modTwin (fun x => { x with restore := [0] })).writeWaits t.part 0 (le t.head 4 4) = true ∧
     (pool.modTwin (fun x => { x with restore := [0] })).memStatus t true = (stOk, 0)) ∧
    (let t := train 7 1 37 [leBytes 1 2 ++ zeros 31]
     pool.isMemReq t = true ∧ le t.head 0 1 = 0x02 ∧ pool.memStatus t true = (stInvalid, 0)) ∧
    (let r : Returned := { sector := 5, part := 1, data := [], poison := false }
     (ready.modForge 2 (fun g => { g with returned := [r] }) |>.forge 2).returned.find? (fun x => x.sector == 5) = some r) := by decide

/-! Partitions -/

theorem witness_partitions :
    (let s := ready.modExt 4 (fun e => { e with state := .releasing, drain := some 3 }); (s.ext 4).state = .releasing ∧ (s.ext 4).drain = some 3 ∧ s.frozen = false) ∧
    (let s := pool.modPart 1 (fun x => { x with quench := some { age := 64, acked := [], drained := true, keyGone := false } })
     (s.part 1).quench = some { age := 64, acked := [], drained := true, keyGone := false } ∧ s.memberIndex 1 2080 = some 0 ∧
     (s.part 1).fenceComplete = false ∧ (s.part 1).zeroingComplete = false ∧ s.frozen = false ∧ le (leBytes 1 0x21 ++ leBytes 1 1) 1 1 = 1) ∧
    (let s := ready.modPart 2 (fun x => { x with state := .tombstone, tombAge := 512 }); (s.part 2).state = .tombstone ∧ 512 ≤ (s.part 2).tombAge ∧ s.frozen = false) ∧
    (let s := fetched ((pool.modSeal 7 (fun x => { x with part := 1, state := .capturing, extents := [0], blocks := [0] })).modExt 0 (fun e => { e with capture := true, sealId := 7 })) 1 0 65536
     (s.seal 7).state = .capturing ∧ s.nextLeaf (s.seal 7) = some 0 ∧ s.parts.copied < 16 ∧ s.segmentOpen (s.leafAddress (s.seal 7) 0) = false ∧
     s.readReady (s.seal 7).part (s.leafAddress (s.seal 7) 0) 65536 = true ∧ s.captureFits 7 0 = true ∧
     pool.readReady 1 0 65536 = false ∧
     anyUncorrectable [] = false ∧ anyUncorrectable [(0, [0, 1])] = true ∧ s.frozen = false) ∧
    (let s := ready.modCoh (fun c => { c with sweeps := [(1, 5, [], false)] })
     s.coh.sweeps.find? (fun x => x.1 == 1 && !x.2.2.2) = some (1, 5, [], false)) := by decide

/-! Twin -/

theorem witness_twin :
    (let s := (ready.modEgress 23 (fun e => { e with twin := true })).modTwin (fun t => { t with
       state := .standby, lost := 4, sinceD := 2, restore := [3] })
       |>.modEpoch 0 (fun e => { e with copying := true })
     let cell (cop : Nat) : Cell := { typ := 0x6, cls := 0, dst := 0, src := 0, part := 0, tag := 0, seq := 0, payload := leBytes 1 cop ++ zeros 31 }
     s.twinMsg 23 0x40 (cell 0x40) = true ∧ s.twinMsg 23 0x41 (cell 0x41) = true ∧ s.twinMsg 23 0x42 (cell 0x42) = true ∧
     4 ≤ s.twin.lost ∧ s.twin.heardThisHeat = false ∧ s.twin.state = .standby ∧ s.twin.batonIn = false ∧ 2 ≤ s.twin.sinceD ∧
     le (cell 0x41).payload 8 4 ≤ s.undoFree ∧ (s.epoch 0).copying = true ∧ (s.epoch 0).number = le (cell 0x42).payload 4 4 ∧
     s.isReady = true ∧ (s.egress 23).twin = true ∧ s.restoring 3 = true ∧ s.restoring 4 = false ∧
     (let u := s.modBackground 1 (fun b => { b with twin := some 4 }); (u.background 1).twin = some 4 ∧ u.twinGoes 1 4 = true) ∧
     (let u := s.modBackground 1 (fun b => { b with twin := some 3 }); (u.background 1).twin = some 3 ∧ u.twinGoes 1 3 = true)) ∧
    (let t : Train := { typ := 0x7, cls := 1, dst := 37, src := 0, part := 0, tag := 0, cells := [leBytes 1 2 ++ zeros 31, zeros 32] }
     t.typ = 0x7 ∧ t.cls = 1 ∧ t.part = 0 ∧ le t.head 0 1 = 0x02 ∧ ready.rangeFree (ready.partAt (le t.head 8 8 % 2 ^ 44)) (le t.head 8 8 % 2 ^ 44) (le t.head 4 4) = true) ∧
    (ready.modTwin (fun t => { t with state := .takeover })).twin.state = .takeover ∧
    (ready.modTwin (fun t => { t with state := .syncing })).twin.state = .syncing ∧
    (ready.modTwin (fun t => { t with state := .primary })).twin.state = .primary ∧
    (ready.modTwin (fun t => { t with batonIn := true })).twin.batonIn = true ∧
    (ready.modTwin (fun t => { t with heardThisHeat := true })).twin.heardThisHeat = true ∧
    (Change.spanSet 1 0 1).streamed = true := by decide

/-! PoursTakeEffect -/

theorem witness_pours :
    (let s := pool.modMelt 5 (fun m => { m with state := .armed, part := 1 })
     let cell : Cell := { typ := 0x9, cls := 4, dst := 33, src := 2080, part := 1, tag := 5, seq := 0, payload := zeros 32 }
     cell.typ = 0x9 ∧ cell.cls = 4 ∧ cell.seq = 0 ∧ cell.dst = s.endpoint 33 ∧ s.admits 3 cell.part = true ∧ s.admits 4 cell.part = false ∧
     (s.part cell.part).state = .active ∧ s.twin.state = .unpaired ∧ s.coolantStop = false ∧ (s.melt cell.tag).state ≠ .free ∧
     (s.melt cell.tag).part = cell.part ∧ s.pourChecks cell = .refuse [6] 0 (some stDenied)) ∧
    (let s := pool.modMelt 5 (fun m => { m with
       state := .armed, part := 1, contributors := [{ ep := 2080, pushEn := false, hint := 0, pushBase := 0, disabled := false }]
       desc := zeros 8 ++ leBytes 4 512 ++ leBytes 2 1 ++ zeros 114
       windows := [(0, { Window.reset with place := .accum 2 0, left := 9 })] })
     let cell : Cell := { typ := 0x9, cls := 4, dst := 33, src := 2080, part := 1, tag := 5, seq := 0
                          payload := [1, 0, 0, 0, 0, 0, 0, 0] ++ leBytes 4 0 ++ leBytes 4 512 ++ zeros 16 }
     s.pourChecks cell = .accept 2 ∧ (s.melt cell.tag).state ≠ .free ∧ (s.melt cell.tag).part = cell.part) ∧
    (let t : Staging := { melt := 5, window := 0, step := 0, cidx := 0, fmt := 0, offset := 0, count := 64, cru := 0, cells := 8, taken := 0, held := [], units := 0 }
     let s : State := { ready with crucibles := { ready.crucibles with staging := [(3, t)] } }
     let cell : Cell := { typ := 0x9, cls := 4, dst := 33, src := 2080, part := 0, tag := 5, seq := 1, payload := zeros 32 }
     cell.typ = 0x9 ∧ cell.cls = 4 ∧ cell.seq = t.taken + 1 ∧ cell.dst = s.endpoint 33 ∧ tfind s.crucibles.staging 3 = some t ∧
     tfind s.crucibles.staging 4 = none ∧ s.coolantStop = false ∧ cell.tag = t.melt ∧ cell.part = (s.melt t.melt).part ∧
     t.unitCells = 8 ∧ (tfind ({ s with crucibles := { s.crucibles with staging := [(3, { t with heats := 1 })] } } : State).crucibles.staging 3).any (fun x => decide (1 ≤ x.heats)) = true) := by decide

/-! WindowEventsTakeEffect -/

theorem witness_windows :
    (let s : State := { (pool.modMelt 5 (fun m => { m with state := .armed, part := 1, armOrder := 1, desc := zeros 8 ++ leBytes 4 512 ++ leBytes 2 1 ++ leBytes 2 4 ++ zeros 112 })) with
                        crucibles := { (pool.modMelt 5 (fun m => { m with state := .armed, part := 1, armOrder := 1, desc := zeros 8 ++ leBytes 4 512 ++ leBytes 2 1 ++ leBytes 2 4 ++ zeros 112 })).crucibles with passed := 255 } }
     s.waitingMelts.find? (fun m => decide ((s.melt m).slotsHeld < (s.melt m).maxSlots)) = some 5 ∧
     s.slotFor 5 (s.melt 5).nextWindow = some (5, 0)) ∧
    (let s := pool.modMelt 5 (fun m => { m with state := .armed, part := 1, armOrder := 1, desc := zeros 8 ++ leBytes 4 65537 ++ leBytes 2 1 ++ leBytes 2 1 ++ zeros 112, nextWindow := 1, windows := [(0, { Window.reset with place := .closed 5 0 })] })
     s.spillChoice = some (5, 0)) ∧
    (let s := ready.modMelt 5 (fun m => { m with
       state := .final, windows := [(0, { Window.reset with place := .spilling 5 0 }), (1, { Window.reset with place := .accum 5 1 })] })
     tfind (s.melt 5).windows 0 = some { Window.reset with place := .spilling 5 0 } ∧ s.allReady (s.spillAccesses 5 0) = true ∧
     tfind (s.melt 5).windows 1 = some { Window.reset with place := .accum 5 1 }) ∧
    (let s := forgeAnvil.modMelt 5 (fun m => { m with state := .final, part := 1, windows := [(0, { Window.reset with place := .closed 5 0 })] })
     (s.melt 5).state = .final ∧ (s.melt 5).faultWindow = none ∧ (s.melt 5).nextHand = some (0, { Window.reset with place := .closed 5 0 }) ∧
     s.handTo (s.melt 5).part 5 = some 0) ∧
    (let s := forgeAnvil.modMelt 5 (fun m => { m with state := .final, part := 1, windows := [(0, { Window.reset with place := .spilled 5 })] })
     (s.melt 5).nextHand = some (0, { Window.reset with place := .spilled 5 }) ∧ s.handTo (s.melt 5).part 5 = some 0) ∧
    (let j : RunnerJob := { melt := 5, window := 0, step := 0, slot := none, imageRead := false, image := [], counts := [], full := false }
     let s := forgeAnvil.modAnvil 0 (fun v => { v with mode := .runner, job := some j })
     let t := forgeAnvil.modAnvil 0 (fun v => { v with mode := .runner, job := some { j with imageRead := true } })
     s.runnerJob 0 = some j ∧ s.allReady (j.imageAccesses (s.melt j.melt)) = true ∧ t.runnerJob 0 = some { j with imageRead := true } ∧
     t.allReady ((t.melt j.melt).windowReads j.window ++ (t.melt j.melt).windowWrites j.window) = true) ∧
    (let s := ready.modMelt 5 (fun m => { m with state := .final }); (s.melt 5).stepDone = true) := by decide

/-! AnvilEventsTakeEffect -/

theorem witness_anvilEvents :
    (let s := forgeAnvil.modAnvil 0 (fun v => { v with wait := .mwait 0 }); (s.anvil 0).wait = .mwait 0 ∧ (s.anvil 0).xfers.length ≤ 0) ∧
    (let s := forgeAnvil.modAnvil 0 (fun v => { v with wait := .heat 0 }); (s.anvil 0).wait = .heat 0 ∧ heatReached s.heat.count 0 = true) ∧
    (let s := forgeAnvil.modAnvil 0 (fun v => { v with wait := .waitw 4, mode := .runner })
     (s.anvil 0).wait = .waitw 4 ∧ (s.anvil 0).mode = .runner ∧ (s.anvil 0).enabled = true ∧ s.coolantStop = false) ∧
    (let s := (forgeAnvil.modAnvil 0 (fun v => { v with wait := .bar 3 1 })).barArrives 19; s.barDue 1 3 = true) ∧
    (let s := (forgeAnvil.modAnvil 0 (fun v => { v with wait := .flag 7 })).setFlag 1 7 true
     (s.anvil 0).wait = .flag 7 ∧ s.flag (s.anvil 0).holder 7 = true ∧ s.testsFlag (s.anvil 0).holder 7 0 = true) ∧
    (forgeAnvil.modAnvil 0 (fun v => { v with mode := .saving }) |>.anvil 0).mode = .saving ∧
    (let s := forgeAnvil.modAnvil 0 (fun v => { v with mode := .zeroing }); (s.anvil 0).mode = .zeroing ∧ (s.anvil 0).halted = false ∧ (s.anvil 0).xfers = []) ∧
    (let s := forgeAnvil.modAnvil 0 (fun v => { v with mode := .restoring }); (s.anvil 0).mode = .restoring ∧
      (s.restoreReads 0).all (fun q => s.readReady (s.anvil 0).holder q.1 q.2) = true) := by decide

/-! ScalarFormsTakeEffect -/

theorem witness_scalarForms : forgeAnvil.issues 0 = true := by decide

/-! AnvilWordsDecode -/

/-- Clause 1: a well-formed instruction of each format has a word, at the greatest register numbers. -/
theorem wit_anvil_words : Instr.wf (.vcvtTo { anvil := 63, d := 31, a := 31, b := 31, c := 31, msk := 7, ms := true, modifier := 65535 }) = true ∧
    anvilWord (.vcvtTo { anvil := 63, d := 31, a := 31, b := 31, c := 31, msk := 7, ms := true, modifier := 65535 }) = some 0x500FFFFFF000FFFF ∧
    anvilWord (.lui { anvil := 63, d := 31, a := 31, imm := 0xFFFFFFFF }) = some 0x090FFC00FFFFFFFF ∧
    anvilWord (.tld2 { anvil := 63, d := 31, a := 31, b := 31, c := 31, imm := 0xFFFFFFFF }) = some 0x202FFFFFFFFFFFFF ∧
    anvilWord (.bgeu { anvil := 63, a := 31, b := 31, imm := 0xFFFFFFFF }) = some 0x10507FE0FFFFFFFF := by decide

/-- Clause 2: a word with reserved bits set decodes, and its own word has them clear. -/
theorem wit_anvil_word_reserved_bits : anvilInstr 5 0x0400_8C40_0FFF_0000 = some (.add { anvil := 5, d := 1, a := 3, b := 2, c := 0, msk := 0, ms := false, modifier := 0 }) := by decide

/-- Clause 4: the first MAJ that no class has, and the FN after the last of the integer forms. -/
theorem wit_anvil_words_reserved : anvilInstr 5 (0x03 * 2 ^ 58) = none ∧ anvilInstr 5 (0x10 * 2 ^ 58 + 0x30 * 2 ^ 52) = none ∧
    (anvilInstr 5 (0x10 * 2 ^ 58 + 0x2F * 2 ^ 52)).isSome = true := by decide

/-! ControlFlowTakesEffect -/

theorem witness_controlFlow : forgeAnvil.issues 0 = true := by decide

/-! SystemInstructionsTakeEffect -/

theorem witness_system :
    forgeAnvil.issues 0 = true ∧ forgeAnvil.special 0 7 = some 0 ∧ forgeAnvil.special 0 200 = none ∧
    (forgeAnvil.anvil 0).regs.writeSpecial 200 0 = none ∧
    (forgeAnvil.anvil 0).regs.writeSpecial 3 5 = some { (forgeAnvil.anvil 0).regs with evtEsc := 5 } ∧
    (0 : Nat) ≤ forgeAnvil.liveMax 0 ∧ ((forgeAnvil.anvil 0).regs.rs 0).toNat % 4096 = 0 ∧ (forgeAnvil.anvil 0).mode = .program ∧
    (let s := forgeAnvil.setInst 0 1 (some { prog := 0, state := .running, regs := AnvilRegs.reset, wait := .none }); (s.inst 0 (s.anvil 0).holder).isSome = true ∧ s.issues 0 = true) ∧
    (let s := forgeAnvil.modAnvil 0 (fun v => { v with mode := .runner }); s.issues 0 = true ∧ (s.anvil 0).mode = .runner) ∧
    forgeAnvil.flag 1 5 = false ∧ (forgeAnvil.setFlag 1 5 true).flag 1 5 = true ∧ (forgeAnvil.setFlag 1 5 true).issues 0 = true ∧
    reservedWord (0x3F * 2 ^ 58) = true := by decide

/-! TileMemoryTakesEffect -/

theorem witness_tileMemory :
    forgeAnvil.issues 0 = true ∧ (forgeAnvil.anvil 0).xfers.length < 64 ∧
    (let s := forgeAnvil.modAnvil 0 (fun v => { v with regs := v.regs.ws 2 (BitVec.ofNat 64 (2 ^ 32 + 64)) })
     let o : OpM := { anvil := 0, d := 0, a := 0, b := 2, c := 0, imm := 0 }
     s.issues 0 = true ∧ (s.linear { o with b := 1 } true).inLimits true = false ∧ (s.rowsOf o true).inLimits false = true ∧
     sramOk (s.rowsOf o true).sram ((s.rowsOf o true).rows * (s.rowsOf o true).len) = true ∧ (s.anvil 0).regs.address 0 256 + 256 ≤ 2 ^ 21 ∧
     (s.anvil 0).regs.address 0 256 % 256 = 0) ∧
    (let s := forgeAnvil.modAnvil 0 (fun v => { v with regs := v.regs.ws 2 64 })
     let o : OpM := { anvil := 0, d := 0, a := 0, b := 2, c := 0, imm := 0 }
     s.issues 0 = true ∧ (s.linear o true).inLimits true = true ∧ sramOk (s.linear o true).sram ((s.linear o true).rows * (s.linear o true).len) = true) ∧
    (let x : TileXfer := { load := true, psa := 0, sram := 0, len := 64, rows := 1, stride := 0, pc := 0 }
     let s := ready.modAnvil 3 (fun v => { v with xfers := [x] })
     (s.anvil 3).xfers[0]? = some x ∧ s.allReady (x.accesses (s.anvil 3).holder) = true) := by decide

/-! ConversionsTakeEffect -/

theorem witness_conversions :
    (let o : OpA := { anvil := 0, d := 1, a := 0, b := 0, c := 0, msk := 0, ms := false, modifier := 0 }
     forgeAnvil.issues 0 = true ∧ forgeAnvil.convertOk o = true ∧ forgeAnvil.convertOk { o with modifier := 15 } = false ∧ fmtKnown (fwFmt 15) = false ∧
     forgeAnvil.msOk o = true ∧ isInt (fwFmt o.modifier) = false ∧ flatFmt (fwFmt o.modifier) = true ∧ 1 ≤ o.d % 8 ∧ o.d % 8 ≤ 6 ∧
     o.a % 32 ≠ 31 ∧ o.d % 32 ≠ 31 ∧ o.modifier % 8 ≠ 7 ∧ o.c % 8 ≠ 7 ∧ forgeAnvil.mmaFault { o with modifier := 33 } = none ∧
     (forgeAnvil.mmaFault o).isSome = true) ∧
    (let o : OpA := { anvil := 0, d := 0, a := 0, b := 0, c := 0, msk := 0, ms := false, modifier := 5 }
     forgeAnvil.convertOk o = true ∧ forgeAnvil.msOk o = true ∧ fmtKnown (fwFmt o.modifier) = true ∧ flatFmt (fwFmt o.modifier) = false ∧
     o.a % 32 + packRegs (fwFmt o.modifier) ≤ 32 ∧ ((forgeAnvil.anvil 0).regs.rs o.b).toNat < packBlocks (fwFmt o.modifier) ∧
     packInSram (fwFmt o.modifier) ((forgeAnvil.anvil 0).regs.rs o.d).toNat ((forgeAnvil.anvil 0).regs.rs o.b).toNat = true) := by decide

/-! FloatVectorsActLaneByLane -/

theorem witness_floatVectors : forgeAnvil.issues 0 = true := by decide

/-! IntegerVectorsActLaneByLane -/

theorem witness_integerVectors : forgeAnvil.issues 0 = true := by decide

/-! VectorComparesAndMovesTakeEffect -/

theorem witness_vectorMoves : forgeAnvil.issues 0 = true ∧ ((forgeAnvil.anvil 0).regs.rs 0).toNat < 16 := by decide

/-! DescriptorsStart -/

/-- A descriptor of TYPE `t` at the head of context 9's fetched ones. -/
def startable (t : Byte) (full held : Bool) : State :=
  (fetched (fetched pool 1 0 64) 1 4 4).modCtx 9 (fun _ => { Ctx.reset with
    state := .active, part := 1, entries := 16, subTail := 1, held := held
    writeIdx := if full then 16 else 0
    ahead := [newDesc 0 (t :: zeros 63)] })
theorem witness_descriptors :
    (∀ p ∈ [(1 : Byte), 2, 8, 9, 12],
     let s := startable p false false
     s.mayStart 9 = true ∧ 0 < (s.ctx 9).waitingSlots ∧ s.allReady (s.startAccesses 9) = true ∧ (s.ctx 9).held = false ∧
     ((s.refreshed 9).ctx 9).hasRoom = true ∧ dType ((s.refreshed 9).fetch 9).words = p.toNat ∧ s.pushGoes 9 = false ∧
     (s.ctx 9).pushes = [] ∧ (s.ctx 9).started.any Desc.entering = false) := by decide
theorem witness_descriptors_held :
    (∀ h : Bool, let s := startable 1 true h
     s.mayStart 9 = true ∧ 0 < (s.ctx 9).waitingSlots ∧ s.allReady (s.startAccesses 9) = true ∧ (s.ctx 9).held = h ∧
     ((s.refreshed 9).ctx 9).hasRoom = false ∧ dType ((s.refreshed 9).fetch 9).words = 1) := by decide
theorem witness_descriptors_others :
    (let x : Ctx := { Ctx.reset with state := .active, part := 1, entries := 16, pushes := [newDesc 0 []] }
     let s := (fetched pool 1 4 4).modCtx 9 (fun _ => x)
     s.pushGoes 9 = false ∧ s.mayStart 9 = true ∧ s.allReady (s.startAccesses 9) = true ∧ ((s.refreshed 9).ctx 9).hasRoom = true) ∧
    (let x : Ctx := { Ctx.reset with state := .active, part := 1, entries := 16, started := [newDesc 0 (9 :: zeros 63)] }
     let s := pool.modCtx 9 (fun _ => x)
     (s.ctx 9).started.any Desc.entering = true) := by decide

/-! TongsEventsTakeEffect -/

theorem witness_tongsEvents :
    (let d := { newDesc 0 (10 :: zeros 63) with checked := true }
     let s := pool.modCtx 9 (fun _ => { Ctx.reset with state := .active, part := 1, entries := 16, started := [d] })
     (s.ctx 9).started.find? Desc.waiting = some d ∧ s.waitMet 9 d.eff = true ∧ (s.ctx 9).state ≠ .faulted) ∧
    (let w : Walk := { ctx := 9, forge := 0, tva := 0, write := false, serial := 0, rep := 0, body := 0 }
     let s : State := { pool with tongs := { pool.tongs with walks := [w] } }
     s.tongs.walks.find? (fun w => w.ctx == 9 && w.tva / 65536 == 0 / 65536) = some w) ∧
    (let k : Stroke := { index := 0, src := [], dst := [], tag := 5, age := some 64, fenced := false }
     let d := { newDesc 0 (8 :: zeros 63) with inFlight := [k] }
     let e := { newDesc 1 (1 :: zeros 63) with inFlight := [k] }
     let s := pool.modCtx 9 (fun _ => { Ctx.reset with state := .active, part := 1, entries := 16, started := [d, e] })
     let t : Train := { typ := 0x7, cls := 3, dst := 34, src := 2080, part := 1, tag := 5, cells := [leBytes 1 0x82 ++ zeros 31] }
     (s.ctx 9).started.find? (fun d => d.idx == 1 && d.push.isNone) = some e ∧ e.inFlight.find? (fun k => k.index == 0) = some k ∧
     dType e.eff ≠ tPush ∧ e.strokeHeld 0 = false ∧ s.allReady (k.accesses (s.ctx 9).part) = true ∧
     le t.head 0 1 = 0x82 ∧ t ∉ s.routing.loop ∧ t.dst = s.endpoint 34 ∧ s.pushOf t.tag = some (9, d, k) ∧
     (s.ctx 9).started.find? (fun d => d.idx == 0 && d.inFlight.any (fun k => k.age.any (fun a => decide (64 ≤ a)))) = some d ∧ dType d.eff = tPush) ∧
    ((ready.modEgress 23 (fun e => { e with twin := true })).egress 23).twin = true ∧
    (let s := pool.modCtx 9 (fun _ => { Ctx.reset with state := .active, part := 1, entries := 16, resetting := true })
     (s.ctx 9).state ≠ .free ∧ (s.ctx 9).resetting = true ∧ (s.part (s.ctx 9).part).state = .active ∧ (s.ctx 9).started = []) ∧
    (3 : Nat) ∈ ({ ready with tongs := { ready.tongs with cleared := [3] } } : State).tongs.cleared ∧ (3 : Nat) ∉ ready.tongs.cleared ∧
    (let s := (forgeAnvil.modPart 1 (fun p => { p with ctxCount := 16 })).modCtx 0 (fun _ => { Ctx.reset with state := .active, part := 1, entries := 16 })
     let o : OpA := { anvil := 0, d := 1, a := 0, b := 0, c := 0, msk := 0, ms := false, modifier := 0 }
     s.issues 0 = true ∧ s.holdsCtx (s.anvil 0).holder (s.treqCtx o) = true ∧ ((s.anvil 0).regs.rs o.a).toNat + 64 ≤ 2 ^ 21 ∧
     (s.ctx (s.treqCtx o)).state ≠ .free ∧ (s.ctx (s.treqCtx o)).resetting = false ∧ s.allReady [s.treqAccess o] = true ∧
     ((s.ctx (s.treqCtx o)).subTail + 1 + 2 ^ 32 - (s.ctx (s.treqCtx o)).subHead) % 2 ^ 32 ≤ (s.ctx (s.treqCtx o)).entries ∧
     (forgeAnvil.modPart 1 (fun p => { p with ctxCount := 16 })).holdsCtx 1 0 = true ∧ (forgeAnvil.ctx 0).state = .free ∧
     (let s' := s.modCtx 0 (fun x => { x with resetting := true }); (s'.ctx (s'.treqCtx o)).resetting = true ∧ s'.allReady [s'.treqAccess o] = true) ∧
     (let s' := s.modCtx 0 (fun x => { x with subTail := 16 })
      (s'.ctx (s'.treqCtx o)).entries < ((s'.ctx (s'.treqCtx o)).subTail + 1 + 2 ^ 32 - (s'.ctx (s'.treqCtx o)).subHead) % 2 ^ 32 ∧
      s'.allReady [s'.treqAccess o] = true)) := by decide

/-! CoherenceMessagesTakeEffect -/

theorem witness_coherence :
    (let t (op : Nat) : Train := train 8 1 37 [leBytes 1 op ++ [2] ++ zeros 30, zeros 32, zeros 32]
     pool.cohStatus (t (CohReq.rdShared).cop) .rdShared = (stOk, 0) ∧ pool.cohStatus (t (CohReq.wrLine).cop) .wrLine = (stOk, 0) ∧
     (CohReq.wrLine).writes = true ∧ pool.writeWaits 1 0 64 = false ∧ (pool.modTwin (fun x => { x with restore := [0] })).writeWaits 1 0 64 = true ∧ pool.rangeFree 1 0 64 = true ∧
     pool.inChip 37 = true ∧ pool.admits 3 1 = true ∧ le (t (CohReq.wrLine).cop).head 0 1 = (CohReq.wrLine).cop ∧
     pool.cohStatus { t 1 with dst := 32 } .rdShared = (stInvalid, 0)) ∧
    (let m : CohMsg := { req := .rdShared, src := 2080, member := 0, part := 1, tag := 0, psa := 0, line := 0, data := [], poison := false, mask := 0, peer := 0, port := 3, waiter := 0 }
     let s := pool.modCoh (fun c => { c with ingress := tins c.ingress (pool.homeForge 0) [m] })
     s.wayWaiter (pool.homeForge 0) = none ∧ s.readWaiter (pool.homeForge 0) = none ∧ s.coh.lineWait = [] ∧ tget [] s.coh.ingress (pool.homeForge 0) = [m] ∧ s.trackerOf m.line = none ∧ s.trackerFree (pool.homeForge 0) m = true) ∧
    (let t (op : Nat) : Train := train 8 3 37 [leBytes 1 op ++ zeros 31]
     pool.isCohRsp (t 0x23) 0x23 = true ∧ pool.isCohRsp (t 0x25) 0x25 = true ∧ pool.isCohRsp (t 0x26) 0x26 = true ∧
     pool.answeredSnoop (t 0x23) false = none) := by decide
/-- A request of the member for line 0, and a tracker that it holds. -/
def lineAsk : CohMsg := { req := .rdOwn, src := 2080, member := 0, part := 1, tag := 0, psa := 0, line := 0, data := [], poison := false, mask := 0, peer := 0, port := 3, waiter := 0 }
def lineTracker : Tracker2 :=
  { msg := lineAsk, evict := none, snoops := [{ snoop := .inv, member := 0, left := 0 }], held := [], offered := false, taken := none, waiting := true, missed := false, poisoned := false, written := false, reading := false }
theorem witness_coherence_answers :
    (let s := pool.modCoh (fun c => { c with trackers := tins c.trackers (4096 * pool.homeForge 0) lineTracker })
     let h : List Byte := leBytes 1 0x23 ++ [2, 0, 0] ++ leBytes 2 (4096 * pool.homeForge 0) ++ zeros 26
     let t : Train := train 8 3 37 [h, zeros 32, zeros 32]
     s.isCohRsp t 0x23 = true ∧ s.admits 3 1 = true ∧ s.answeredSnoop t false = some (4096 * pool.homeForge 0, 0) ∧
     t.hasData = true ∧ s.ackWaits (4096 * pool.homeForge 0) = false ∧
     (s.modTwin (fun x => { x with restore := [0] })).ackWaits (4096 * pool.homeForge 0) = true ∧
     s.wayWaiter (pool.homeForge 0) = some (4096 * pool.homeForge 0, lineTracker)) ∧
    (let s := pool.modCoh (fun c => { c with trackers := tins c.trackers (4096 * pool.homeForge 0) { lineTracker with snoops := [], waiting := false, reading := true } })
     s.wayWaiter (pool.homeForge 0) = none ∧ s.readWaiter (pool.homeForge 0) = some (4096 * pool.homeForge 0)) ∧
    ((pool.modForge (pool.homeForge 0) (fun g => { g with lines := (List.range 16).map (fun w => (w, fullLine)) })).rangeFree 1 0 64 = false) := by decide

/-! PortTrainingTakesEffect -/

theorem witness_training :
    ready.linksIdle = false ∧
    (let s := ready.modPort 3 (fun p => { p with state := .down }); (s.port 3).state = .down ∧ s.linksIdle = false) ∧
    (let s := ready.modPort 3 (fun p => { p with state := .train, stateHeats := 256 })
     (s.port 3).state = .train ∧ 256 ≤ (s.port 3).stateHeats ∧ (s.port 3).widestSet (15 &&& 12) = 12 ∧ 0 ≤ (s.port 3).maxRate) ∧
    (let s := ready.modPort 3 (fun p => { p with state := .retrain, stateHeats := 64 })
     (s.port 3).state = .retrain ∧ 64 ≤ (s.port 3).stateHeats ∧ (s.port 3).widestSet (15 &&& 7) = 3) ∧
    (let s := ready.modPort 3 (fun p => { p with state := .ident, errorHeats := 256, lanes := [(1, { Lane.reset with warm := true, retry := true, heats := 65536 })] })
     (s.port 3).state = .ident ∧ (s.port 3).state ≠ .disabled ∧ (s.port 3).state ≠ .down ∧ 256 ≤ (s.port 3).errorHeats ∧ s.refusesLink 3 (identOf (zeros 32)) = true ∧
     (tget Lane.reset (s.port 3).lanes 1).warm = true ∧ 65536 ≤ (tget Lane.reset (s.port 3).lanes 1).heats) := by decide
/-- The IDENT of a partner that permits encryption. -/
def partnerIdent (caps : Byte) : List Byte :=
  [6, 1, caps, 0] ++ leBytes 4 64 ++ leBytes 8 9 ++ ([0, 1, 2, 3, 4].flatMap (fun v => leBytes 2 (tget 0 initialCredits v)))
theorem witness_ident :
    (let s := ready.modPort 3 (fun p => { p with state := .ident, encSetting := 1 })
     s.refusesLink 3 (identOf (partnerIdent 4)) = false ∧ (s.port 3).wantsEnc (identOf (partnerIdent 4)) = false ∧
     s.refusesLink 3 (identOf (partnerIdent 6)) = false ∧ (s.port 3).wantsEnc (identOf (partnerIdent 6)) = true) := by decide

/-! LinkUnitsTakeEffect -/

theorem witness_linkUnits :
    (let s := ready.modPort 3 (fun p => { p with state := .active })
     let u := ({ lseq := 0, vc := 0, rpl := false, body := leBytes 8 (7 * 2 ^ 60) ++ zeros 32 } : LinkUnit).raw
     (s.port 3).state = .active ∧ unitCrcOk u = true ∧ (cellOf (unitOf u).body).typ ≠ 0x0 ∧
     seqDist (unitOf u).lseq (s.port 3).rxE < 512 ∧ tfind (s.port 3).reorder (unitOf u).lseq = none ∧
     (s.port 3).quiet = false ∧ (s.port 3).ctlDue = false ∧ (s.port 3).linkOut = [] ∧ (s.port 3).dueReplay = none ∧ (s.port 3).encOn = false ∧
     (s.port 3).replay.length < 1024 ∧ s.nextCtl 3 = none ∧ (s.egress 3).readyQueue = none ∧ s.creditWait 3 0 = false) ∧
    unitCrcOk (zeros 44) = false ∧
    (let s := ready.modPort 3 (fun p => { p with state := .active, rxE := 4, sinceCtl := 1 })
     2048 ≤ seqDist (unitOf (zeros 44)).lseq (s.port 3).rxE ∧ 0 < (s.port 3).sinceCtl) ∧
    (let u : ReplayUnit := { unit := unitOf (zeros 44), replays := 8, due := true }
     let s := ready.modPort 3 (fun p => { p with state := .active, replay := [(7, u)], ctlDue := true, linkOut := [[]] })
     tfind (s.port 3).replay 7 = some u ∧ 8 ≤ u.replays ∧ (s.port 3).dueReplay = some (7, u) ∧ (s.port 3).ctlDue = true ∧ (s.port 3).linkOut = [[]]) := by decide
/-- A cell that waits at port 3. -/
def waitingCell : Cell := { typ := 3, cls := 0, dst := 0, src := 0, part := 0, tag := 0, seq := 0, payload := zeros 32 }
theorem witness_unitBoundary :
    (let s := (ready.modPort 3 (fun p => { p with state := .active, rxE := 3000, credits := [(0, 9)] })).modEgress 3 (fun e => { e with ctl := [waitingCell] })
     s.nextCtl 3 = some waitingCell ∧ tget 0 (s.port 3).credits 0 ≠ 0 ∧ s.creditWait 3 0 = false ∧ (s.port 3).dueReplay = none ∧
     512 ≤ seqDist (unitOf (zeros 44)).lseq (s.port 3).rxE ∧ seqDist (unitOf (zeros 44)).lseq (s.port 3).rxE < 2048 ∧
     (s.modPort 3 (fun p => { p with credits := [] })).creditWait 3 0 = true) ∧
    (let h : Cell := { waitingCell with typ := 4, cls := 1 }
     let q : QTrain := { head := h, length := 1, arrived := [zeros 32], started := true, sent := 0, via := none, tag := none, stopped := false, ranPast := false, stamps := [] }
     let s := (ready.modPort 3 (fun p => { p with state := .active, credits := [(1, 9)] })).modEgress 3 (fun e => { e with queues := [(64, [q])], committed := [64] })
     (s.egress 3).readyQueue = some 64 ∧ tget 0 (s.port 3).credits (64 / 64) ≠ 0 ∧ s.nextCtl 3 = none ∧ s.creditWait 3 0 = false) ∧
    (let u := unitOf (zeros 44)
     let s := ready.modPort 3 (fun p => { p with state := .active, encOn := true, txGroup := List.replicate 16 u })
     16 ≤ (s.port 3).txGroup.length ∧ (s.port 3).encOn = true) := by decide

/-! LaneCommandsTakeEffect -/

/-- A lane command of width 3 or the fast rate; port 3 with it under way. -/
def laneOf (op : LaneOp) (own : Bool) (ph : LanePhase) (n : Nat) : LaneCmd :=
  { id := 0, op := op, lanes := 3, rate := 1, own := own, phase := ph, txDone := false, rxDone := false, resends := n, heats := 1 }
def laneAt (op : LaneOp) (own : Bool) (ph : LanePhase) (n : Nat) : State :=
  ready.modPort 3 (fun p => { p with state := .active, laneCmd := some (laneOf op own ph n), quiet := true })
theorem witness_laneCommands :
    (ready.port 3).laneCmd = none ∧ ((ready.modPort 3 (fun p => { p with state := .active })).port 3).state = .active ∧
    laneOpOf (le ([2, 0, 1] ++ zeros 29) 2 1) = some .width ∧
    (∀ q ∈ [(LaneOp.width, true, LanePhase.sent, 0), (.rate, true, .sent, 3), (.width, true, .goSent, 0), (.rate, false, .acked, 0), (.retrain, false, .acked, 0), (.retrain, true, .switching, 0), (.width, false, .switching, 0)],
      ((laneAt q.1 q.2.1 q.2.2.1 q.2.2.2).port 3).laneCmd = some (laneOf q.1 q.2.1 q.2.2.1 q.2.2.2)) ∧
    (laneOf .width true .sent 0).id = le (zeros 32) 1 1 ∧ le (zeros 32) 2 1 = 0 ∧ le ([3, 0, 1] ++ zeros 29) 2 1 ≠ 0 ∧
    (laneOf .width false .switching 0).maySwitch true = true ∧ (laneOf .width true .goSent 0).maySwitch false = true ∧
    ((laneAt .rate true .goSent 0).port 3).quiet = true ∧ 1 ≤ (laneOf .width true .sent 0).heats := by decide

/-! LinkKeysAndGroupsTakeEffect -/

theorem witness_linkKeys :
    (let k : Keying := { step := 1, rekey := true, initiator := true, secret := [], nonce := [], transcript := [], peerKey := [], heats := 0 }
     let key : LinkKey := { key := [], salt := 0, counter := 2 ^ 31, epoch := false }
     let s := ready.modPort 3 (fun p => { p with state := .keying, keying := some k, stateHeats := 4096, txNext := some key, rxNext := some key })
     let t := ready.modPort 3 (fun p => { p with state := .active, encOn := true, txKey := some key, rekeyWanted := true, txGroup := [unitOf (zeros 44)] })
     (s.port 3).state = .keying ∧ (s.port 3).isA = false ∧ (s.port 3).keying = some k ∧ 4096 ≤ (s.port 3).stateHeats ∧ (s.port 3).txNext = some key ∧
     k.initiator = true ∧ k.step = 1 ∧ s.canKey = true ∧
     (t.port 3).state = .active ∧ (t.port 3).encOn = true ∧ (t.port 3).keying = none ∧ (t.port 3).txNext = none ∧ (t.port 3).rxNext = none ∧ t.canKey = true ∧ (t.port 3).rekeyWanted = true ∧
     2 ^ 31 ≤ key.counter ∧ (t.port 3).txGroup ≠ []) := by decide
/-- An end at step `n` of an exchange whose partner's identity key is empty; its own LINK_ID is `id`. -/
def keyed (st : LinkState) (n id : Nat) (p : Option Ident) : State :=
  let key : LinkKey := { key := [], salt := 0, counter := 0, epoch := false }
  let k : Keying := { step := n, rekey := true, initiator := false, secret := [], nonce := [], transcript := [], peerKey := [], heats := 0 }
  let tag : Cell := { typ := 1, cls := 0, dst := 0, src := 0, part := 0, tag := 0, seq := 0, payload := zeros 24 ++ [1] ++ zeros 7 }
  ready.modPort 3 (fun x => { x with
    state := st, keying := some k, linkId := id, partner := p, txNext := some key, rxNext := some key, encOn := true, rxKey := some key
    reorder := [(0, unitOf (zeros 44)), (1, { unitOf (zeros 44) with body := tag.bytes })] })
theorem witness_keyBelongs :
    ((keyed .keying 0 0 (some { port := 0, caps := 0, chip := 0, linkId := linkIdOf (sha256 []) 0, credits := [] })).port 3).keyBelongs [] = true ∧
    ((keyed .keying 0 0 (some { port := 0, caps := 0, chip := 0, linkId := linkIdOf (sha256 []) 0, credits := [] })).port 3).isA = false := by
  constructor
  · simp [keyed, Port.keyBelongs, State.port, State.modPort, tmod, tget_tins]
  · simp [keyed, Port.isA, State.port, State.modPort, tmod, tget_tins]
theorem witness_keyed :
    (let s := keyed .keying 2 0 none
     (s.port 3).state = .keying ∧ (s.port 3).isA = false ∧ ((s.port 3).keying.map (·.step)) = some 2 ∧ (s.port 3).keyBelongs [] = false ∧
     (s.port 3).txNext.isSome = true ∧ (s.port 3).rxNext.isSome = true) ∧
    (let s := keyed .active 1 1 none
     (s.port 3).state = .active ∧ (s.port 3).encOn = true ∧ (s.port 3).keying ≠ none ∧ (s.port 3).isA = true ∧ s.canKey = true ∧
     (s.port 3).heldGroup.isSome = true) := by decide

/-! TransitAndEgressTakeEffect -/

/-- A cell of partition `p` with index `q` for another chip, at port 3; ports 3 and 4 let partition 1 pass. -/
def passing (q p : Nat) : Cell := { typ := 7, cls := 1, dst := 2048 + 37, src := 33, part := p, tag := 0, seq := q, payload := zeros 32 }
def passage (q p : Nat) (routed : Bool) : State :=
  let a := (pool.modPort 3 (fun x => { x with state := .active, vcBuf := [(1, [passing q p])] })).modEgress 3 (fun e => { e with transitMask := 2, route := [(1, 4)], heldVc := [(1, 1)] })
  let t := (a.modPort 4 (fun x => { x with state := .active })).modEgress 4 (fun e => { e with transitMask := 2 })
  { t with routing := { t.routing with table := if routed then [(32, 36)] else [] } }
theorem witness_transit :
    tget [] ((passage 1 1 true).port 3).vcBuf 1 = [passing 1 1] ∧ (passage 1 1 true).inChip (passing 1 1).dst = false ∧ ((passage 1 1 true).egress 3).twin = false ∧
    tget dropMark ((passage 1 1 true).egress 3).route 1 = 4 ∧ 4 ≠ dropMark ∧ (passage 1 1 true).transitOk 3 (passing 1 1) = true ∧
    (passage 1 1 true).transitOk 4 (passing 1 1) = true ∧ (tget [] ((passage 1 1 true).egress 4).waiting 1).any (fun x => x.1 == 3) = false ∧
    (let s := (passage 1 1 true).modEgress 4 (fun e => { e with waiting := [(1, [(3, passing 1 1)])] }); (tget [] (s.egress 4).waiting 1).any (fun x => x.1 == 3) = true) ∧
    (passage 0 1 true).forwards = true ∧ (passage 0 1 true).chooseOut (passing 0 1).dst (passing 0 1).src 0 = some 4 ∧ (passage 0 2 true).transitOk 3 (passing 0 2) = false ∧
    (passage 0 1 false).chooseOut (passing 0 1).dst (passing 0 1).src 0 = none ∧ (passage 0 1 false).transitOk 3 (passing 0 1) = true ∧
    tfind ((passage 0 1 true).egress 3).heldVc 1 = some 1 := by decide
theorem witness_egress :
    (let h : Cell := { typ := 4, cls := 1, dst := 0, src := 0, part := 0, tag := 0, seq := 0, payload := zeros 32 }
     let q : QTrain := { head := h, length := 1, arrived := [zeros 32], started := false, sent := 0, via := none, tag := some 0, stopped := false, ranPast := false, stamps := [] }
     let s := (ready.modPort 3 (fun p => { p with state := .active, credits := [(1, 9)], openTrain := [(1, { head := h, next := 1, length := 2, heats := 1 })] })).modEgress 3 (fun e => { e with queues := [(64, [q])] })
     (s.egress 3).free = true ∧ s.pickQueue 3 0 100 = some 64 ∧ (tfind (s.port 3).openTrain 1).any (fun o => decide (1 ≤ o.heats)) = true) := by decide

/-! RegistersTakeEffect -/

theorem witness_registers :
    (let s := ((pool.modHead 0 (fun x => { x with link := .active })).modPart 1 (fun p => { p with
       members := [{ ep := 40, caching := false, unresponsive := false }, { ep := 2080, caching := true, unresponsive := false }], ctxFirst := 256, ctxCount := 16 })).modCtx 256 (fun c => { c with state := .active, part := 1 })
     s.headUp 0 = true ∧ sizeOk 0x10000 8 = true ∧ s.headAllowed 0 (regAt (0x10000 / 8 * 8)) = true ∧ sizeOk 1 8 = false ∧ bits 0x105 8 8 ≤ 8 ∧
     s.headAllowed 0 (.door 256) = true ∧ (s.ctx 256).state ≠ .free ∧ s.headAllowed 0 (.page 1 0) = true ∧ (s.part 1).state ≠ .free ∧
     (s.page 1).state = 0 ∧ ((s.modPage 1 (fun g => { g with state := 1, left := some 0 })).page 1).state = 1 ∧
     ((s.modPage 1 (fun g => { g with state := 1, left := some 0 })).page 1).left = some 0 ∧
     (let t : Train := { typ := 0x4, cls := 0, dst := 32, src := 2080, part := 1, tag := 0, cells := [leBytes 1 1 ++ zeros 3 ++ leBytes 4 8 ++ leBytes 8 (0x21000) ++ zeros 16] }
      s.isRegReq t = true ∧ le t.head 0 1 = 0x01 ∧ s.admits 3 t.part = true ∧ (s.part t.part).state = .active ∧ (s.takeTrain 3 t).regStatus t false = stOk) ∧
     (let t : Train := { typ := 0x4, cls := 0, dst := 32, src := 2080, part := 1, tag := 0, cells := [leBytes 1 2 ++ zeros 3 ++ leBytes 4 8 ++ leBytes 8 (0x21010) ++ zeros 16, zeros 32] }
      s.isRegReq t = true ∧ le t.head 0 1 = 0x02 ∧ (s.takeTrain 3 t).regStatus t true = stOk ∧ (s.takeTrain 3 { t with src := 7 }).regStatus { t with src := 7 } true = stDenied ∧
      s.hearth.bridge = [] ∧ (s.takeTrain 3 t).bridgeCanReply t = true ∧
      (let u : State := (({ s with routing := { s.routing with table := [(t.src / 2 ^ 11 * 32 + bits t.src 6 5, 36)] } }).modPort 4 (fun x => { x with state := .active })).modEgress 4 (fun e => { e with waiting := [(0, [(24, t.cellOf 0 t.head)])] })
       u.hearth.bridge = [] ∧ (u.takeTrain 3 t).bridgeCanReply t = false))) := by decide

/-! StarterTakesEffect -/

theorem witness_starter :
    (let s := ((ready.modHead 0 (fun x => { x with link := .active })).modTarget 5 (fun t => { t with binding := 0x40, srcSel := 0x80, since := some 256, enable := true, armed := false })).modSource 0x80 (fun x => { x with
       enable := true, target := some 5, priority := 3, count := 1 })
     s.headUp 0 = true ∧ s.headAllowed 0 (.target 5 0x10) = true ∧ s.winner 5 = some 0x80 ∧ ready.winner 5 = none ∧ (s.target 5).armed = false ∧
     (s.target 5).since = some 256 ∧ s.mayConfigure 5 0x80 = true ∧ (s.source 0x80).active = none ∧ s.tgtCtrlOk 5 0x10 = true ∧ (s.modTarget 5 (fun t => { t with binding := 1 })).tgtCtrlOk 5 0x10 = false ∧ bit 0x31 1 = false ∧
     ((s.modSource 0x80 (fun x => { x with active := some 5 })).source (0x80 % 4096)).active = some 5 ∧
     (s.modTarget 5 (fun t => { t with armed := true })).deliveryDue 5 = true ∧ (s.modTarget 5 (fun t => { t with armed := true })).winner 5 = some 0x80 ∧
     ((s.modSource 0x80 (fun x => { x with active := some 6 })).source (s.target 5).srcSel).active = some 6 ∧ s.headAllowed 0 (.target 5 0x28) = true ∧
     tget false s.starter.msixPend 5 = false ∧
     (let t : State := { s with starter := { s.starter with msixPend := [(5, true)] } }; tget false t.starter.msixPend (256 * 0 + 5) = true)) := by decide

/-! HearthAndSecurityEventsTakeEffect -/

theorem witness_hearthSecurity :
    (let s : State := { ready with hearth := { ready.hearth with core0 := .active, core1 := .standby, switching := true, switchLeft := 0, binding := some (.sideband 2) } }
     let t : State := { ready with hearth := { ready.hearth with core0 := .active, core1 := .warmUp, switching := true, switchLeft := 0 } }
     ready.coresServe = true ∧ ready.coreless = false ∧ ready.hearth.switching = false ∧ s.coresServe = true ∧ s.hearth.switching = true ∧ s.otherStands = true ∧
     t.otherStands = false ∧ t.hearth.planned = false ∧ t.core 1 = .warmUp ∧ s.hearth.binding = some (.sideband 2) ∧
     ({ ready with hearth := { ready.hearth with core1 := .syncing } } : State).core 1 = .syncing ∧ 1 ∉ ready.hearth.synced) ∧
    (let s := ready.modChan (.sideband 2) (fun c => { c with nonce := some ([], 0) }); (s.chan (.sideband 2)).nonce = some ([], 0)) ∧
    (let s : State := { ready with sec := { ready.sec with reseedDue := true, scrubKeyDue := true } }
     s.sec.reseedDue = true ∧ s.sec.scrubKeyDue = true ∧ s.sec.drbgStopped = false ∧ s.pins.pwrok = true) := by decide

/-! BellowsTakesEffect -/

theorem witness_bellows :
    ready.isReady = true ∧ (ready.bellows.compare 100 100).divergence = false ∧
    (({ ready.bellows with overRun := 15 } : Bellows).compare 1000 100).divergence = true ∧ ready.bellows.divergence = false ∧
    (let s := ready.modBellows (fun b => { b with
       readAge := 29, blockDue := true, stretched := true, adjustDue := true, held := [{ start := true, anvil := 3 }], cclkFalls := true, coolant := some 7 })
     s.bellows.missing = false ∧ 29 ≤ s.bellows.readAge ∧ s.bellows.blockDue = true ∧ s.bellows.stretched = true ∧ s.bellows.adjustDue = true ∧ s.bellows.held = [{ start := true, anvil := 3 }] ∧
     s.pins.pwrok = true ∧ s.coolantStop = true ∧ s.bellows.cclkFalls = true ∧ s.linksIdle = true ∧ s.bellows.coolant = some 7) ∧
    4 ≤ ready.boot.step ∧ ready.coolantStop = false ∧ State.reset.boot.step < 4 ∧
    ({ State.reset with pins := { Pins.reset with pwrok := true } } : State).pins.pwrok = true := by decide

/-! BootTakesEffect -/

/-- A device at a step of its boot. -/
def booting (n : Nat) (cold : Bool) : State := { State.reset with
  pins := { Pins.reset with pwrok := true, sysRstN := true, coolantOk := true }, boot := { Boot.reset with step := n, cold := cold } }

theorem witness_boot :
    ready.pins.pwrok = true ∧ State.reset.pins.pwrok = false ∧ ready.pins.sysRstN = true ∧ ready.boot.wasReady = true ∧
    (booting 3 true).boot.wasReady = false ∧ ({ ready with pins := { ready.pins with sysRstN := false } } : State).pins.sysRstN = false ∧
    ({ ready with boot := { ready.boot with flushing := true } } : State).boot.flushing = true ∧
    (booting 1 true).boot.step = 1 ∧ (booting 2 true).boot.step = 2 ∧ (booting 2 true).sec.floorSeen = false ∧ (booting 2 true).sec.recovery = false ∧
    (let s : State := { booting 2 true with sec := { (booting 2 true).sec with floorSeen := true, cfgFloor := 9 } }
     s.sec.floorSeen = true ∧ s.sec.config.version < s.sec.cfgFloor ∧ s.boot.step = 2) ∧
    (booting 3 true).boot.held = false ∧
    (let s : State := { booting 3 true with boot := { (booting 3 true).boot with held := true } }; s.boot.held = true ∧ s.pins.tripped = false) ∧
    (booting 4 true).boot.step = 4 ∧ (booting 4 true).stacksFound ((List.range 8).map (fun _ => { populated := true, trained := true, failed := 0 })) = true ∧
    (booting 4 true).stacksFound [] = false ∧ (booting 4 false).boot.cold = false ∧ (booting 5 true).boot.step = 5 ∧ (booting 6 true).boot.step = 6 := by decide

/-- The model leaves the checks of an image open: whatever they are, an image that passes them and meets the floor boots. -/
theorem witness_bootImage (h : Config.imageChecks ((booting 2 true).sec.flash.object 0) = true) : (booting 2 true).bootImage = some 0 := by
  have e : (booting 2 true).sec.flash.activeImage % 2 = 0 := by decide
  have f : (booting 2 true).sec.fwFloor = 0 := by decide
  simp [State.bootImage, e, State.imageOk, f, h]

/-! CxlHeadsTakeEffect -/

theorem witness_cxlHeads :
    hosted.headUp 0 = true ∧ hosted.cxlCheck 0 (100 / 64 * 64) = (0, some 64) ∧ (hosted.ext ((hosted.extentAt 64).getD 0)).coh = 1 ∧
    hosted.cxlCheck 0 (2 ^ 28 / 64 * 64) = (0, some (2 ^ 28)) ∧ (hosted.ext ((hosted.extentAt (2 ^ 28)).getD 0)).coh ≠ 1 ∧
    hosted.writeWaits 1 (2 ^ 28) 64 = false ∧ hosted.homeBlocked (2 ^ 28) 64 = false ∧ hosted.homeBlocked 64 64 = false ∧ hosted.dirtyWaits 1 = false ∧
    (let t := hosted.modTwin (fun x => { x with restore := [0, 4096] }); t.dirtyWaits 1 = true ∧ t.writeWaits 1 64 64 = true ∧ t.writeWaits 1 (2 ^ 28) 64 = true) ∧
    (hosted.head 0).bisnp.find? (fun x => x.1 == 64) = none ∧ hosted.rangeFree 1 (2 ^ 28) 64 = true ∧ hosted.headCaches 0 64 = false ∧ hosted.rangeFree 1 64 64 = true ∧ hosted.cxlCheck 0 (2 ^ 40) = (1, none) ∧ (hosted.head 0).perst = false ∧ (hosted.head 0).link = .active ∧
    (hosted.head 1).link ≠ .active ∧ (hosted.head 1).perst = false ∧ 5 ≤ hosted.boot.step ∧ hosted.sec.recovery = false ∧ hosted.linksIdle = false ∧
    ((hosted.modHead 0 (fun x => { x with bisnp := [(1, .inv)] })).head 0).bisnp.any (fun x => x.1 == 64 / 64 * 64 / 64) = true ∧ hosted.writeWaits 1 64 64 = false ∧
    ((hosted.modHead 1 (fun x => { x with perst := true })).head 1).perst = true ∧ hosted.isReady = true := by decide

theorem witness_birsp :
    (let s0 := hosted.modPart 1 (fun p => { p with members := { ep := 40, caching := true, unresponsive := false } :: p.members })
     let m := s0.hostMsg 0 0 0 .rdOwn [] 0
     let s : State := { s0.modHead 0 (fun x => { x with bisnp := [(0, .inv)] }) with coh := { s0.coh with trackers := [(0, { msg := m, evict := none, snoops := [], held := [], offered := false, taken := none, waiting := false, missed := false, poisoned := false, written := false, reading := false })] } }
     s.headUp 0 = true ∧ (s.head 0).bisnp.find? (fun x => x.1 == 0) = some (0, .inv) ∧ s.trackerOf 0 = some 0 ∧
     tfind s.coh.trackers 0 = some { msg := m, evict := none, snoops := [], held := [], offered := false, taken := none, waiting := false, missed := false, poisoned := false, written := false, reading := false } ∧ (s.memberIndex 1 (s.endpoint 40)).isSome = true ∧ s0.headCaches 0 64 = true) := by decide

/-! CxlMailboxCommandsTakeEffect -/

theorem witness_cxlMailbox :
    hosted.headUp 0 = true ∧ hosted.hearthRefuses = none ∧
    State.hearthRefuses { hosted with hearth := { hosted.hearth with lost := true } } = some stFaulted ∧
    (let i := celUuid ++ zeros 4 ++ leBytes 4 8; i.length = 24 ∧ i.take 16 = celUuid ∧ le i 20 4 ≤ 8192 ∧ le i 16 4 + le i 20 4 ≤ (celOpcodes true).length * 4) ∧
    (zeros 8).length = 8 ∧ (4 : Byte).toNat < 5 ∧
    (let i : List Byte := [4, 1, 0, 0, 0, 0]; le i 0 1 = 4 ∧ le i 2 1 = 0 ∧ i.length = 6 + 2 * 0 ∧ bit (le i 1 1) 0 = true) ∧
    (let i : List Byte := [4, 0, 1, 0, 0, 0, 9, 0]
     le i 2 1 = 1 ∧ i.length = 6 + 2 * 1 ∧ bit (le i 1 1) 0 = false ∧
     inOrder [{ kind := .thermal, handle := 9, dpa := 0, len := 0, info := 0, extents := [], heat := 0 }] (leList 2 1 (i.drop 6)) = true ∧ inOrder [] (leList 2 1 (i.drop 6)) = false) ∧
    (zeros 4).length = 4 ∧ (zeros 4).all (fun b => b.toNat % 4 < 2) = true ∧ (zeros 16).length = 16 ∧ (zeros 2).length = 2 := by decide

theorem witness_cxlMailboxBlocks :
    (let i := leBytes 8 (2 ^ 28); le i 0 8 % 64 = 0 ∧ i.length = 8 ∧ hosted.acceptedAt 0 (le i 0 8) = true ∧ hosted.writeWaits 1 (le i 0 8) 64 = false ∧ (hosted.ext ((hosted.extentAt (le i 0 8)).getD 0)).part = 1 ∧
     (i ++ zeros 64).length = 72 ∧ le (i ++ zeros 64) 0 8 = 2 ^ 28) ∧
    le (zeros 8) 4 4 ≤ (hosted.mergedExtents (hosted.head 0).accepted).length ∧
    (let i := leBytes 4 1 ++ zeros 4 ++ leBytes 8 (2 ^ 28) ++ leBytes 8 (2 ^ 28) ++ zeros 8
     let s := hosted.modHead 0 (fun x => { x with offered := [1] })
     listWellFormed i = true ∧ listedBlocks i = [1] ∧ ([1].map (fun b => (s.head 0).offered.find? (fun n => (s.ext n).dpaBlk == b))).any (·.isNone) = false ∧
     ([1].map (fun b => (s.head 0).offered.find? (fun n => (s.ext n).dpaBlk == b))).filterMap id ≠ [] ∧ s.regionOf (1 * 2 ^ 28) ≠ none) ∧
    listWellFormed (zeros 8) = true ∧ listedBlocks (zeros 8) = [] ∧ cxlServed true 0x4200 = false := by decide

/-! CommandPartsAndEndsTakeEffect -/

/-- A command of the primary mailbox of head 0 that waits for an event. -/
def waiter (op : Nat) (k : EventKey) : Running :=
  { id := 1, chan := .primary 0, opcode := op, tag := 7, partition := 0, owed := true, objs := [], wait := .event k }

theorem witness_commandParts :
    (let m (op fl n : Nat) : IcsMsg := { opcode := op, flags := fl, status := 0, tag := 7, partition := 0, partNo := n, reserved := 0, payload := [] }
     desk.icsTake (.direct (.primary 0) (m 0xC601 8 0)) = some (.primary 0, m 0xC601 8 0) ∧ bit 8 3 = true ∧ bit 8 4 = false ∧
     (desk.dropHeld (.primary 0) (m 0xC601 8 0)).coreRefuses (.primary 0) 0xC601 = none ∧ takesParts 0xC601 = true ∧ (m 0xC601 8 0).headerOk false = true ∧
     ((desk.chan (.primary 0)).parts.map (·.next)).getD 0 = 0 ∧ takesParts 0xC600 = false ∧
     State.coreRefuses { desk with hearth := { desk.hearth with lost := true } } (.primary 0) 0xC601 = some stFaulted ∧ bits 16 3 2 = 2 ∧
     (m 0xC000 16 1).headerOk false = true ∧ (desk.chan (.primary 0)).result = none ∧
     (let s := desk.modChan (.primary 0) (fun c => { c with result := some {
        opcode := 0xC000, tag := 7, partition := 0, status := 0, accepted := true, rest := [1], next := 1, heatsLeft := 0 } })
      (((s.dropHeld (.primary 0) (m 0xC000 16 1)).chan (.primary 0)).result.map (·.next)) = some 1 ∧ ((s.chan (.primary 0)).result.map (·.heatsLeft)) = some 0) ∧
     catalogue.contains 0xC003 = false ∧ bits 0 3 2 = 0) := by decide

theorem witness_commandEnds :
    (let s : State := { desk with sec := { desk.sec with programming := some (1, 0, [1]), activating := some 1 }, hearth := { desk.hearth with running := [waiter 0xCB01 .programmed] } }
     let u : State := { desk with hearth := { desk.hearth with running := [waiter 0xCB02 (.verified 1)] } }
     let v : State := { desk with hearth := { desk.hearth with running := [waiter 0xC800 .report] } }
     let w : State := { fetched desk 1 0 8 with hearth := { desk.hearth with running := [waiter 0xC622 (.digest 1 0 0 8 0)] }, anvils := { desk.anvils with stores := [(1, 1)] } }
     s.sec.programming = some (1, 0, [1]) ∧ s.waiting .programmed = some (waiter 0xCB01 .programmed) ∧ s.noCore = false ∧ s.sec.activating = some 1 ∧
     u.waiting (.verified 1) = some (waiter 0xCB02 (.verified 1)) ∧ u.targetOk 1 = false ∧
     v.hearth.running.find? (fun r => r.chan == .primary 0 && r.wait == .event .report) = some (waiter 0xC800 .report) ∧ v.hearthRefuses = none ∧
     ((v.modChan (.primary 0) (fun c => { c with unsigned := some [] })).chan (.primary 0)).unsigned = some [] ∧
     w.pendingLoad 1 0 = some (waiter 0xC622 (.digest 1 0 0 8 0), 0, 8, 0) ∧ w.allReady [{ part := 1, psa := 0, len := 8, write := false }] = true ∧
     (w.programSlot 1 0).isSome = true ∧ (w.pLoad 1 0 8).1 = stOk) := by decide

/-! PartitionCommandsServe -/

theorem witness_partitionCommandsServe_1 :
    passes desk (viaHead 0xC000 []) deviceInformationCmd (fun _ => []) = true ∧
    passes ({ desk with sec := { desk.sec with flash := { desk.sec.flash with lengths := [(3, 4096)] } } } : State) (viaHead 0xC001 (zeros 4 ++ leBytes 4 16)) configRecordReadCmd configRecordReadRules = true ∧
    passes desk (viaHead 0xC002 (zeros 4 ++ leBytes 4 16)) certificateChainReadCmd certificateChainReadRules = true ∧
    passes desk (viaHead 0xC100 ([2, 0, 0, 0] ++ leBytes 4 0 ++ leBytes 2 1 ++ zeros 6)) partitionCreateCmd partitionCreateRules = true := by decide

theorem witness_partitionCommandsServe_2 :
    passes desk (viaHead 0xC101 [1, 0, 0, 0]) partitionDestroyCmd (fun _ => []) = true ∧
    passes desk (viaHead 0xC102 [1, 0, 0, 0]) partitionInformationCmd partitionInformationRules = true ∧
    passes desk (viaHead 0xC103 ([1, 0, 0, 0] ++ leBytes 4 0 ++ leBytes 2 4 ++ zeros 2)) partitionSpanSetCmd partitionSpanSetRules = true ∧
    passes desk (viaHead 0xC104 [1, 0, 1, 0, 40, 0, 1, 0]) memberSetCmd memberSetRules = true := by decide

theorem witness_partitionCommandsServe_3 :
    passes desk (viaHead 0xC105 [1, 0, 0, 1, 8, 0, 0, 0]) coherenceSetCmd coherenceSetRules = true ∧
    passes desk (viaHead 0xC106 ([1, 0] ++ leBytes 2 256 ++ leBytes 2 32 ++ [0, 0])) contextRangeSetCmd contextRangeSetRules = true ∧
    passes desk (viaHead 0xC107 [5, 1, 0, 0]) starterBindCmd starterBindRules = true := by decide

theorem witness_commandChecks :
    (let m : IcsMsg := { opcode := 0xC100, flags := 0, status := 0, tag := 7, partition := 0, partNo := 0, reserved := 0, payload := zeros 16 }
     desk.icsTake (.direct (.primary 0) m) = some (.primary 0, m) ∧ checks partitionCreateCmd m (reqOf desk (.primary 0) m) = none ∧
     (partitionCreateRules (reqOf desk (.primary 0) m)).find? (·.1) = some (true, stInvalid) ∧
     checks partitionCreateCmd { m with payload := [] } (reqOf desk (.primary 0) { m with payload := [] }) = some stInvalid) ∧
    (let s : State := { desk with hearth := { desk.hearth with running := [{ id := 1, chan := .primary 1, opcode := 0xC101, tag := 0, partition := 0, owed := true, objs := [.partition 1], wait := .boundary 1 (.partitionDestroy 1) }] } }
     s.conflicts [.memberList 1] (fun _ => false) = true) := by decide

/-! ExtentCommandsServe -/

theorem witness_extentCommandsServe_1 :
    passes desk (viaHead 0xC200 ([1, 0, 0, 0] ++ leBytes 4 5 ++ zeros 24)) extentAddCmd extentAddRules = true ∧
    passes desk (viaHead 0xC201 ([1, 0, 0, 0] ++ leBytes 4 1)) extentReleaseCmd extentReleaseRules = true ∧
    passes desk (viaHead 0xC202 ([1, 0, 0, 0] ++ leBytes 4 1)) extentInformationCmd extentInformationRules = true ∧
    passes desk (viaHead 0xC203 ([1, 0, 0, 0] ++ leBytes 2 8 ++ leBytes 2 4)) cxlRegionSetCmd cxlRegionSetRules = true := by decide

theorem witness_extentCommandsServe_2 :
    passes desk (viaHead 0xC204 ([1, 1, 1, 0] ++ leBytes 4 1)) cxlOfferCmd cxlOfferRules = true ∧
    passes desk (viaHead 0xC205 ([1, 1, 1, 0] ++ leBytes 4 1)) cxlWithdrawCmd cxlWithdrawRules = true ∧
    passes desk (viaHead 0xC206 ([3] ++ zeros 15 ++ leBytes 16 9)) dcTagSetCmd dcTagSetRules = true := by decide

/-! SealAndHintCommandsServe -/

theorem witness_sealAndHintCommandsServe_1 :
    passes desk (viaHead 0xC207 ([1, 0] ++ leBytes 2 8)) sealQuotaSetCmd sealQuotaSetRules = true ∧
    passes (viaPage desk 0xC210 ([1, 0, 0, 0] ++ leBytes 4 1)) (.page 1) sealCreateCmd sealCreateRules = true ∧
    passes desk (viaHead 0xC211 [0, 0, 0, 0]) sealInformationCmd sealInformationRules = true ∧
    passes (viaPage desk 0xC212 ([0, 0] ++ leBytes 2 1 ++ leBytes 4 5)) (.page 1) sealMapCmd sealMapRules = true := by decide

theorem witness_sealAndHintCommandsServe_2 :
    passes (viaPage desk 0xC213 (leBytes 4 2)) (.page 1) sealUnmapCmd sealUnmapRules = true ∧
    passes (viaPage desk 0xC214 [0, 0, 0, 0]) (.page 1) sealReleaseCmd sealReleaseRules = true ∧
    passes (viaPage desk 0xC300 (leBytes 8 65536 ++ leBytes 6 65536 ++ [1, 0])) (.page 1) hintSetCmd hintSetRules = true ∧
    passes (viaPage desk 0xC301 []) (.page 1) hintListCmd (fun _ => []) = true := by decide

theorem witness_sealAndHintCommandsServe_3 :
    passes desk (viaHead 0xC302 [4, 0, 0, 0]) migrationBudgetSetCmd migrationBudgetSetRules = true := by decide

/-! FabricCommandsServe -/

theorem witness_fabricCommandsServe_1 :
    passes desk (viaHead 0xC400 [3, 4, 0, 0]) coordinateSetCmd coordinateSetRules = true ∧
    passes desk (viaHead 0xC401 [3, 2, 1, 0]) portNeighbourSetCmd portNeighbourSetRules = true ∧
    passes desk (viaHead 0xC402 (leBytes 2 1024 ++ [1, 0] ++ leBytes 2 0)) routeSetCmd routeSetRules = true ∧
    passes desk (viaHead 0xC403 (leBytes 2 1020 ++ [2, 0])) routeReadCmd routeReadRules = true := by decide

theorem witness_fabricCommandsServe_2 :
    passes desk (viaHead 0xC404 [3, 3, 1, 2]) portSetCmd portSetRules = true ∧
    passes desk (viaHead 0xC405 [3, 0, 0, 0]) portRetrainCmd portRetrainRules = true ∧
    passes desk (viaHead 0xC406 ([3] ++ zeros 7 ++ leBytes 8 2)) transitMaskSetCmd transitMaskSetRules = true ∧
    passes desk (viaHead 0xC407 [2, 3, 0, 0]) heatSyncSetCmd heatSyncSetRules = true := by decide

/-! SchedulingCommandsServe -/

theorem witness_schedulingCommandsServe_1 :
    passes desk (viaHead 0xC500 ([3, 128] ++ leBytes 2 4096 ++ zeros 4)) queueSetCmd queueSetRules = true ∧
    passes desk (viaHead 0xC501 [1, 2, 0, 0]) groupSetCmd groupSetRules = true ∧
    passes desk (viaHead 0xC502 ([3, 0, 1, 0] ++ zeros 6 ++ [1, 0] ++ zeros 4 ++ leBytes 8 1 ++ leBytes 2 64 ++ zeros 6)) gateSetCmd gateSetRules = true ∧
    passes desk (viaHead 0xC503 [8, 0, 0, 0, 1, 1, 5, 0]) weightSetCmd weightSetRules = true := by decide

theorem witness_schedulingCommandsServe_2 :
    passes desk (viaHead 0xC504 ([8, 0, 0, 0, 1, 1, 0, 0] ++ leBytes 4 100 ++ leBytes 3 9 ++ [0])) shaperSetCmd shaperSetRules = true ∧
    passes desk (viaHead 0xC505 ([3, 0, 1, 0, 1, 0, 0, 0, 0, 1] ++ zeros 14)) splitSetCmd splitSetRules = true ∧
    passes desk (viaHead 0xC506 [3, 0, 0, 0]) splitReadCmd splitReadRules = true ∧
    passes desk (viaHead 0xC507 (leBytes 4 64 ++ [1, 2, 3, 0])) ageLimitSetCmd ageLimitSetRules = true := by decide

/-! MeltAndRosterCommandsServe -/

theorem witness_meltAndRosterCommandsServe_1 :
    passes (viaPage desk 0xC600 ([1, 0, 2, 0] ++ leBytes 2 0x0000 ++ [1, 0] ++ leBytes 4 128 ++ [1, 0, 1, 0] ++ zeros 112)) (.page 1) meltOpenCmd meltOpenRules = true ∧
    passes (viaPage desk 0xC601 ([0, 0, 1, 0] ++ zeros 12 ++ leBytes 2 2080 ++ zeros 14)) (.page 1) meltContributorsCmd meltContributorsRules = true ∧
    passes (viaPage desk 0xC602 [0, 0, 0x1F, 0]) (.page 1) meltArmCmd meltArmRules = true ∧
    passes (viaPage desk 0xC603 [0, 0, 0, 0]) (.page 1) meltCloseCmd meltCloseRules = true := by decide

theorem witness_meltAndRosterCommandsServe_2 :
    passes (viaPage desk 0xC604 [1, 0, 0, 0]) (.page 1) meltAbortStepCmd meltAbortStepRules = true ∧
    passes (viaPage desk 0xC605 [0, 0, 0, 0]) (.page 1) meltInformationCmd meltInformationRules = true ∧
    passes (viaPage desk 0xC606 ([1, 0, 0, 0] ++ leBytes 4 16 ++ leBytes 8 4096)) (.page 1) statusRingSetCmd statusRingSetRules = true ∧
    passes desk (viaHead 0xC610 (leBytes 2 1 ++ zeros 6 ++ zeros 64)) rosterSetCmd rosterSetRules = true := by decide

theorem witness_meltAndRosterCommandsServe_3 :
    passes desk (viaHead 0xC611 []) rosterReadCmd (fun _ => []) = true := by decide

/-! ProgramAndTongsCommandsServe -/

theorem witness_programAndTongsCommandsServe_1 :
    passes (viaPage desk 0xC620 (leBytes 4 1)) (.page 1) anvilStoreSetCmd anvilStoreSetRules = true ∧
    passes (viaPage ({ desk with anvils := { desk.anvils with programs := [], stores := [(1, 9)] } } : State) 0xC621 (leBytes 4 5)) (.page 1) anvilStoreReleaseCmd anvilStoreReleaseRules = true ∧
    passes (viaPage ({ desk with anvils := { desk.anvils with stores := [(1, 9)] } } : State) 0xC622 ([1, 0, 0, 0] ++ leBytes 4 8 ++ leBytes 8 4096 ++ leBytes 4 4096)) (.page 1) programLoadCmd programLoadRules = true ∧
    passes (viaPage desk 0xC623 (zeros 8 ++ leBytes 8 1 ++ zeros 64)) (.page 1) programStartCmd programStartRules = true := by decide

theorem witness_programAndTongsCommandsServe_2 :
    passes (viaPage desk 0xC624 (zeros 8 ++ leBytes 8 1)) (.page 1) programStopCmd programStopRules = true ∧
    passes (viaPage desk 0xC630 (leBytes 2 257 ++ leBytes 2 0 ++ leBytes 4 64 ++ leBytes 8 4096 ++ leBytes 8 8192 ++ [0xFF] ++ zeros 7)) (.page 1) tongsContextSetCmd tongsContextSetRules = true ∧
    passes (viaPage desk 0xC631 (leBytes 2 256 ++ [0, 0])) (.page 1) tongsContextResetCmd tongsContextResetRules = true ∧
    passes (viaPage desk 0xC632 (leBytes 2 256 ++ [0, 0])) (.page 1) tongsContextStatusCmd tongsContextStatusRules = true := by decide

theorem witness_programAndTongsCommandsServe_3 :
    passes (viaPage desk 0xC633 (leBytes 2 256 ++ [1, 0])) (.page 1) tongsResumeCmd tongsResumeRules = true ∧
    passes (viaPage desk 0xC634 (leBytes 2 0xFFFF ++ zeros 6 ++ leBytes 8 4096)) (.page 1) tongsSpaceSetCmd tongsSpaceSetRules = true ∧
    passes (viaPage desk 0xC635 [1, 0, 0, 0]) (.page 1) tongsSpaceFreeCmd tongsSpaceFreeRules = true ∧
    passes (viaPage desk 0xC636 ([0, 0, 1, 0, 0, 0, 0, 0] ++ leBytes 8 65536 ++ leBytes 8 65536)) (.page 1) tongsInvalidateCmd tongsInvalidateRules = true := by decide

theorem witness_programAndTongsCommandsServe_4 :
    passes (viaPage desk 0xC637 (leBytes 2 256 ++ leBytes 2 0)) (.page 1) tongsPlaceSetCmd tongsPlaceSetRules = true ∧
    passes (viaPage desk 0xC638 (leBytes 4 16 ++ zeros 4 ++ leBytes 8 4096)) (.page 1) faultQueueSetCmd faultQueueSetRules = true := by decide

/-! PowerAndSecurityCommandsServe -/

theorem witness_powerAndSecurityCommandsServe_1 :
    passes desk (viaHead 0xC700 (leBytes 2 500 ++ [0, 0])) powerLimitSetCmd powerLimitSetRules = true ∧
    passes (viaPage desk 0xC701 [7, 0, 0, 0]) (.page 1) phaseDeclareCmd phaseDeclareRules = true ∧
    passes desk (viaHead 0xC702 ([7, 5, 3] ++ zeros 13)) phaseSetCmd phaseSetRules = true ∧
    passes desk (viaHead 0xC703 ([1, 0] ++ leBytes 2 256)) dramPowerSetCmd dramPowerSetRules = true := by decide

theorem witness_powerAndSecurityCommandsServe_2 :
    passes desk (viaHead 0xC704 []) powerStatusCmd (fun _ => []) = true ∧
    passes (viaPage desk 0xC800 (zeros 48)) (.page 1) attestationReportCmd attestationReportRules = true ∧
    passes (viaPage (desk.modChan (.page 1) (fun c => { c with report := some (zeros 8) })) 0xC801 (zeros 4 ++ leBytes 4 4)) (.page 1) attestationReadCmd attestationReadRules = true ∧
    passes desk (viaHead 0xC810 []) fmChallengeCmd fmChallengeRules = true := by decide

theorem witness_powerAndSecurityCommandsServe_3 :
    passes desk (viaHead 0xC812 []) fmUnbindCmd (fun _ => []) = true ∧
    passes desk (viaHead 0xC820 []) debugUnlockCmd debugUnlockRules = true ∧
    passes desk (viaHead 0xC821 []) debugLockCmd (fun _ => []) = true := by decide

theorem witness_fmBind :
    (let s := desk.modChan (.primary 0) (fun c => { c with nonce := some (zeros 32, 5), bindPart := some (zeros 8) })
     let t := desk.modChan (.primary 0) (fun c => { c with nonce := some (zeros 32, 5) })
     (s.chan (.primary 0)).nonce = some (zeros 32, 5) ∧ (s.chan (.primary 0)).bindPart = some (zeros 8) ∧ (t.chan (.primary 0)).bindPart = none ∧
     (desk.chan (.primary 0)).nonce = none ∧ Chan.bindCode (.primary 0) = some 0) := by decide

/-! ReliabilityAndFirmwareCommandsServe -/

theorem witness_reliabilityAndFirmwareCommandsServe_1 :
    passes desk (viaHead 0xC900 [0, 7, 0, 0]) memoryHealthCmd memoryHealthRules = true ∧
    passes desk (viaHead 0xC901 [3, 0, 0, 0]) scrubFloorSetCmd scrubFloorSetRules = true ∧
    passes (desk.modUnit 5 (fun u => { u with state := .retired })) (viaHead 0xC902 [2, 0, 5, 0]) unitReturnCmd unitReturnRules = true ∧
    passes (desk.setCore 1 .failed) (viaHead 0xC903 [1, 0, 0, 0]) hearthReturnCmd hearthReturnRules = true := by decide

theorem witness_reliabilityAndFirmwareCommandsServe_2 :
    passes (desk.setCore 1 .standby) (viaHead 0xC904 []) hearthSwitchCmd hearthSwitchRules = true ∧
    passes desk (viaHead 0xC910 ([1] ++ zeros 39)) twinSetCmd twinSetRules = true ∧
    passes (viaPage desk 0xC911 []) (.page 1) twinEpochCmd twinEpochRules = true ∧
    passes (viaPage desk 0xC912 []) (.page 1) twinStatusCmd (fun _ => []) = true := by decide

theorem witness_reliabilityAndFirmwareCommandsServe_3 :
    passes desk (viaHead 0xCA00 [1, 0, 0, 0]) unitReadCmd unitReadRules = true ∧
    passes desk (viaHead 0xCA01 []) coherenceStatisticsCmd (fun _ => []) = true ∧
    passes desk (viaHead 0xCA02 []) queueStatisticsCmd (fun _ => []) = true ∧
    passes desk (viaHead 0xCB00 []) firmwareInfoCmd (fun _ => []) = true := by decide

theorem witness_reliabilityAndFirmwareCommandsServe_4 :
    passes desk (viaHead 0xCB01 ([1, 0, 0, 0] ++ zeros 4 ++ leBytes 4 16 ++ zeros 20)) firmwareWriteCmd firmwareWriteRules = true ∧
    passes desk (viaHead 0xCB02 [2, 0, 0, 0]) firmwareActivateCmd firmwareActivateRules = true := by decide

/-! BoundaryRunsTheDuties -/

theorem witness_boundary :
    ready.heat.running = true ∧ ready.pins.pwrok = true ∧ ready.isReady = true ∧
    (let s : State := { ready with boot := { ready.boot with step := 0 }, pins := { ready.pins with ready := false } }
     s.heat.running = true ∧ s.pins.pwrok = true ∧ s.isReady = false) ∧ State.reset.heat.running = false ∧ State.reset.pins.pwrok = false ∧ State.reset.boot.step < 5 ∧ 5 ≤ ready.boot.step ∧
    ({ ready with heat := { ready.heat with running := false } } : State).heat.running = false := by decide

/-! ThrottleRungMovesByOne -/

theorem witness_throttleRung : ready.bellows.rung ≤ 6 ∧
    (let s := ready.modBellows (fun b => { b with rung := 3 }); s.bellows.rung ≤ 6) := by decide

/-! StepRunsTheFront -/

theorem witness_step :
    (let s := ready.withFront .droopDetect; s.pending = .droopDetect :: []) ∧ ready.pending = [] := by decide

/-! PinsFollowTheState -/

theorem witness_pinsFollow : PinsFollow { desk with pins := desk.outPins } := by
  unfold PinsFollow; decide

/-! MemoryReadsWhatWasWritten -/

theorem witness_memoryReads : Mem.reset.wf = true := by decide

/-! RegisterInstructionsStayInTheirAnvil -/

theorem witness_registerInstructions : ∃ t, exec (.vadd { anvil := 0, d := 1, a := 2, b := 3, c := 0, msk := 0, ms := false, modifier := 0 }) forgeAnvil = .next t := ⟨_, rfl⟩

/-! AcceptedChangesTakeEffect -/

theorem witness_acceptedChanges :
    (let y : Running := { id := 5, chan := .page 1, opcode := 0, tag := 0, partition := 0, owed := true, objs := [], wait := .boundary 1 (.budgetSet 2) }
     let s : State := { pool with hearth := { pool.hearth with running := [y] } }
     s.hearth.running.find? (fun x => x.id == y.id) = some y ∧ y.wait = .boundary 1 (.budgetSet 2) ∧
     (Change.budgetSet 2).due s.heat.count = true) ∧
    (let c : Change := .rosterSet { lap := 1, start := 7, entries := [] }
     c.due 3 = false) ∧
    (pool.part 1).state = .active ∧ (pool.part 2).state ≠ .active := by decide

/-! ShortRunsAreRefused -/

theorem witness_shortRuns :
    (let pay := leBytes 2 5 ++ zeros 6 ++ (List.range 5).flatMap (fun k => (List.range 64).map (fun _ => if k < 2 then (1 : Byte) else 0))
     let a := viaHead 0xC610 pay
     (match desk.icsTake a with | some (ch, m) => checks rosterSetCmd m (reqOf desk ch m) == none | none => false) &&
      shortRun (le pay 0 2) (fun k => le pay (8 + 64 * k + 0) 1)) = true := by decide

/-! DoorbellsSetTheTail -/

theorem witness_doorbells :
    let s := { desk with tongs := { desk.tongs with ctxs := [(257, { Ctx.reset with state := .idle, part := 1, entries := 16, subHead := 4 })] } }
    (s.ctx 257).entries < (21 + 2 ^ 32 - (s.ctx 257).subHead) % 2 ^ 32 ∧ (20 + 2 ^ 32 - (s.ctx 257).subHead) % 2 ^ 32 ≤ (s.ctx 257).entries ∧
    ((s.modCtx 257 (fun x => { x with state := .faulted })).ctx 257).state = .faulted ∧ (s.ctx 257).held = false ∧
    (7 + 2 ^ 32 - (s.ctx 257).subHead) % 2 ^ 32 ≤ (s.ctx 257).entries := by decide

/-! SpecialBilletBlocks -/

theorem witness_specialBlocks : (∃ x ∈ [Fp.fin false 1 1, Fp.nan false], x.isFinite = false) ∧ (∀ x ∈ [Fp.fin true 0 1], ∃ (neg : Bool) (d : Nat), x = .fin neg 0 d) :=
  ⟨⟨Fp.nan false, by simp, rfl⟩, fun x h => ⟨true, 1, by simpa using h⟩⟩

/-! ShaperSetReplacesTheRefill -/

theorem witness_shaperSet : 3 ∈ pool.maskPorts 8 ∧ 4 ∉ pool.maskPorts 8 := by decide

/-! EpochsInSolo -/

theorem witness_epochSolo :
    let s : State := { pool with twin := { pool.twin with state := .solo }, parts := { pool.parts with extents := [(0, { Extent.reset with part := 1, state := .active, mirror := 2 })] } }
    s.twin.state = .solo ∧ s.extentAt 0 = some 0 ∧ (s.ext 0).mirror = 2 := by decide

/-! LateAnswersAreDiscarded -/

theorem witness_lateAnswer :
    let t := train 8 3 37 [leBytes 1 0x23 ++ zeros 31]
    pool.isCohRsp t 0x23 = true ∧ pool.admits 3 t.part = true ∧ (pool.part t.part).state = .active ∧
    pool.answeredSnoop t false = none ∧ (pool.part t.part).confidential = false ∧
    ((pool.modPart 1 (fun p => { p with confidential := true })).part t.part).confidential = true := by decide

/-! TimeoutReadAtSubmission -/

theorem witness_timeoutSubmission : pool.hearthRefuses = none ∧ (pool.part 1).state ≠ .free := by decide

/-! DirectoryEntriesKeepTheirForm -/

theorem witness_directoryForm :
    (let e : DirEntry := { DirEntry.reset with state := .shared, pvalid := 15, ptrs := [(1, 1), (2, 2), (3, 3)], fvalid := true, fidx := 2 }
     e.pvalid < 16 ∧ e.fidx < 4 ∧ e.state = .shared ∧ e.ovf = false ∧ e.pointers.length = 4 ∧ 7 ∉ e.pointers) ∧
    (let e : DirEntry := { DirEntry.reset with state := .shared, ovf := true }; e.ovf = true ∧ 7 ∉ e.pointers) := by decide

end Sys2Proof.Tests
end

namespace Sys2Proof.Proofs
open Sys2Proof.Machine Sys2Proof.Safety

/-! ### Every command answers a next state

The meaning of a command chooses its next state within its argument of `done`, in each of its branches: it has no branch that
answers otherwise. The arms of the command set reach `done` through `State.serveDone`. -/

/-- The meaning of every command, whatever its operands and the state, ends with `done`. -/
theorem exec_eq_done (c : Instr) (s : State) : ∃ t, exec c s = done t := by
  cases c <;> exact ⟨_, rfl⟩

theorem safe_done (t : State) : Safe (done t) := ⟨drive t, rfl⟩

theorem safe_exec (c : Instr) (s : State) : Safe (exec c s) := by
  obtain ⟨t, ht⟩ := exec_eq_done c s
  rw [ht]
  exact safe_done t

theorem step_of_idle {s : State} (h : s.pending = []) : step s = .next s := by
  simp only [step, h]

theorem step_of_front {s : State} {c : Instr} {rest : List Instr} (h : s.pending = c :: rest) :
    step s = exec c { s with pending := rest } := by
  simp only [step, h]

/-- A step idles on an empty queue and runs the command at the front of any other. -/
theorem safe_step (s : State) : Safe (step s) := by
  cases h : s.pending with
  | nil => exact ⟨s, step_of_idle h⟩
  | cons c rest =>
    rw [step_of_front h]
    exact safe_exec c { s with pending := rest }

/-- Settles O49: every meaning ends with `done`, and a step is a meaning or the idle step. That the meaning of a command never
stops is the model's choice (log entry 64). -/
theorem everyCommandAnswersANextState : Obligations.EveryCommandAnswersANextState :=
  ⟨safe_exec, safe_step⟩

end Sys2Proof.Proofs

namespace Sys2Proof.Proofs
open Sys2Proof.Machine Sys2Proof.Safety

/-! ### The output pins

`drive` sets every output pin from the state, so what it leaves meets the invariant whatever it is given, and every meaning ends
with it. -/

theorem isReady_iff (s : State) : s.isReady = true ↔ s.boot.step = 7 ∧ s.pins.pwrok = true ∧ s.pins.sysRstN = true := by
  simp [State.isReady, and_assoc]

theorem baton_of_batonLow {s : State} (hp : s.pins.pwrok = true) (hb : s.boot.batonLow = true) : s.baton = some false := by
  simp [State.baton, hp, hb]

/-- BATON_OUT is high only on a primary member that no stop, trip, reset or recovery holds back (R503, R504, R541). -/
theorem of_baton_high {s : State} (h : s.baton = some true) :
    s.twin.state.isPrimary = true ∧ s.bellows.coolant = none ∧ s.pins.tripped = false ∧
    s.pins.pwrok = true ∧ s.pins.sysRstN = true ∧ s.boot.batonLow = false ∧ 3 ≤ s.boot.step ∧ s.sec.recovery = false := by
  unfold State.baton at h
  split at h
  · cases h
  · split at h
    · cases h
    · split at h
      · cases h
      · simp_all [State.coolantStop]

theorem pinsFollow_drive (s : State) : PinsFollow (drive s) := by
  refine ⟨isReady_iff s, ?thermtrip, ?replace, of_baton_high, baton_of_batonLow, ?pulse, ?trace⟩
  case thermtrip => simp [State.outPins]
  case replace => simp [State.outPins, and_assoc]
  case pulse =>
    intro h
    obtain ⟨-, hfn, hr⟩ : s.heat.pulse = true ∧ s.sec.config.gpio0Fn = 1 ∧ s.isReady = true := by
      simpa [State.outPins] using h
    exact ⟨hfn, (isReady_iff s).1 hr⟩
  case trace =>
    intro h
    obtain ⟨⟨hd, hfn⟩, hr⟩ : (s.sec.debugUnlocked = true ∧ s.sec.config.gpio0Fn = 2) ∧ s.isReady = true := by
      simpa [State.outPins] using h
    exact ⟨hfn, hd, (isReady_iff s).1 hr⟩

theorem pinsFollow_of_exec {c : Instr} {s t : State} (h : exec c s = .next t) : PinsFollow t := by
  obtain ⟨u, hu⟩ := exec_eq_done c s
  obtain rfl : drive u = t := by simpa [done] using hu.symm.trans h
  exact pinsFollow_drive u

/-- Settles O47: an idle step keeps the state, and any other is the meaning of a command, which drives the pins. -/
theorem pinsFollowTheState : Obligations.PinsFollowTheState := by
  intro s t hs ht
  cases hq : s.pending with
  | nil =>
    obtain rfl : s = t := by simpa [step_of_idle hq] using ht
    exact hs
  | cons c rest => exact pinsFollow_of_exec ((step_of_front hq).symm.trans ht)

/-! ### What reset leaves -/

/-- The output pins of the reset state are the ones it drives. -/
theorem drive_reset : drive State.reset = State.reset := rfl

theorem link_head_reset (h : Nat) : (State.reset.head h).link = .down := rfl

theorem state_port_reset (i : Nat) : (State.reset.port i).state = .disabled := rfl

/-- Settles O48: the tables of the reset state list nothing, so that each of their readers answers the reset value of an entry. The
reset values that the spec does not give are the model's choice (log entries 3 to 9). -/
theorem resetLeaves : Obligations.ResetLeaves :=
  ⟨drive_reset ▸ pinsFollow_drive State.reset, rfl, rfl, rfl, rfl, rfl, rfl, rfl, rfl, rfl, rfl, fun _ => rfl, fun _ => rfl,
    fun h => by simp [link_head_reset h], fun i => by simp [state_port_reset i], fun _ => rfl⟩

/-! ### Commands that act under a condition -/

/-- A command whose meaning leaves `t` under a condition, gives `t` where the condition holds. -/
theorem gives_of_if {c : Instr} {s t u : State} {p : Prop} [Decidable p] (h : exec c s = done (if p then t else u)) (hp : p) :
    Gives c s t := by
  rw [Gives, h, if_pos hp, done]

/-- A command whose meaning leaves `u` but under a condition, gives `u` where the condition fails. -/
theorem gives_of_if_not {c : Instr} {s t u : State} {p : Prop} [Decidable p] (h : exec c s = done (if p then t else u)) (hp : ¬ p) :
    Gives c s u := by
  rw [Gives, h, if_neg hp, done]

/-! ### Heat-sync -/

theorem gives_heatSyncIn {s : State} {phase : Nat} (hr : s.heat.role = .reference) (hh : s.heat.running = true)
    (hp : phase < s.heat.length) : Gives (.heatSyncIn phase) s { s with heat := { s.heat with
      offset := some (if 2 * phase < s.heat.length then -(phase : Int) else (s.heat.length : Int) - phase) } } := by
  have h := gives_of_if (exec_heatSyncIn phase s) (by simp [hr, hh])
  rwa [Nat.mod_eq_of_lt hp] at h

theorem gives_syncReq {s : State} {port t1 hop t2 t3 : Nat} (hh : s.heat.running = true) :
    Gives (.syncReq port t1 hop t2 t3) s (s.sendOn port (s.syncCell port t1 t2 t3 0x02 s.heat.hop)) :=
  gives_of_if (exec_syncReq port t1 hop t2 t3 s) hh

theorem gives_syncRsp {s : State} {port t1 t2 t3 hop t4 : Nat} (hr : s.heat.role = .child port) (ht : s.heat.t1 = some t1) :
    Gives (.syncRsp port t1 t2 t3 hop t4) s
      (State.syncMove { s with heat := { s.heat with
        t1 := none, noRsp := 0, hop := hop + 1, offset := some (syncOffset t1 t2 t3 t4) } } (syncOffset t1 t2 t3 t4)) :=
  gives_of_if (exec_syncRsp port t1 t2 t3 hop t4 s) (by simp [hr, ht])

theorem gives_syncRspLoss {s : State} (hn : 16 ≤ s.heat.noRsp) (hs : s.heat.sync = .acquire ∨ s.heat.sync = .locked) :
    Gives .syncRspLoss s (State.deviceEvent { s with heat := { s.heat with sync := .holdover, goodRun := 0 } } 0x080) :=
  gives_of_if (exec_syncRspLoss s) (by simpa [hn] using hs)

theorem gives_decayBoundary {s : State} (hh : s.heat.running = true) (hc : s.heat.corrected.1 % 256 = 0)
    (hd : s.heat.decayDone = false) : Gives .decayBoundary s { s.decay with heat := { s.decay.heat with decayDone := true } } :=
  gives_of_if (exec_decayBoundary s) (by simp [hh, hc, hd])

/-- Settles O1. That a boundary takes up the whole phase of HEAT_SYNC_IN, and its rounding, are the model's choice (log entry 75), and so
is the decay that runs ahead of its boundary by an event of its own, once (log entry 46). -/
theorem heatSyncEventsTakeEffect : Obligations.HeatSyncEventsTakeEffect :=
  ⟨fun _ _ => gives_heatSyncIn, fun _ _ _ _ _ _ => gives_syncReq, fun _ _ _ _ _ _ _ => gives_syncRsp,
    fun _ => gives_syncRspLoss, fun _ => gives_decayBoundary⟩

/-! ### The DRAM controller

A change of a table's entry depends only on what it makes of that entry. -/

theorem tmod_congr {α : Type} {d : α} {t : Tab α} {k : Nat} {f g : α → α} (h : f (tget d t k) = g (tget d t k)) :
    tmod d t k f = tmod d t k g := congrArg (tins t k) h

theorem modUnit_congr {s : State} {u : Nat} {f g : ServiceUnit → ServiceUnit} (h : f (s.unit u) = g (s.unit u)) :
    s.modUnit u f = s.modUnit u g :=
  congrArg (fun t => ({ s with dram := { s.dram with units := t } } : State)) (tmod_congr h)

theorem modQueue_congr {s : State} {q : Nat} {f g : DramQueue → DramQueue} (h : f (s.queue q) = g (s.queue q)) :
    s.modQueue q f = s.modQueue q g :=
  congrArg (fun t => ({ s with dram := { s.dram with queues := t } } : State)) (tmod_congr h)

theorem refreshIssued_postponed {u : ServiceUnit} (h : u.exitRefresh = false) :
    u.refreshIssued = { u with
      exitRefresh := false, inRefresh := true, postponed := u.postponed - 1, refreshing := u.refreshing && decide (1 < u.postponed) } := by
  simp [ServiceUnit.refreshIssued, h]

theorem refreshIssued_afterSelfRefresh {u : ServiceUnit} (h : u.exitRefresh = true) :
    u.refreshIssued = { u with exitRefresh := false, inRefresh := true } := by
  simp [ServiceUnit.refreshIssued, h]

theorem gives_doubledRefreshExit_stack {s : State} {k : Nat} (hd : (s.stack k).doubled = true) (hp : (s.stack k).refreshP = 39)
    (hc : (s.stack k).cool = 40) : Gives (.doubledRefreshExit false k) s (s.modStack k (fun x => { x with doubled := false })) :=
  gives_of_if (exec_doubledRefreshExit false k s) (by simp [hd, hp, hc])

theorem gives_doubledRefreshExit_bulk {s : State} {c : Nat} (hd : (s.bulkCh c).doubled = true) (hp : (s.bulkCh c).refreshP = 39)
    (hc : (s.bulkCh c).cool = 40) : Gives (.doubledRefreshExit true c) s (s.modBulk c (fun x => { x with doubled := false })) :=
  gives_of_if (exec_doubledRefreshExit true c s) (by simp [hd, hp, hc])

theorem gives_postponedRefreshIssue {s : State} {u : Nat} (h : 0 < (s.unit u).postponed ∨ (s.unit u).exitRefresh = true) :
    Gives (.postponedRefreshIssue u) s (s.modUnit u ServiceUnit.refreshIssued).drainAll :=
  gives_of_if (exec_postponedRefreshIssue u s) (by simpa using h)

theorem gives_dramReadComplete {s : State} {q pos : Nat} {hit : Bool} {r : DramRead} (hr : (s.queue q).reads[pos]? = some r)
    (hm : readMayIssue (s.queue q) s.readBlocked pos hit = true) (errs : List Nat) :
    Gives (.dramReadComplete q pos hit errs) s (s.readReturns q pos r hit errs) := by
  simp only [Gives, exec_dramReadComplete, execDramReadComplete, hr, hm, Bool.not_true, Bool.false_eq_true, if_false, done]

/-- The one read of a queue, older than the limit of its class, is ordered as class 0 from then on (R110). -/
theorem gives_ageLimitExpiry_read {s : State} {q pos : Nat} {r : DramRead} (hr : (s.queue q).reads = [r]) (hp : pos = 0)
    (ho : r.cls = 1 ∨ (r.cls = 2 ∧ s.dram.limit2 ≤ r.age) ∨ (r.cls = 3 ∧ s.dram.limit3 ≤ r.age) ∨ (r.cls = 4 ∧ s.dram.limit4 ≤ r.age)) :
    Gives (.ageLimitExpiry q false pos) s (s.modQueue q (fun x => { x with reads := [{ r with promoted := true }] })) := by
  refine congrArg (Host.Outcome.next ∘ drive) (modQueue_congr ?_)
  simp only [hr, hp, List.zipIdx_cons, List.zipIdx_nil, List.map_cons, List.map_nil]
  rw [if_pos]
  simpa [or_assoc] using ho

theorem gives_powerDownEntry {s : State} {u : Nat} (h0 : s.dram.pdIdle ≠ 0) (ha : (s.unit u).power = .active)
    (hi : s.dram.pdIdle ≤ (s.unit u).idle) : Gives (.powerDownEntry u) s (s.modUnit u (fun x => { x with power := .powerDown })) :=
  gives_of_if (exec_powerDownEntry u s) (by simp [h0, ha, hi])

theorem gives_selfRefreshEntry {s : State} {u : Nat} (h0 : s.dram.srIdle ≠ 0) (ha : (s.unit u).power ≠ .selfRefresh)
    (hi : s.dram.srIdle ≤ (s.unit u).idle) : Gives (.selfRefreshEntry u) s (s.modUnit u (fun x => { x with
      power := .selfRefresh, postponed := 0, refreshing := false, scrubbed := none })) :=
  gives_of_if (exec_selfRefreshEntry u s) (by simp [h0, ha, hi])

/-- Settles O2. That doubled refresh ends ahead of the boundary at which position 0 of the pattern begins is the model's choice (log
entry 73). -/
theorem dramControllerEventsTakeEffect : Obligations.DramControllerEventsTakeEffect := by
  refine ⟨fun _ _ => gives_doubledRefreshExit_stack, fun _ _ => gives_doubledRefreshExit_bulk, fun s u hp he => ?_, fun s u he => ?_,
    fun _ _ _ _ _ => gives_dramReadComplete, fun s u => gives_of_if (exec_caParityError u s),
    fun s u => gives_of_if_not (exec_caParityError u s), fun _ _ _ _ => gives_ageLimitExpiry_read, fun _ _ => gives_powerDownEntry,
    fun _ _ => gives_selfRefreshEntry, fun s u pass => gives_of_if (exec_failedUnitRetrainComplete u pass s)⟩
  · rw [← modUnit_congr (refreshIssued_postponed he)]
    exact gives_postponedRefreshIssue (.inl hp)
  · rw [← modUnit_congr (refreshIssued_afterSelfRefresh he)]
    exact gives_postponedRefreshIssue (.inr he)

/-! ### Fabric and route commands -/

/-- Settles O38: each row serves its command with its own rules and then stages its change or answers. The first broken rule in the
order of the row's list decides the status, ahead of the BUSY of a conflict: the model's choice (log entry 26). -/
theorem fabricCommandsServe : Obligations.FabricCommandsServe :=
  ⟨Laws.stages_of fun _ _ => rfl, Laws.stages_of fun _ _ => rfl, Laws.stages_of fun _ _ => rfl, Laws.replies_of fun _ _ => rfl,
    Laws.stages_of fun _ _ => rfl, Laws.stages_of fun _ _ => rfl, Laws.stages_of fun _ _ => rfl, Laws.stages_of fun _ _ => rfl⟩

/-! ### Boundaries -/

theorem dutySync_count {s : State} (h : s.heat.offset = none) : s.dutySync.heat.count = (s.heat.count + 1) % 2 ^ 48 := by
  simp [State.dutySync, State.modHeat, Heat.corrected, h, heatMod]

theorem gives_heatBoundary_unpowered {s : State} {x : Sample} (hp : s.pins.pwrok = false) : Gives (.heatBoundary x) s s :=
  gives_of_if (exec_heatBoundary x s) (by simp [hp])

/-- With power a boundary depends on whether the heat runs, and then on whether the device is READY (R538). -/
theorem gives_heatBoundary_powered {s : State} {x : Sample} (hp : s.pins.pwrok = true) :
    Gives (.heatBoundary x) s (if !s.heat.running then s.idleLinks else if s.isReady then s.boundary x else s.idleBoundary) :=
  gives_of_if_not (exec_heatBoundary x s) (by simp [hp])

/-- Settles O44. What a boundary does while the device is not READY, and before the heat first starts, is the model's choice (log entry
50), and so is the order of the events within a boundary (log entry 46). -/
theorem boundaryRunsTheDuties : Obligations.BoundaryRunsTheDuties := by
  refine ⟨fun s x hh hp hr => ?ready, ?duties, fun s => dutySync_count, fun s x hh hp hr => ?notReady,
    fun s => ⟨fun h => if_pos h, fun h => if_neg (by omega)⟩, fun s x => gives_heatBoundary_unpowered, fun s x hp hh => ?notRunning⟩
  case ready =>
    have h := gives_heatBoundary_powered (x := x) hp
    rwa [hh, hr] at h
  case duties =>
    intro s0 x s hs s3 h3 s5 h5 s7 h7 s9 h9
    simp only [State.boundary, h9, h7, h5, h3, hs]
  case notReady =>
    have h := gives_heatBoundary_powered (x := x) hp
    rwa [hh, hr] at h
  case notRunning =>
    have h := gives_heatBoundary_powered (x := x) hp
    rwa [hh] at h

/-! ### Accepted changes -/

theorem runChange_due {s : State} {r y : Running} {n : Nat} {c : Change}
    (hf : s.hearth.running.find? (fun y => y.id == r.id) = some y) (hw : y.wait = .boundary n c) (hd : c.due s.heat.count = true)
    (hp : ∀ p, c ≠ .partitionDestroy p) : s.runChange r = (s.apply c).state.afterApply y c (s.apply c) := by
  cases c with
  | partitionDestroy p => exact absurd rfl (hp p)
  | _ => simp only [State.runChange, hf, hw, hd, Bool.not_true, Bool.false_eq_true, if_false]

theorem runChange_not_due {s : State} {r y : Running} {n : Nat} {c : Change}
    (hf : s.hearth.running.find? (fun y => y.id == r.id) = some y) (hw : y.wait = .boundary n c) (hd : c.due s.heat.count = false) :
    s.runChange r = s := by
  simp only [State.runChange, hf, hw, hd, Bool.not_false, if_true]

theorem apply_phaseDeclare (s : State) (p ph : Nat) : s.apply (.phaseDeclare p ph) =
    (if (s.part p).state = .active then s.modPart p (fun x => { x with phase := ph }) else s).ok := rfl

/-- A scrub floor raises the walkers below it, whose window begins anew, and leaves the others (R118). -/
theorem tfind_walkers_scrubFloor {s : State} {n k : Nat} {w : Walker} (h : tfind s.dram.walkers k = some w) :
    tfind (s.apply (.scrubFloor n)).state.dram.walkers k =
      some (if w.level < n then { w with level := n, window := 0, corrected := 0, clean := 0, windowEnd := true } else w) := by
  simp [State.apply, State.ok, tfind_tmap, h]

/-- Settles O52. The clauses on debug, the scrub floor, context range, seal quota, placement and contributors state what `State.apply`
writes for these settings. -/
theorem acceptedChangesTakeEffect : Obligations.AcceptedChangesTakeEffect := by
  refine ⟨fun _ _ _ _ _ => runChange_due, fun _ _ _ _ _ => runChange_not_due, fun _ _ _ _ => rfl, fun _ _ _ _ => rfl, fun _ _ _ => rfl,
    fun _ _ _ => rfl, fun s p ph h => ?active, fun s p ph h => ?inactive, fun _ _ _ => rfl, fun s m t => ?contributors,
    fun _ _ _ _ _ => rfl, fun _ => ⟨rfl, rfl⟩, fun _ => rfl, fun _ _ => rfl, fun _ _ => rfl, fun _ _ _ => rfl, fun _ _ _ _ _ => rfl,
    fun _ _ _ => rfl, fun _ _ => ⟨rfl, fun _ _ => tfind_walkers_scrubFloor⟩⟩
  case active => rw [apply_phaseDeclare, if_pos h]
  case inactive => rw [apply_phaseDeclare, if_neg h]
  case contributors => exact State.melt_modMelt_same s m _

end Sys2Proof.Proofs

namespace Sys2Proof.Proofs
open Sys2Proof.Machine Sys2Proof.Safety

/-! ### Seal, hint and migration-budget commands -/

/-- Settles O37: each row serves its command with its own rules and then stages its change or answers. The order of the refusals, the
first broken rule ahead of the BUSY of a conflict, is the model's choice (log entry 26), and so are the statuses where a command's
text names none, such as that of a FREE seal (log entry 27). -/
theorem sealAndHintCommandsServe : Obligations.SealAndHintCommandsServe :=
  ⟨Laws.stages_of fun _ _ => rfl, Laws.stages_of fun _ _ => rfl, Laws.replies_of fun _ _ => rfl, Laws.stages_of fun _ _ => rfl,
    Laws.stages_of fun _ _ => rfl, Laws.stages_of fun _ _ => rfl, Laws.stages_of fun _ _ => rfl, Laws.replies_of fun _ _ => rfl,
    Laws.stages_of fun _ _ => rfl⟩

/-! ### Scrub windows

The end of a window moves the walker's level by what the window corrected and by the clean windows before it (R118). -/

theorem windowEnds_raises {x : Walker} {floor : Nat} (h : 4 ≤ x.corrected) :
    x.windowEnds floor = { x with window := 0, corrected := 0, level := min 3 (x.level + 1), clean := 0 } := if_pos h

theorem windowEnds_lowers {x : Walker} {floor : Nat} (hc : x.corrected = 0) (hn : 7 ≤ x.clean) :
    x.windowEnds floor = { x with window := 0, corrected := 0, level := max floor (x.level - 1), clean := 0 } := by
  simp [Walker.windowEnds, hc, hn]

theorem windowEnds_keeps {x : Walker} {floor : Nat} (h0 : 0 < x.corrected) (h4 : x.corrected < 4) :
    x.windowEnds floor = { x with window := 0, corrected := 0, clean := 0 } := by
  simp [Walker.windowEnds, Nat.not_le.2 h4, Nat.ne_of_gt h0]

theorem windowEnds_counts {x : Walker} {floor : Nat} (hc : x.corrected = 0) (hn : x.clean < 7) :
    x.windowEnds floor = { x with window := 0, corrected := 0, clean := x.clean + 1 } := by
  simp [Walker.windowEnds, hc, Nat.not_le.2 hn]

theorem modWalker_congr {s : State} {w : Nat} {f g : Walker → Walker} (h : f (s.walker w) = g (s.walker w)) :
    s.modWalker w f = s.modWalker w g :=
  congrArg (fun t => ({ s with dram := { s.dram with walkers := t } } : State)) (tmod_congr h)

/-- At its last boundary a walker's window ends, and the command marks it so that the boundary does not end it again. -/
theorem gives_scrubWindowEnd {s : State} {w : Nat} (he : (s.walker w).windowEnd = false) (hw : (s.walker w).window = 65535) :
    Gives (.scrubWindowEnd w) s (s.modWalker w (fun x => { x.windowEnds s.dram.scrubFloor with windowEnd := true })) :=
  gives_of_if (exec_scrubWindowEnd w s) (by simp [he, hw])

theorem gives_scrubWindowEnd_of_windowEnds {s : State} {w : Nat} {g : Walker → Walker} (he : (s.walker w).windowEnd = false)
    (hw : (s.walker w).window = 65535)
    (h : { (s.walker w).windowEnds s.dram.scrubFloor with windowEnd := true } = g (s.walker w)) :
    Gives (.scrubWindowEnd w) s (s.modWalker w g) :=
  (modWalker_congr (f := fun x => { x.windowEnds s.dram.scrubFloor with windowEnd := true }) h) ▸ gives_scrubWindowEnd he hw

/-! ### Background units of the forges

A unit of a forge that runs, and whose requests are next at their controllers, completes (R109, R111). -/

section
variable {s : State} {f u : Nat}

theorem gives_patrolScrubUnitComplete {w : Nat} {found : List Finding} (hp : (s.background f).patrol = some w)
    (hg : s.unitGoes f 1 [s.walkerUnit w (s.walker w).step] = true) :
    Gives (.patrolScrubUnitComplete f found) s
      (((((s.foundAll found).countBytes (s.walkerUnit w (s.walker w).step) 0 4096 false).modWalker w (fun x => { x with
        running := false, step := s.seekStep w (s.walkerSteps w) (x.step + 1)
        corrected := x.corrected + (found.filter (fun y => eccOf (isBulk (y.1 * 64)) y.2 == .corrected)).length
        skipped := x.skipped + s.stepPoison w x.step })).modUnit (s.walkerUnit w (s.walker w).step) ServiceUnit.scrubEnds).modBackground f
          (fun b => { b with patrol := none })) := by
  simp only [Gives, exec_patrolScrubUnitComplete, execPatrolScrubUnitComplete, hp, hg, Bool.not_true, Bool.false_eq_true, if_false, done]

theorem gives_spareMigrationUnitComplete {found : List Finding} (hs : (s.background f).spare = some u)
    (hg : s.unitGoes f 2 [u, s.spareTarget u] = true) :
    Gives (.spareMigrationUnitComplete f found) s
      ((((((((((s.foundAll found).piecePoison u).foldl (fun a l =>
        ((a.modMem (fun m => m.setPoison l true)).countPoisonRead u).countPoisonWrite (s.spareTarget u)) (s.foundAll found)).countBytes
          u 0 65536 false).touchUnit u).modUnit u (fun x => { x with
        pieces := x.pieces + 1, switchNext := decide (s.unitPieces u ≤ x.pieces + 1) })).countBytes (s.spareTarget u) 0 65536 true).touchUnit
          (s.spareTarget u)).countUnit u 30 34 1).modBackground f (fun b => { b with spare := none })).drainAll := by
  simp only [Gives, exec_spareMigrationUnitComplete, execSpareMigrationUnitComplete, hs, hg, Bool.not_true, Bool.false_eq_true, if_false,
    done]

/-- A test unit has written and read its unit whatever it found; what it found decides what becomes of the warm-up (R126). -/
theorem gives_warmUpTestUnitComplete {pass : Bool} (ht : (s.background f).test = some u) (hg : s.unitGoes f 3 [u] = true) :
    Gives (.warmUpTestUnitComplete f pass) s
      (let t := (((s.countBytes u 0 4096 true).countBytes u 0 4096 false).touchUnit u).modBackground f (fun b => { b with test := none })
       if pass then t.modUnit u (fun x => { x with testUnits := x.testUnits + 1, admitNext := decide (s.testTotal u ≤ x.testUnits + 1) })
       else (t.modUnit u (fun x => { x with state := x.before, testUnits := 0 })).deviceEvent 0x082) := by
  simp only [Gives, exec_warmUpTestUnitComplete, execWarmUpTestUnitComplete, ht, hg, Bool.not_true, Bool.false_eq_true, if_false, done]

theorem gives_placementMigrationUnitComplete {p : PlaceUnit} {found : List Finding} (hp : (s.forge f).placeUnit = some p)
    (ht : (s.tag p.way).state ≠ .invalid) (hg : s.placeGoes f p = true) :
    Gives (.placementMigrationUnitComplete f found) s ((s.foundAll found).placementDone f p (s.tag p.way)) := by
  simp only [Gives, exec_placementMigrationUnitComplete, execPlacementMigrationUnitComplete, hp, ht, hg, Bool.not_true,
    Bool.false_eq_true, if_false, done]

theorem gives_extentFillUnitComplete {ext : Nat} (hm : ext ∈ (s.background f).scrub) (hs : (s.ext ext).state = .filling)
    (hg : s.scrubGoes f ext = true) : Gives (.extentFillUnitComplete f ext) s (s.scrubUnit f ext) :=
  gives_of_if (exec_extentFillUnitComplete f ext s) (by simp [hm, hs, hg])

theorem gives_quenchScrubUnitComplete {ext : Nat} (hm : ext ∈ (s.background f).scrub) (hs : (s.ext ext).state = .scrubbing)
    (hg : s.scrubGoes f ext = true) : Gives (.quenchScrubUnitComplete f ext) s (s.scrubUnit f ext) :=
  gives_of_if (exec_quenchScrubUnitComplete f ext s) (by simp [hm, hs, hg])

end

/-- Settles O3. That SCRUB_WINDOW_END comes ahead of the boundary that ends the window is the model's choice (log entry 73), and so is that
a unit's reads and writes are made together when it completes, once they are next at their controllers (log entry 16). -/
theorem backgroundUnitsTakeEffect : Obligations.BackgroundUnitsTakeEffect := by
  refine ⟨fun _ _ _ _ => gives_patrolScrubUnitComplete, fun s w he hw h4 => ?raises, fun s w he hw hc hn => ?lowers,
    fun s w he hw h0 h4 => ?keeps, fun s w he hw hc hn => ?counts, fun _ _ _ _ => gives_spareMigrationUnitComplete,
    fun s f u ht hg => ⟨gives_warmUpTestUnitComplete ht hg, gives_warmUpTestUnitComplete ht hg⟩,
    fun _ _ _ _ => gives_placementMigrationUnitComplete, fun _ _ _ => gives_extentFillUnitComplete,
    fun _ _ _ => gives_quenchScrubUnitComplete⟩
  case raises => exact gives_scrubWindowEnd_of_windowEnds he hw (by rw [windowEnds_raises h4])
  case lowers => exact gives_scrubWindowEnd_of_windowEnds he hw (by rw [windowEnds_lowers hc hn])
  case keeps => exact gives_scrubWindowEnd_of_windowEnds he hw (by rw [windowEnds_keeps h0 h4])
  case counts => exact gives_scrubWindowEnd_of_windowEnds he hw (by rw [windowEnds_counts hc hn])

/-! ### MEM trains

What a train of an admitted partition meets depends on its status, and for one that passes, on what its lines and its home are ready
for. -/

section
variable {s : State} {port st d : Nat} {t : Train}

theorem exec_memRd_notAdmitted (hm : s.isMemReq t = true) (ho : le t.head 0 1 ≠ 0x02) (ha : s.admits port t.part = false) :
    exec (.memRd port t) s = done (s.partDrop port t) := by
  simp [execMemRd, hm, ho, ha]

theorem exec_memRd_admitted (hm : s.isMemReq t = true) (ho : le t.head 0 1 = 0x01) (ha : s.admits port t.part = true)
    (hs : s.memStatus t false = (st, d)) :
    exec (.memRd port t) s = done (if st ≠ stOk then (s.takeTrain port t).send (memAnswer t.cell0 0x81 0 st 0 [])
      else if !s.rangeFree t.part d (le t.head 4 4) || s.homeBlocked d (le t.head 4 4) then s
      else (s.takeTrain port t).memLoad t port d) := by
  simp [execMemRd, hm, ho, ha, hs]

theorem exec_memWr_admitted (hm : s.isMemReq t = true) (ho : le t.head 0 1 = 0x02) (ha : s.admits port t.part = true)
    (ht : t.part = 0 → (s.egress port).twin = false) (hs : s.memStatus t true = (st, d)) :
    exec (.memWr port t) s = done (if st ≠ stOk then (s.takeTrain port t).send (memAnswer t.cell0 0x82 0 st 0 [])
      else if s.homeBlocked d (le t.head 4 4) then s
      else if s.writeWaits t.part d (le t.head 4 4) then ((s.takeTrain port t).hold (.store port t d)).hasten d (le t.head 4 4)
      else (s.takeTrain port t).memStore t port d) := by
  have hp : ¬ (t.part = 0 ∧ (s.egress port).twin = true) := by simpa using ht
  simp [execMemWr, hm, ho, ha, hp, hs]

theorem gives_forgeCacheFill {forge sector : Nat} {r : Returned}
    (hr : (s.forge forge).returned.find? (fun x => x.sector == sector) = some r) :
    Gives (.forgeCacheFill forge sector) s (s.sectorFills forge sector r) := by
  simp only [Gives, exec_forgeCacheFill, execForgeCacheFill, hr, done]

end

/-- Settles O4. That a load without a way is presented again by its sender (log entry 14), that an admitted store which must wait does so
at the home (log entry 39), and the organisation of the memory tiers where the rules leave it open (log entry 72) are the model's choice. -/
theorem memoryAccessesTakeEffect : Obligations.MemoryAccessesTakeEffect := by
  refine ⟨fun s port d t hm ho ha hs hb hf => ?served, fun s port d t hm ho ha hs hf => ?noWay, fun s port st d t hm ho ha hs hn => ?readRefused,
    fun s port t hm ho ha => ?dropped, fun s port d t hm ho ha ht hs hb hw => ?applied, fun s port d t hm ho ha ht hs hb hw => ?held,
    fun s port d t hm ha hb => ⟨fun ho hs => ?readBlocked, fun ho ht hs => ?writeBlocked⟩,
    fun s port st d t hm ho ha ht hs hn => ?writeRefused, fun _ _ _ _ => gives_forgeCacheFill⟩
  case served => rw [Gives, exec_memRd_admitted hm ho ha hs]; simp [hb, hf, done]
  case noWay => rw [Gives, exec_memRd_admitted hm ho ha hs]; simp [hf, done]
  case readRefused => exact gives_of_if (exec_memRd_admitted hm ho ha hs) hn
  case dropped => exact exec_memRd_notAdmitted hm ho ha
  case applied => rw [Gives, exec_memWr_admitted hm ho ha ht hs]; simp [hb, hw, done]
  case held => rw [Gives, exec_memWr_admitted hm ho ha ht hs]; simp [hb, hw, done]
  case readBlocked => rw [Gives, exec_memRd_admitted hm ho ha hs]; simp [hb, done]
  case writeBlocked => rw [Gives, exec_memWr_admitted hm ho ha ht hs]; simp [hb, done]
  case writeRefused => exact gives_of_if (exec_memWr_admitted hm ho ha ht hs) hn

end Sys2Proof.Proofs

namespace Sys2Proof.Proofs
open Sys2Proof.Machine Sys2Proof.Safety

/-! ### Memory laws -/

/-- A table of which only some indices are kept lists their entries, and no other. -/
theorem tfind_filter_index {α : Type} (t : Tab α) (keep : Nat → Bool) (k : Nat) :
    tfind (t.filter (fun p => keep p.1)) k = if keep k then tfind t k else none := by
  induction t with
  | nil => simp [tfind]
  | cons p r ih =>
    obtain ⟨i, v⟩ := p
    by_cases hi : i = k
    · subst hi
      cases hk : keep i <;> simp_all [tfind]
    · cases hk : keep i <;> simp [tfind, hk, hi, ih]

theorem bget_bclear (t : Tab Byte) (a b n : Nat) : bget (bclear t a n) b = if a ≤ b ∧ b < a + n then 0 else bget t b := by
  have h := tfind_filter_index t (fun i => decide (i < a) || decide (a + n ≤ i)) b
  unfold bget tget bclear
  rw [h]
  by_cases hb : a ≤ b ∧ b < a + n
  · rw [if_pos hb, if_neg (by simp; omega)]
    rfl
  · rw [if_neg hb, if_pos (by simp; omega)]

/-- Settles O50: each operation's own law of what it leaves to read, and of the canonical form it keeps. -/
theorem memoryReadsWhatWasWritten : Obligations.MemoryReadsWhatWasWritten :=
  ⟨State.location_storeLocation, bget_bwrite, bget_bclear, State.wf_storeLocation,
    fun m a b n h => ⟨Mem.wf_copy m a b n h, Mem.wf_clear m a n h⟩, fun _ _ _ _ => rfl⟩

/-! ### Partition and extent commands -/

/-- Settles O35: each row serves its command with its own rules and then stages its change or answers. The first broken rule in the
order of the row's list decides the status, ahead of the BUSY of a conflict: the model's choice (log entry 26). -/
theorem partitionCommandsServe : Obligations.PartitionCommandsServe :=
  ⟨Laws.replies_of fun _ _ => rfl, Laws.replies_of fun _ _ => rfl, Laws.replies_of fun _ _ => rfl, Laws.stages_of fun _ _ => rfl,
    Laws.stages_of fun _ _ => rfl, Laws.replies_of fun _ _ => rfl, Laws.stages_of fun _ _ => rfl, Laws.stages_of fun _ _ => rfl,
    Laws.stages_of fun _ _ => rfl, Laws.stages_of fun _ _ => rfl, Laws.stages_of fun _ _ => rfl⟩

/-- Settles O36: each row serves its command with its own rules and then stages its change or answers. The first broken rule in the
order of the row's list decides the status, ahead of the BUSY of a conflict: the model's choice (log entry 26). -/
theorem extentCommandsServe : Obligations.ExtentCommandsServe :=
  ⟨Laws.stages_of fun _ _ => rfl, Laws.stages_of fun _ _ => rfl, Laws.replies_of fun _ _ => rfl, Laws.stages_of fun _ _ => rfl,
    Laws.stages_of fun _ _ => rfl, Laws.stages_of fun _ _ => rfl, Laws.stages_of fun _ _ => rfl⟩

end Sys2Proof.Proofs

namespace Sys2Proof.Proofs
open Sys2Proof.Machine Sys2Proof.Safety

/-! ### Drains, fences and zeroing

With a Hearth core active each event of a partition or extent ends what has run its time (R92, R96, R80). -/

section
variable {s : State} {ext p : Nat} {q : Quench}

theorem gives_releaseDrainEnd {d : Nat} (hs : (s.ext ext).state = .releasing) (hd : (s.ext ext).drain = some d) (h3 : 3 ≤ d)
    (hf : s.frozen = false) : Gives (.releaseDrainEnd ext) s (s.endDrain ext) :=
  gives_of_if (exec_releaseDrainEnd ext s) (by simp [hs, hd, h3, hf])

theorem gives_fenceAck {port i : Nat} {cell : Cell} (ht : cell.typ = 0x6) (ho : le cell.payload 0 1 = 0x21)
    (hp : le cell.payload 1 1 = p) (hq : (s.part p).quench = some q) (hi : s.memberIndex p cell.src = some i)
    (hc : (s.part p).fenceComplete = false) (hf : s.frozen = false) :
    Gives (.fenceAck port cell) s
      (let t := (s.takeCells port 0 [cell]).modPart p (fun x => { x with quench := some { q with acked := addSorted i q.acked } })
       if (t.silentMembers p).isEmpty then t.fenceDone p else t) := by
  simp [Gives, execFenceAck, done, ht, ho, hp, hq, hi, hc, hf]

theorem gives_fenceWaitExpiry (hq : (s.part p).quench = some q) (ha : 64 ≤ q.age) (hc : (s.part p).fenceComplete = false)
    (hf : s.frozen = false) :
    Gives (.fenceWaitExpiry p) s (((s.silentMembers p).foldl (fun a i => (a.modPart p (fun x => { x with
      silent := x.silent ++ [((x.members[i]?).map (·.ep)).getD 0] })).deviceEvent 0x085) s).fenceDone p) := by
  simp [Gives, execFenceWaitExpiry, done, hq, Nat.not_lt.2 ha, hc, hf]

theorem gives_quenchZeroingComplete (hq : (s.part p).quench = some q) (hd : q.drained = true) (hz : (s.part p).zeroingComplete = false)
    (hf : s.frozen = false) :
    Gives (.quenchZeroingComplete p) s
      (((s.dropLinesOf p).modPage p (fun g => { g with buf := [] })).modPart p (fun x => { x with zeroingComplete := true })) := by
  simp [Gives, execQuenchZeroingComplete, done, hq, hd, hz, hf]

theorem gives_tombstoneExpiry (hs : (s.part p).state = .tombstone) (ha : 512 ≤ (s.part p).tombAge) (hf : s.frozen = false) :
    Gives (.tombstoneExpiry p) s (s.partFree p) :=
  gives_of_if (exec_tombstoneExpiry p s) (by simp [hs, ha, hf])

theorem gives_unresponsiveSweepComplete {b : Nat} {l : List Member}
    (hw : s.coh.sweeps.find? (fun x => x.1 == p && !x.2.2.2) = some (p, b, l, false)) :
    Gives (.unresponsiveSweepComplete p) s
      (((sweptMembers (s.part p).members l).foldl (fun a m => a.sweepMember p m) s).modCoh (fun c => { c with
        sweeps := c.sweeps.map (fun x => if x.1 = p then (x.1, x.2.1, x.2.2.1, true) else x) })) := by
  simp only [Gives, exec_unresponsiveSweepComplete, execUnresponsiveSweepComplete, hw, done]

end

/-! ### The copies of a capture -/

/-- The copy of the next leaf, while the heat has a copy left and no write of before the seal boundary is open: its segment is read
first, it waits for the ways of what it writes, and an uncorrectable location aborts the capture (R101, R105). -/
theorem exec_captureSegmentCopyComplete_next {s : State} {sid leaf : Nat} (hs : (s.seal sid).state = .capturing)
    (hl : s.nextLeaf (s.seal sid) = some leaf) (hc : s.parts.copied < 16)
    (ho : s.segmentOpen (s.leafAddress (s.seal sid) leaf) = false) (found : List Finding) :
    exec (.captureSegmentCopyComplete sid leaf found) s = done (
      if s.readReady (s.seal sid).part (s.leafAddress (s.seal sid) leaf) 65536 = false then
        s.fetchRead 3 (s.seal sid).part (s.leafAddress (s.seal sid) leaf) 65536
      else if s.captureFits sid leaf = false then s
      else if anyUncorrectable found then
        if s.frozen then (s.foundAll found).copyCounted else ((s.foundAll found).copyCounted.abortSeal sid false).releaseHeld
      else ((s.foundAll found).copyCounted.captureCopied sid leaf).releaseHeld) := by
  simp [execCaptureSegmentCopyComplete, hs, hl, Nat.not_le.2 hc, ho]

/-- Settles O5. That the drain of a release ends within its last heat, after three boundaries, and that nothing ends without a Hearth core,
is the model's choice (log entry 69). -/
theorem partitionEventsTakeEffect : Obligations.PartitionEventsTakeEffect := by
  refine ⟨fun _ _ _ => gives_releaseDrainEnd, fun _ _ _ _ _ ht ho => gives_fenceAck ht ho rfl, fun _ _ _ => gives_fenceWaitExpiry,
    fun _ _ _ => gives_quenchZeroingComplete, fun _ _ => gives_tombstoneExpiry, fun s sid leaf found hs hl hc ho hr hw hu => ?copied,
    fun s sid leaf found hs hl hc ho hr hw hu hf => ?aborted, fun s sid leaf found hs hl hc ho => ⟨fun hr => ?read, fun hr hw => ?waits⟩,
    fun _ _ _ _ => gives_unresponsiveSweepComplete⟩
  all_goals have he := exec_captureSegmentCopyComplete_next hs hl hc ho found
  case copied => simp [Gives, he, hr, hw, hu, done]
  case aborted => simp [Gives, he, hr, hw, hu, hf, done]
  case read => exact gives_of_if he hr
  case waits => simp [Gives, he, hr, hw, done]

end Sys2Proof.Proofs

namespace Sys2Proof.Proofs
open Sys2Proof.Machine Sys2Proof.Safety

/-! ### Host reads and writes

What a host's access through a head that is up does depends on the admission checks, and for one that passes, on what its line `l` and
the extent `e` of the line are ready for (R309, R384). -/

section
variable {s : State} {h a d l tag : Nat} {e : Extent} {k : HostRead}

theorem exec_cxlMemRead_refused {n : Nat} {x : Option Nat} (hu : s.headUp h = true) (hn : n ≠ 0)
    (hc : s.cxlCheck h (a / 64 * 64) = (n, x)) :
    exec (.cxlMemRead h a k tag) s = done ((s.cxlRefuse h n x false).headPoison h) := by
  obtain ⟨n, rfl⟩ := Nat.exists_eq_succ_of_ne_zero hn
  simp [execCxlMemRead, hu, hc]

theorem exec_cxlMemRead_admitted (hu : s.headUp h = true) (hc : s.cxlCheck h (a / 64 * 64) = (0, some d)) (hl : d / 64 * 64 = l)
    (he : s.ext ((s.extentAt l).getD 0) = e) :
    exec (.cxlMemRead h a k tag) s = done (
      if e.coh = 1 ∧ k ≠ .current ∧ s.headCaches h l = false then s.headPoison h
      else if s.rangeFree e.part l 64 = false ∨ s.homeBlocked l 64 = true then s
      else if e.coh = 1 then s.cohArrive (s.hostMsg h l tag k.req [] 0)
      else (s.readRange e.part 1 l 64).1.await { waiterOf (hostTrain tag) 0 l 64 (s.readRange e.part 1 l 64).2 [] with origin := 1 + h }) := by
  subst hl he
  simp [execCxlMemRead, hu, hc, and_assoc]

/-- An admitted read that is not denied a copy to cache waits at its head, is an access of the home, or waits for its bytes (R56, R296). -/
theorem exec_cxlMemRead_served (hu : s.headUp h = true) (hc : s.cxlCheck h (a / 64 * 64) = (0, some d)) (hl : d / 64 * 64 = l)
    (he : s.ext ((s.extentAt l).getD 0) = e) (hk : e.coh ≠ 1 ∨ k = .current ∨ s.headCaches h l = true) :
    exec (.cxlMemRead h a k tag) s = done (
      if s.rangeFree e.part l 64 = false ∨ s.homeBlocked l 64 = true then s
      else if e.coh = 1 then s.cohArrive (s.hostMsg h l tag k.req [] 0)
      else (s.readRange e.part 1 l 64).1.await { waiterOf (hostTrain tag) 0 l 64 (s.readRange e.part 1 l 64).2 [] with origin := 1 + h }) := by
  have hn : ¬ (e.coh = 1 ∧ k ≠ .current ∧ s.headCaches h l = false) := by
    rintro ⟨h1, hne, hno⟩
    simp [h1, hne, hno] at hk
  rw [exec_cxlMemRead_admitted hu hc hl he, if_neg hn]

variable {m : Nat} {b : Bool} {data : List Byte}

theorem exec_cxlMemWrite_refused {n : Nat} {x : Option Nat} (hu : s.headUp h = true) (hn : n ≠ 0)
    (hc : s.cxlCheck h (a / 64 * 64) = (n, x)) :
    exec (.cxlMemWrite h a b m data) s = done (match x with
      | some x' => if b then (s.cxlRefuse h n x true).lateLine (x' / 64) else s.cxlRefuse h n x true
      | none => s.cxlRefuse h n x true) := by
  obtain ⟨n, rfl⟩ := Nat.exists_eq_succ_of_ne_zero hn
  cases x <;> simp [execCxlMemWrite, hu, hc]

theorem exec_cxlMemWrite_answer (hu : s.headUp h = true) (hc : s.cxlCheck h (a / 64 * 64) = (0, some d)) (hm : m < 2 ^ 64)
    (hl : d / 64 * 64 = l) (hb : (s.head h).bisnp.any (fun x => x.1 == l / 64) = true) :
    exec (.cxlMemWrite h a true m data) s = done (
      if s.dirtyWaits (l / 64) then (s.hasten l 64).hostReached h (l / 64)
      else (s.countHead h 8 (pop64 m)).lineMerge (s.ext ((s.extentAt l).getD 0)).part (l / 64) m (fit 64 data) false) := by
  subst hl
  simp only [exec_cxlMemWrite, execCxlMemWrite, hu, hc, hb, Nat.mod_eq_of_lt hm, Bool.not_true, Bool.false_eq_true, Bool.and_self, if_false,
    if_true]

/-- A host's write that answers no open snoop of its line, as its home makes it, or holds it for what has to come first (R86, R101). -/
theorem exec_cxlMemWrite_admitted (hu : s.headUp h = true) (hc : s.cxlCheck h (a / 64 * 64) = (0, some d)) (hm : m < 2 ^ 64)
    (hl : d / 64 * 64 = l) (he : s.ext ((s.extentAt l).getD 0) = e)
    (hb : b = false ∨ (s.head h).bisnp.any (fun x => x.1 == l / 64) = false) {w : HeldWrite}
    (hw : w = if e.coh = 1 then .coherent (s.hostMsg h l 0 (writeReq b m) (fit 64 data) m) else .host h l m (fit 64 data)) :
    exec (.cxlMemWrite h a b m data) s = done (
      if s.homeBlocked l 64 then s
      else if s.writeWaits e.part l 64 then ((s.countHead h 8 (pop64 m)).hold w).hasten l 64
      else (s.countHead h 8 (pop64 m)).makeHeld w) := by
  subst hl he hw
  simp only [exec_cxlMemWrite, execCxlMemWrite, hu, hc, Nat.mod_eq_of_lt hm, Bool.and_eq_false_iff.2 hb, Bool.not_true, Bool.false_eq_true,
    if_false]

/-- Such a write that finds no request of its line ahead of it is made at once, or stays at the home as admitted, with the copy that has to
come first hastened. -/
theorem gives_cxlMemWrite_admitted (hu : s.headUp h = true) (hc : s.cxlCheck h (a / 64 * 64) = (0, some d)) (hm : m < 2 ^ 64)
    (hl : d / 64 * 64 = l) (he : s.ext ((s.extentAt l).getD 0) = e)
    (hb : b = false ∨ (s.head h).bisnp.any (fun x => x.1 == l / 64) = false) {w : HeldWrite}
    (hw : w = if e.coh = 1 then .coherent (s.hostMsg h l 0 (writeReq b m) (fit 64 data) m) else .host h l m (fit 64 data))
    (hf : s.homeBlocked l 64 = false) :
    (s.writeWaits e.part l 64 = false → Gives (.cxlMemWrite h a b m data) s ((s.countHead h 8 (pop64 m)).makeHeld w)) ∧
    (s.writeWaits e.part l 64 = true → Gives (.cxlMemWrite h a b m data) s (((s.countHead h 8 (pop64 m)).hold w).hasten l 64)) := by
  have hx := exec_cxlMemWrite_admitted hu hc hm hl he hb hw
  rw [if_neg (Bool.eq_false_iff.1 hf)] at hx
  exact ⟨fun hn => gives_of_if_not hx (Bool.eq_false_iff.1 hn), gives_of_if hx⟩

end

/-! ### Snoop answers, decoders and the link of a head -/

section
variable {s : State} {h : Nat}

theorem gives_birsp_late {line st : Nat} (hu : s.headUp h = true)
    (ho : (s.head h).bisnp.find? (fun x => x.1 == line) = none ∨ s.trackerOf line = none) :
    Gives (.birsp h line st) s ((s.countHead h 22 1).lateLine line) := by
  obtain ho | ho := ho
  · simp [Gives, execBirsp, hu, ho, done]
  · cases hb : (s.head h).bisnp.find? (fun x => x.1 == line) <;> simp [Gives, execBirsp, hu, ho, hb, done]

theorem gives_birsp_ack {line st k mem : Nat} {b : Nat × Snoop} {t : Tracker2} (hu : s.headUp h = true)
    (hb : (s.head h).bisnp.find? (fun x => x.1 == line) = some b) (hk : s.trackerOf line = some k)
    (ht : tfind s.coh.trackers k = some t) (hm : s.memberIndex t.msg.part (s.endpoint (40 + h)) = some mem) :
    Gives (.birsp h line st) s
      (((s.countHead h 22 1).modHead h (fun x => { x with bisnp := x.bisnp.erase b })).cohAck k mem st none) := by
  simp [Gives, execBirsp, hu, hb, hk, ht, hm, done]

theorem gives_hdmDecoderCommit_legal {i base size ways gran pos dpa : Nat} (hu : s.headUp h = true) (hi : i < 8)
    (hw : ways ∈ [1, 2, 4, 8]) (hg : gran ∈ [256, 512, 1024, 2048, 4096, 8192, 16384]) :
    Gives (.hdmDecoderCommit h i base size ways gran pos dpa) s (s.modHead h (fun x => { x with
      decoders := tins x.decoders i { committed := true, error := false, base := base, size := size, ways := ways, granularity := gran,
                                      position := pos, dpaBase := dpa } })) := by
  simp only [Gives, exec_hdmDecoderCommit, execHdmDecoderCommit, hu, Nat.not_le.2 hi, List.contains_iff_mem.2 hw, List.contains_iff_mem.2 hg,
    Bool.not_true, Bool.false_or, Bool.and_self, decide_false, Bool.false_eq_true, if_false, if_true, done]

theorem gives_hdmDecoderCommit_illegal {i base size ways gran pos dpa : Nat} (hu : s.headUp h = true) (hi : i < 8)
    (hn : ways ∉ [1, 2, 4, 8] ∨ gran ∉ [256, 512, 1024, 2048, 4096, 8192, 16384]) :
    Gives (.hdmDecoderCommit h i base size ways gran pos dpa) s (s.modHead h (fun x => { x with
      decoders := tins x.decoders i { (tget HdmDecoder.reset x.decoders i) with committed := false, error := true } })) := by
  have hok : ([1, 2, 4, 8].contains ways && [256, 512, 1024, 2048, 4096, 8192, 16384].contains gran) = false := by
    simpa only [Bool.and_eq_false_iff, List.contains_eq_mem, decide_eq_false_iff_not] using hn
  simp only [Gives, exec_hdmDecoderCommit, execHdmDecoderCommit, hu, Nat.not_le.2 hi, hok, Bool.not_true, Bool.false_or, decide_false,
    Bool.false_eq_true, if_false, done]

theorem gives_perstAssert (hh : h < 2) (hp : (s.head h).perst = false) : Gives (.perstAssert h) s
    (((s.headReset h).modHead h (fun x => { x with perst := true, link := .perst, width := 0, rate := 0, flit := false })).countHead h 33 1) :=
  gives_of_if_not (exec_perstAssert h s) (by simp [hh, hp])

theorem gives_perstRelease (hh : h < 2) (hp : (s.head h).perst = true) : Gives (.perstRelease h) s
    (s.modHead h (fun x => { x with perst := false, link := if 5 ≤ s.boot.step then .training else .down })) :=
  gives_of_if_not (exec_perstRelease h s) (by simp [hh, hp])

theorem gives_cxlLinkDown (hh : h < 2) (ha : (s.head h).link = .active) : Gives (.cxlLinkDown h) s
    (((s.headReset h).modHead h (fun x => { x with link := .down, width := 0, rate := 0, flit := false })).countHead h 30 1) :=
  gives_of_if_not (exec_cxlLinkDown h s) (by simp [hh, ha])

theorem gives_cxlLinkTrainingComplete {w r : Nat} (hh : h < 2) (hp : (s.head h).perst = false) (ha : (s.head h).link ≠ .active)
    (hs : 5 ≤ s.boot.step) (hr : s.sec.recovery = false) (hi : s.linksIdle = false) :
    Gives (.cxlLinkTrainingComplete h w r) s (s.modHead h (fun x => { x with
      link := .active, width := w, rate := r, flit := r == 6 || Config.freeValue s.free % 2 == 1 })).drawn :=
  gives_of_if_not (exec_cxlLinkTrainingComplete h w r s) (by simp [hh, hp, ha, hs, hr, hi])

theorem gives_functionLevelReset (hh : h < 2) (hr : s.isReady = true) :
    Gives (.functionLevelReset h) s (s.modHead h (fun x => { x with flr := true })) :=
  gives_of_if_not (exec_functionLevelReset h s) (by simp [hh, hr])

end

/-- Settles O32. That a head which may not cache is denied a copy with poisoned data, and that a write during an open snoop of its line is
the data of the answer, are the model's choice (log entry 74). -/
theorem cxlHeadsTakeEffect : Obligations.CxlHeadsTakeEffect := by
  refine ⟨fun s h a d tag k hu hc => ?reads, fun s h a n tag x k hu hn hc => ⟨exec_cxlMemRead_refused hu hn hc, fun b m l => ?writeRefused⟩,
    fun s h a d m l hu hc hm hb => ?answers, fun s h a d m b l hu hc hm hb => ?writes,
    fun _ _ _ _ => gives_birsp_late, fun _ _ _ _ _ _ _ _ => gives_birsp_ack, fun _ _ _ _ _ _ _ _ _ hu hi =>
      ⟨gives_hdmDecoderCommit_legal hu hi, gives_hdmDecoderCommit_illegal hu hi⟩,
    fun _ _ => gives_perstAssert, fun _ _ => gives_perstRelease, fun _ _ => gives_cxlLinkDown, fun _ _ _ _ => gives_cxlLinkTrainingComplete,
    fun _ _ => gives_functionLevelReset⟩
  case reads =>
    have he := @exec_cxlMemRead_served s h a d _ tag _ k hu hc rfl rfl
    refine ⟨fun h1 hk hp => gives_of_if (exec_cxlMemRead_admitted hu hc rfl rfl) ⟨h1, hk, hp⟩, fun h1 hk hf hb => ?coherent,
      fun h1 hf hb => ?plain, fun hk => gives_of_if (he hk)⟩
    case coherent => rw [Gives, he (.inr hk), if_neg (by simp [hf, hb]), if_pos h1, done]
    case plain => rw [Gives, he (.inl h1), if_neg (by simp [hf, hb]), if_neg h1, done]; rfl
  case writeRefused =>
    rw [Gives, exec_cxlMemWrite_refused hu hn hc, done]
    cases x <;> rfl
  case answers =>
    have he := exec_cxlMemWrite_answer (data := l) hu hc hm rfl hb
    exact ⟨fun hd => gives_of_if_not he (Bool.eq_false_iff.1 hd), gives_of_if he⟩
  case writes =>
    exact ⟨gives_of_if (exec_cxlMemWrite_admitted hu hc hm rfl rfl hb rfl),
      fun hf h1 => gives_cxlMemWrite_admitted hu hc hm rfl rfl hb (if_pos h1).symm hf,
      fun hf h1 => gives_cxlMemWrite_admitted hu hc hm rfl rfl hb (if_neg h1).symm hf⟩

end Sys2Proof.Proofs

namespace Sys2Proof.Proofs
open Sys2Proof.Machine Sys2Proof.Safety

/-! ### Scheduling commands -/

/-- Settles O39: each row serves its command with its own rules and then stages its change or answers. The first broken rule in the
order of the row's list decides the status, ahead of the BUSY of a conflict: the model's choice (log entry 26). That split-read of a
port with no mode answers an empty SAMPLED reply is the model's choice too (log entry 27). -/
theorem schedulingCommandsServe : Obligations.SchedulingCommandsServe :=
  ⟨Laws.stages_of fun _ _ => rfl, Laws.stages_of fun _ _ => rfl, Laws.stages_of fun _ _ => rfl, Laws.stages_of fun _ _ => rfl,
    Laws.stages_of fun _ _ => rfl, Laws.stages_of fun _ _ => rfl, Laws.replies_of fun _ _ => rfl, Laws.stages_of fun _ _ => rfl⟩

/-! ### Power and security commands

fm-bind decides by the nonce and the part that its channel holds instead of by a list of rules, so it takes the two lemmas below in
place of the `Laws` of the other rows. -/

section
variable {c : Instr} {cmd : IcsCmd} {decision : IcsReq → Decision} {s : State} {arg : IcsArg} {m : IcsMsg} {q : IcsReq}

theorem gives_refuseIcs_of_checks (h : exec c s = s.serveDone arg cmd decision) (hn : Names s arg cmd m q) {st : Nat}
    (hc : checks cmd m q = some st) : Gives c s (q.now.refuseIcs q.chan m st) := by
  rw [Gives, h, State.serveDone, Laws.serve_named hn, hc, done]

theorem gives_carryOut_of_checks (h : exec c s = s.serveDone arg cmd decision) (hn : Names s arg cmd m q)
    (hc : checks cmd m q = none) : Gives c s (q.now.carryOut q.chan m (decision q)) := by
  rw [Gives, h, State.serveDone, Laws.serve_named hn, hc, done]

end

/-- Settles O42: each row but fm-bind serves its command with its own rules and then stages its change, starts or answers; fm-bind
carries out the decision of the branch that its nonce and its parts select. The order of the refusals, the first broken rule ahead of the
BUSY of a conflict, is the model's choice (log entry 26), and so is that fm-bind is DENIED without a nonce and INVALID for part 1
without part 0, that part 0 is answered OK with ACCEPTED 0, and that attestation-read beyond a report is INVALID (log entry 27). -/
theorem powerAndSecurityCommandsServe : Obligations.PowerAndSecurityCommandsServe := by
  refine ⟨Laws.stages_of fun _ _ => rfl, Laws.stages_of fun _ _ => rfl, Laws.stages_of fun _ _ => rfl, Laws.stages_of fun _ _ => rfl,
    Laws.replies_of fun _ _ => rfl, Laws.starts_of fun _ _ => rfl, Laws.replies_of fun _ _ => rfl, Laws.replies_of fun _ _ => rfl,
    Laws.replies_of fun _ _ => rfl, Laws.stages_of fun _ _ => rfl, Laws.stages_of fun _ _ => rfl, fun s arg m q hn =>
      ⟨fun st => gives_refuseIcs_of_checks rfl hn, fun hc hno => ?noNonce, fun hc n k hk => ⟨fun h0 => ?expired, fun h0 hp => ?part0,
        fun h0 hp hl => ?noPart0, fun h0 hp l hl => ⟨fun hv => ?verified, fun hv => ?failed⟩⟩⟩⟩
  all_goals have hg := gives_carryOut_of_checks (c := .fmBind arg) rfl hn hc
  case noNonce => simpa only [hno, State.carryOut] using hg
  case expired => simpa only [hk, if_pos h0, State.carryOut] using hg
  case part0 => simpa only [hk, if_neg h0, if_pos hp, State.carryOut] using hg
  case noPart0 => simpa only [hk, if_neg h0, if_neg hp, hl, State.carryOut] using hg
  case verified => simpa only [hk, if_neg h0, if_neg hp, hl, if_pos hv, State.carryOut] using hg
  case failed => simpa only [hk, if_neg h0, if_neg hp, hl, if_neg (Bool.eq_false_iff.1 hv), State.carryOut] using hg

/-! ### Reliability, twin, telemetry and firmware commands -/

/-- Settles O43: each row serves its command with its own rules and then stages its change, starts or answers. The order of the refusals,
the first broken rule ahead of the BUSY of a conflict, is the model's choice (log entry 26), and so are INVALID for a unit-return of a unit
that is neither retired nor failed, BUSY for a hearth-switch without a standby and for a hearth-return of a core that has not failed
(log entry 27), and that hearth-switch is answered when the switch ends (log entry 28). -/
theorem reliabilityAndFirmwareCommandsServe : Obligations.ReliabilityAndFirmwareCommandsServe :=
  ⟨Laws.replies_of fun _ _ => rfl, Laws.stages_of fun _ _ => rfl, Laws.stages_of fun _ _ => rfl, Laws.stages_of fun _ _ => rfl,
    Laws.starts_of fun _ _ => rfl, Laws.stages_of fun _ _ => rfl, Laws.stages_of fun _ _ => rfl, Laws.replies_of fun _ _ => rfl,
    Laws.replies_of fun _ _ => rfl, Laws.replies_of fun _ _ => rfl, Laws.replies_of fun _ _ => rfl, Laws.replies_of fun _ _ => rfl,
    Laws.starts_of fun _ _ => rfl, Laws.starts_of fun _ _ => rfl⟩

end Sys2Proof.Proofs

namespace Sys2Proof.Proofs
open Sys2Proof.Machine Sys2Proof.Safety

/-! ### Melt, ring and roster commands -/

/-- Settles O40: each row serves its command with its own rules and then stages its change or answers. The first broken rule in the
order of the row's list decides the status, ahead of the BUSY of a conflict: the model's choice (log entry 26). That roster-set names no
partition for checks 4 and 5 is the model's choice too (log entry 27). -/
theorem meltAndRosterCommandsServe : Obligations.MeltAndRosterCommandsServe :=
  ⟨Laws.stages_of fun _ _ => rfl, Laws.stages_of fun _ _ => rfl, Laws.stages_of fun _ _ => rfl, Laws.stages_of fun _ _ => rfl,
    Laws.stages_of fun _ _ => rfl, Laws.replies_of fun _ _ => rfl, Laws.stages_of fun _ _ => rfl, Laws.stages_of fun _ _ => rfl,
    Laws.replies_of fun _ _ => rfl⟩

/-! ### Special Billet blocks -/

section
variable {w : Nat} {r : Nat → Nat} {xs : List Fp}

/-- The fifteen nibbles of a header with SEXP = 0xFF alone hold 0xF twice, which cancel (R140). -/
theorem billetChk_nonfinite : billetChk (0xFF * 2 ^ 56) = 0 := by decide

theorem encodeBillet_of_nonfinite (h : ∃ x ∈ xs, x.isFinite = false) :
    encodeBillet w r xs = (0xFF * 2 ^ 56, List.replicate xs.length 0, { EventCounts.zero with nonfinite := 1 }) := by
  have hany : xs.any (fun x => !x.isFinite) = true := by simpa using h
  rw [encodeBillet, if_pos hany]
  show (0xFF * 2 ^ 56 + billetChk (0xFF * 2 ^ 56), _, _) = _
  rw [billetChk_nonfinite]
  rfl

theorem encodeBillet_of_zeros (h : ∀ x ∈ xs, ∃ (neg : Bool) (d : Nat), x = .fin neg 0 d) :
    encodeBillet w r xs = (0, List.replicate xs.length 0, EventCounts.zero) := by
  have hfin : ¬ xs.any (fun x => !x.isFinite) = true := by
    rw [List.any_eq_true]
    rintro ⟨x, hx, hinf⟩
    obtain ⟨neg, d, rfl⟩ := h x hx
    cases hinf
  rw [encodeBillet, if_neg hfin, if_pos]
  rw [List.all_map, List.all_eq_true]
  rintro ⟨x, i⟩ hx
  obtain ⟨neg, d, rfl⟩ := h x (List.fst_mem_of_mem_zipIdx hx)
  rfl

end

/-- Settles O55: a block with a non-finite value takes the encoder's first branch, one of zeros its second. -/
theorem specialBilletBlocks : Obligations.SpecialBilletBlocks :=
  ⟨fun _ _ _ => encodeBillet_of_nonfinite, fun _ _ _ => encodeBillet_of_zeros⟩

/-! ### Conversions, transforms and MMA

An instruction of an anvil that issues goes on, or faults, as its own conditions decide. -/

section
variable {c : Instr} {s t : State} {a : Nat} {e : Except AFault State} {f : AFault}

theorem gives_of_instr_ok (h : exec c s = done (s.instr a e)) (hi : s.issues a = true) (he : e = .ok t) : Gives c s t := by
  rw [Gives, h, he, State.instr_ok s t a hi, done]

theorem gives_of_instr_error (h : exec c s = done (s.instr a e)) (hi : s.issues a = true) (he : e = .error f) :
    Gives c s (s.anvilFault a (s.anvil a).regs.pc f) := by
  simp only [Gives, h, he, State.instr, hi, done, Bool.not_true, Bool.false_eq_true, if_false]

variable {o : OpA} {word cycles : Nat} {ok : Bool} {q : List Half × Nat}

theorem gives_of_transform_legal (h : exec c s = done (s.transform o word cycles ok q)) (hi : s.issues o.anvil = true)
    (ha : o.a % 32 ≠ 31) (hd : o.d % 32 ≠ 31) (hok : ok = true) :
    Gives c s (s.drawn.retireV o.anvil cycles (fun r =>
      ((r.wvMasked o.msk o.d (ofLanes (q.1.take 64))).wvMasked o.msk (o.d + 1) (ofLanes (q.1.drop 64))).saturated q.2)) :=
  gives_of_instr_ok h hi (if_neg (by simp [ha, hd, hok]))

theorem gives_of_transform_illegal (h : exec c s = done (s.transform o word cycles ok q)) (hi : s.issues o.anvil = true)
    (hn : o.a % 32 = 31 ∨ o.d % 32 = 31 ∨ ok = false) :
    Gives c s (s.anvilFault o.anvil (s.anvil o.anvil).regs.pc (illegal word)) :=
  gives_of_instr_error h hi (if_pos (by obtain h | h | h := hn <;> simp [h]))

end

/-- Settles O15. That a VCVT of a blocked format, a PACK or UNPACK of a flat one, stage 7 of FWHS, and MS = 1 without a window are ILLEGAL
is the model's choice, and so is that the events of all elements of a VCVT or UNPACK count, whatever the mask (log entry 32). -/
theorem conversionsTakeEffect : Obligations.ConversionsTakeEffect := by
  refine ⟨fun s o hi hc hf => gives_of_instr_ok (exec_vcvtTo o s) hi (if_neg ?toLegal),
    fun s o hi h => gives_of_instr_error (exec_vcvtTo o s) hi (if_pos ?toIllegal),
    fun s o hi hk hm hs hf => gives_of_instr_ok (exec_vcvtFrom o s) hi (if_neg ?fromLegal),
    fun s o hi h => gives_of_instr_error (exec_vcvtFrom o s) hi (if_pos ?fromIllegal),
    fun s o hi hc hf hr hb hp => gives_of_instr_ok (exec_pack o s) hi ((if_neg ?packLegal).trans (if_neg ?packInside)),
    fun s o hi h => gives_of_instr_error (exec_pack o s) hi (if_pos ?packIllegal),
    fun s o hi hk hm hf hr hb hp => gives_of_instr_ok (exec_unpack o s) hi ((if_neg ?unpackLegal).trans (if_neg ?unpackInside)),
    fun s o hi h => gives_of_instr_error (exec_unpack o s) hi (if_pos ?unpackIllegal),
    fun s o hi h => gives_of_instr_error (exec_sgnv o s) hi (if_pos ?signIllegal),
    fun s o hi h1 h6 => gives_of_instr_ok (exec_sgnv o s) hi (if_neg ?signLegal),
    fun s o hi ha hd hk => gives_of_transform_legal (exec_fwhs o s) hi ha hd (by simpa using hk),
    fun s o hi ha hd hm => gives_of_transform_legal (exec_fwhf o s) hi ha hd (by simpa using hm),
    fun s o hi ha hd hm => gives_of_transform_legal (exec_fwhd o s) hi ha hd (by simpa using hm),
    fun s o hi h => gives_of_transform_illegal (exec_fwhs o s) hi (by simpa using h),
    fun s o hi h => ⟨gives_of_transform_illegal (exec_fwhf o s) hi (by simpa using h),
      gives_of_transform_illegal (exec_fwhd o s) hi (by simpa using h)⟩,
    fun s o hi hn => gives_of_instr_ok (exec_mma o s) hi (by rw [hn]),
    fun s o f hi hf => gives_of_instr_error (exec_mma o s) hi (by rw [hf]),
    fun s o hi => gives_of_instr_ok (exec_azero o s) hi rfl⟩
  case toLegal => simp [hc, hf]
  case toIllegal => simpa using h
  case fromLegal => simpa [hk, hm, hf] using hs
  case fromIllegal => simpa [or_assoc] using h
  case packLegal => simp [hc, hf, hr, hb]
  case packInside => simp [hp]
  case packIllegal => simpa [or_assoc] using h
  case unpackLegal => simp [hk, hm, hf, hr, hb]
  case unpackInside => simp [hp]
  case unpackIllegal => simpa [or_assoc] using h
  case signIllegal => simpa using h
  case signLegal => simp only [Bool.or_eq_true, decide_eq_true_eq]; omega

end Sys2Proof.Proofs

namespace Sys2Proof.Proofs
open Sys2Proof.Machine Sys2Proof.Safety

/-! ### Pours

A train at the crucible complex of class 4: its header meets the admission of its partition and then the checks of its melt, each of its
data cells meets the pour in staging at its port. -/

section
variable {s : State} {port : Nat} {cell : Cell} {t : Staging}

/-- A header whose partition is not admitted is counted at its port, and so are the rest of its cells (R85, R172). -/
theorem gives_pour_notAdmitted (ht : cell.typ = 0x9) (hc : cell.cls = 4) (hq : cell.seq = 0) (hd : cell.dst = s.endpoint 33)
    (ha : s.admits port cell.part = false) :
    Gives (.pour port cell) s
      ((((s.takeCells port 4 [cell]).truncateStaging port).countPort port 40 1).refuseRest port cell.tag 0 3) := by
  simp [Gives, execPour, done, ht, hc, hq, hd, ha]

/-- What is left of a header that is taken in `t`, its window's crucible being `c`, as the checks decide. -/
def pourDecided (t : State) (port c : Nat) (cell : Cell) : PourFate → State
  | .accept k => t.pourOpened port cell k
  | .refuse ks rest none => (ks.foldl (fun a k => a.countPour cell.part c k 1) t).refuseRest port cell.tag c rest
  | .refuse ks rest (some st) =>
    ((ks.foldl (fun a k => a.countPour cell.part c k 1) t).refuseRest port cell.tag c rest).pourStatus cell st

/-- A header of an admitted ACTIVE partition for one of its melts is accepted or refused as the checks of R172 decide. -/
theorem exec_pour_checked (ht : cell.typ = 0x9) (hc : cell.cls = 4) (hq : cell.seq = 0) (hd : cell.dst = s.endpoint 33)
    (ha : s.admits port cell.part = true) (hp : (s.part cell.part).state = .active) (hw : s.twin.state = .unpaired)
    (hs : s.coolantStop = false) (hf : (s.melt cell.tag).state ≠ .free) (hm : (s.melt cell.tag).part = cell.part) :
    exec (.pour port cell) s = done (pourDecided ((s.takeCells port 4 [cell]).truncateStaging port) port
      (s.pourCrucible cell.tag (le cell.payload 2 2)) cell (s.pourChecks cell)) := by
  simp only [exec_pour, execPour, ht, hc, hq, hd, ha, hp, hw, hs, hf, hm, ne_eq, not_true_eq_false, decide_false,
    Bool.not_true, Bool.or_self, Bool.false_and, Bool.false_eq_true, if_false]
  cases s.pourChecks cell with
  | accept k => rfl
  | refuse ks rest status => cases status <;> rfl

theorem gives_pourCell_stray (ht : cell.typ = 0x9) (hc : cell.cls = 4) (hq : cell.seq ≠ 0) (hd : cell.dst = s.endpoint 33)
    (hn : tfind s.crucibles.staging port = none) :
    Gives (.pourCell port cell) s ((s.takeCells port 4 [cell]).strayCell port cell) := by
  simp [Gives, execPourCell, done, ht, hc, hq, hd, hn]

/-- The next cell of the pour in staging is held until its unit is whole, and then the unit is added (R173, R174, R176). -/
theorem exec_pourCell_next (ht : cell.typ = 0x9) (hc : cell.cls = 4) (hq : cell.seq = t.taken + 1) (hd : cell.dst = s.endpoint 33)
    (hf : tfind s.crucibles.staging port = some t) (hs : s.coolantStop = false) (hm : cell.tag = t.melt)
    (hp : cell.part = (s.melt t.melt).part) :
    exec (.pourCell port cell) s = done (
      if t.held.length + 1 < t.unitCells then
        ((s.takeCells port 4 [cell]).keepStaging port
          (some { t with taken := t.taken + 1, heats := 0, held := t.held ++ [cell.payload] })).countPour cell.part t.cru 2 1
      else (s.takeCells port 4 [cell]).pourUnit port cell.part
        { t with taken := t.taken + 1, heats := 0, held := t.held ++ [cell.payload] }) := by
  simp [execPourCell, Staging.unitCells, Staging.next, ht, hc, hq, hd, hf, hs, hm, hp]

theorem gives_stagingTruncation_stopped (hf : tfind s.crucibles.staging port = some t) (hh : 1 ≤ t.heats) :
    Gives (.stagingTruncation port) s (s.truncateStaging port) :=
  gives_of_if (exec_stagingTruncation port s) (by simpa [hf] using hh)

theorem gives_stagingTruncation_resumed (hf : tfind s.crucibles.staging port = some t) (hh : t.heats = 0) :
    Gives (.stagingTruncation port) s s :=
  gives_of_if_not (exec_stagingTruncation port s) (by simp [hf, hh])

theorem gives_stagingTruncation_none (hf : tfind s.crucibles.staging port = none) : Gives (.stagingTruncation port) s s :=
  gives_of_if_not (exec_stagingTruncation port s) (by simp [hf])

end

/-- Settles O7: a header meets its admission and then its checks, a data cell the staging of its port. -/
theorem poursTakeEffect : Obligations.PoursTakeEffect := by
  refine ⟨fun s port k cell ht hc hq hd ha hp hw hs hf hm hk => ?accepted,
    fun s port rest ks status cell ht hc hq hd ha hp hw hs hf hm hk => ?refused,
    fun _ _ _ => gives_pour_notAdmitted, fun _ _ _ => gives_pourCell_stray,
    fun s port cell t ht hc hq hd hf hs hm hp => gives_of_if (exec_pourCell_next ht hc hq hd hf hs hm hp),
    fun s port cell t ht hc hq hd hf hs hm hp hu => gives_of_if_not (exec_pourCell_next ht hc hq hd hf hs hm hp) (Nat.not_lt.2 hu),
    fun s port t hf => ⟨gives_stagingTruncation_stopped hf, gives_stagingTruncation_resumed hf⟩,
    fun _ _ => gives_stagingTruncation_none⟩
  all_goals have he := hk ▸ exec_pour_checked ht hc hq hd ha hp hw hs hf hm
  case accepted => exact he
  case refused => cases status <;> exact he

/-! ### Windows

A window opens, spills and closes as its melt and the free slots have it (R165, R166, R180). -/

section
variable {s : State} {m w c k a : Nat} {v : Window}

theorem gives_windowOpen (hm : s.waitingMelts.find? (fun m => decide ((s.melt m).slotsHeld < (s.melt m).maxSlots)) = some m)
    (hk : s.slotFor m (s.melt m).nextWindow = some (c, k)) : Gives .windowOpen s (s.openWindow m c k) := by
  simp only [Gives, exec_windowOpen, execWindowOpen, hm, hk, done]

theorem gives_windowSpill (hc : s.spillChoice = some (m, w)) :
    Gives .windowSpill s (s.modWindow m w (fun v => match v.place with | .closed c k => { v with place := .spilling c k } | _ => v)) := by
  rw [Gives, exec_windowSpill, execWindowSpill, hc]
  rfl

theorem gives_spillWriteComplete (hv : tfind (s.melt m).windows w = some v) (hp : v.place = .spilling c k)
    (hr : s.allReady (s.spillAccesses m w) = true) :
    Gives (.spillWriteComplete m w) s (s.spillDone m w c k v (s.spillAccesses m w)) := by
  simp only [Gives, exec_spillWriteComplete, execSpillWriteComplete, hv, hp, hr, Bool.not_true, Bool.false_eq_true, if_false, done]

theorem gives_windowDeadline (hv : tfind (s.melt m).windows w = some v) (ho : v.open = true) (hl : v.left = 0) :
    Gives (.windowDeadline m w) s ((s.discardStaging m w).closeWindow m w true) := by
  simp [Gives, execWindowDeadline, done, hv, ho, hl]

/-- The next window of a finalising melt is queued with the slot that it still holds: its own when closed, none once spilled (R187). -/
theorem gives_windowHandOff (hf : (s.melt m).state = .final) (hn : (s.melt m).faultWindow = none) (hv : (s.melt m).nextHand = some (w, v))
    (ha : s.handTo (s.melt m).part c = some a) {slot : Option (Nat × Nat)}
    (hp : v.place = .closed c k ∧ slot = some (c, k) ∨ v.place = .spilled c ∧ slot = none) :
    Gives (.windowHandOff m) s ((s.modWindow m w (fun y => { y with place := .handed a slot c })).modAnvil a (fun y =>
      y.takesEntry { melt := m, window := w, step := (s.melt m).step, slot := slot })) := by
  obtain ⟨hp, rfl⟩ | ⟨hp, rfl⟩ := hp <;> simp [Gives, execWindowHandOff, done, hf, hn, hv, hp, ha]

theorem gives_stepEnd (hd : (s.melt m).stepDone = true) :
    Gives (.stepEnd m) s (s.endStep m (s.melt m).outcome.1 (s.melt m).outcome.2 ((s.melt m).faultWindow.getD 0xFFFFFFFF)) :=
  gives_of_if_not (exec_stepEnd m s) (by simp [hd])

end

/-! ### The runner's accesses

Once the lines of its accesses are ready, the runner of an anvil goes on, or faults at the first one that is refused or reads poison
(R188, R192). -/

section
variable {s : State} {a : Nat} {j : RunnerJob} {found : List Finding} {f : AFault} {accs : List Access}

theorem gives_imageReadReport_fault (hj : s.runnerJob a = some j) (hi : j.imageRead = false)
    (hr : s.allReady (j.imageAccesses (s.melt j.melt)) = true)
    (hf : (s.foundAll found).readFault (j.imageAccesses (s.melt j.melt)) = some f) :
    Gives (.imageReadReport a found) s ((s.foundAll found).runnerFault a f) := by
  simp [Gives, execImageReadReport, done, hj, hi, hr, hf]

theorem gives_imageReadReport_taken (hj : s.runnerJob a = some j) (hi : j.imageRead = false)
    (hr : s.allReady (j.imageAccesses (s.melt j.melt)) = true)
    (hf : (s.foundAll found).readFault (j.imageAccesses (s.melt j.melt)) = none) :
    Gives (.imageReadReport a found) s ((s.foundAll found).imageTaken a j (j.imageAccesses (s.melt j.melt))) := by
  simp [Gives, execImageReadReport, done, hj, hi, hr, hf]

theorem gives_windowWritten_fault (ha : (s.melt j.melt).windowReads j.window ++ (s.melt j.melt).windowWrites j.window = accs)
    (hj : s.runnerJob a = some j) (hi : j.imageRead = true) (hr : s.allReady accs = true)
    (hf : (s.foundAll found).readFault accs = some f) :
    Gives (.windowWritten a found) s ((s.foundAll found).runnerFault a f) := by
  simp [Gives, execWindowWritten, done, hj, hi, ha, hr, hf]

theorem gives_windowWritten_applied (ha : (s.melt j.melt).windowReads j.window ++ (s.melt j.melt).windowWrites j.window = accs)
    (hj : s.runnerJob a = some j) (hi : j.imageRead = true) (hr : s.allReady accs = true)
    (hf : (s.foundAll found).readFault accs = none) :
    Gives (.windowWritten a found) s ((s.foundAll found).windowApplied a j accs) := by
  simp [Gives, execWindowWritten, done, hj, hi, ha, hr, hf]

end

/-- Settles O8: each event of a window meets the window's place, and the runner its first fault. -/
theorem windowEventsTakeEffect : Obligations.WindowEventsTakeEffect := by
  refine ⟨fun _ _ _ _ => gives_windowOpen, fun _ _ _ => gives_windowSpill, fun _ _ _ _ _ _ => gives_spillWriteComplete,
    fun _ _ _ _ => gives_windowDeadline, fun s m w c k a v hf hn hv hp ha => gives_windowHandOff hf hn hv ha (.inl ⟨hp, rfl⟩),
    fun s m w c a v hf hn hv hp ha => gives_windowHandOff (k := 0) hf hn hv ha (.inr ⟨hp, rfl⟩), fun s a j found hj hi hr => ?image,
    fun s a j found hj hi hr => ?written, fun _ _ => gives_stepEnd⟩
  case image =>
    split
    next f hf => exact gives_imageReadReport_fault hj hi hr hf
    next hf => exact gives_imageReadReport_taken hj hi hr hf
  case written =>
    split
    next f hf => exact gives_windowWritten_fault rfl hj hi hr hf
    next hf => exact gives_windowWritten_applied rfl hj hi hr hf

end Sys2Proof.Proofs

namespace Sys2Proof.Proofs
open Sys2Proof.Machine Sys2Proof.Safety

/-! ### Words of the four formats -/

theorem regField_iff {n : Nat} : regField n = true ↔ n < 32 := by simp [regField]

section
variable {maj fn anvil : Nat} (hm : maj < 64) (hf : fn < 64)
include hm hf

/-- A word of format A has its MAJ and FN, and its fields are those of the operands where these are in range. -/
theorem OpA.word_fields {o : OpA} (h : ({ o with anvil := 0 } : OpA).wf = true) :
    o.word maj fn < 2 ^ 64 ∧ bits (o.word maj fn) 58 6 = maj ∧ bits (o.word maj fn) 52 6 = fn ∧
      opA anvil (o.word maj fn) = { o with anvil := anvil } := by
  obtain ⟨_, d, a, b, c, msk, ms, modifier⟩ := o
  simp only [OpA.wf, Bool.and_eq_true, decide_eq_true_eq, regField_iff] at h
  obtain ⟨⟨⟨⟨⟨⟨-, hd⟩, ha⟩, hb⟩, hc⟩, hk⟩, hmod⟩ := h
  cases ms
  all_goals
    simp only [OpA.word, opA, bit, bits, ofBool, OpA.mk.injEq, true_and, Nat.mod_eq_of_lt, beq_iff_eq, beq_eq_false_iff_ne,
      Bool.false_eq_true, if_true, if_false, *]
    omega

theorem OpI.word_fields {o : OpI} (h : ({ o with anvil := 0 } : OpI).wf = true) :
    o.word maj fn < 2 ^ 64 ∧ bits (o.word maj fn) 58 6 = maj ∧ bits (o.word maj fn) 52 6 = fn ∧
      opI anvil (o.word maj fn) = { o with anvil := anvil } := by
  obtain ⟨_, d, a, imm⟩ := o
  simp only [OpI.wf, Bool.and_eq_true, decide_eq_true_eq, regField_iff] at h
  obtain ⟨⟨-, hd⟩, ha⟩ := h
  have hi := imm.isLt
  simp only [OpI.word, opI, bits, OpI.mk.injEq, true_and, Nat.mod_eq_of_lt, *, ← BitVec.toNat_inj, BitVec.toNat_ofNat]
  omega

theorem OpM.word_fields {o : OpM} (h : ({ o with anvil := 0 } : OpM).wf = true) :
    o.word maj fn < 2 ^ 64 ∧ bits (o.word maj fn) 58 6 = maj ∧ bits (o.word maj fn) 52 6 = fn ∧
      opM anvil (o.word maj fn) = { o with anvil := anvil } := by
  obtain ⟨_, d, a, b, c, imm⟩ := o
  simp only [OpM.wf, Bool.and_eq_true, decide_eq_true_eq, regField_iff] at h
  obtain ⟨⟨⟨⟨-, hd⟩, ha⟩, hb⟩, hc⟩ := h
  have hi := imm.isLt
  simp only [OpM.word, opM, bits, OpM.mk.injEq, true_and, Nat.mod_eq_of_lt, *, ← BitVec.toNat_inj, BitVec.toNat_ofNat]
  omega

theorem OpB.word_fields {o : OpB} (h : ({ o with anvil := 0 } : OpB).wf = true) :
    o.word maj fn < 2 ^ 64 ∧ bits (o.word maj fn) 58 6 = maj ∧ bits (o.word maj fn) 52 6 = fn ∧
      opB anvil (o.word maj fn) = { o with anvil := anvil } := by
  obtain ⟨_, a, b, imm⟩ := o
  simp only [OpB.wf, Bool.and_eq_true, decide_eq_true_eq, regField_iff] at h
  obtain ⟨⟨-, ha⟩, hb⟩ := h
  have hi := imm.isLt
  simp only [OpB.word, opB, bits, OpB.mk.injEq, true_and, Nat.mod_eq_of_lt, *, ← BitVec.toNat_inj, BitVec.toNat_ofNat]
  omega

end

/-- The operands that a word gives are in range. -/
theorem opA_wf (w : Nat) : (opA 0 w).wf = true := by
  simp [OpA.wf, opA, regField, bits, Nat.mod_lt]

theorem opI_wf (w : Nat) : (opI 0 w).wf = true := by
  simp [OpI.wf, opI, regField, bits, Nat.mod_lt]

theorem opM_wf (w : Nat) : (opM 0 w).wf = true := by
  simp [OpM.wf, opM, regField, bits, Nat.mod_lt]

theorem opB_wf (w : Nat) : (opB 0 w).wf = true := by
  simp [OpB.wf, opB, regField, bits, Nat.mod_lt]

theorem OpA.wf_iff (o : OpA) : o.wf = true ↔ o.anvil < 64 ∧ ({ o with anvil := 0 } : OpA).wf = true := by
  simp [OpA.wf, and_assoc]

theorem OpI.wf_iff (o : OpI) : o.wf = true ↔ o.anvil < 64 ∧ ({ o with anvil := 0 } : OpI).wf = true := by
  simp [OpI.wf, and_assoc]

theorem OpM.wf_iff (o : OpM) : o.wf = true ↔ o.anvil < 64 ∧ ({ o with anvil := 0 } : OpM).wf = true := by
  simp [OpM.wf, and_assoc]

theorem OpB.wf_iff (o : OpB) : o.wf = true ↔ o.anvil < 64 ∧ ({ o with anvil := 0 } : OpB).wf = true := by
  simp [OpB.wf, and_assoc]

/-- A format of Table — Instruction formats (R219): the operands that a word gives an anvil, and the word of operands. A word of
operands that some word gives has its MAJ and FN and gives the same operands; well-formed operands are given by some word. -/
structure WordFormat (α : Type) where
  fields : Nat → Nat → α
  word : α → Nat → Nat → Nat
  wf : α → Bool
  word_fields : ∀ {maj fn : Nat}, maj < 64 → fn < 64 → ∀ a w, word (fields a w) maj fn < 2 ^ 64 ∧
    bits (word (fields a w) maj fn) 58 6 = maj ∧ bits (word (fields a w) maj fn) 52 6 = fn ∧
    fields a (word (fields a w) maj fn) = fields a w
  exists_fields : ∀ o, wf o = true → ∃ a w, a < 64 ∧ fields a w = o

def formatA : WordFormat OpA where
  fields := opA
  word := OpA.word
  wf := OpA.wf
  word_fields hm hf _ w := OpA.word_fields hm hf (opA_wf w)
  exists_fields o h := by
    obtain ⟨ha, h0⟩ := (OpA.wf_iff o).1 h
    obtain ⟨-, -, -, ho⟩ := OpA.word_fields (anvil := o.anvil) (Nat.zero_lt_succ 63) (Nat.zero_lt_succ 63) h0
    exact ⟨o.anvil, _, ha, ho⟩

def formatI : WordFormat OpI where
  fields := opI
  word := OpI.word
  wf := OpI.wf
  word_fields hm hf _ w := OpI.word_fields hm hf (opI_wf w)
  exists_fields o h := by
    obtain ⟨ha, h0⟩ := (OpI.wf_iff o).1 h
    obtain ⟨-, -, -, ho⟩ := OpI.word_fields (anvil := o.anvil) (Nat.zero_lt_succ 63) (Nat.zero_lt_succ 63) h0
    exact ⟨o.anvil, _, ha, ho⟩

def formatM : WordFormat OpM where
  fields := opM
  word := OpM.word
  wf := OpM.wf
  word_fields hm hf _ w := OpM.word_fields hm hf (opM_wf w)
  exists_fields o h := by
    obtain ⟨ha, h0⟩ := (OpM.wf_iff o).1 h
    obtain ⟨-, -, -, ho⟩ := OpM.word_fields (anvil := o.anvil) (Nat.zero_lt_succ 63) (Nat.zero_lt_succ 63) h0
    exact ⟨o.anvil, _, ha, ho⟩

def formatB : WordFormat OpB where
  fields := opB
  word := OpB.word
  wf := OpB.wf
  word_fields hm hf _ w := OpB.word_fields hm hf (opB_wf w)
  exists_fields o h := by
    obtain ⟨ha, h0⟩ := (OpB.wf_iff o).1 h
    obtain ⟨-, -, -, ho⟩ := OpB.word_fields (anvil := o.anvil) (Nat.zero_lt_succ 63) (Nat.zero_lt_succ 63) h0
    exact ⟨o.anvil, _, ha, ho⟩

/-! ### The table of major opcodes -/

/-- A format with the instruction that its operands make. -/
inductive WordForm where
  | of {α : Type} (f : WordFormat α) (c : α → Instr)

def WordForm.decode (a w : Nat) : WordForm → Instr
  | .of f c => c (f.fields a w)

/-- A row of Table — Major opcodes: MAJ, FN and the instruction. -/
structure AnvilRow where
  maj : Nat
  fn : Nat
  form : WordForm

/-- The rows of the scalar core and of memory. -/
def scalarRows : List AnvilRow := [
  ⟨0x00, 0x00, .of formatI .fault⟩, ⟨0x00, 0x01, .of formatI .yield⟩, ⟨0x00, 0x02, .of formatI .phase⟩, ⟨0x00, 0x03, .of formatI .srd⟩,
  ⟨0x00, 0x04, .of formatI .swr⟩, ⟨0x00, 0x05, .of formatI .live⟩, ⟨0x00, 0x06, .of formatI .halt⟩, ⟨0x01, 0x00, .of formatA .add⟩,
  ⟨0x01, 0x01, .of formatA .sub⟩, ⟨0x01, 0x02, .of formatA .mul⟩, ⟨0x01, 0x03, .of formatA .and⟩, ⟨0x01, 0x04, .of formatA .or⟩,
  ⟨0x01, 0x05, .of formatA .xor⟩, ⟨0x01, 0x06, .of formatA .shl⟩, ⟨0x01, 0x07, .of formatA .shr⟩, ⟨0x01, 0x08, .of formatA .sar⟩,
  ⟨0x01, 0x09, .of formatA .slt⟩, ⟨0x01, 0x0A, .of formatA .sltu⟩, ⟨0x01, 0x0B, .of formatA .min⟩, ⟨0x01, 0x0C, .of formatA .max⟩,
  ⟨0x02, 0x00, .of formatI .addImmediate⟩, ⟨0x02, 0x01, .of formatI .subImmediate⟩, ⟨0x02, 0x02, .of formatI .mulImmediate⟩,
  ⟨0x02, 0x03, .of formatI .andImmediate⟩, ⟨0x02, 0x04, .of formatI .orImmediate⟩, ⟨0x02, 0x05, .of formatI .xorImmediate⟩,
  ⟨0x02, 0x06, .of formatI .shlImmediate⟩, ⟨0x02, 0x07, .of formatI .shrImmediate⟩, ⟨0x02, 0x08, .of formatI .sarImmediate⟩,
  ⟨0x02, 0x09, .of formatI .sltImmediate⟩, ⟨0x02, 0x0A, .of formatI .sltuImmediate⟩, ⟨0x02, 0x0B, .of formatI .minImmediate⟩,
  ⟨0x02, 0x0C, .of formatI .maxImmediate⟩, ⟨0x02, 0x10, .of formatI .lui⟩, ⟨0x04, 0x00, .of formatB .beq⟩,
  ⟨0x04, 0x01, .of formatB .bne⟩, ⟨0x04, 0x02, .of formatB .blt⟩, ⟨0x04, 0x03, .of formatB .bge⟩, ⟨0x04, 0x04, .of formatB .bltu⟩,
  ⟨0x04, 0x05, .of formatB .bgeu⟩, ⟨0x04, 0x06, .of formatB .jal⟩, ⟨0x04, 0x07, .of formatB .jr⟩, ⟨0x08, 0x00, .of formatM .tld⟩,
  ⟨0x08, 0x01, .of formatM .tst⟩, ⟨0x08, 0x02, .of formatM .tld2⟩, ⟨0x08, 0x03, .of formatM .tst2⟩, ⟨0x08, 0x04, .of formatM .lds⟩,
  ⟨0x08, 0x05, .of formatM .sts⟩, ⟨0x08, 0x06, .of formatM .mwait⟩, ⟨0x0C, 0x00, .of formatM .vld⟩, ⟨0x0C, 0x01, .of formatM .vst⟩,
  ⟨0x0C, 0x02, .of formatM .vbc⟩]

/-- The rows of the vector unit. -/
def vectorRows : List AnvilRow := [
  ⟨0x10, 0x00, .of formatA .vadd⟩, ⟨0x10, 0x01, .of formatA .vsub⟩, ⟨0x10, 0x02, .of formatA .vmul⟩, ⟨0x10, 0x03, .of formatA .vfma⟩,
  ⟨0x10, 0x04, .of formatA .vmin⟩, ⟨0x10, 0x05, .of formatA .vmax⟩, ⟨0x10, 0x06, .of formatA .vabs⟩, ⟨0x10, 0x07, .of formatA .vneg⟩,
  ⟨0x10, 0x08, .of formatA .vsign⟩, ⟨0x10, 0x09, .of formatA .vsqrt⟩, ⟨0x10, 0x0A, .of formatA .vrcp⟩,
  ⟨0x10, 0x0B, .of formatA .vrsqrt⟩, ⟨0x10, 0x0C, .of formatA .vexp2⟩, ⟨0x10, 0x0D, .of formatA .vredsum⟩,
  ⟨0x10, 0x0E, .of formatA .vredmax⟩, ⟨0x10, 0x0F, .of formatA .vcmplt⟩, ⟨0x10, 0x10, .of formatA .vsel⟩,
  ⟨0x10, 0x11, .of formatA .vsplat⟩, ⟨0x10, 0x12, .of formatA .vlane⟩, ⟨0x10, 0x13, .of formatA .vacr⟩,
  ⟨0x10, 0x14, .of formatA .vacw⟩, ⟨0x10, 0x20, .of formatA .vaddInt⟩, ⟨0x10, 0x21, .of formatA .vsubInt⟩,
  ⟨0x10, 0x22, .of formatA .vmulInt⟩, ⟨0x10, 0x23, .of formatA .vfmaInt⟩, ⟨0x10, 0x24, .of formatA .vminInt⟩,
  ⟨0x10, 0x25, .of formatA .vmaxInt⟩, ⟨0x10, 0x26, .of formatA .vabsInt⟩, ⟨0x10, 0x27, .of formatA .vnegInt⟩,
  ⟨0x10, 0x28, .of formatA .vsignInt⟩, ⟨0x10, 0x29, .of formatA .vsqrtInt⟩, ⟨0x10, 0x2A, .of formatA .vrcpInt⟩,
  ⟨0x10, 0x2B, .of formatA .vrsqrtInt⟩, ⟨0x10, 0x2C, .of formatA .vexp2Int⟩, ⟨0x10, 0x2D, .of formatA .vredsumInt⟩,
  ⟨0x10, 0x2E, .of formatA .vredmaxInt⟩, ⟨0x10, 0x2F, .of formatA .vcmpltInt⟩]

/-- The rows of the conversions, the matrix unit and the transforms, of TREQ and of synchronisation. -/
def furtherRows : List AnvilRow := [
  ⟨0x14, 0x00, .of formatA .vcvtTo⟩, ⟨0x14, 0x01, .of formatA .vcvtFrom⟩, ⟨0x14, 0x02, .of formatA .pack⟩,
  ⟨0x14, 0x03, .of formatA .unpack⟩, ⟨0x14, 0x04, .of formatA .sgnv⟩, ⟨0x18, 0x00, .of formatA .mma⟩, ⟨0x18, 0x01, .of formatA .azero⟩,
  ⟨0x1C, 0x00, .of formatA .fwhs⟩, ⟨0x1C, 0x01, .of formatA .fwhf⟩, ⟨0x1C, 0x02, .of formatA .fwhd⟩, ⟨0x20, 0x00, .of formatA .treq⟩,
  ⟨0x24, 0x00, .of formatI .waith⟩, ⟨0x24, 0x01, .of formatI .waitw⟩, ⟨0x24, 0x02, .of formatI .bar⟩, ⟨0x24, 0x03, .of formatI .sete⟩,
  ⟨0x24, 0x04, .of formatI .waite⟩, ⟨0x24, 0x05, .of formatI .sig⟩]

/-- Table — Major opcodes (R220). -/
def anvilRows : List AnvilRow := scalarRows ++ vectorRows ++ furtherRows

/-- The word and the range of each instruction of the form are those of its format, with this MAJ and FN. -/
def WordForm.Encodes (maj fn : Nat) : WordForm → Prop
  | .of f c => ∀ o, anvilWord (c o) = some (f.word o maj fn) ∧ Instr.wf (c o) = f.wf o

theorem encodes_of_row : ∀ r ∈ anvilRows, r.form.Encodes r.maj r.fn := by
  simp only [anvilRows, List.forall_mem_append, scalarRows, vectorRows, furtherRows, List.forall_mem_cons,
    List.not_mem_nil, false_implies, implies_true, and_true]
  and_intros
  all_goals exact fun _ => ⟨rfl, rfl⟩

theorem row_in_range : ∀ r ∈ anvilRows, r.maj < 64 ∧ r.fn < 64 := by
  have h : ∀ c ∈ anvilRows.map (fun r => (r.maj, r.fn)), c.1 < 64 ∧ c.2 < 64 := by decide
  exact fun r hr => h _ (List.mem_map_of_mem hr)

/-- The FN that Table — Major opcodes lists for a MAJ (R220). -/
def listedFns : Nat → List Nat
  | 0x00 => List.range 7
  | 0x01 => List.range 13
  | 0x02 => 0x10 :: List.range 13
  | 0x04 => List.range 8
  | 0x08 => List.range 7
  | 0x0C => List.range 3
  | 0x10 => List.range 0x15 ++ List.range' 0x20 16
  | 0x14 => List.range 5
  | 0x18 => List.range 2
  | 0x1C => List.range 3
  | 0x20 => [0]
  | 0x24 => List.range 6
  | _ => []

/-- The table has a row for each listed FN. -/
theorem row_of_listed {maj fn : Nat} (h : fn ∈ listedFns maj) : ∃ r ∈ anvilRows, r.maj = maj ∧ r.fn = fn := by
  have hc : (maj, fn) ∈ anvilRows.map (fun r => (r.maj, r.fn)) := by
    revert fn
    unfold listedFns
    split
    case h_13 => rintro _ ⟨⟩
    all_goals decide
  obtain ⟨r, hr, he⟩ := List.mem_map.1 hc
  simp only [Prod.mk.injEq] at he
  exact ⟨r, hr, he⟩

theorem anvilInstr_of_row : ∀ r ∈ anvilRows, ∀ a w, bits w 58 6 = r.maj → bits w 52 6 = r.fn →
    anvilInstr a w = some (r.form.decode a w) := by
  simp only [anvilRows, List.forall_mem_append, scalarRows, vectorRows, furtherRows, List.forall_mem_cons,
    List.not_mem_nil, false_implies, implies_true, and_true]
  and_intros
  all_goals
    intro a w hm hf
    rw [anvilInstr, hm, hf]
    rfl

theorem exists_add_of_not_mem_range {n k : Nat} (h : n ∉ List.range k) : ∃ j, n = j + k :=
  Nat.exists_eq_add_of_le' (Nat.not_lt.1 (mt List.mem_range.2 h))

/-- A word whose FN is not listed for its MAJ is no instruction. From the last listed MAJ or FN on, the decoder meets none of its literals. -/
theorem anvilInstr_of_not_listed {a w : Nat} (h : bits w 52 6 ∉ listedFns (bits w 58 6)) : anvilInstr a w = none := by
  unfold anvilInstr
  generalize bits w 52 6 = fn at h ⊢
  generalize bits w 58 6 = maj at h ⊢
  unfold listedFns at h
  split at h
  case h_3 =>
    simp only [List.mem_cons, not_or] at h
    obtain ⟨n, rfl⟩ := exists_add_of_not_mem_range h.2
    obtain ⟨h16, -⟩ := h
    match n with
    | 0 | 1 | 2 => rfl
    | 3 => exact absurd rfl h16
    | n + 4 => rfl
  case h_7 =>
    simp only [List.mem_append, not_or] at h
    obtain ⟨h, h'⟩ := h
    obtain ⟨n, rfl⟩ := exists_add_of_not_mem_range h
    simp only [List.mem_range'_1] at h'
    by_cases hn : n < 27
    · have : n < 11 := by omega
      interval_cases n <;> rfl
    · obtain ⟨n, rfl⟩ := Nat.exists_eq_add_of_le' (Nat.not_lt.1 hn)
      rfl
  case h_11 =>
    obtain ⟨n, rfl⟩ := Nat.exists_eq_add_one_of_ne_zero (mt List.mem_singleton.2 h)
    rfl
  case h_13 =>
    by_cases hm : maj < 37
    · interval_cases maj
      all_goals try contradiction
      all_goals rfl
    · obtain ⟨n, rfl⟩ := Nat.exists_eq_add_of_le' (Nat.not_lt.1 hm)
      rfl
  all_goals
    obtain ⟨n, rfl⟩ := exists_add_of_not_mem_range h
    rfl

theorem anvilInstr_eq_none_iff {a w : Nat} : anvilInstr a w = none ↔ bits w 52 6 ∉ listedFns (bits w 58 6) := by
  refine ⟨fun h hl => ?_, anvilInstr_of_not_listed⟩
  obtain ⟨r, hr, hm, hf⟩ := row_of_listed hl
  cases h.symm.trans (anvilInstr_of_row r hr a w hm.symm hf.symm)

theorem row_of_anvilInstr {a w : Nat} {i : Instr} (h : anvilInstr a w = some i) : ∃ r ∈ anvilRows, r.form.decode a w = i := by
  have hl : bits w 52 6 ∈ listedFns (bits w 58 6) := by
    by_contra hn
    cases h.symm.trans (anvilInstr_of_not_listed hn)
  obtain ⟨r, hr, hm, hf⟩ := row_of_listed hl
  exact ⟨r, hr, Option.some.inj ((anvilInstr_of_row r hr a w hm.symm hf.symm).symm.trans h)⟩

/-! ### Encoding and decoding -/

/-- What a word of a row decodes to has a word, which decodes to the same. -/
theorem exists_word_of_row {r : AnvilRow} (hr : r ∈ anvilRows) (a w : Nat) :
    ∃ v, anvilWord (r.form.decode a w) = some v ∧ v < 2 ^ 64 ∧ anvilInstr a v = some (r.form.decode a w) := by
  obtain ⟨hm, hf⟩ := row_in_range r hr
  have hword := encodes_of_row r hr
  have hdec := anvilInstr_of_row r hr a
  obtain ⟨maj, fn, ⟨f, c⟩⟩ := r
  obtain ⟨hlt, h1, h2, h3⟩ := f.word_fields hm hf a w
  obtain ⟨hv, -⟩ := hword (f.fields a w)
  exact ⟨_, hv, hlt, (hdec _ h1 h2).trans (congrArg (some ∘ c) h3)⟩

/-- An instruction that some word of a row decodes to, on an anvil that there is. -/
def IsDecoded (i : Instr) : Prop := ∃ r ∈ anvilRows, ∃ a w, a < 64 ∧ r.form.decode a w = i

theorem isDecoded_of_row {α : Type} {c : α → Instr} {o : α} (hr : ∃ f : WordFormat α, .of f c ∈ anvilRows.map (·.form))
    (h : Instr.wf (c o) = true) : IsDecoded (c o) := by
  obtain ⟨f, hr⟩ := hr
  obtain ⟨⟨maj, fn, form⟩, hr, rfl⟩ := List.mem_map.1 hr
  obtain ⟨-, hwf⟩ := encodes_of_row _ hr o
  obtain ⟨a, w, ha, ho⟩ := f.exists_fields o (hwf.symm.trans h)
  exact ⟨_, hr, a, w, ha, congrArg c ho⟩

/-- Each constructor that has a word stands in a row. -/
theorem isDecoded_of_anvilWord {i : Instr} {w : Nat} (h : Instr.wf i = true) (hw : anvilWord i = some w) : IsDecoded i := by
  cases i
  all_goals try (cases hw; done)
  all_goals
    refine isDecoded_of_row ?_ h
    repeat constructor

/-- Settles O11: an instruction of the table is what its word decodes to, and a word decodes exactly if the table lists its FN. -/
theorem anvilWordsDecode : Obligations.AnvilWordsDecode := by
  refine ⟨fun i w hi hw => ?encoded, fun a w i h => ?decoded, fun a => rfl, fun a w => anvilInstr_eq_none_iff⟩
  case encoded =>
    obtain ⟨r, hr, a, w', ha, rfl⟩ := isDecoded_of_anvilWord hi hw
    obtain ⟨v, hv, hlt, hd⟩ := exists_word_of_row hr a w'
    obtain rfl : w = v := Option.some.inj (hw.symm.trans hv)
    exact ⟨hlt, a, ha, hd⟩
  case decoded =>
    obtain ⟨r, hr, rfl⟩ := row_of_anvilInstr h
    exact exists_word_of_row hr a w

end Sys2Proof.Proofs

namespace Sys2Proof.Proofs
open Sys2Proof.Machine Sys2Proof.Safety

/-! ### Register instructions -/

section
variable {α β : Type} {anvil : α → Nat} {c : α → Instr}

/-- A command whose meaning is a shared operation that changes only its anvil, changes only its anvil. -/
theorem onlyAnvil_of_next {op : State → α → β → State} {f : α → State → β} (hop : ∀ s o b, OnlyAnvil (anvil o) s (op s o b))
    (h : ∀ o s, exec (c o) s = done (op s o (f o s))) (s t : State) (o : α) (ht : exec (c o) s = .next t) :
    OnlyAnvil (anvil o) s t := by
  obtain rfl : drive (op s o (f o s)) = t := by simpa [done] using (h o s).symm.trans ht
  exact onlyAnvil_drive (hop s o _)

end

theorem instr_drawn_retireV_only (s : State) (o : OpA) (f : AnvilRegs → AnvilRegs) :
    OnlyAnvil o.anvil s (s.instr o.anvil (.ok (s.drawn.retireV o.anvil 1 f))) :=
  State.instr_only _ _ _ (onlyAnvil_trans (State.drawn_only _ _) (State.retireV_only _ _ _ _))

theorem instr_retire_only (s : State) (o : OpI) (f : AnvilRegs → AnvilRegs) :
    OnlyAnvil o.anvil s (s.instr o.anvil (.ok (s.retire o.anvil f))) :=
  State.instr_only _ _ _ (State.retire_only _ _ _)

theorem instr_modRegs_only (s : State) (o : OpB) (f : AnvilRegs → AnvilRegs) :
    OnlyAnvil o.anvil s (s.instr o.anvil (.ok ((s.retire o.anvil id).modRegs o.anvil f))) :=
  State.instr_only _ _ _ (onlyAnvil_trans (State.retire_only _ _ _) (State.modAnvil_only _ _ _))

/-- Settles O51: the meaning of each of these instructions is a shared operation, and each of these changes only its anvil. -/
theorem registerInstructionsStayInTheirAnvil : Obligations.RegisterInstructionsStayInTheirAnvil := by
  open State in
  refine ⟨?formA, ?formI, ?formB⟩
  all_goals simp only [List.forall_mem_cons, List.not_mem_nil, false_implies, implies_true, and_true]
  case formA =>
    refine ⟨onlyAnvil_of_next scalarA_only exec_add, onlyAnvil_of_next scalarA_only exec_sub, onlyAnvil_of_next scalarA_only exec_mul,
      onlyAnvil_of_next scalarA_only exec_and, onlyAnvil_of_next scalarA_only exec_or, onlyAnvil_of_next scalarA_only exec_xor,
      onlyAnvil_of_next shiftA_only exec_shl, onlyAnvil_of_next shiftA_only exec_shr, onlyAnvil_of_next shiftA_only exec_sar,
      onlyAnvil_of_next scalarA_only exec_slt, onlyAnvil_of_next scalarA_only exec_sltu, onlyAnvil_of_next scalarA_only exec_min,
      onlyAnvil_of_next scalarA_only exec_max,
      onlyAnvil_of_next vec2_only exec_vadd, onlyAnvil_of_next vec2_only exec_vsub, onlyAnvil_of_next vec2_only exec_vmul,
      onlyAnvil_of_next vec3_only exec_vfma, onlyAnvil_of_next vec2_only exec_vmin, onlyAnvil_of_next vec2_only exec_vmax,
      onlyAnvil_of_next vec1_only exec_vabs, onlyAnvil_of_next vec1_only exec_vneg, onlyAnvil_of_next vec1_only exec_vsign,
      onlyAnvil_of_next vec1_only exec_vsqrt, onlyAnvil_of_next vec1_only exec_vrcp, onlyAnvil_of_next vec1_only exec_vrsqrt,
      onlyAnvil_of_next vec1_only exec_vexp2, onlyAnvil_of_next reduce_only exec_vredsum, onlyAnvil_of_next reduce_only exec_vredmax,
      onlyAnvil_of_next vector_only exec_vsel, onlyAnvil_of_next vector_only exec_vsplat, onlyAnvil_of_next vector_only exec_vacr,
      onlyAnvil_of_next vec2_only exec_vaddInt, onlyAnvil_of_next vec2_only exec_vsubInt, onlyAnvil_of_next vec2_only exec_vmulInt,
      onlyAnvil_of_next vec3_only exec_vfmaInt, onlyAnvil_of_next vec2_only exec_vminInt, onlyAnvil_of_next vec2_only exec_vmaxInt,
      onlyAnvil_of_next vec1_only exec_vabsInt, onlyAnvil_of_next vec1_only exec_vnegInt, onlyAnvil_of_next vec1_only exec_vsignInt,
      onlyAnvil_of_next vec1_only exec_vsqrtInt, onlyAnvil_of_next vec1_only exec_vrcpInt, onlyAnvil_of_next vec1_only exec_vrsqrtInt,
      onlyAnvil_of_next vec1_only exec_vexp2Int, onlyAnvil_of_next reduce_only exec_vredsumInt,
      onlyAnvil_of_next reduce_only exec_vredmaxInt, onlyAnvil_of_next compare_only exec_vcmplt,
      onlyAnvil_of_next instr_drawn_retireV_only exec_vlane, onlyAnvil_of_next instr_drawn_retireV_only exec_vacw,
      onlyAnvil_of_next compare_only exec_vcmpltInt⟩
  case formI =>
    refine ⟨onlyAnvil_of_next scalarI_only exec_addImmediate, onlyAnvil_of_next scalarI_only exec_subImmediate,
      onlyAnvil_of_next scalarI_only exec_mulImmediate, onlyAnvil_of_next scalarI_only exec_andImmediate,
      onlyAnvil_of_next scalarI_only exec_orImmediate, onlyAnvil_of_next scalarI_only exec_xorImmediate,
      onlyAnvil_of_next shiftI_only exec_shlImmediate, onlyAnvil_of_next shiftI_only exec_shrImmediate,
      onlyAnvil_of_next shiftI_only exec_sarImmediate, onlyAnvil_of_next scalarI_only exec_sltImmediate,
      onlyAnvil_of_next scalarI_only exec_sltuImmediate, onlyAnvil_of_next scalarI_only exec_minImmediate,
      onlyAnvil_of_next scalarI_only exec_maxImmediate, onlyAnvil_of_next instr_retire_only exec_lui⟩
  case formB =>
    exact ⟨onlyAnvil_of_next branch_only exec_beq, onlyAnvil_of_next branch_only exec_bne, onlyAnvil_of_next branch_only exec_blt,
      onlyAnvil_of_next branch_only exec_bge, onlyAnvil_of_next branch_only exec_bltu, onlyAnvil_of_next branch_only exec_bgeu,
      onlyAnvil_of_next instr_modRegs_only exec_jal, onlyAnvil_of_next instr_modRegs_only exec_jr⟩

/-! ### Scalar instructions -/

section
variable {c : Instr} {s : State} {x : OpA} {y : OpI} {z : OpB} {f : Word → Nat → Word} {p : Word → Word → Bool} {q : Prop} [Decidable q]

/-- A shift draws its free value before it issues, which a draw does not change. -/
theorem gives_shiftA (h : exec c s = done (s.shiftA x f)) (hi : s.issues x.anvil = true) :
    Gives c s (s.drawn.retire x.anvil (fun r => r.ws x.d (shiftBy s.free f (r.rs x.a) (r.rs x.b)))) :=
  h.trans (congrArg done (State.instr_ok s.drawn _ x.anvil hi))

theorem gives_shiftI (h : exec c s = done (s.shiftI y f)) (hi : s.issues y.anvil = true) :
    Gives c s (s.drawn.retire y.anvil (fun r => r.ws y.d (shiftBy s.free f (r.rs y.a) (immS y.imm)))) :=
  h.trans (congrArg done (State.instr_ok s.drawn _ y.anvil hi))

/-- A branch whose comparison of s_A and s_B says whether `q` holds. -/
theorem gives_branch (h : exec c s = done (s.branch z p)) (hi : s.issues z.anvil = true)
    (hp : p ((s.anvil z.anvil).regs.rs z.a) ((s.anvil z.anvil).regs.rs z.b) = true ↔ q) :
    Gives c s ((s.retire z.anvil id).modRegs z.anvil (fun _ =>
      { (s.anvil z.anvil).regs with
        pc := if q then pcAt (s.anvil z.anvil).regs.pc z.imm else ((s.anvil z.anvil).regs.pc + 1) % 8192 })) := by
  refine gives_of_instr_ok h hi ?_
  simp only [hp]

end

/-- Settles O10. That a shift by 64 or more leaves a free value is the model's choice (log entry 20). -/
theorem scalarFormsTakeEffect : Obligations.ScalarFormsTakeEffect :=
  ⟨fun s o hi => gives_of_instr_ok (exec_add o s) hi rfl, fun s o hi => gives_of_instr_ok (exec_sub o s) hi rfl,
    fun s o hi => gives_of_instr_ok (exec_mul o s) hi rfl, fun s o hi => gives_of_instr_ok (exec_and o s) hi rfl,
    fun s o hi => gives_of_instr_ok (exec_or o s) hi rfl, fun s o hi => gives_of_instr_ok (exec_xor o s) hi rfl,
    fun s o hi => gives_of_instr_ok (exec_slt o s) hi rfl, fun s o hi => gives_of_instr_ok (exec_sltu o s) hi rfl,
    fun s o hi => gives_of_instr_ok (exec_min o s) hi rfl, fun s o hi => gives_of_instr_ok (exec_max o s) hi rfl,
    fun s o hi => gives_shiftA (exec_shl o s) hi, fun s o hi => gives_shiftA (exec_shr o s) hi, fun s o hi => gives_shiftA (exec_sar o s) hi,
    fun s o hi => gives_of_instr_ok (exec_addImmediate o s) hi rfl, fun s o hi => gives_of_instr_ok (exec_subImmediate o s) hi rfl,
    fun s o hi => gives_of_instr_ok (exec_mulImmediate o s) hi rfl, fun s o hi => gives_of_instr_ok (exec_andImmediate o s) hi rfl,
    fun s o hi => gives_of_instr_ok (exec_orImmediate o s) hi rfl, fun s o hi => gives_of_instr_ok (exec_xorImmediate o s) hi rfl,
    fun s o hi => gives_of_instr_ok (exec_sltImmediate o s) hi rfl, fun s o hi => gives_of_instr_ok (exec_sltuImmediate o s) hi rfl,
    fun s o hi => gives_of_instr_ok (exec_minImmediate o s) hi rfl, fun s o hi => gives_of_instr_ok (exec_maxImmediate o s) hi rfl,
    fun s o hi => gives_shiftI (exec_shlImmediate o s) hi, fun s o hi => gives_shiftI (exec_shrImmediate o s) hi,
    fun s o hi => gives_shiftI (exec_sarImmediate o s) hi⟩

/-- Settles O12. That the offset of a branch counts from the branch itself is the model's choice (log entry 31). -/
theorem controlFlowTakesEffect : Obligations.ControlFlowTakesEffect :=
  ⟨fun s o hi => gives_branch (exec_beq o s) hi beq_iff_eq, fun s o hi => gives_branch (exec_bne o s) hi bne_iff_ne,
    fun s o hi => gives_branch (exec_blt o s) hi Iff.rfl, fun s o hi => gives_branch (exec_bge o s) hi (Iff.of_eq (Bool.not_eq_true' _)),
    fun s o hi => gives_branch (exec_bltu o s) hi Iff.rfl, fun s o hi => gives_branch (exec_bgeu o s) hi (Iff.of_eq (Bool.not_eq_true' _)),
    fun s o hi => gives_of_instr_ok (exec_jal o s) hi rfl, fun s o hi => gives_of_instr_ok (exec_jr o s) hi rfl,
    fun s o hi => gives_of_instr_ok (exec_lui o s) hi rfl⟩

/-! ### Vector instructions -/

/-- A vector instruction that issues completes, and acts lane by lane. -/
theorem completes_vector {c : Instr} {s : State} {o : OpA} {g : Nat → AnvilRegs → Nat → Half × Nat} (h : exec c s = done (s.vector o g))
    (hi : s.issues o.anvil = true) : Completes c s (fun t => LaneWise s t o g) :=
  ⟨_, h, State.vector_laneWise s o g hi⟩

/-- Settles O16. -/
theorem floatVectorsActLaneByLane : Obligations.FloatVectorsActLaneByLane := by
  refine ⟨?binary, fun s o => completes_vector (exec_vfma o s), ?unary, fun s o => completes_vector (exec_vsel o s),
    fun s o => completes_vector (exec_vsplat o s), fun s o => completes_vector (exec_vacr o s),
    fun s o => completes_vector (exec_vredsum o s), fun s o => completes_vector (exec_vredmax o s)⟩
  all_goals simp only [List.forall_mem_cons, List.not_mem_nil, false_implies, implies_true, and_true]
  case binary =>
    exact ⟨fun s o => completes_vector (exec_vadd o s), fun s o => completes_vector (exec_vsub o s),
      fun s o => completes_vector (exec_vmul o s), fun s o => completes_vector (exec_vmin o s),
      fun s o => completes_vector (exec_vmax o s)⟩
  case unary =>
    exact ⟨fun s o => completes_vector (exec_vabs o s), fun s o => completes_vector (exec_vneg o s),
      fun s o => completes_vector (exec_vsign o s), fun s o => completes_vector (exec_vsqrt o s),
      fun s o => completes_vector (exec_vrcp o s), fun s o => completes_vector (exec_vrsqrt o s),
      fun s o => completes_vector (exec_vexp2 o s)⟩

/-- Settles O17. That the absolute value of -2^31 and the roots, reciprocals and powers that are no integer are free values is the model's
choice (log entries 20 and 21). -/
theorem integerVectorsActLaneByLane : Obligations.IntegerVectorsActLaneByLane := by
  refine ⟨?binary, fun s o => completes_vector (exec_vfmaInt o s), ?unary, fun s o => completes_vector (exec_vredsumInt o s),
    fun s o => completes_vector (exec_vredmaxInt o s)⟩
  all_goals simp only [List.forall_mem_cons, List.not_mem_nil, false_implies, implies_true, and_true]
  case binary =>
    exact ⟨fun s o => completes_vector (exec_vaddInt o s), fun s o => completes_vector (exec_vsubInt o s),
      fun s o => completes_vector (exec_vmulInt o s), fun s o => completes_vector (exec_vminInt o s),
      fun s o => completes_vector (exec_vmaxInt o s)⟩
  case unary =>
    exact ⟨fun s o => completes_vector (exec_vabsInt o s), fun s o => completes_vector (exec_vnegInt o s),
      fun s o => completes_vector (exec_vsignInt o s), fun s o => completes_vector (exec_vsqrtInt o s),
      fun s o => completes_vector (exec_vrcpInt o s), fun s o => completes_vector (exec_vrsqrtInt o s),
      fun s o => completes_vector (exec_vexp2Int o s)⟩

/-! ### Comparisons, lanes and accumulators -/

theorem wm_pc (r : AnvilRegs) (i : Nat) (v : Word) : (r.wm i v).pc = r.pc := by
  unfold AnvilRegs.wm
  split <;> rfl

/-- A bit of a mask register after a write of it; m0 reads all ones. -/
theorem getLsbD_rm_wm (r : AnvilRegs) (i : Nat) (v : Word) {j : Nat} (hj : j < 64) :
    ((r.wm i v).rm i).getLsbD j = if i % 8 = 0 then true else v.getLsbD j := by
  by_cases h0 : i % 8 = 0
  · rw [AnvilRegs.rm, if_pos h0, if_pos h0, BitVec.getLsbD_allOnes, decide_eq_true hj]
  · rw [AnvilRegs.rm_wm, if_pos ⟨rfl, h0⟩, if_neg h0]

/-- A place of the table that a row of an accumulator tile is written into lane by lane. -/
theorem tget_foldl_accIndex (p : Nat → Bool) (v : Nat → Half) (t : Tab Half) (d row : Nat) {i : Nat} (hi : i < 64) :
    tget 0 ((List.range 64).foldl (fun u k => if p k then tset 0 u (accIndex d row k) (v k) else u) t) (accIndex d row i) =
      if p i then v i else tget 0 t (accIndex d row i) := by
  rw [tget_foldl_tset]
  cases hf : (List.range 64).reverse.find? (fun k => p k && accIndex d row k == accIndex d row i) with
  | none =>
    have hp : ¬ p i = true := by simpa using List.find?_eq_none.1 hf i (by simpa using hi)
    rw [if_neg hp]
  | some k =>
    obtain ⟨hp, he⟩ : p k = true ∧ accIndex d row k = accIndex d row i := by simpa using List.find?_some hf
    obtain rfl : k = i := Nat.add_left_cancel he
    rw [if_pos hp]

section
variable {s : State} {o : OpA} {r : AnvilRegs}

/-- What a comparison leaves in each bit of its mask register. -/
theorem completes_compare {c : Instr} {f : Half → Half → Bool} (h : exec c s = done (s.compare o f)) (hi : s.issues o.anvil = true)
    (hr : (s.anvil o.anvil).regs = r) {j : Nat} (hj : j < 64) :
    Completes c s (fun t => OnlyAnvil o.anvil s t ∧ (t.anvil o.anvil).regs.pc = (r.pc + 1) % 8192 ∧
      ((t.anvil o.anvil).regs.rm o.d).getLsbD j = if o.d % 8 = 0 then true else if (r.rm o.msk).getLsbD j then
        f (lane (r.rv o.a) j) (lane (r.rv o.b) j) else (r.rm o.d).getLsbD j) := by
  subst hr
  refine ⟨_, h, onlyAnvil_drive (State.compare_only s o f), ?_⟩
  rw [drive_anvil, State.compare, State.instr_ok _ _ _ hi, State.retireV_regs]
  refine ⟨congrArg (fun n => (n + 1) % 8192) (wm_pc _ _ _), (getLsbD_rm_wm _ o.d _ hj).trans ?_⟩
  rw [maskOf_bit _ j hj]
  simp [hj]

theorem gives_vlane (hi : s.issues o.anvil = true) (hb : ((s.anvil o.anvil).regs.rs o.b).toNat < 64) :
    Gives (.vlane o) s (s.drawn.retireV o.anvil 1 (fun r => r.ws o.d ((lane (r.rv o.a) (r.rs o.b).toNat).zeroExtend 64))) := by
  refine gives_of_instr_ok (exec_vlane o s) hi (congrArg _ (State.retireV_congr _ _ _ _ _ ?_))
  rw [State.drawn_anvil, pickRow, if_pos hb]

/-- What a write of a row of an accumulator tile leaves in each lane of the row. -/
theorem completes_vacw (hi : s.issues o.anvil = true) (hr : (s.anvil o.anvil).regs = r) (hb : (r.rs o.b).toNat < 16) {i : Nat} (h : i < 64) :
    Completes (.vacw o) s (fun t => OnlyAnvil o.anvil s t ∧ (t.anvil o.anvil).regs.racc o.d (r.rs o.b).toNat i =
      if (r.rm o.msk).getLsbD i then lane (r.rv o.a) i else r.racc o.d (r.rs o.b).toNat i) := by
  subst hr
  refine ⟨_, exec_vacw o s, onlyAnvil_drive (instr_drawn_retireV_only s o _), ?_⟩
  rw [drive_anvil, State.instr_ok _ _ _ hi, State.retireV_regs, State.drawn_anvil, pickRow, if_pos hb]
  exact tget_foldl_accIndex _ _ _ _ _ h

end

/-- Settles O18. That a lane or a row beyond its range is a free one is the model's choice (log entry 20). -/
theorem vectorComparesAndMovesTakeEffect : Obligations.VectorComparesAndMovesTakeEffect :=
  ⟨fun s o _ hi hj => completes_compare (exec_vcmplt o s) hi rfl hj, fun s o _ hi hj => completes_compare (exec_vcmpltInt o s) hi rfl hj,
    fun _ _ => gives_vlane, fun _ _ _ hi hb h => completes_vacw hi rfl hb h⟩

end Sys2Proof.Proofs

namespace Sys2Proof.Proofs
open Sys2Proof.Machine Sys2Proof.Safety

/-! ### Waits and the switch of an anvil -/

/-- A change of an anvil depends only on what it makes of that anvil. -/
theorem modAnvil_congr {s : State} {a : Nat} {f g : Anvil → Anvil} (h : f (s.anvil a) = g (s.anvil a)) : s.modAnvil a f = s.modAnvil a g :=
  congrArg (fun t => ({ s with anvils := { s.anvils with anvils := t } } : State)) (tmod_congr h)

section
variable {s : State} {a : Nat}

theorem gives_mwaitRelease {n : Nat} (hw : (s.anvil a).wait = .mwait n) (hn : (s.anvil a).xfers.length ≤ n) :
    Gives (.mwaitRelease a) s (s.modAnvil a (fun v => { v with wait := .none })) :=
  congrArg done (modAnvil_congr (by simp only [hw, if_pos hn]))

theorem gives_waithRelease {h : Nat} (hw : (s.anvil a).wait = .heat h) (hh : heatReached s.heat.count h = true) :
    Gives (.waithRelease a) s (s.modAnvil a (fun v => { v with wait := .none })) :=
  congrArg done (modAnvil_congr (by simp only [hw, if_pos hh]))

theorem gives_waitwRelease {d : Nat} (hw : (s.anvil a).wait = .waitw d) (hm : (s.anvil a).mode = .runner)
    (he : (s.anvil a).enabled = true) (hc : s.coolantStop = false) : Gives (.waitwRelease a) s (s.takeWindow a d) := by
  simp [Gives, execWaitwRelease, done, hw, hm, he, hc]

theorem gives_barRelease {p b : Nat} (h : s.barDue p b = true) : Gives (.barRelease p b) s (s.barReleased p b) :=
  gives_of_if (exec_barRelease p b s) h

/-- The lowest anvil that tests a set flag clears it and goes on (R232). -/
theorem gives_waiteRelease {f p : Nat} (hp : (s.anvil a).holder = p) (hw : (s.anvil a).wait = .flag f) (hf : s.flag p f = true)
    (ht : s.testsFlag p f a = true) (hl : ∀ b, b < a → s.testsFlag p f b = false) :
    Gives (.waiteRelease a) s ((s.setFlag p f false).modAnvil a (fun v => { v with wait := .none })) := by
  have hall : (List.range a).all (fun b => !s.testsFlag p f b) = true := by simpa using hl
  subst hp
  simp only [Gives, exec_waiteRelease, execWaiteRelease, hw, hf, ht, hall, Bool.and_self, if_true, done]

theorem gives_contextSaveComplete (hm : (s.anvil a).mode = .saving) (hx : (s.anvil a).xfers = []) :
    Gives (.contextSaveComplete a) s (s.contextSaved a) :=
  gives_of_if_not (exec_contextSaveComplete a s) (by simp [hm, hx])

theorem gives_anvilZeroingComplete (hm : (s.anvil a).mode = .zeroing) (hh : (s.anvil a).halted = false) (hx : (s.anvil a).xfers = []) :
    Gives (.anvilZeroingComplete a) s (s.modAnvil a (fun y => { y with
      sram := [], regs := AnvilRegs.reset, imem := [], wait := .none, lastWindow := none, holder := 0, mode := .held })) :=
  gives_of_if_not (exec_anvilZeroingComplete a s) (by simp [hm, hh, hx])

/-- A restore reads what the next work needs, and loads it once that is there (R237, R241). -/
theorem exec_contextRestoreComplete_restoring (hm : (s.anvil a).mode = .restoring) :
    exec (.contextRestoreComplete a) s = done (
      if (s.restoreReads a).all (fun q => s.readReady (s.anvil a).holder q.1 q.2) = false then
        (s.restoreReads a).foldl (fun b q => b.fetchRead 2 (s.anvil a).holder q.1 q.2) s
      else s.contextRestored a) := by
  simp only [exec_contextRestoreComplete, execContextRestoreComplete, hm, ne_eq, not_true_eq_false, if_false, Bool.not_eq_true']

end

/-- Settles O9. -/
theorem anvilEventsTakeEffect : Obligations.AnvilEventsTakeEffect :=
  ⟨fun _ _ _ => gives_mwaitRelease, fun _ _ _ => gives_waithRelease, fun _ _ _ => gives_waitwRelease, fun _ _ _ => gives_barRelease,
    fun _ _ _ => gives_waiteRelease rfl, fun _ _ => gives_contextSaveComplete, fun _ _ => gives_anvilZeroingComplete,
    fun _ _ hm hr => gives_of_if_not (exec_contextRestoreComplete_restoring hm) (by simp [hr]),
    fun _ _ hm => gives_of_if (exec_contextRestoreComplete_restoring hm)⟩

/-! ### System instructions -/

theorem sramOk_of_le {a n : Nat} (h : a + n ≤ 2 ^ 21) : sramOk a n = true := decide_eq_true h

section
variable {s : State} {o : OpI}

theorem gives_srd {x : Word} (hi : s.issues o.anvil = true) (hx : s.special o.anvil (o.imm.toNat % 256) = some x)
    (h2 : o.imm.toNat % 256 ≠ 2) : Gives (.srd o) s (s.retire o.anvil (fun r => r.ws o.d x)) :=
  gives_of_instr_ok (exec_srd o s) hi (by simp only [hx, if_neg h2])

/-- A read of CYCLE is remembered, so that the heat does not read it smaller again. -/
theorem gives_srd_cycle (hi : s.issues o.anvil = true) (h2 : o.imm.toNat % 256 = 2) :
    Gives (.srd o) s ((s.drawn.modHeat (fun h => { h with cycle := s.cycleNow })).retire o.anvil
      (fun r => r.ws o.d (BitVec.ofNat 64 s.cycleNow))) :=
  gives_of_instr_ok (exec_srd o s) hi (by simp only [h2, State.special, if_true])

theorem gives_srd_illegal (hi : s.issues o.anvil = true) (hx : s.special o.anvil (o.imm.toNat % 256) = none) :
    Gives (.srd o) s (s.anvilFault o.anvil (s.anvil o.anvil).regs.pc (illegal (o.word 0x00 0x03))) :=
  gives_of_instr_error (exec_srd o s) hi (by simp only [hx])

theorem gives_swr {t : AnvilRegs} (hi : s.issues o.anvil = true)
    (ht : (s.anvil o.anvil).regs.writeSpecial (o.imm.toNat % 256) ((s.anvil o.anvil).regs.rs o.a) = some t) :
    Gives (.swr o) s (s.retire o.anvil (fun _ => t)) :=
  gives_of_instr_ok (exec_swr o s) hi (by simp only [ht])

theorem gives_swr_illegal (hi : s.issues o.anvil = true)
    (ht : (s.anvil o.anvil).regs.writeSpecial (o.imm.toNat % 256) ((s.anvil o.anvil).regs.rs o.a) = none) :
    Gives (.swr o) s (s.anvilFault o.anvil (s.anvil o.anvil).regs.pc (illegal (o.word 0x00 0x04))) :=
  gives_of_instr_error (exec_swr o s) hi (by simp only [ht])

theorem gives_live {base len : Nat} (hb : ((s.anvil o.anvil).regs.rs o.a).toNat = base) (hn : o.imm.toNat = len)
    (hi : s.issues o.anvil = true) (hl : len ≤ s.liveMax o.anvil) (ha : len % 4096 = 0) (hc : base % 4096 = 0) (hs : base + len ≤ 2 ^ 21) :
    Gives (.live o) s (s.retire o.anvil (fun y => { y with liveBase := base, liveLen := len })) := by
  subst hb hn
  exact gives_of_instr_ok (exec_live o s) hi (by simp [Nat.not_lt.2 hl, ha, hc, sramOk_of_le hs])

theorem gives_halt {i : Instance} (hi : s.issues o.anvil = true) (hm : (s.anvil o.anvil).mode = .program)
    (hn : s.inst o.anvil (s.anvil o.anvil).holder = some i) :
    Gives (.halt o) s (((s.retire o.anvil id).modAnvil o.anvil (fun y => { y with mode := .idle })).setInst o.anvil (s.anvil o.anvil).holder none) :=
  gives_of_instr_ok (exec_halt o s) hi (by simp only [hn, if_pos hm])

theorem gives_waitw (hi : s.issues o.anvil = true) (hm : (s.anvil o.anvil).mode = .runner) (h1 : 1 ≤ o.d) (h28 : o.d ≤ 28) :
    Gives (.waitw o) s ((s.retire o.anvil id).takeWindow o.anvil o.d) := by
  have hd : o.d % 32 = o.d := Nat.mod_eq_of_lt (by omega)
  exact gives_of_instr_ok (exec_waitw o s) hi (by simp [hm, hd, Nat.ne_of_gt h1, h28])

/-- WAITE goes on where its flag is set, and waits otherwise. -/
theorem exec_waite_issues (hi : s.issues o.anvil = true) :
    exec (.waite o) s = done (if s.flag (s.anvil o.anvil).holder (o.imm.toNat % 64) = true then
        (s.retire o.anvil id).setFlag (s.anvil o.anvil).holder (o.imm.toNat % 64) false
      else (s.retire o.anvil id).modAnvil o.anvil (fun v => { v with wait := .flag (o.imm.toNat % 64) })) :=
  (exec_waite o s).trans (congrArg done (State.instr_ok s _ _ hi))

end

/-- Settles O13. That an unlisted special register is ILLEGAL is the model's choice (log entry 31), and so are how BAR, HALT and PHASE
meet what the rules leave open (log entry 33) and the value of CYCLE (log entry 20). -/
theorem systemInstructionsTakeEffect : Obligations.SystemInstructionsTakeEffect :=
  ⟨fun s o hi => gives_of_instr_error (exec_fault o s) hi rfl, fun s o hi => gives_of_instr_ok (exec_yield o s) hi rfl,
    fun s o hi => gives_of_instr_ok (exec_phase o s) hi rfl, fun _ _ _ => gives_srd, fun _ _ => gives_srd_cycle,
    fun _ _ => gives_srd_illegal, fun _ _ _ => gives_swr, fun _ _ => gives_swr_illegal, fun _ _ => gives_live rfl rfl,
    fun _ _ _ => gives_halt, fun s o hi => gives_of_instr_ok (exec_waith o s) hi rfl, fun _ _ => gives_waitw,
    fun s o hi => gives_of_instr_ok (exec_bar o s) hi rfl, fun s o hi => gives_of_instr_ok (exec_sete o s) hi rfl,
    fun _ _ hi => gives_of_if (exec_waite_issues hi), fun _ _ hi hf => gives_of_if_not (exec_waite_issues hi) (Bool.eq_false_iff.1 hf),
    fun s o hi => gives_of_instr_ok (exec_sig o s) hi rfl,
    fun s a w hr hi => gives_of_instr_error ((exec_reservedInstruction a w s).trans (congrArg done (if_pos hr))) hi rfl⟩

/-! ### Tile memory -/

section
variable {c : Instr} {s : State} {o : OpM} {a word : Nat} {x : TileXfer}

/-- A transfer within its limits and tile SRAM joins the outstanding ones, while fewer than 64 are (R218, R228). -/
theorem gives_of_tile {flat : Bool} (h : exec c s = done (s.tile a word x flat)) (hi : s.issues a = true) (hn : (s.anvil a).xfers.length < 64)
    (hl : x.inLimits flat = true) (hs : sramOk x.sram (x.rows * x.len) = true) :
    Gives c s ((s.retire a id).modAnvil a (fun v => { v with xfers := v.xfers ++ [x] })) :=
  gives_of_instr_ok (h.trans (congrArg done (if_neg (by simp [hn])))) hi (by simp [hl, hs])

/-- An access of the scalar core to tile SRAM, of `n` bytes within it, goes on. -/
theorem gives_of_sram {e : AFault} {t : State} {n : Nat} (h : exec c s = done (s.instr a (if !sramOk word n then .error e else .ok t)))
    (hi : s.issues a = true) (hs : word + n ≤ 2 ^ 21) : Gives c s t :=
  gives_of_instr_ok h hi (by simp [sramOk_of_le hs])

/-- An access of the vector unit of 256 bytes is aligned too (R216). -/
theorem gives_of_sram_aligned {e e' : AFault} {t : State}
    (h : exec c s = done (s.instr a (if !sramOk word 256 then .error e else if word % 256 ≠ 0 then .error e' else .ok t)))
    (hi : s.issues a = true) (hs : word + 256 ≤ 2 ^ 21) (ha : word % 256 = 0) : Gives c s t :=
  gives_of_instr_ok h hi (by simp [sramOk_of_le hs, ha])

theorem gives_tileTransferComplete {i : Nat} {found : List Finding} (hx : (s.anvil a).xfers[i]? = some x)
    (hr : s.allReady (x.accesses (s.anvil a).holder) = true) :
    Gives (.tileTransferComplete a i found) s
      (((s.foundAll found).modAnvil a (fun y => { y with xfers := y.xfers.eraseIdx i })).tileMoves a (s.anvil a).holder x) := by
  simp only [Gives, exec_tileTransferComplete, execTileTransferComplete, hx, hr, Bool.not_true, Bool.false_eq_true, if_false, done]

end

/-- Settles O14. -/
theorem tileMemoryTakesEffect : Obligations.TileMemoryTakesEffect :=
  ⟨fun s o => gives_of_tile (exec_tld o s), fun s o => gives_of_tile (exec_tst o s), fun s o => gives_of_tile (exec_tld2 o s),
    fun s o => gives_of_tile (exec_tst2 o s), fun s o => gives_of_sram (exec_lds o s), fun s o => gives_of_sram (exec_sts o s),
    fun s o => gives_of_sram_aligned (exec_vld o s), fun s o => gives_of_sram_aligned (exec_vst o s), fun s o => gives_of_sram (exec_vbc o s),
    fun s o hi => gives_of_instr_ok (exec_mwait o s) hi rfl, fun _ _ _ _ _ => gives_tileTransferComplete⟩

end Sys2Proof.Proofs

namespace Sys2Proof.Proofs
open Sys2Proof.Machine Sys2Proof.Safety

/-! ### Tongs events -/

section
variable {s : State} {c : Nat} {d : Desc}

theorem gives_waitMet (hd : (s.ctx c).started.find? Desc.waiting = some d) (hm : s.waitMet c d.eff = true) (hf : (s.ctx c).state ≠ .faulted) :
    Gives (.waitMet c) s (s.waitEnds c d) := by
  simp only [Gives, exec_waitMet, execWaitMet, hd, hm, hf, Bool.not_true, decide_false, Bool.or_self, Bool.false_eq_true, if_false, done]

theorem gives_translationWalkComplete {tva : Nat} {w : Walk}
    (hw : s.tongs.walks.find? (fun w => w.ctx == c && w.tva / 65536 == tva / 65536) = some w) :
    Gives (.translationWalkComplete c tva) s (s.walkDone w) := by
  simp only [Gives, exec_translationWalkComplete, execTranslationWalkComplete, hw, done]

theorem gives_strokeCommit {idx n : Nat} {k : Stroke} {found : List Finding}
    (hd : (s.ctx c).started.find? (fun d => d.idx == idx && d.push.isNone) = some d) (hk : d.inFlight.find? (fun k => k.index == n) = some k)
    (hp : dType d.eff ≠ tPush) (hh : d.strokeHeld n = false) (hr : s.allReady (k.accesses (s.ctx c).part) = true) :
    Gives (.strokeCommit c idx n found) s ((s.foundAll found).strokeCommits c d k) := by
  simp only [Gives, exec_strokeCommit, execStrokeCommit, hd, hk, hp, hh, hr, Bool.not_true, decide_false, Bool.or_self,
    Bool.false_eq_true, if_false, done]

/-- A WR_CMP that waits in no loop of this chip answers the PUSH whose train it names (R260, R357). -/
theorem gives_wrCmp_push {port : Nat} {t : Train} {q : Nat × Desc × Stroke} (ht : t.typ = 0x7) (ho : le t.head 0 1 = 0x82)
    (hl : t ∉ s.routing.loop) (hd : t.dst = s.endpoint 34) (hp : s.pushOf t.tag = some q) :
    Gives (.wrCmp port t) s ((s.takeTrain port t).pushAnswered t) := by
  simp [Gives, execWrCmp, done, ht, ho, hl, hd, hp]

theorem gives_wrCmp_mirror {port : Nat} {t : Train} (ht : t.typ = 0x7) (ho : le t.head 0 1 = 0x82) (hl : t ∉ s.routing.loop)
    (hd : t.dst ≠ s.endpoint 34) (hp : port = 22 ∨ port = 23) (hw : (s.egress port).twin = true) :
    Gives (.wrCmp port t) s ((s.takeTrain port t).mirrorAnswered t.tag) := by
  simp [Gives, execWrCmp, done, ht, ho, hl, hd, hp, hw]

theorem gives_pushTimeout {idx : Nat}
    (hd : (s.ctx c).started.find? (fun d => d.idx == idx && d.inFlight.any (fun k => k.age.any (fun a => decide (64 ≤ a)))) = some d)
    (hp : dType d.eff = tPush) :
    Gives (.pushTimeout c idx) s ((s.modDesc c d.serial (fun y => { y with
      inFlight := y.inFlight.filter (fun k => !k.age.any (fun a => decide (64 ≤ a)))
      status := y.status.orElse (fun _ => some stTimeout) })).pump c) := by
  simp only [Gives, exec_pushTimeout, execPushTimeout, hd, hp, ne_eq, not_true_eq_false, if_false, done]

theorem gives_contextResetComplete (hs : (s.ctx c).state ≠ .free) (hr : (s.ctx c).resetting = true)
    (hp : (s.part (s.ctx c).part).state = .active) (hd : ∀ d ∈ (s.ctx c).started, d.inFlight = []) :
    Gives (.contextResetComplete c) s (s.endReset c).resolve :=
  gives_of_if_not (exec_contextResetComplete c s) (by simpa [hs, hr, hp] using hd)

end

/-! ### TREQ

A TREQ of a program that holds the context, from within tile SRAM, answers or posts as the state of the context has it (R228). -/

section
variable {s : State} {o : OpA} {c : Nat} {x : Ctx}

theorem exec_treq_issues (hc : s.treqCtx o = c) (hx : s.ctx c = x) (hi : s.issues o.anvil = true)
    (hh : s.holdsCtx (s.anvil o.anvil).holder c = true) (hs : ((s.anvil o.anvil).regs.rs o.a).toNat + 64 ≤ 2 ^ 21)
    (hr : x.state = .free ∨ s.allReady [s.treqAccess o] = true) :
    exec (.treq o) s = done (
      if x.state = .free ∨ x.resetting = true then s.treqAnswers o stInvalid
      else if x.entries < (x.subTail + 1 + 2 ^ 32 - x.subHead) % 2 ^ 32 then s.treqAnswers o stBusy
      else s.treqPosts o) := by
  subst hc hx
  have hw : ¬ (s.issues o.anvil && s.holdsCtx (s.anvil o.anvil).holder (s.treqCtx o) && decide ((s.ctx (s.treqCtx o)).state ≠ .free) &&
      !s.allReady [s.treqAccess o]) = true := by
    obtain hr | hr := hr <;> simp [hr]
  refine (exec_treq o s).trans (congrArg done ((if_neg hw).trans ?_))
  simp only [sramOk_of_le hs, hh, State.instr, hi, Bool.not_true, Bool.false_eq_true, if_false, Bool.or_eq_true, decide_eq_true_eq]
  split_ifs <;> rfl

end

/-- Settles O20. -/
theorem tongsEventsTakeEffect : Obligations.TongsEventsTakeEffect := by
  refine ⟨fun _ _ _ => gives_waitMet, fun _ _ _ _ => gives_translationWalkComplete, fun _ _ _ _ _ _ _ => gives_strokeCommit,
    fun _ _ _ _ _ _ => gives_wrCmp_push, fun _ _ _ => gives_wrCmp_mirror, fun _ _ _ _ => gives_pushTimeout,
    fun _ _ => gives_contextResetComplete,
    fun s asid => ⟨fun h => gives_of_if (exec_invalidationFenceComplete asid s) (by simpa using h),
      fun h => gives_of_if_not (exec_invalidationFenceComplete asid s) (by simpa using h)⟩,
    fun s o hi hh hs hf hr ha he => ?posts, fun s o hi hh hs hf => ?invalid, fun s o hi hh hs hf hr ha he => ?busy⟩
  case posts =>
    rw [Gives, exec_treq_issues rfl rfl hi hh hs (.inr ha), if_neg (by simp [hf, hr]), if_neg (Nat.not_lt.2 he), done]
  case invalid =>
    exact gives_of_if (exec_treq_issues rfl rfl hi hh hs (hf.imp_right And.right)) (hf.imp_right And.left)
  case busy =>
    rw [Gives, exec_treq_issues rfl rfl hi hh hs (.inr ha), if_neg (by simp [hf, hr]), if_pos he, done]

end Sys2Proof.Proofs

namespace Sys2Proof.Proofs
open Sys2Proof.Machine Sys2Proof.Safety

/-! ### Program and tongs commands -/

/-- Settles O41: each row serves its command with its own rules and then stages its change, starts or answers. The order of the refusals,
the first broken rule ahead of the BUSY of a conflict, is the model's choice (log entry 26), and so are the statuses where a command's
text names none (log entry 27). -/
theorem programAndTongsCommandsServe : Obligations.ProgramAndTongsCommandsServe :=
  ⟨Laws.stages_of fun _ _ => rfl, Laws.stages_of fun _ _ => rfl, Laws.starts_of fun _ _ => rfl, Laws.stages_of fun _ _ => rfl,
    Laws.stages_of fun _ _ => rfl, Laws.stages_of fun _ _ => rfl, Laws.stages_of fun _ _ => rfl, Laws.replies_of fun _ _ => rfl,
    Laws.stages_of fun _ _ => rfl, Laws.stages_of fun _ _ => rfl, Laws.stages_of fun _ _ => rfl, Laws.stages_of fun _ _ => rfl,
    Laws.stages_of fun _ _ => rfl, Laws.stages_of fun _ _ => rfl⟩

/-! ### Rosters with short runs -/

section
variable {lap : Nat} {f : Nat → Nat}

/-- Where one of the three heats after a position names another partition, one of them is the first to. -/
theorem exists_run_end {k : Nat} (hk : k < lap) (h : ∃ j ∈ [1, 2, 3], f ((k + j) % lap) ≠ f k) :
    ∃ n, 1 ≤ n ∧ n < 4 ∧ (∀ j, j < n → f ((k + j) % lap) = f k) ∧ f ((k + n) % lap) ≠ f k := by
  have hex : ∃ n, f ((k + n) % lap) ≠ f k := h.imp fun _ hj => hj.2
  have h0 : f ((k + 0) % lap) = f k := by rw [Nat.add_zero, Nat.mod_eq_of_lt hk]
  obtain ⟨j, hj, hne⟩ := h
  have hj4 : j < 4 := by simp at hj; omega
  classical
  refine ⟨Nat.find hex, Nat.one_le_iff_ne_zero.2 fun hz => Nat.find_spec hex (hz ▸ h0), lt_of_le_of_lt (Nat.find_min' hex hne) hj4,
    fun i hi => not_not.1 (Nat.find_min hex hi), Nat.find_spec hex⟩

/-- A lap has a short run exactly where a maximal run of a partition ends within 3 heats (R235). -/
theorem shortRun_iff : shortRun lap f = true ↔ ∃ k n, k < lap ∧ 1 ≤ n ∧ n < 4 ∧ f k ≠ 0 ∧ f ((k + lap - 1) % lap) ≠ f k ∧
    (∀ j, j < n → f ((k + j) % lap) = f k) ∧ f ((k + n) % lap) ≠ f k := by
  have hs : shortRun lap f = true ↔ ∃ k, k < lap ∧ (f k ≠ 0 ∧ f k ≠ f ((k + lap - 1) % lap)) ∧ ∃ j ∈ [1, 2, 3], f ((k + j) % lap) ≠ f k := by
    simp only [shortRun, List.any_eq_true, List.mem_range, Bool.and_eq_true, bne_iff_ne]
  rw [hs]
  constructor
  · rintro ⟨k, hk, ⟨h0, hp⟩, hj⟩
    obtain ⟨n, h1, h4, hrun, hend⟩ := exists_run_end hk hj
    exact ⟨k, n, hk, h1, h4, h0, hp.symm, hrun, hend⟩
  · rintro ⟨k, n, hk, h1, h4, h0, hp, -, hend⟩
    exact ⟨k, hk, ⟨h0, hp.symm⟩, n, by simp; omega, hend⟩

theorem shortRun_const (lap p : Nat) : shortRun lap (fun _ => p) = false := by
  simp [shortRun]

end

/-- A roster with a short run on some anvil breaks a rule, and the first that it breaks refuses it with INVALID. -/
theorem find_rosterSetRules {q : IcsReq} {a : Nat} (ha : a < 64) (h : shortRun (le q.pay 0 2) (fun k => le q.pay (8 + 64 * k + a) 1) = true) :
    (rosterSetRules q).find? (·.1) = some (true, stInvalid) := by
  have hany : (List.range 64).any (fun a => shortRun (le q.pay 0 2) (fun k => le q.pay (8 + 64 * k + a) 1)) = true :=
    List.any_eq_true.2 ⟨a, List.mem_range.2 ha, h⟩
  rw [rosterSetRules, hany]
  cases hl : le q.pay 0 2 == 0 || decide (256 < le q.pay 0 2) <;> simp [List.find?]

/-- Settles O53: a roster with a short run breaks the second of the rules of roster-set. -/
theorem shortRunsAreRefused : Obligations.ShortRunsAreRefused := by
  refine ⟨fun s arg m q hn hc hshort => ?_, fun _ _ => shortRun_iff, shortRun_const⟩
  obtain ⟨a, ha, h⟩ := hshort
  obtain ⟨-, -, -, -, -, -, -, hroster, -⟩ := meltAndRosterCommandsServe
  obtain ⟨-, hrefused, -⟩ := hroster s arg m q hn
  exact hrefused hc _ (find_rosterSetRules ha h)

end Sys2Proof.Proofs

namespace Sys2Proof.Proofs
open Sys2Proof.Machine Sys2Proof.Safety

/-! ### Command parts and held results

A message is taken from its channel `ch` in `t`, where what is held of another command is gone (R421). -/

section
variable {s t : State} {arg : IcsArg} {ch : Chan} {m : IcsMsg}

theorem gives_icsRequestPart_coreRefuses {st : Nat} (hm : s.icsTake arg = some (ch, m)) (hf : bit m.flags 3 = true) (ht : t = s.dropHeld ch m)
    (hc : t.coreRefuses ch m.opcode = some st) : Gives (.icsRequestPart arg) s (t.refuseIcs ch m st) := by
  subst ht
  simp only [Gives, exec_icsRequestPart, execIcsRequestPart, hm, hf, hc, Bool.not_true, Bool.false_eq_true, if_false, done]

/-- A part that check 1 lets pass: check 2 refuses it, or its place in the command does, or it is held (R421, R422). -/
theorem exec_icsRequestPart_taken {next : Nat} {got : List Byte} (hm : s.icsTake arg = some (ch, m)) (hf : bit m.flags 3 = true)
    (ht : t = s.dropHeld ch m) (hc : t.coreRefuses ch m.opcode = none) (hn : ((t.chan ch).parts.map (·.next)).getD 0 = next)
    (hg : ((t.chan ch).parts.map (·.got)).getD [] = got) :
    exec (.icsRequestPart arg) s = done (
      if bit m.flags 4 = true ∨ takesParts m.opcode = false ∨ m.headerOk false = false ∨ 4096 < m.payload.length then t.refuseIcs ch m stInvalid
      else if m.partNo ≠ next ∨ 65536 < got.length + m.payload.length ∨ 15 ≤ m.partNo then
        (t.modChan ch (fun c => { c with parts := none })).refuseIcs ch m stInvalid
      else (t.modChan ch (fun c => { c with parts := some {
        opcode := m.opcode, tag := m.tag, got := got ++ m.payload, next := m.partNo + 1, heatsLeft := 64 } })).refuseIcs ch m stOk) := by
  subst ht hn hg
  simp only [exec_icsRequestPart, execIcsRequestPart, hm, hf, hc, Bool.not_true, Bool.false_eq_true, if_false, Bool.or_eq_true,
    Bool.not_eq_true', decide_eq_true_eq, or_assoc]

/-- CONTINUE with a result held: the next part of it goes out to the partition of the channel (R421). -/
theorem exec_icsContinue_taken (hm : s.icsTake arg = some (ch, m)) (hf : bits m.flags 3 2 = 2)
    (ht : t = s.dropHeld ch m) (hc : t.coreRefuses ch m.opcode = none) {r : HeldResult} (hr : (t.chan ch).result = some r) :
    exec (.icsContinue arg) s = done (
      if m.headerOk false = false ∨ m.payload ≠ [] ∨ m.partNo ≠ r.next then t.refuseIcs ch m stInvalid
      else if m.partition ≠ ch.part then t.refuseIcs ch m stDenied
      else (t.modChan ch (fun c => { c with result := if t.replyRoom ch < r.rest.length then some { r with
          rest := r.rest.drop (t.replyRoom ch), next := r.next + 1, heatsLeft := 64 } else none })).writeReply ch {
        opcode := m.opcode, flags := replyFlags r.accepted (decide (t.replyRoom ch < r.rest.length)), status := r.status, tag := m.tag
        partition := m.partition, partNo := m.partNo, payload := r.rest.take (t.replyRoom ch) }) := by
  subst ht
  simp only [exec_icsContinue, execIcsContinue, hm, hf, hc, hr, ne_eq, not_true_eq_false, if_false, Bool.or_eq_true, Bool.not_eq_true',
    List.isEmpty_eq_false_iff, decide_eq_true_eq, or_assoc]

theorem gives_icsContinue_none (hm : s.icsTake arg = some (ch, m)) (hf : bits m.flags 3 2 = 2)
    (ht : t = s.dropHeld ch m) (hc : t.coreRefuses ch m.opcode = none) (hr : (t.chan ch).result = none) :
    Gives (.icsContinue arg) s (t.refuseIcs ch m stInvalid) := by
  subst ht
  simp only [Gives, exec_icsContinue, execIcsContinue, hm, hf, hc, hr, ne_eq, not_true_eq_false, if_false, done]

theorem gives_icsHeldPartsExpiry
    (h : (∃ h, (s.chan ch).parts = some h ∧ h.heatsLeft = 0) ∨ (∃ h, (s.chan ch).result = some h ∧ h.heatsLeft = 0)) :
    Gives (.icsHeldPartsExpiry ch) s (s.modChan ch (fun c => { c with
      parts := c.parts.filter (fun h => h.heatsLeft != 0), result := c.result.filter (fun h => h.heatsLeft != 0) })) :=
  gives_of_if (exec_icsHeldPartsExpiry ch s) (by simpa [Option.any_eq_true] using h)

theorem gives_reservedIcsOpcode (hm : s.icsTake arg = some (ch, m)) (hf : bits m.flags 3 2 = 0) (hc : catalogue.contains m.opcode = false) :
    Gives (.reservedIcsOpcode arg) s ((s.taken ch m).refuseIcs ch m (((s.taken ch m).coreRefuses ch m.opcode).getD stInvalid)) := by
  simp only [Gives, exec_reservedIcsOpcode, execReservedIcsOpcode, hm, hf, hc, ne_eq, not_true_eq_false, decide_false, Bool.or_self,
    Bool.false_eq_true, if_false, done]

end

/-! ### Events that end a command -/

section
variable {s : State} {r : Running}

theorem gives_flashProgrammed {t off : Nat} {d : List Byte} (hp : s.sec.programming = some (t, off, d)) (hr : s.waiting .programmed = some r)
    (hc : s.noCore = false) :
    Gives .flashProgrammed s (State.endRunning { s with sec := { s.sec with
      programming := none
      flash := { s.sec.flash with
        objects := tins s.sec.flash.objects t (bwrite (s.sec.flash.object t) off d)
        lengths := tins s.sec.flash.lengths t (max (tget 0 s.sec.flash.lengths t) (off + d.length)) } } } r stOk []) := by
  simp only [Gives, exec_flashProgrammed, execFlashProgrammed, hp, hr, hc, Bool.false_eq_true, if_false, done]

/-- An activation check ends its command with what the target's image or record allows (R433, R529). -/
theorem exec_activationVerified_waited {t : Nat} (ha : s.sec.activating = some t) (hr : s.waiting (.verified t) = some r)
    (hc : s.noCore = false) :
    exec .activationVerified s = done (
      if s.targetOk t = true then State.endRunning { s with sec := { s.sec with
        activating := none
        flash := if t = 2 then { s.sec.flash with cfgPending := true } else { s.sec.flash with activeImage := t } } } r stOk []
      else State.endRunning { s with sec := { s.sec with activating := none } } r stInvalid []) := by
  simp only [exec_activationVerified, execActivationVerified, ha, hr, hc, Bool.false_eq_true, if_false]
  cases s.targetOk t <;> rfl

theorem gives_reportSigned {ch : Chan} {q : List Byte} (hu : (s.chan ch).unsigned = some q) (hc : s.hearthRefuses = none)
    (hr : s.hearth.running.find? (fun r => r.chan == ch && r.wait == .event .report) = some r) :
    Gives (.reportSigned ch) s ((s.modChan ch (fun c => { c with report := some (s.signedReport ch q), unsigned := none })).endRunning r stOk
      (leBytes 4 (s.signedReport ch q).length)) := by
  simp only [Gives, exec_reportSigned, execReportSigned, hu, hr, hc, Option.isSome_none, Bool.false_eq_true, if_false, done]

section
variable {p g psa n live : Nat}

theorem gives_measurementAppended (hl : s.pendingLoad p g = some (r, psa, n, live)) (hc : s.hearthRefuses = none)
    (ha : s.allReady [{ part := p, psa := psa, len := n, write := false }] = true) :
    Gives (.measurementAppended p g) s ((s.useLines 3 [{ part := p, psa := psa, len := n, write := false }]).measure p g r psa n live) := by
  simp only [Gives, exec_measurementAppended, execMeasurementAppended, hl, hc, ha, Option.isSome_none, Bool.not_true, Bool.false_eq_true,
    if_false, done]

/-- An image that is read whole is copied to its slot, its digest logged and answered (R242). -/
theorem measure_loaded {d : Nat} {l : List Byte} (hs : s.programSlot p g = some d) (hl : s.pLoad p psa n = (stOk, l)) :
    s.measure p g r psa n live = State.endRunning { (s.engineStore 3 p d l false).appendLog p (logEntry 2 g n live s.heat.count (sha256 l)) with
      anvils := { ((s.engineStore 3 p d l false).appendLog p (logEntry 2 g n live s.heat.count (sha256 l))).anvils with
        programs := tins ((s.engineStore 3 p d l false).appendLog p (logEntry 2 g n live s.heat.count (sha256 l))).anvils.programs (16 * p + g)
          { length := n, liveMax := live, digest := sha256 l } } } r stOk (sha256 l) := by
  simp only [State.measure, hs, hl, ne_eq, not_true_eq_false, if_false]

end

end

/-- Settles O34. That a part which is held meets checks 1 and 2 only is the model's choice (log entry 26). -/
theorem commandPartsAndEndsTakeEffect : Obligations.CommandPartsAndEndsTakeEffect := by
  refine ⟨fun s arg ch m hm hf t ht => ⟨fun st => gives_icsRequestPart_coreRefuses hm hf ht, fun hc h4 hp ho hn hl h15 hg => ?held,
      fun hc hr => gives_of_if (exec_icsRequestPart_taken hm hf ht hc rfl rfl) hr, fun hc h4 hp ho hl hr => ?misplaced⟩,
    fun s arg ch m hm hf t ht hc => ⟨gives_icsContinue_none hm hf ht hc, fun r hr => ⟨fun ho hy hn hp => ?continued,
      fun h => gives_of_if (exec_icsContinue_taken hm hf ht hc hr) h⟩⟩,
    fun _ _ => gives_icsHeldPartsExpiry, fun _ _ _ _ => gives_reservedIcsOpcode, fun _ _ _ _ _ => gives_flashProgrammed,
    fun s t r ha hr hc => ⟨gives_of_if (exec_activationVerified_waited ha hr hc),
      fun hn => gives_of_if_not (exec_activationVerified_waited ha hr hc) (Bool.eq_false_iff.1 hn)⟩,
    fun _ _ _ _ => gives_reportSigned, fun _ _ _ _ _ _ _ => gives_measurementAppended, fun _ _ _ _ _ _ _ _ _ => measure_loaded⟩
  case held =>
    rw [Gives, exec_icsRequestPart_taken hm hf ht hc rfl rfl, if_neg (by simp [h4, hp, ho, hl]), if_neg (by omega), done]
  case misplaced =>
    rw [Gives, exec_icsRequestPart_taken hm hf ht hc rfl rfl, if_neg (by simp [h4, hp, ho, hl]), if_pos (by omega), done]
  case continued =>
    rw [Gives, exec_icsContinue_taken hm hf ht hc hr, if_neg (by simp [ho, hy, hn]), if_neg (not_not.2 hp), done]

end Sys2Proof.Proofs

namespace Sys2Proof.Proofs
open Sys2Proof.Machine Sys2Proof.Safety

/-! ### Descriptors start

Every command that starts a descriptor is `State.startDesc` with the TYPEs of its row, once PUSH and LOOP have nothing under way to go
on with. Two equations say which descriptor that is, where the context may start one and its accesses are ready: the ring's next, or
the first queued push. -/

/-- The commands that only start descriptors of one TYPE, with that TYPE (R261). -/
def startRows : List ((Nat → Instr) × Nat) :=
  [(.copy, 1), (.tile, 2), (.gather, 3), (.scatter, 4), (.fill, 5), (.cast, 6), (.seal, 7), (.wait, 10), (.signal, 11)]

theorem exec_startRow {p : (Nat → Instr) × Nat} (hp : p ∈ startRows) (c : Nat) (s : State) :
    exec (p.1 c) s = done (s.startDesc c (· == p.2)) := by
  fin_cases hp <;> rfl

theorem startRow_ne_push {p : (Nat → Instr) × Nat} (hp : p ∈ startRows) : tPush ≠ p.2 := by
  fin_cases hp <;> decide

section
variable {s : State} {c : Nat} {ok : Nat → Bool}

theorem exec_push_starts (hg : s.pushGoes c = false) : exec (.push c) s = done (s.startDesc c (· == 8)) := by
  rw [exec_push, execPush, hg, if_neg Bool.false_ne_true]

theorem exec_loop_starts (he : (s.ctx c).started.any Desc.entering = false) : exec (.loop c) s = done (s.startDesc c (· == 9)) := by
  rw [exec_loop, execLoop, he, if_neg Bool.false_ne_true]

/-- The ring's next descriptor starts where the row takes no queued push and the descriptor is of the row, or could not be read. With no
room it is held back, and counted once (R260). -/
theorem startDesc_ring (hp : ok tPush = true → (s.ctx c).pushes = []) (hm : s.mayStart c = true) (hw : 0 < (s.ctx c).waitingSlots)
    (ha : s.allReady (s.startAccesses c) = true)
    (ht : ((s.refreshed c).fetch c).unread = false → ok (dType ((s.refreshed c).fetch c).words) = true) :
    s.startDesc c ok =
      if ((s.refreshed c).ctx c).hasRoom then (s.refreshed c).startNow c ((s.refreshed c).fetch c)
      else if (s.ctx c).held then s
      else ((s.refreshed c).modCtx c (fun y => { y with held := true })).noteTongs c 22 1 := by
  have hnone : (ok tPush && !(s.ctx c).pushes.isEmpty) = false := by
    cases hk : ok tPush with
    | false => rfl
    | true => simp [hp hk]
  have hrow : (!((s.refreshed c).fetch c).unread && !ok (dType ((s.refreshed c).fetch c).words)) = false := by
    cases hu : ((s.refreshed c).fetch c).unread with
    | false => simp [ht hu]
    | true => rfl
  cases hr : ((s.refreshed c).ctx c).hasRoom <;> simp [State.startDesc, hnone, hm, Nat.ne_of_gt hw, ha, hrow, hr]

/-- A queued push starts ahead of the ring's next descriptor, whether or not one waits there. -/
theorem startDesc_queued {d : Desc} {q : List Desc} (hk : ok tPush = true) (hp : (s.ctx c).pushes = d :: q) (hm : s.mayStart c = true)
    (ha : s.allReady (s.startAccesses c) = true) (hr : ((s.refreshed c).ctx c).hasRoom = true) :
    s.startDesc c ok = (s.refreshed c).startNow c d := by
  simp [State.startDesc, hk, hp, hm, ha, hr]

section
variable {i : Instr} (hi : exec i s = done (s.startDesc c ok)) (hp : ok tPush = true → (s.ctx c).pushes = [])
  (hm : s.mayStart c = true) (hw : 0 < (s.ctx c).waitingSlots) (ha : s.allReady (s.startAccesses c) = true)
  (ht : ((s.refreshed c).fetch c).unread = false → ok (dType ((s.refreshed c).fetch c).words) = true)
include hi hp hm hw ha ht

theorem gives_ringStart (hr : ((s.refreshed c).ctx c).hasRoom = true) :
    Gives i s ((s.refreshed c).startNow c ((s.refreshed c).fetch c)) :=
  gives_of_if (hi.trans (congrArg done (startDesc_ring hp hm hw ha ht))) hr

theorem gives_heldBack (hr : ((s.refreshed c).ctx c).hasRoom = false) (hh : (s.ctx c).held = false) :
    Gives i s (((s.refreshed c).modCtx c (fun y => { y with held := true })).noteTongs c 22 1) := by
  rw [Gives, hi, startDesc_ring hp hm hw ha ht, hr, hh, if_neg Bool.false_ne_true, if_neg Bool.false_ne_true, done]

theorem gives_staysHeld (hr : ((s.refreshed c).ctx c).hasRoom = false) (hh : (s.ctx c).held = true) : Gives i s s := by
  rw [Gives, hi, startDesc_ring hp hm hw ha ht, hr, hh, if_neg Bool.false_ne_true, if_pos rfl, done]

end

end

/-- Settles O19. That a queued push of a melt starts ahead of the ring's next descriptor is the model's choice (log entry 77). -/
theorem descriptorsStart : Obligations.DescriptorsStart := by
  refine ⟨fun p hp s c hm hw ha ht => ?rows, fun s c hg hq hm hw ha ht => ?push, fun s c d q hg hq hm ha hr => ?queued,
    fun s c => gives_of_if rfl, fun s c he hm hw ha ht => ?loop, fun s c => gives_of_if rfl, fun s c hm hw ha ht => ?reserved⟩
  case rows =>
    have hi := exec_startRow hp c s
    have hno : (tPush == p.2) = true → (s.ctx c).pushes = [] := fun h => absurd (beq_iff_eq.1 h) (startRow_ne_push hp)
    have hty := fun hu => beq_iff_eq.2 (ht hu)
    exact ⟨gives_ringStart hi hno hm hw ha hty, gives_heldBack hi hno hm hw ha hty, gives_staysHeld hi hno hm hw ha hty⟩
  case push => exact gives_ringStart (exec_push_starts hg) (fun _ => hq) hm hw ha (fun hu => beq_iff_eq.2 (ht hu))
  case queued => rw [Gives, exec_push_starts hg, startDesc_queued rfl hq hm ha hr, done]
  case loop => exact gives_ringStart (exec_loop_starts he) (fun h => absurd h (by decide)) hm hw ha (fun hu => beq_iff_eq.2 (ht hu))
  case reserved =>
    refine gives_ringStart (ok := fun t => t == 0 || decide (11 < t)) rfl (fun h => absurd h (by decide)) hm hw ha (fun hu => ?_)
    simpa using ht hu

/-! ### Doorbells -/

section
variable {s : State} {c t : Nat}

/-- A doorbell beyond the ring is counted in DOORBELL_BAD, one of a confidential partition excepted (R258, R288). -/
theorem ring_beyond (h : (s.ctx c).entries < (t + 2 ^ 32 - (s.ctx c).subHead) % 2 ^ 32) :
    s.ring c t = if (s.part (s.ctx c).part).confidential then s else s.countTongs (s.ctx c).engine 18 1 := by
  simp only [State.ring, if_pos h, State.noteTongs, Nat.one_ne_zero, decide_false, Bool.false_or]

/-- A doorbell within the ring sets the tail, and the engine goes on: a context that is held back reads READ_IDX again (R258, R260). -/
theorem ring_within (ht : t < 2 ^ 32) (h : (t + 2 ^ 32 - (s.ctx c).subHead) % 2 ^ 32 ≤ (s.ctx c).entries) :
    s.ring c t = if (s.ctx c).held then ((s.modCtx c (fun y => { y with subTail := t })).reread c).wake c
      else (s.modCtx c (fun y => { y with subTail := t })).wake c := by
  simp only [State.ring, if_neg (Nat.not_lt.2 h), Nat.mod_eq_of_lt ht, apply_ite (State.wake · c)]

/-- A context that is neither idle nor on an engine has nothing to wake (R256, R276). -/
theorem wake_of_off (hi : (s.ctx c).state ≠ .idle) (ha : (s.ctx c).state ≠ .active) : s.wake c = s := by
  simp [State.wake, State.lookAhead, hi, ha]

theorem ring_off (ht : t < 2 ^ 32) (h : (t + 2 ^ 32 - (s.ctx c).subHead) % 2 ^ 32 ≤ (s.ctx c).entries) (hh : (s.ctx c).held = false)
    (hi : (s.ctx c).state ≠ .idle) (ha : (s.ctx c).state ≠ .active) : s.ring c t = s.modCtx c (fun y => { y with subTail := t }) := by
  rw [ring_within ht h, hh, if_neg Bool.false_ne_true, wake_of_off (by simpa) (by simpa)]

end

/-- Settles O54: off its engine a context keeps its head and its ring's size at a doorbell, so a second one sets the tail again. -/
theorem doorbellsSetTheTail : Obligations.DoorbellsSetTheTail := by
  refine ⟨fun s c t _ => ring_beyond, fun s c t => ring_within, fun s c t u ht hu ht' hu' hh hi ha => ?_⟩
  have h1 : s.ring c t = s.modCtx c (fun y => { y with subTail := t }) := ring_off ht ht' hh hi ha
  have h2 : (s.ring c t).ring c u = (s.ring c t).modCtx c (fun y => { y with subTail := u }) := by
    apply ring_off hu <;> simpa [h1]
  exact ⟨h1, by simp [h2], by rw [h2]; simp [h1]⟩

end Sys2Proof.Proofs

namespace Sys2Proof.Proofs
open Sys2Proof.Machine Sys2Proof.Safety

/-! ### Masks of which a bit is set or cleared -/

theorem bit_eq_testBit (v i : Nat) : bit v i = v.testBit i := by
  rw [Nat.testBit_eq_decide_div_mod_eq]
  rfl

theorem bit_setBit_true (v i j : Nat) : bit (setBit v i true) j = (bit v j || decide (j = i)) := by
  simp only [bit_eq_testBit, testBit_setBit]

/-- Taking the weight of a set bit away clears that bit. -/
theorem bit_sub_two_pow {v i : Nat} (h : bit v i = true) : bit (v - 2 ^ i) i = false := by
  have hodd : v / 2 ^ i % 2 = 1 := by simpa [bit] using h
  have hdiv : (v - 2 ^ i) / 2 ^ i = v / 2 ^ i - 1 := by simpa using Nat.sub_mul_div v (2 ^ i) 1
  simp only [bit, hdiv, beq_eq_false_iff_ne]
  omega

/-- Clearing a bit clears that bit alone: a set bit is the one that setting it again would add. -/
theorem bit_setBit_false (v i j : Nat) : bit (setBit v i false) j = (bit v j && decide (j ≠ i)) := by
  cases h : bit v i with
  | false => by_cases hj : j = i <;> simp [setBit, h, hj]
  | true =>
    have hset : setBit v i false = v - 2 ^ i := by simp [setBit, h]
    have hback : setBit (v - 2 ^ i) i true = v := by
      simp [setBit, bit_sub_two_pow h, Nat.sub_add_cancel (Nat.ge_two_pow_of_testBit (bit_eq_testBit v i ▸ h))]
    have hv := bit_setBit_true (v - 2 ^ i) i j
    rw [hback] at hv
    rw [hset, hv]
    by_cases hj : j = i
    · simp [hj, bit_sub_two_pow h]
    · simp [hj]

theorem setBit_false_le (v i : Nat) : setBit v i false ≤ v := by
  unfold setBit
  split <;> simp

theorem setBit_true_lt {v i n : Nat} (hv : v < 2 ^ n) (hi : i < n) : setBit v i true < 2 ^ n := by
  refine Nat.lt_pow_two_of_testBit _ fun j hj => ?_
  simp [testBit_setBit, Nat.testBit_lt_two_pow (hv.trans_le (Nat.pow_le_pow_right (by decide) hj)), show j ≠ i by omega]

theorem bit_foldl_setBit_false (l : List Nat) (v j : Nat) :
    bit (l.foldl (fun v i => setBit v i false) v) j = (bit v j && decide (j ∉ l)) := by
  induction l generalizing v with
  | nil => simp
  | cons i l ih => simp [ih, bit_setBit_false, Bool.and_assoc]

theorem foldl_setBit_false_le (l : List Nat) (v : Nat) : l.foldl (fun v i => setBit v i false) v ≤ v := by
  induction l generalizing v with
  | nil => exact Nat.le_refl v
  | cons i l ih => exact (ih _).trans (setBit_false_le v i)

/-- A mask of four bits with none set is 0. -/
theorem eq_zero_of_bit_false {v : Nat} (hv : v < 16) (h : ∀ i < 4, bit v i = false) : v = 0 := by
  refine Nat.eq_of_testBit_eq fun i => ?_
  rw [Nat.zero_testBit]
  by_cases hi : i < 4
  · exact bit_eq_testBit v i ▸ h i hi
  · exact Nat.testBit_lt_two_pow (hv.trans_le (Nat.pow_le_pow_right (n := 2) Nat.two_pos (Nat.le_of_not_lt hi)))

/-! ### The pointers of a directory entry (R298, R299) -/

section
variable {e : DirEntry} {m k : Nat}

theorem mem_pointers : m ∈ e.pointers ↔ ∃ i < 4, bit e.pvalid i = true ∧ tget 0 e.ptrs i = m := by
  simp [DirEntry.pointers, and_assoc]

theorem length_pointers_le (e : DirEntry) : e.pointers.length ≤ 4 := by
  simpa [DirEntry.pointers] using List.length_filter_le (bit e.pvalid) (List.range 4)

theorem length_pointers_pos (hi : k < 4) (hb : bit e.pvalid k = true) : 1 ≤ e.pointers.length :=
  List.length_pos_of_mem (mem_pointers.2 ⟨k, hi, hb, rfl⟩)

theorem length_pointers_pos_of_ne_zero (hv : e.pvalid < 16) (hz : e.pvalid ≠ 0) : 1 ≤ e.pointers.length := by
  by_contra hnone
  exact hz (eq_zero_of_bit_false hv fun i hi => Bool.eq_false_iff.2 fun hb => hnone (length_pointers_pos hi hb))

/-- An entry with four pointers has no free slot. -/
theorem bit_of_four_pointers (h : e.pointers.length = 4) {i : Nat} (hi : i < 4) : bit e.pvalid i = true := by
  have hall : ((List.range 4).filter (bit e.pvalid)).length = (List.range 4).length := by simpa [DirEntry.pointers] using h
  exact List.length_filter_eq_length_iff.1 hall i (List.mem_range.2 hi)

/-- The slot of an agent is there where the agent has a pointer. -/
theorem findSlot_eq_none : (List.range 4).find? (fun i => bit e.pvalid i && tget 0 e.ptrs i == m) = none ↔ m ∉ e.pointers := by
  simp [mem_pointers]

theorem findSlot_spec {i : Nat} (h : (List.range 4).find? (fun i => bit e.pvalid i && tget 0 e.ptrs i == m) = some i) :
    i < 4 ∧ bit e.pvalid i = true := by
  have hp := List.find?_some h
  simp only [Bool.and_eq_true] at hp
  exact ⟨List.mem_range.1 (List.mem_of_find?_eq_some h), hp.1⟩

/-- A mask of one bit selects one slot. -/
theorem pointers_of_single (hk : k < 4) (hv : e.pvalid = 2 ^ k) : e.pointers = [tget 0 e.ptrs k] := by
  have hslots : ∀ k < 4, (List.range 4).filter (bit (2 ^ k)) = [k] := by decide
  simp only [DirEntry.pointers, hv, hslots k hk, List.map_cons, List.map_nil]

theorem fHolder_of_single (hf : e.fvalid = true) (hv : e.pvalid = 2 ^ e.fidx) : e.fHolder = some (tget 0 e.ptrs e.fidx) := by
  simp [DirEntry.fHolder, hf, hv, bit_eq_testBit]

theorem fHolder_of_not_fvalid (hf : e.fvalid = false) : e.fHolder = none := by simp [DirEntry.fHolder, hf]

end

/-! ### The entry that keeps its F holder alone -/

@[simp] theorem onlyF_state (e : DirEntry) : e.onlyF.state = e.state := by unfold DirEntry.onlyF; split <;> rfl
@[simp] theorem onlyF_ovf (e : DirEntry) : e.onlyF.ovf = e.ovf := by unfold DirEntry.onlyF; split <;> rfl
@[simp] theorem onlyF_fidx (e : DirEntry) : e.onlyF.fidx = e.fidx := by unfold DirEntry.onlyF; split <;> rfl

theorem onlyF_pvalid_lt {e : DirEntry} (hk : e.fidx < 4) : e.onlyF.pvalid < 16 := by
  unfold DirEntry.onlyF
  split
  · exact Nat.pow_lt_pow_right (n := 4) (by decide) hk
  · exact Nat.zero_lt_succ 15

/-- The pointer that stays is the F holder's. -/
theorem onlyF_pointers {e : DirEntry} (hk : e.fidx < 4) : e.onlyF.pointers = e.fHolder.toList := by
  unfold DirEntry.onlyF DirEntry.fHolder
  split
  · rw [pointers_of_single hk rfl]
    simp [tget, tfind]
  · simp [DirEntry.pointers, bit]

theorem onlyF_fHolder (e : DirEntry) : e.onlyF.fHolder = e.fHolder := by
  by_cases h : (e.fvalid && bit e.pvalid e.fidx) = true
  · rw [DirEntry.onlyF, if_pos h, fHolder_of_single (Bool.and_eq_true _ _ ▸ h).1 rfl, DirEntry.fHolder, if_pos h]
    simp [tget, tfind]
  · rw [DirEntry.onlyF, if_neg h, fHolder_of_not_fvalid rfl, DirEntry.fHolder, if_neg h]

/-! ### The form of an entry (R299) -/

section
variable {e : DirEntry} {m : Nat}

theorem form_of_shared (hv : e.pvalid < 16) (hk : e.fidx < 4) (hs : e.state = .shared) (ho : e.ovf = false)
    (hp : 1 ≤ e.pointers.length) : DirectoryForm e :=
  ⟨hv, hk, by simp [hs], fun _ => .inl ⟨hp, length_pointers_le e⟩, by simp [ho]⟩

theorem form_of_ovf (hv : e.pvalid < 16) (hk : e.fidx < 4) (hs : e.state = .shared) (ho : e.ovf = true)
    (hp : e.pointers = e.fHolder.toList) : DirectoryForm e :=
  ⟨hv, hk, by simp [hs], fun _ => .inr ho, fun _ => hp⟩

theorem form_onlyF (hk : e.fidx < 4) (hs : e.state = .shared) (ho : e.ovf = true) : DirectoryForm e.onlyF :=
  form_of_ovf (onlyF_pvalid_lt hk) (by simpa) (by simpa) (by simpa) (by rw [onlyF_pointers hk, onlyF_fHolder])

theorem pointers_excl (e : DirEntry) (m : Nat) : (e.excl m).pointers = [m] := pointers_of_single (k := 0) (by decide) rfl

theorem form_excl (e : DirEntry) (m : Nat) : DirectoryForm (e.excl m) :=
  ⟨by simp [DirEntry.excl], by simp [DirEntry.excl], fun _ => ⟨congrArg List.length (pointers_excl e m), rfl⟩, nofun, nofun⟩

/-! ### Adding a sharer (R299) -/

/-- Adding a sharer leaves the entry SHARED. -/
theorem add_state (e : DirEntry) (m : Nat) (f : Bool) : (e.add m f).1.state = .shared := by
  unfold DirEntry.add
  split
  · dsimp only
    split <;> simp
  · split
    · rfl
    · split <;> rfl

/-- OVF stays set as sharers are added. -/
theorem add_ovf (f : Bool) (ho : e.ovf = true) : (e.add m f).1.ovf = true := by
  unfold DirEntry.add
  split
  · simp [ho]
  · cases f <;> simp [ho]

/-- A sharer that does not take F is not recorded while OVF is set. -/
theorem add_unrecorded (ho : e.ovf = true) (hm : m ∉ e.pointers) : (e.add m false).1 = { e with state := .shared } := by
  simp [DirEntry.add, findSlot_eq_none.2 hm, ho]

/-- A sharer beyond the fourth that does not take F sets OVF, and the entry keeps its F holder alone. -/
theorem add_fifth (h4 : e.pointers.length = 4) (hm : m ∉ e.pointers) (ho : e.ovf = false) :
    (e.add m false).1 = { e.onlyF with state := .shared, ovf := true } := by
  have hfull : (List.range 4).find? (fun i => !bit e.pvalid i) = none := by
    simpa using fun i hi => bit_of_four_pointers h4 hi
  simp [DirEntry.add, findSlot_eq_none.2 hm, ho, hfull]

/-- State and OVF do not bear on which pointer stays. -/
theorem onlyF_withOvf (e : DirEntry) :
    { e.onlyF with state := .shared, ovf := true } = ({ e with state := .shared, ovf := true } : DirEntry).onlyF := by
  unfold DirEntry.onlyF
  split <;> rfl

theorem form_add (f : Bool) (h : DirectoryForm e) : DirectoryForm (e.add m f).1 := by
  obtain ⟨hv, hk, -, -, hovf⟩ := h
  have hidx (i : Nat) (hi : i < 4) : (if f then i else e.fidx) < 4 := by split <;> assumption
  unfold DirEntry.add
  split
  -- the agent has a slot
  case h_1 i hi =>
    obtain ⟨hi4, hbit⟩ := findSlot_spec hi
    cases ho : e.ovf with
    | true => exact form_onlyF (hidx i hi4) rfl rfl
    | false => exact form_of_shared hv (hidx i hi4) rfl rfl (length_pointers_pos hi4 hbit)
  case h_2 =>
    split
    -- OVF is set, and the agent is not recorded
    case isTrue ho =>
      obtain ⟨ho, -⟩ := Bool.and_eq_true _ _ ▸ ho
      exact form_of_ovf hv hk rfl ho (hovf ho)
    case isFalse =>
      split
      -- the agent takes a free slot
      case h_1 i hi =>
        have ho : e.ovf = false := by by_contra ho; simp [ho] at hi
        rw [ho, if_neg Bool.false_ne_true] at hi
        have hi4 : i < 4 := List.mem_range.1 (List.mem_of_find?_eq_some hi)
        exact form_of_shared (setBit_true_lt (n := 4) hv hi4) (hidx i hi4) rfl ho
          (length_pointers_pos hi4 (by simp [bit_setBit_true]))
      -- no slot is free: OVF is set, and the F holder's pointer alone is there
      case h_2 =>
        cases f with
        | false =>
          show DirectoryForm { e.onlyF with state := .shared, ovf := true }
          rw [onlyF_withOvf]
          exact form_onlyF hk rfl rfl
        | true =>
          have hslot : (if e.fHolder.isSome then e.fidx else 0) < 4 := by split; exacts [hk, by decide]
          refine form_of_ovf (Nat.pow_lt_pow_right (n := 4) (by decide) hslot) hslot rfl rfl ?_
          exact (pointers_of_single hslot rfl).trans (congrArg Option.toList (fHolder_of_single rfl rfl)).symm

/-! ### Removing an agent (R299) -/

/-- The mask of the slots that stay. -/
theorem bit_remove_pvalid (e : DirEntry) (m : Nat) {i : Nat} (hi : i < 4) :
    bit (e.remove m).pvalid i = (bit e.pvalid i && tget 0 e.ptrs i != m) := by
  rw [DirEntry.remove, bit_foldl_setBit_false, Bool.eq_iff_iff]
  simp +contextual [hi]

/-- The pointers that stay are those of the other agents. -/
theorem pointers_remove (e : DirEntry) (m : Nat) : (e.remove m).pointers = e.pointers.filter (· != m) := by
  have hslots : (List.range 4).filter (bit (e.remove m).pvalid) =
      ((List.range 4).filter (bit e.pvalid)).filter (fun i => tget 0 e.ptrs i != m) := by
    rw [List.filter_filter]
    refine List.filter_congr fun i hi => ?_
    rw [bit_remove_pvalid e m (List.mem_range.1 hi), Bool.and_comm]
  rw [DirEntry.pointers, hslots, DirEntry.pointers, List.filter_map]
  rfl

/-- The F holder stays unless it is the agent removed. -/
theorem fHolder_remove (m : Nat) (hk : e.fidx < 4) : (e.remove m).fHolder = e.fHolder.filter (· != m) := by
  have hbit := bit_remove_pvalid e m hk
  have hf : (e.remove m).fvalid = (e.fvalid && bit (e.remove m).pvalid e.fidx) := rfl
  rw [DirEntry.fHolder, hf, show (e.remove m).fidx = e.fidx from rfl, show (e.remove m).ptrs = e.ptrs from rfl, hbit, DirEntry.fHolder]
  cases e.fvalid <;> cases bit e.pvalid e.fidx <;> simp [Option.filter]

theorem remove_pvalid_lt (m : Nat) (hv : e.pvalid < 16) : (e.remove m).pvalid < 16 :=
  (foldl_setBit_false_le _ _).trans_lt hv

/-- An entry that the removal does not make INVALID keeps its state, and has a pointer or OVF. -/
theorem remove_state {st : DirState} (m : Nat) (hv : e.pvalid < 16) (hs : (e.remove m).state = st) (hne : st ≠ .invalid) :
    e.state = st ∧ (1 ≤ (e.remove m).pointers.length ∨ e.ovf = true) := by
  have hst : (e.remove m).state = if (e.remove m).pvalid = 0 && !e.ovf then .invalid else e.state := rfl
  rw [hst] at hs
  split at hs
  case isTrue => exact absurd hs.symm hne
  case isFalse hkept =>
    refine ⟨hs, ?_⟩
    by_cases hz : (e.remove m).pvalid = 0
    · exact .inr (by simpa [hz] using hkept)
    · exact .inl (length_pointers_pos_of_ne_zero (remove_pvalid_lt m hv) hz)

theorem form_remove (m : Nat) (h : DirectoryForm e) : DirectoryForm (e.remove m) := by
  obtain ⟨hv, hk, hexcl, -, hovf⟩ := h
  have hlen : (e.remove m).pointers.length ≤ e.pointers.length := by
    rw [pointers_remove]
    exact List.length_filter_le _ _
  refine ⟨remove_pvalid_lt m hv, hk, fun hs => ?excl, fun hs => ?shared, fun ho => ?ovf⟩
  case excl =>
    obtain ⟨hs', hp⟩ := remove_state m hv hs nofun
    obtain ⟨hone, ho⟩ := hexcl hs'
    have hpos := hp.resolve_right (by simp [ho])
    exact ⟨by omega, ho⟩
  case shared =>
    obtain ⟨-, hp | ho⟩ := remove_state m hv hs nofun
    · exact .inl ⟨hp, length_pointers_le _⟩
    · exact .inr ho
  case ovf => rw [pointers_remove, fHolder_remove m hk, Option.toList_filter, hovf ho]

end

theorem dir_setEntry_of_invalid (s : State) (k : Nat) {e : DirEntry} (h : e.state = .invalid) :
    tget DirEntry.reset (s.setEntry k e).coh.dir k = DirEntry.reset := by
  simp [State.setEntry, h, tget_tset]

/-- Settles O60: each operation's law of the form; the masks of slots are read bit by bit. -/
theorem directoryEntriesKeepTheirForm : Obligations.DirectoryEntriesKeepTheirForm := by
  refine ⟨fun e m => ⟨form_excl e m, pointers_excl e m, rfl⟩, fun e m f h _ => ⟨form_add f h, add_state e m f, add_ovf f⟩,
    fun e m h => ⟨form_remove m h, rfl⟩, fun e m h ho h4 hm => ?fifth, fun _ _ => add_unrecorded, fun s k _ => dir_setEntry_of_invalid s k⟩
  obtain ⟨-, hk, -⟩ := h
  rw [add_fifth h4 hm ho]
  exact ⟨rfl, onlyF_pointers hk⟩

end Sys2Proof.Proofs

namespace Sys2Proof.Proofs
open Sys2Proof.Machine Sys2Proof.Safety

/-! ### Coherent requests

What the train of a request meets is decided by its status, and for one that passes, by what its line waits for. -/

/-- The commands of the coherent requests, each with its request (R289). -/
def cohRows : List ((Nat → Train → Instr) × CohReq) :=
  [(.rdShared, .rdShared), (.rdOwn, .rdOwn), (.upgrade, .upgrade), (.rdCur, .rdCur), (.wrBack, .wrBack), (.wrLine, .wrLine),
    (.wrPartial, .wrPartial), (.wrPlace, .wrPlace)]

theorem exec_cohRow {p : (Nat → Train → Instr) × CohReq} (hp : p ∈ cohRows) (port : Nat) (t : Train) (s : State) :
    exec (p.1 port t) s = done (s.cohRequest port t p.2) := by
  fin_cases hp <;> rfl

section
variable {s : State} {port d : Nat} {t : Train} {req : CohReq}

/-- An admitted request is refused with its status, waits with its write at the home or with its read at its port, or arrives. -/
theorem cohRequest_admitted {st : Nat} (h8 : t.typ = 0x8) (h1 : t.cls = 1) (ho : le t.head 0 1 = req.cop)
    (hc : s.inChip t.dst = true) (ha : s.admits port t.part = true) (hs : s.cohStatus t req = (st, d)) :
    s.cohRequest port t req = if st ≠ stOk then
        if req = .wrBack ∧ st = stNoExtent then ((s.takeTrain port t).cohRefuse t st).backLate t else (s.takeTrain port t).cohRefuse t st
      else if req.writes && s.writeWaits t.part d 64 then
        ((s.takeTrain port t).hold (.coherent (s.cohMsgOf port t req d))).hasten d 64
      else if !s.rangeFree t.part d 64 then s
      else (s.takeTrain port t).cohArrive (s.cohMsgOf port t req d) := by
  simp [State.cohRequest, h8, h1, ho, hc, ha, hs]

/-! ### Answers to snoops -/

section
variable (hr : s.isCohRsp t 0x23 = true) (ha : s.admits port t.part = true)
include hr ha

/-- The answer to an outstanding snoop is applied, unless it has data that waits at its port. -/
theorem exec_ack_answered {k m : Nat} (hk : s.answeredSnoop t false = some (k, m)) :
    exec (.ack port t) s = done
      (if t.hasData = true ∧ s.ackWaits k = true then
        (s.hasten (((tfind s.coh.trackers k).map (·.msg.line)).getD 0 * 64) 64).ackReached k m
      else (s.takeTrain port t).cohAck k m (le t.head 2 1) (if t.hasData then some (t.data.take 64, bit (le t.head 1 1) 0) else none)) := by
  simp [execAck, hr, ha, hk]

/-- An answer to no outstanding snoop is late (R306). -/
theorem gives_ack_late (hk : s.answeredSnoop t false = none) : Gives (.ack port t) s ((s.takeTrain port t).snpLate t) := by
  simp [Gives, execAck, hr, ha, hk, done]

end

theorem gives_placeTake (hr : s.isCohRsp t 0x25 = true) : Gives (.placeTake port t) s (s.placeEnd port t true) :=
  gives_of_if (exec_placeTake port t s) hr

theorem gives_placeDecline (hr : s.isCohRsp t 0x26 = true) : Gives (.placeDecline port t) s (s.placeEnd port t false) :=
  gives_of_if (exec_placeDecline port t s) hr

end

/-! ### Requests that wait at the home

A waiting directory way comes first, then a read of the home, then the line's waiters, then the ingress (R296, R301). -/

section
variable {s : State} {f k : Nat} {m : CohMsg}

theorem gives_dequeue_way {x : Tracker2} (hw : s.wayWaiter f = some (k, x)) : Gives (.homeRequestDequeue f) s (s.cohWay k x) := by
  simp only [Gives, exec_homeRequestDequeue, execHomeRequestDequeue, hw, done]

theorem gives_dequeue_read (hw : s.wayWaiter f = none) (hr : s.readWaiter f = some k) :
    Gives (.homeRequestDequeue f) s (s.settle k) := by
  simp only [Gives, exec_homeRequestDequeue, execHomeRequestDequeue, hw, hr, done]

theorem gives_dequeue_lineWait (hw : s.wayWaiter f = none) (hr : s.readWaiter f = none)
    (hl : s.coh.lineWait.find? (fun m => s.homeForge (m.line * 64) == f && (s.trackerOf m.line).isNone && s.trackerFree f m) = some m) :
    Gives (.homeRequestDequeue f) s ((s.modCoh (fun c => { c with lineWait := c.lineWait.erase m })).cohStart m) := by
  simp only [Gives, exec_homeRequestDequeue, execHomeRequestDequeue, hw, hr, hl, done]

/-- A line without a transaction, where no request waits for any line, is not busy. -/
theorem lineBusy_eq_false {l : Nat} (ht : s.trackerOf l = none) (hl : s.coh.lineWait = []) : s.lineBusy l = false := by
  simp [State.lineBusy, ht, hl]

theorem gives_dequeue_ingress {r : List CohMsg} (hw : s.wayWaiter f = none) (hr : s.readWaiter f = none) (hl : s.coh.lineWait = [])
    (hi : tget [] s.coh.ingress f = m :: r) (hf : s.homeForge (m.line * 64) = f) (ht : s.trackerOf m.line = none)
    (hfree : s.trackerFree f m = true) :
    Gives (.homeRequestDequeue f) s ((s.modCoh (fun c => { c with ingress := tins c.ingress f r })).cohStart m) := by
  simp [Gives, execHomeRequestDequeue, hw, hr, hl, hi, hf, ht, hfree, lineBusy_eq_false ht hl, done]

end

/-- Settles O21. That the data of an answer waits at its port for a capture's copy, and that a write which must wait does so at the home
as admitted, are the model's choice (log entry 39). -/
theorem coherenceMessagesTakeEffect : Obligations.CoherenceMessagesTakeEffect := by
  refine ⟨fun p hp s port d t h8 h1 ho hc ha hs hw hf => ?arrives,
    fun p hp s port d t h8 h1 ho hc ha hs => ⟨fun hwr hw => ?held, fun hrd hf => ?noWay⟩,
    fun p hp s port st d t h8 h1 ho hc ha hs hst => ?refused, fun s port k m t hr ha hk hd => ?applied,
    fun s port k m t hr ha hk hd hw => ?waits, fun _ _ _ => gives_ack_late, fun _ _ _ => gives_placeTake,
    fun _ _ _ => gives_placeDecline, fun _ _ _ _ => gives_dequeue_ingress, fun _ _ _ => gives_dequeue_lineWait,
    fun _ _ _ _ => gives_dequeue_way, fun _ _ _ => gives_dequeue_read, fun _ _ _ => rfl, fun _ _ _ => rfl⟩
  case arrives =>
    have hno : (p.2.writes && s.writeWaits t.part d 64) = false := by
      cases hwr : p.2.writes with
      | false => rfl
      | true => simp [hw hwr]
    rw [Gives, exec_cohRow hp, cohRequest_admitted h8 h1 ho hc ha hs]
    simp [hno, hf, done, State.cohMsgOf]
  case held =>
    rw [Gives, exec_cohRow hp, cohRequest_admitted h8 h1 ho hc ha hs]
    simp [hwr, hw, done]
  case noWay =>
    rw [Gives, exec_cohRow hp, cohRequest_admitted h8 h1 ho hc ha hs]
    simp [hrd, hf, done]
  case refused =>
    rw [Gives, exec_cohRow hp, cohRequest_admitted h8 h1 ho hc ha hs, if_pos hst, done]
  case applied => exact gives_of_if_not (exec_ack_answered hr ha hk) (by simpa using hd)
  case waits => exact gives_of_if (exec_ack_answered hr ha hk) ⟨hd, hw⟩

/-! ### Late answers (R306) -/

section
variable (s : State) (port : Nat) (t : Train)

/-- The cells of a train that is taken leave the buffer of their port, and their credits are returned there: only the ports change. -/
theorem takeTrain_eq : ∃ ports, s.takeTrain port t = { s with ports := ports } := ⟨_, rfl⟩

theorem takeTrain_coh : (s.takeTrain port t).coh = s.coh := rfl
theorem takeTrain_part (p : Nat) : (s.takeTrain port t).part p = s.part p := rfl

/-- A late answer changes the coherence counters alone. -/
theorem snpLate_eq : ∃ counters, s.snpLate t = { s with coh := { s.coh with counters := counters } } := by
  unfold State.snpLate
  split
  · exact ⟨_, rfl⟩
  · exact ⟨_, rfl⟩

variable {s t}

theorem snpLate_of_confidential (h : (s.part t.part).confidential = true) : s.snpLate t = s := if_pos h

theorem snpLate_counters (h : (s.part t.part).confidential = false) :
    (s.snpLate t).coh.counters = tcount 32 s.coh.counters (16 * bits (le t.head 4 2) 12 3 + 8) 1 := by
  simp [State.snpLate, h]

end

/-- Settles O58: the train is taken, which changes its port alone, and counted, which changes a counter alone. -/
theorem lateAnswersAreDiscarded : Obligations.LateAnswersAreDiscarded := by
  intro s port t hr ha _ hk
  refine ⟨(s.takeTrain port t).snpLate t, gives_ack_late hr ha hk, ?tiers, ?dram, ?parts, ?coh, fun hc => ?counted, fun hc => ?uncounted⟩
  case counted => exact snpLate_counters hc
  case uncounted => rw [snpLate_of_confidential ((takeTrain_part s port t t.part).symm ▸ hc), takeTrain_coh]
  all_goals
    obtain ⟨ports, htake⟩ := takeTrain_eq s port t
    obtain ⟨counters, hlate⟩ := snpLate_eq (s.takeTrain port t) t
    rw [hlate, htake]

end Sys2Proof.Proofs

namespace Sys2Proof.Proofs
open Sys2Proof.Machine Sys2Proof.Safety

/-! ### Training of a port

An event of the training acts in the states of the port that it belongs to; an IDENT is refused, or its port is keyed where the two
ends want encryption, or is ACTIVE (R320, R321). -/

section
variable {s : State} {i tx rx rate lane : Nat}

theorem exec_ident_inIdent (payload : List Byte) (hs : (s.port i).state = .ident) :
    exec (.ident i payload) s = done (if s.refusesLink i (identOf payload) = true then s.goDown i
      else if (s.port i).wantsEnc (identOf payload) = true then
        ((s.modPort i (fun p => { p with partner := some (identOf payload) })).checkWiring i).enterKeying i
      else ((s.modPort i (fun p => { p with partner := some (identOf payload) })).checkWiring i).enterActive i) := by
  simp [execIdent, hs]

theorem gives_ident_refused {payload : List Byte} (hs : (s.port i).state = .ident) (hr : s.refusesLink i (identOf payload) = true) :
    Gives (.ident i payload) s (s.goDown i) :=
  gives_of_if (exec_ident_inIdent payload hs) hr

/-- An IDENT that is not refused. -/
theorem exec_ident_accepted {payload : List Byte} (hs : (s.port i).state = .ident) (hr : s.refusesLink i (identOf payload) = false) :
    exec (.ident i payload) s = done (if (s.port i).wantsEnc (identOf payload) = true then
        ((s.modPort i (fun p => { p with partner := some (identOf payload) })).checkWiring i).enterKeying i
      else ((s.modPort i (fun p => { p with partner := some (identOf payload) })).checkWiring i).enterActive i) := by
  rw [exec_ident_inIdent payload hs, if_neg (by simp [hr])]

/-- The end of a lane's warm-up test has its effect by whether the test passed (R318). -/
theorem gives_laneWarmUpEnd (pass : Bool) (hw : (tget Lane.reset (s.port i).lanes lane).warm = true)
    (hh : 4096 ≤ (tget Lane.reset (s.port i).lanes lane).heats) : Gives (.laneWarmUpEnd i lane pass) s (s.modLane i lane (fun x =>
      if pass then { x with warm := false, admitted := true } else { x with warm := false, retry := true, heats := 0 })) :=
  gives_of_if (exec_laneWarmUpEnd i lane pass s) (by simp [hw, hh])

end

/-- Settles O22. That a port takes the widest set of the lanes that locked at both ends, and that the replay counts of a unit begin again
at a retrain, are the model's choice (log entry 40). -/
theorem portTrainingTakesEffect : Obligations.PortTrainingTakesEffect := by
  refine ⟨fun s i hd hl => ?signal, fun s i tx rx rate ht hset hr => ?trained, fun s i ht hh => ?untrained, fun s i => ?resent,
    fun _ _ _ => gives_ident_refused, fun s i payload hi hr => ?keyed, fun s i payload hi hr hw => ?clear,
    fun s i tx rx rate ht hset hr => ?retrained, fun s i ht hh => ?unretrained, fun s i hdis hdown => ?idle, fun _ _ _ => rfl, fun _ _ => rfl,
    fun s i lane hw hh => ⟨gives_laneWarmUpEnd true hw hh, gives_laneWarmUpEnd false hw hh⟩, fun s i lane hr hh => ?retry,
    fun s i c n hh => ?window⟩
  case signal => exact gives_of_if (exec_signalDetect i s) (by simp [hd, hl])
  case trained => exact gives_of_if (exec_trainingComplete i tx rx rate s) (by simp [ht, hset, hr])
  case untrained => exact gives_of_if (exec_trainingTimeout i s) (by simp [ht, hh])
  case resent => exact gives_of_if (exec_identResend i s)
  case keyed => exact gives_of_if (exec_ident_accepted hi hr)
  case clear => exact gives_of_if_not (exec_ident_accepted hi hr) (by simp [hw])
  case retrained => exact gives_of_if (exec_retrainComplete i tx rx rate s) (by simp [ht, hset, hr])
  case unretrained => exact gives_of_if (exec_retrainTimeout i s) (by simp [ht, hh])
  case idle => exact gives_of_if_not (exec_partnerIdle i s) (by simp [hdis, hdown])
  case retry => exact gives_of_if (exec_laneWarmUpRetry i lane s) (by simp [hr, hh])
  case window => exact gives_of_if_not (exec_laneErrorWindowEnd i c n s) (by omega)

end Sys2Proof.Proofs

namespace Sys2Proof.Proofs
open Sys2Proof.Machine Sys2Proof.Safety

/-! ### Units that a port receives -/

section
variable {s : State} {i : Nat} (hl : (s.port i).state = .active ∨ (s.port i).state = .keying)
include hl

/-- A sequenced unit of a good CRC comes again, lies beyond the window, or is taken (R322, R329). -/
theorem exec_linkUnitReceive_sequenced {raw : List Byte} (hc : unitCrcOk raw = true)
    (hseq : (s.port i).holds = true ∨ (cellOf (unitOf raw).body).typ ≠ 0x0) :
    exec (.linkUnitReceive i raw .clean) s = done
      (if 2048 ≤ seqDist (unitOf raw).lseq (s.port i).rxE ∨ (tfind (s.port i).reorder (unitOf raw).lseq).isSome = true then
        (s.unitCame i).countPort i 36 1
      else if (if (s.port i).holds then 256 else 512) ≤ seqDist (unitOf raw).lseq (s.port i).rxE then (s.unitCame i).countPort i 38 1
      else (s.unitCame i).unitTaken i (unitOf raw)) := by
  have hgo : ¬ ((s.port i).holds = false ∧ (cellOf (unitOf raw).body).typ = 0) := by
    rintro ⟨hno, hty⟩
    simp [hno, hty] at hseq
  obtain hst | hst := hl <;> simp [execLinkUnitReceive, hst, hc, hgo]

theorem gives_linkUnitReceive_uncorrectable (raw : List Byte) (n : Nat) :
    Gives (.linkUnitReceive i raw (.uncorrectable n)) s ((s.countPort i 20 1).countPort i 22 n) :=
  gives_of_if_not (exec_linkUnitReceive i raw (.uncorrectable n) s) (by obtain hst | hst := hl <;> simp [hst])

theorem gives_linkUnitReceive_badCrc {raw : List Byte} (hc : unitCrcOk raw = false) :
    Gives (.linkUnitReceive i raw .clean) s (s.countPort i 20 1) := by
  obtain hst | hst := hl <;> simp [Gives, execLinkUnitReceive, hst, hc, done]

theorem gives_linkCtl (payload : List Byte) : Gives (.linkCtl i payload) s (s.ctlApplied i payload) :=
  gives_of_if_not (exec_linkCtl i payload s) (by obtain hst | hst := hl <;> simp [hst])

end

/-! ### Replay timers -/

section
variable {s : State} {i ns : Nat}

/-- The unit of a replay timer is counted, and is due again or retrains its port (R331). -/
theorem exec_replayTimerExpiry_held {q : Nat} {u : ReplayUnit} (ha : (s.port i).state = .active) (hq : (s.port i).quiet = false)
    (hu : tfind (s.port i).replay q = some u) :
    exec (.replayTimerExpiry i q) s = done (if 8 ≤ u.replays then (s.countPort i 30 1).startRetrain i
      else (s.countPort i 30 1).modPort i (fun x => { x with replay := tins x.replay q { u with due := true } })) := by
  simp [execReplayTimerExpiry, ha, hq, hu]

/-! ### The unit that a port sends

A LINK_CTL that is due goes first, then a link message, and where there is neither what `State.sendUnit` chooses (R325). The boundary also
tells the time, which bears on no credit that a unit waits for (R343). -/

theorem sendUnit_replay {q : Nat} {u : ReplayUnit} (hr : (s.port i).dueReplay = some (q, u)) : s.sendUnit i ns = s.replays i q u := by
  simp only [State.sendUnit, hr]

section
variable (hr : (s.port i).dueReplay = none) (hn : (s.port i).replay.length < 1024)
include hr hn

theorem sendUnit_fullGroup (he : (s.port i).encOn = true) (hg : 16 ≤ (s.port i).txGroup.length) : s.sendUnit i ns = s.sendTag i := by
  simp [State.sendUnit, hr, hn, he, hg]

theorem sendUnit_clear (he : (s.port i).encOn = false) : s.sendUnit i ns = s.sendQueues i ns := by
  simp [State.sendUnit, hr, hn, he]

end

theorem sendQueues_ctl {c : Cell} (hc : s.nextCtl i = some c) (h0 : tget 0 (s.port i).credits 0 ≠ 0) :
    s.sendQueues i ns = s.sendCtl i ns c := by
  simp [State.sendQueues, hc, Option.filter, h0]

theorem sendQueues_queued {k : Nat} (ha : (s.port i).state = .active) (hc : s.nextCtl i = none) (hk : (s.egress i).readyQueue = some k)
    (hcr : tget 0 (s.port i).credits (k / 64) ≠ 0) : s.sendQueues i ns = s.sendQueued i k ns := by
  simp [State.sendQueues, hc, hk, Option.filter, ha, hcr]

theorem sendQueues_idle (hc : s.nextCtl i = none) (hk : (s.egress i).readyQueue = none) :
    s.sendQueues i ns = s.sentUnit i (linkUnit []) := by
  simp [State.sendQueues, hc, hk]

section
variable (ha : (s.port i).state = .active) (hq : (s.port i).quiet = false)
include ha hq

theorem gives_unitBoundary_ctl (hc : (s.port i).ctlDue = true) :
    Gives (.unitBoundary i ns) s (s.stalls i ns
      ((((s.atNs ns).modPort i (fun x => { x with ctlDue := false, sinceCtl := 0 })).sentUnit i (s.port i).linkCtl).countPort i 32
        (min 4 (s.port i).gaps.length))) := by
  simp [Gives, execUnitBoundary, ha, hq, hc, done]

theorem gives_unitBoundary_link {u : List Byte} {r : List (List Byte)} (hc : (s.port i).ctlDue = false)
    (ho : (s.port i).linkOut = u :: r) :
    Gives (.unitBoundary i ns) s (s.stalls i ns (((s.atNs ns).modPort i (fun x => { x with linkOut := r })).sentUnit i u)) := by
  simp [Gives, execUnitBoundary, ha, hq, hc, ho, done]

theorem gives_unitBoundary_sendUnit {t : State} (hc : (s.port i).ctlDue = false) (ho : (s.port i).linkOut = [])
    (ht : (s.atNs ns).sendUnit i ns = t) : Gives (.unitBoundary i ns) s (s.stalls i ns t) := by
  simp [Gives, execUnitBoundary, ha, hq, hc, ho, ht, done]

end

end

/-- Settles O23. That a LINK_CTL goes first among the units that a port sends, that a unit which overlaps an uncorrectable codeword counts
as a CRC error and the codeword once (log entry 40), and that credit stalls count unit boundaries (log entry 65), are the model's choice. -/
theorem linkUnitsTakeEffect : Obligations.LinkUnitsTakeEffect := by
  refine ⟨fun s i raw hl hc hseq => ⟨fun hw hn => ?taken, fun hd => ?again, fun hw hd hn => ?beyond⟩,
    fun _ _ n raw hl => gives_linkUnitReceive_uncorrectable hl raw n, fun _ _ _ hl => gives_linkUnitReceive_badCrc hl,
    fun _ _ payload hl => gives_linkCtl hl payload, fun s i => gives_of_if (exec_linkCtlTimer i s),
    fun s i q u ha hq hu h8 => ?due, fun s i q u ha hq hu => ?eighth, fun _ _ _ => gives_unitBoundary_ctl,
    fun _ _ _ _ _ ha hq => gives_unitBoundary_link ha hq, fun s i ns q u ha hq hc ho hr => ?replay,
    fun s i ns c ha hq hc ho hr hn he hx h0 => ?ctl, fun s i ns k ha hq hc ho hr hn he hx hk hcr => ?queued,
    fun s i ns ha hq hc ho hr hn he hg => ?tag, fun s i ns ha hq hc ho hr hn he hx hk => ?idle⟩
  case taken =>
    have hnear : seqDist (unitOf raw).lseq (s.port i).rxE < 2048 := by split at hw <;> omega
    rw [Gives, exec_linkUnitReceive_sequenced hl hc hseq, if_neg (by simp [hn, hnear]), if_neg (Nat.not_le.2 hw), done]
  case again => exact gives_of_if (exec_linkUnitReceive_sequenced hl hc hseq) hd
  case beyond => rw [Gives, exec_linkUnitReceive_sequenced hl hc hseq, if_neg (by simp [hn, hd]), if_pos hw, done]
  case due => exact gives_of_if_not (exec_replayTimerExpiry_held ha hq hu) (Nat.not_le.2 h8)
  case eighth => exact gives_of_if (exec_replayTimerExpiry_held ha hq hu)
  case replay => exact gives_unitBoundary_sendUnit ha hq hc ho (sendUnit_replay hr)
  case ctl => exact gives_unitBoundary_sendUnit ha hq hc ho ((sendUnit_clear (s := s.atNs ns) hr hn he).trans (sendQueues_ctl hx h0))
  case queued =>
    exact gives_unitBoundary_sendUnit ha hq hc ho ((sendUnit_clear (s := s.atNs ns) hr hn he).trans (sendQueues_queued ha hx hk hcr))
  case tag => exact gives_unitBoundary_sendUnit ha hq hc ho (sendUnit_fullGroup hr hn he hg)
  case idle => exact gives_unitBoundary_sendUnit ha hq hc ho ((sendUnit_clear (s := s.atNs ns) hr hn he).trans (sendQueues_idle hx hk))

end Sys2Proof.Proofs

namespace Sys2Proof.Proofs
open Sys2Proof.Machine Sys2Proof.Safety

/-! ### Lane commands

Of a lane command that is under way, its phase and the end that it came from decide what an event of it does (R332–R335). -/

section
variable {s : State} {i : Nat} {c : LaneCmd}

theorem gives_laneCmd {payload : List Byte} {op : LaneOp} (ha : (s.port i).state = .active)
    (ho : laneOpOf (le payload 2 1) = some op) (hn : (s.port i).laneCmd = none) :
    Gives (.laneCmd i payload) s (s.laneAnswers i (laneCmdOf payload op) none) := by
  simp only [Gives, exec_laneCmd, execLaneCmd, ha, ho, hn, done]

section
variable (hc : (s.port i).laneCmd = some c)
include hc

/-- The answer to a command of this end has it go on or end. -/
theorem exec_laneAck_own {payload : List Byte} (hown : c.own = true) (hph : c.phase = .sent) (hid : c.id = le payload 1 1) :
    exec (.laneAck i payload) s = done (if le payload 2 1 = 0 then
        (s.modPort i (fun p => { p with laneCmd := some { c with phase := .goSent, heats := 0 } })).sendLink i (laneGoUnit c.id)
      else s.endLane i) := by
  simp [execLaneAck, hc, hown, hph, hid]

/-- LANE_GO has the partner's direction switch where it answers this end's own, and where it follows this end's acceptance. -/
theorem gives_laneGo {payload : List Byte} (hid : c.id = le payload 1 1)
    (hgo : c.own = true ∧ c.phase = .goSent ∨ c.own = false ∧ c.phase = .acked ∧ c.op ≠ .retrain) :
    Gives (.laneGo i payload) s (s.modPort i (fun p => { p with laneCmd := some { c with phase := .switching } })) := by
  obtain ⟨hown, hph⟩ | ⟨hown, hph, hop⟩ := hgo
  · simp [Gives, execLaneGo, hc, hid, hown, hph, done]
  · simp [Gives, execLaneGo, hc, hid, hown, hph, hop, done]

/-- Before a retrain the partner's end answers with a LANE_GO of its own (R333). -/
theorem gives_laneGo_retrain {payload : List Byte} (hid : c.id = le payload 1 1) (hown : c.own = false) (hph : c.phase = .acked)
    (hop : c.op = .retrain) : Gives (.laneGo i payload) s
      ((s.modPort i (fun p => { p with laneCmd := some { c with phase := .switching } })).sendLink i (laneGoUnit c.id)) := by
  simp [Gives, execLaneGo, hc, hid, hown, hph, hop, done]

theorem gives_laneSwitch_retrain {rx : Bool} (hph : c.phase = .switching) (hop : c.op = .retrain) :
    Gives (.laneSwitch i rx) s (s.startRetrain i) := by
  simp [Gives, execLaneSwitch, hc, hph, hop, done]

theorem gives_laneSwitch {rx : Bool} (hop : c.op ≠ .retrain) (hm : c.maySwitch rx = true) : Gives (.laneSwitch i rx) s
    (if rx = true ∧ c.own = false then ((s.modPort i (fun p => p.switched c rx)).sendLink i (laneGoUnit c.id)).laneDone i
      else (s.modPort i (fun p => p.switched c rx)).laneDone i) := by
  rw [← apply_ite (State.laneDone · i)]
  simp [Gives, execLaneSwitch, hc, hop, hm, done]

/-- A command of this end that has not been answered is sent again three times (R335). -/
theorem exec_laneCmdTimeout_own (hown : c.own = true) (hph : c.phase = .sent) (hh : 1 ≤ c.heats) :
    exec (.laneCmdTimeout i) s = done (if c.resends < 3 then
        (s.modPort i (fun p => { p with laneCmd := some { c with resends := c.resends + 1, heats := 0 } })).sendLink i
          ((s.port i).laneCmdUnit c)
      else s.startRetrain i) := by
  simp [execLaneCmdTimeout, hc, hown, hph, Nat.one_le_iff_ne_zero.1 hh]

theorem gives_laneGoTimeout (hown : c.own = true) (hph : c.phase = .goSent) (hh : 1 ≤ c.heats) :
    Gives (.laneGoTimeout i) s (s.startRetrain i) :=
  gives_of_if (exec_laneGoTimeout i s) (by simp [hc, hown, hph, hh])

end

end

/-- Settles O24: the law of each event, by the phase of the command that is under way and the end that it came from. -/
theorem laneCommandsTakeEffect : Obligations.LaneCommandsTakeEffect :=
  ⟨fun _ _ _ _ => gives_laneCmd,
    fun _ _ _ _ hc hown hph hid =>
      ⟨gives_of_if (exec_laneAck_own hc hown hph hid), gives_of_if_not (exec_laneAck_own hc hown hph hid)⟩,
    fun _ _ _ _ hc hid => ⟨gives_laneGo hc hid, gives_laneGo_retrain hc hid⟩,
    fun _ _ _ _ hc => gives_laneSwitch_retrain hc, fun _ _ _ _ hc => gives_laneSwitch hc,
    fun s i => gives_of_if (exec_rateChangeRelock i s),
    fun _ _ _ hc hown hph hh =>
      ⟨gives_of_if (exec_laneCmdTimeout_own hc hown hph hh),
        fun h3 => gives_of_if_not (exec_laneCmdTimeout_own hc hown hph hh) (Nat.not_lt.2 h3)⟩,
    fun _ _ _ => gives_laneGoTimeout⟩

end Sys2Proof.Proofs

namespace Sys2Proof.Proofs
open Sys2Proof.Machine Sys2Proof.Safety

/-! ### The exchange of link keys -/

section
variable {s : State} {i : Nat} {m : KeyMsg} {k : Keying}

/-- Step 1 is answered where its key is the partner's and this end can key (R466, R467). -/
theorem exec_linkKeyExchange1_awaited (hs : (s.port i).state = .keying) (hb : (s.port i).isA = false)
    (hk : (s.port i).keying = some k) (h0 : k.step = 0) :
    exec (.linkKeyExchange1 i m) s = done (if (s.port i).keyBelongs m.pk = false ∨ s.canKey = false then s.goDown i
      else s.answerStepOne i m) := by
  simp [execLinkKeyExchange1, hs, hb, hk, h0]

theorem gives_linkKeyExchange2 (hs : (s.port i).state = .keying) (hk : (s.port i).keying = some k) (ha : k.initiator = true)
    (h1 : k.step = 1) : Gives (.linkKeyExchange2 i m) s
      (if (s.port i).keyBelongs m.pk && Config.slhVerify m.pk (s.stepTwoText i k m) m.sig then s.answerStepTwo i k m else s.goDown i) := by
  simp only [Gives, exec_linkKeyExchange2, execLinkKeyExchange2, hs, hk, ha, h1, done]
  rw [← Bool.not_and]
  cases (s.port i).keyBelongs m.pk && Config.slhVerify m.pk (s.stepTwoText i k m) m.sig <;> rfl

theorem gives_linkKeyExchange3 {tx rx : LinkKey} (hs : (s.port i).state = .keying) (hk : (s.port i).keying = some k)
    (ht : (s.port i).txNext = some tx) (hr : (s.port i).rxNext = some rx) (h2 : k.step = 2) : Gives (.linkKeyExchange3 i m) s
      (if Config.slhVerify k.peerKey (sha256 (k.transcript ++ [1])) m.sig then s.keysIn i tx rx else s.goDown i) := by
  simp only [Gives, exec_linkKeyExchange3, execLinkKeyExchange3, hs, hk, ht, hr, h2, done]
  cases Config.slhVerify k.peerKey (sha256 (k.transcript ++ [1])) m.sig <;> rfl

/-! ### Rekeys -/

section
variable (ha : (s.port i).state = .active)
include ha

theorem mayRekey_iff (he : (s.port i).encOn = true) : s.mayRekey i = true ↔
    (s.port i).keying = none ∧ (s.port i).txNext = none ∧ (s.port i).rxNext = none ∧ s.canKey = true := by
  simp [State.mayRekey, ha, he, and_assoc]

/-- A trigger starts a rekey, or is noted (R342). -/
theorem exec_rekeyTrigger_encrypted (he : (s.port i).encOn = true) :
    exec (.rekeyTrigger i) s = done (if s.mayRekey i = true then s.sendStepOne i true
      else s.modPort i (fun x => { x with rekeyWanted := true })) := by
  simp [execRekeyTrigger, ha, he]

/-- Of two rekeys begun at once, that of the end with the higher LINK_ID goes on. -/
theorem exec_rekeyExchange1_encrypted (he : (s.port i).encOn = true) (hc : s.canKey = true) :
    exec (.rekeyExchange1 i m) s = done (if (s.port i).keying ≠ none ∧ (s.port i).isA = true then s else s.answerRekey i m) := by
  simp [execRekeyExchange1, ha, he, hc, Option.isSome_iff_ne_none]

theorem gives_rekeyExchange2 (hk : (s.port i).keying = some k) (hr : k.rekey = true) (h1 : k.step = 1) :
    Gives (.rekeyExchange2 i m) s (s.modPort i (fun x =>
      let ks := (s.port i).nextKeys (kemOpen k.secret m.kem) k.nonce m.nonce true
      { x with txNext := some ks.1, rxNext := some ks.2.1, chain := ks.2.2, keying := none })) := by
  simp [Gives, execRekeyExchange2, ha, hk, hr, h1, done]

end

/-- A group that is complete with its TAG unit verifies or has failed (R340, R341). -/
theorem gives_tagUnit {us : List LinkUnit} {c : Cell} (he : (s.port i).encOn = true) (hg : (s.port i).heldGroup = some (us, c)) :
    Gives (.tagUnit i) s (match (s.port i).opens us c with | some plain => s.groupVerified i us c plain | none => s.groupFailed i us c) := by
  simp only [Gives, exec_tagUnit, execTagUnit, he, hg, done]
  cases (s.port i).opens us c <;> rfl

end

/-- Settles O25. That a rekey which is asked for while an exchange is under way is remembered (log entry 81), and which end's rekey goes
on where both have begun one (log entry 41), are the model's choice. -/
theorem linkKeysAndGroupsTakeEffect : Obligations.LinkKeysAndGroupsTakeEffect := by
  refine ⟨fun s i m k hs hb hk h0 hp hc => ?answered, fun s i m k hs hb hk h0 => ?stepOneDown, fun _ _ _ _ => gives_linkKeyExchange2,
    fun _ _ _ _ _ _ => gives_linkKeyExchange3, fun s i hs hh => ?timeout, fun s i ha he hk ht hr hc => ?rekeyed,
    fun s i ha he hno => ?noted, fun s i m ha he hc => ⟨fun hans => ?theirs, fun hk hA => ?ours⟩, fun _ _ _ _ => gives_rekeyExchange2,
    fun s i he hg => ?closed, fun _ _ _ _ => gives_tagUnit⟩
  case answered => exact gives_of_if_not (exec_linkKeyExchange1_awaited hs hb hk h0) (by simp [hp, hc])
  case stepOneDown => exact gives_of_if (exec_linkKeyExchange1_awaited hs hb hk h0)
  case timeout => exact gives_of_if (exec_keyingTimeout i s) (by simp [hs, hh])
  case rekeyed => exact gives_of_if (exec_rekeyTrigger_encrypted ha he) ((mayRekey_iff ha he).2 ⟨hk, ht, hr, hc⟩)
  case noted =>
    refine gives_of_if_not (exec_rekeyTrigger_encrypted ha he) fun hmay => ?_
    obtain ⟨hk, ht, hr, hc⟩ := (mayRekey_iff ha he).1 hmay
    simp [hk, ht, hr, hc] at hno
  case theirs =>
    refine gives_of_if_not (exec_rekeyExchange1_encrypted ha he hc) fun ⟨hk, hA⟩ => ?_
    simp [hk, hA] at hans
  case ours => exact gives_of_if (exec_rekeyExchange1_encrypted ha he hc) ⟨hk, hA⟩
  case closed => exact gives_of_if (exec_groupCloseTimer i s) (by simp [he, hg])

end Sys2Proof.Proofs

namespace Sys2Proof.Proofs
open Sys2Proof.Machine Sys2Proof.Safety

/-! ### The front of the queue -/

theorem step_withFront (c : Instr) (s : State) : step (s.withFront c) = exec c s := step_of_front rfl

/-- Settles O46. That a step on an empty queue idles is the model's choice (log entry 1). -/
theorem stepRunsTheFront : Obligations.StepRunsTheFront :=
  ⟨fun _ _ _ => step_of_front, fun _ => step_of_idle, step_withFront, fun _ _ _ => ⟨rfl, rfl⟩⟩

/-! ### The mailbox timeout -/

section
variable {s : State} {p : Nat}

/-- A submission that Hearth takes counts the boundaries of MBX_TIMEOUT as it stands. -/
theorem left_submit (hr : s.hearthRefuses = none) (indirect : Bool) (msg : List Byte) :
    ((s.submit p indirect msg).page p).left = if (s.page p).timeout = 0 then none else some (s.page p).timeout := by
  have hr' (f : Page → Page) : (s.modPage p f).hearthRefuses = none := hr
  simp only [State.submit, hr', State.page_modPage_same]

theorem writePage_timeout (hp : (s.part p).state ≠ .free) (n v : Nat) :
    s.writePage p 0x10 0 n v = s.modPage p (fun g => { g with timeout := v % 2 ^ 16 }) := by
  simp only [State.writePage, hp, if_false, if_true]

end

/-- Settles O59: the count of a command is set by its submission alone. -/
theorem timeoutReadAtSubmission : Obligations.TimeoutReadAtSubmission := by
  refine ⟨fun s p i m hr => left_submit hr i m, fun s p n v hp => ⟨writePage_timeout hp n v, ?left, ?state⟩, fun s p n v i m hp hr => ?next⟩
  case left => simp [writePage_timeout hp]
  case state => simp [writePage_timeout hp]
  case next =>
    have hr' (f : Page → Page) : (s.modPage p f).hearthRefuses = none := hr
    rw [writePage_timeout hp, left_submit (hr' _), State.page_modPage_same]

/-! ### Epochs in SOLO -/

theorem mem_foldl_addSorted {g : Nat} {l m : List Nat} (h : g ∈ l ∨ g ∈ m) : g ∈ l.foldl (fun m x => addSorted x m) m := by
  induction l generalizing m with
  | nil => simpa using h
  | cons x l ih =>
    refine ih ?_
    rw [mem_addSorted_iff]
    rcases h with h | h
    · exact (List.mem_cons.1 h).elim (fun hx => .inr (.inl hx)) .inl
    · exact .inr (.inr h)

section
variable {s : State}

/-- A write to an EPOCH extent in SOLO marks its segments in both sets and sends nothing. -/
theorem mirror_epoch_of_solo {d n : Nat} {data : List Byte} {poison : Bool} {answer : Option Train} (hs : s.twin.state = .solo)
    (hd : s.extentAt d = some n) (hm : (s.ext n).mirror = 2) : (s.mirror d data poison answer).1 =
      (s.modTwin (fun t => { t with resync := (segsOf d data.length).foldl (fun l g => addSorted g l) t.resync })).modEpoch
        (s.ext n).part (fun e => { e with dirty := (segsOf d data.length).foldl (fun l g => addSorted g l) e.dirty }) := by
  simp only [State.mirror, hd, hm, OfNat.ofNat_ne_one, if_false, if_true]
  exact if_pos hs

theorem beginEpoch_of_not_primary (p : Nat) (hs : s.twin.state ≠ .primary) :
    s.beginEpoch p = s.okWith (leBytes 4 (s.epoch p).number) := by
  simp only [State.beginEpoch, hs, ne_eq, not_false_eq_true, if_true]

end

/-- Settles O57. -/
theorem epochsInSolo : Obligations.EpochsInSolo := by
  refine ⟨fun s d n data poison answer hs hd hm => ?marks, fun s p hs => beginEpoch_of_not_primary p (by simp [hs])⟩
  rw [mirror_epoch_of_solo hs hd hm]
  exact ⟨rfl, congrArg Epoch.dirty (State.epoch_modEpoch_same s _ _), fun g hg => mem_foldl_addSorted (.inl hg), rfl, rfl⟩

/-! ### The throttle rung -/

/-- What becomes of a rung `n` below 7, of tests of which some trigger and of which `hold` says that some are within their hold time. -/
theorem rung_choice (n : Nat) (tests : List (Nat × Bool × Bool)) (hold : Nat × Bool × Bool → Bool) {up : Bool}
    (hup : up = (decide (n < 6) && tests.any (fun y => y.2.1 && (y.1 != 7 || decide (n < 4))))) {m : Nat}
    (hm : m = if up then n + 1 else if decide (0 < n) && !up && !tests.any (fun y => y.2.1 || hold y) then n - 1 else n) :
    (n < 6 ∧ (∃ r ∈ tests, r.2.1 = true) ∧ m = n + 1) ∨ (0 < n ∧ (∀ r ∈ tests, r.2.1 = false) ∧ m = n - 1) ∨ m = n := by
  subst hm
  split
  · next h =>
    rw [hup, Bool.and_eq_true, decide_eq_true_eq, List.any_eq_true] at h
    obtain ⟨hlt, r, hr, ht⟩ := h
    exact .inl ⟨hlt, ⟨r, hr, (Bool.and_eq_true_iff.1 ht).1⟩, rfl⟩
  · split
    · next h =>
      rw [Bool.and_eq_true, Bool.and_eq_true, decide_eq_true_eq, Bool.not_eq_true' (List.any ..), List.any_eq_false] at h
      obtain ⟨⟨hlt, -⟩, hno⟩ := h
      exact .inr (.inl ⟨hlt, fun r hr => (Bool.or_eq_false_iff.1 (Bool.eq_false_iff.2 (hno r hr))).1, rfl⟩)
    · exact .inr (.inr rfl)

/-- What duty 4 can make of the rung: one more where a reason triggers, one less where none does, or no change. -/
theorem rung_throttle_cases (s : State) (x : Sample) :
    (s.bellows.rung < 6 ∧ (∃ r ∈ s.reasonTests x, r.2.1 = true) ∧ (s.throttle x).bellows.rung = s.bellows.rung + 1) ∨
    (0 < s.bellows.rung ∧ (∀ r ∈ s.reasonTests x, r.2.1 = false) ∧ (s.throttle x).bellows.rung = s.bellows.rung - 1) ∨
    (s.throttle x).bellows.rung = s.bellows.rung := by
  apply rung_choice (hup := rfl)
  simp only [State.throttle, apply_ite State.bellows, Laws.deviceEvent_bellows, ite_self, State.modBellows_bellows]
  rfl

/-- Settles O45. -/
theorem throttleRungMovesByOne : Obligations.ThrottleRungMovesByOne := by
  intro s x h6
  obtain ⟨hlt, ht, hn⟩ | ⟨hlt, ht, hn⟩ | hn := rung_throttle_cases s x <;> rw [hn]
  · exact ⟨hlt, le_rfl, by omega, fun _ => ht, by omega⟩
  · exact ⟨by omega, by omega, by omega, by omega, fun _ => ht⟩
  · exact ⟨h6, by omega, by omega, by omega, by omega⟩

/-! ### Shapers at a boundary -/

section
variable (s : State)

/-- Duty 3 refills the shapers that a port lists. -/
theorem shaper_dutyShapers (i q : Nat) : tget Shaper.reset (s.dutyShapers.egress i).shapers q =
    ((tfind (s.egress i).shapers q).map (·.refill s.bellows.scale)).getD Shaper.reset := by
  have h : s.dutyShapers.egress i = { s.egress i with shapers := tmap (s.egress i).shapers (fun _ x => x.refill s.bellows.scale) } := by
    simp only [State.egress, State.dutyShapers, tget, tfind_tmap]
    cases tfind s.routing.ports i <;> rfl
  rw [h, tget, tfind_tmap]

/-- What is changed on each of some ports, on none of them twice. -/
theorem egress_foldl_modEgress {l : List Nat} (hl : l.Nodup) (f : Egress → Egress) (i : Nat) :
    (l.foldl (fun a k => a.modEgress k f) s).egress i = if i ∈ l then f (s.egress i) else s.egress i := by
  induction l generalizing s with
  | nil => rfl
  | cons k l ih =>
    obtain ⟨hk, hl⟩ := List.nodup_cons.1 hl
    rw [List.foldl_cons, ih _ hl, State.egress_modEgress]
    by_cases hi : i = k
    · subst hi
      simp [hk]
    · simp [hi]

end

section
variable (s : State) (ports p : Nat) (full : Bool) (rate burst : Nat)

theorem apply_shaperSet : (s.apply (.shaperSet ports p full rate burst)).state = s.setShaper ports p full rate burst := rfl

theorem nodup_maskPorts : (s.maskPorts ports).Nodup := ((List.nodup_range).filter _).filter _

/-- shaper-set changes one shaper of each port that it names, and nothing else. -/
theorem shapers_setShaper (i : Nat) : ((s.setShaper ports p full rate burst).egress i).shapers =
    if i ∈ s.maskPorts ports then tmod Shaper.reset (s.egress i).shapers p (fun x =>
      { x with rate := rate, burst := burst, pendingReset := some full }) else (s.egress i).shapers := by
  rw [State.setShaper, egress_foldl_modEgress _ (nodup_maskPorts s ports)]
  split <;> rfl

theorem bellows_setShaper : (s.setShaper ports p full rate burst).bellows = s.bellows := by
  unfold State.setShaper
  induction s.maskPorts ports generalizing s with
  | nil => rfl
  | cons i l ih => exact ih _

end

/-- Settles O56: duty 3 meets what shaper-set left, whose pending reset stands in for the refill. -/
theorem shaperSetReplacesTheRefill : Obligations.ShaperSetReplacesTheRefill := by
  refine ⟨fun s ports p full rate burst i hi => ?set, fun s ports p full rate burst i q hn => ?other⟩
  case set =>
    rw [apply_shaperSet, shaper_dutyShapers, shapers_setShaper, if_pos hi, tmod, tfind_tins_same]
    rfl
  case other =>
    rw [apply_shaperSet, shaper_dutyShapers, shaper_dutyShapers, shapers_setShaper, bellows_setShaper]
    split
    · next hi => rw [tmod, tfind_tins_ne _ _ _ _ (hn.resolve_left (not_not.2 hi))]
    · rfl

end Sys2Proof.Proofs

namespace Sys2Proof.Proofs
open Sys2Proof.Machine Sys2Proof.Safety

/-! ### Transit cells -/

/-- The output of a transit cell (R348, R352): cell 0 of a train takes a route, a later cell that of its train; `dropMark` is none. -/
def transitOut (s : State) (i vc : Nat) (c : Cell) : Nat :=
  if c.seq = 0 then (if s.forwards then (s.chooseOut c.dst c.src c.tag).getD dropMark else dropMark)
  else tget dropMark (s.egress i).route vc

section
variable {s : State} {i vc ns out : Nat} {c : Cell} {r : List Cell}

theorem transitOut_of_route (h : c.seq = 0 ∧ s.forwards = true ∧ s.chooseOut c.dst c.src c.tag = some out ∨
    c.seq ≠ 0 ∧ tget dropMark (s.egress i).route vc = out) : transitOut s i vc c = out := by
  obtain ⟨h0, hf, ho⟩ | ⟨h0, ho⟩ := h
  · simp [transitOut, h0, hf, ho]
  · simp [transitOut, h0, ho]

theorem transitOut_of_no_route (h0 : c.seq = 0) (hn : s.chooseOut c.dst c.src c.tag = none) : transitOut s i vc c = dropMark := by
  simp [transitOut, h0, hn]

section
variable (hc : tget [] (s.port i).vcBuf vc = c :: r) (hd : s.inChip c.dst = false) (ht : (s.egress i).twin = false)
include hc hd ht

/-- The cell at the head of a VC buffer, for another chip: the masks decide on it, then its output, then who waits there. -/
theorem exec_transitCell_front (ho : transitOut s i vc c = out) : exec (.transitCell i vc ns) s = done (
    if s.transitOk i c = false ∨ out ≠ dropMark ∧ s.transitOk out c = false then
      (((s.atNs ns).takeCells i vc [c]).modEgress i (fun e => { e with route := tins e.route vc out })).countQueue
        (if out = dropMark then s.blamePort c.dst i else out) 8 1
    else if out = dropMark then
      (if c.seq = 0 then State.noOutput (((s.atNs ns).takeCells i vc [c]).modEgress i (fun e => { e with route := tins e.route vc dropMark })) c i
       else ((s.atNs ns).takeCells i vc [c]).modEgress i (fun e => { e with route := tins e.route vc dropMark }))
    else if (tget [] (s.egress out).waiting vc).any (fun x => x.1 == i) = true then s.atNs ns
    else ((s.atNs ns).modEgress i (fun e => { e with route := tins e.route vc out })).comeUp out i (s.nsNow ns) c) := by
  subst ho
  have hc' : tget [] ((s.atNs ns).port i).vcBuf vc = c :: r := hc
  have hg : ((s.atNs ns).inChip c.dst || ((s.atNs ns).egress i).twin) = false := by rw [Bool.or_eq_false_iff]; exact ⟨hd, ht⟩
  rw [exec_transitCell, execTransitCell]
  simp only [hc', hg, Bool.false_eq_true, if_false, Bool.or_eq_true, Bool.and_eq_true, Bool.not_eq_true', bne_iff_ne]
  rfl

theorem gives_transitCell_comesUp (ho : transitOut s i vc c = out) (hn : out ≠ dropMark) (hi : s.transitOk i c = true)
    (hj : s.transitOk out c = true) (hw : (tget [] (s.egress out).waiting vc).any (fun x => x.1 == i) = false) :
    Gives (.transitCell i vc ns) s
      (((s.atNs ns).modEgress i (fun e => { e with route := tins e.route vc out })).comeUp out i (s.nsNow ns) c) := by
  rw [Gives, exec_transitCell_front hc hd ht ho, if_neg (by simp [hi, hj]), if_neg hn, if_neg (by simp [hw]), done]

theorem gives_transitCell_waits (ho : transitOut s i vc c = out) (hn : out ≠ dropMark) (hi : s.transitOk i c = true)
    (hj : s.transitOk out c = true) (hw : (tget [] (s.egress out).waiting vc).any (fun x => x.1 == i) = true) :
    Gives (.transitCell i vc ns) s (s.atNs ns) := by
  rw [Gives, exec_transitCell_front hc hd ht ho, if_neg (by simp [hi, hj]), if_neg hn, if_pos hw, done]

theorem gives_transitCell_masked (ho : transitOut s i vc c = out) (hn : out ≠ dropMark)
    (hm : s.transitOk i c = false ∨ s.transitOk out c = false) : Gives (.transitCell i vc ns) s
      ((((s.atNs ns).takeCells i vc [c]).modEgress i (fun e => { e with route := tins e.route vc out })).countQueue out 8 1) := by
  rw [Gives, exec_transitCell_front hc hd ht ho, if_pos (hm.imp_right (And.intro hn)), if_neg hn, done]

theorem gives_transitCell_unrouted (h0 : c.seq = 0) (hn : s.chooseOut c.dst c.src c.tag = none) (hi : s.transitOk i c = true) :
    Gives (.transitCell i vc ns) s
      ((((s.atNs ns).takeCells i vc [c]).modEgress i (fun e => { e with route := tins e.route vc dropMark })).noOutput c i) := by
  rw [Gives, exec_transitCell_front hc hd ht (transitOut_of_no_route h0 hn), if_neg (by simp [hi]), if_pos rfl, if_pos h0, done]

end

end

/-! ### The egress scheduler and cut trains -/

theorem gives_egressTrainStart {s : State} {i granule units k : Nat} (hf : (s.egress i).free = true)
    (hk : s.pickQueue i granule units = some k) : Gives (.egressTrainStart i granule units) s (s.startTrain i k) := by
  simp only [Gives, exec_egressTrainStart, execEgressTrainStart, hf, hk, if_true, done]

/-- Settles O26. That a drop by a mask counts at the output, and that a cell waits at its input, are the model's choice (log entry 42). -/
theorem transitAndEgressTakeEffect : Obligations.TransitAndEgressTakeEffect := by
  refine ⟨fun s i vc ns out c r hc hd ht hr hn => ?routed, fun s i vc ns c r => gives_transitCell_unrouted, fun _ _ _ _ _ => gives_egressTrainStart,
    fun s i vc o ho hh => gives_of_if (exec_trainTruncation i vc s) (by simp [ho, hh]),
    fun s i vc h hh h1 => gives_of_if (exec_outputVcRelease i vc s) (by simp [hh, h1])⟩
  have ho := transitOut_of_route hr
  exact ⟨gives_transitCell_comesUp hc hd ht ho hn, gives_transitCell_waits hc hd ht ho hn, gives_transitCell_masked hc hd ht ho hn⟩

end Sys2Proof.Proofs

namespace Sys2Proof.Proofs
open Sys2Proof.Machine Sys2Proof.Safety

/-! ### Little-endian fields of a reply -/

@[simp] theorem length_leBytes (n v : Nat) : (leBytes n v).length = n := by
  induction n generalizing v with
  | zero => rfl
  | succ n ih => simp [leBytes, ih]

@[simp] theorem length_zeros (n : Nat) : (zeros n).length = n := List.length_replicate ..

theorem leVal_leBytes (n v : Nat) : leVal (leBytes n v) = v % 256 ^ n := by
  induction n generalizing v with
  | zero => simp [leBytes, leVal, Nat.mod_one]
  | succ n ih =>
    rw [leBytes, leVal, ih, BitVec.toNat_ofNat]
    exact Nat.mod_mul.symm.trans (congrArg (v % ·) Nat.pow_succ'.symm)

section
variable {a b : List Byte} {off n v : Nat}

theorem le_append_left (h : off + n ≤ a.length) : le (a ++ b) off n = le a off n := by
  rw [le, le, List.drop_append_of_le_length (by omega), List.take_append_of_le_length (by rw [List.length_drop]; omega)]

/-- A field that ends a list reads the number that was put there, as far as the field holds it. -/
theorem le_append_leBytes (h : a.length = off) : le (a ++ leBytes n v) off n = v % 256 ^ n := by
  rw [le, List.drop_left' h, List.take_of_length_le (length_leBytes n v).le, leVal_leBytes]

end

/-! ### The mailboxes of a head -/

section
variable {s : State} {h op : Nat} {p : Bool} {i : List Byte}

theorem mailbox_of_serving {a : CxlAnswer} (hu : s.headUp h = true) (hr : s.hearthRefuses = none) : s.mailbox h p op a =
    (a.state.modHead h (fun x =>
      if p then { x with primary := some { opcode := op, code := a.code, payload := a.payload } }
      else { x with secondary := some { opcode := op, code := a.code, payload := a.payload } })).countHead h (if p then 36 else 38) 1 := by
  simp only [State.mailbox, hu, hr, Bool.not_true, Bool.false_eq_true, if_false, Option.isSome_none]

theorem mailbox_of_refusing {a : CxlAnswer} {st : Nat} (hu : s.headUp h = true) (hr : s.hearthRefuses = some st) : s.mailbox h p op a =
    (s.modHead h (fun x =>
      if p then { x with primary := some { opcode := op, code := rcRefused st, payload := [] } }
      else { x with secondary := some { opcode := op, code := rcRefused st, payload := [] } })).countHead h (if p then 36 else 38) 1 := by
  simp only [State.mailbox, hu, hr, Bool.not_true, Bool.false_eq_true, if_false, Option.isSome_some, if_true]

/-- A command without a payload answers `a`, and the length code on a payload. -/
theorem gives_of_no_payload {c : Instr} {a : CxlAnswer}
    (hx : exec c s = done (s.mailbox h p op (if !i.isEmpty then s.answer rcLength else a))) :
    Gives c s (s.mailbox h p op (if i = [] then a else s.answer rcLength)) := by
  rw [Gives, hx, done]
  cases i <;> rfl

theorem gives_getLog (h24 : i.length = 24) (hu : i.take 16 = celUuid) (hl : le i 20 4 ≤ 8192)
    (he : le i 16 4 + le i 20 4 ≤ (s.celBytes p).length) : Gives (.getLog h p i) s
      (s.mailbox h p 0x0401 { code := 0, payload := ((s.celBytes p).drop (le i 16 4)).take (le i 20 4), state := s.drawn }) := by
  have hr : (decide (8192 < le i 20 4) || decide ((s.celBytes p).length < le i 16 4 + le i 20 4)) = false := by simp [hl, he]
  simp only [Gives, exec_getLog, execGetLog, h24, hu, hr, ne_eq, not_true_eq_false, Bool.false_eq_true, if_false, done]
  rfl

theorem gives_setTimestamp (h8 : i.length = 8) : Gives (.setTimestamp h true i) s
    (s.mailbox h true 0x0301 ((s.modHead h (fun x => { x with timestamp := le i 0 8 })).answer 0)) := by
  simp only [Gives, exec_setTimestamp, execSetTimestamp, h8, ne_eq, not_true_eq_false, Bool.not_true, Bool.false_eq_true, if_false, done]

theorem gives_setTimestamp_secondary :
    Gives (.setTimestamp h false i) s (s.mailbox h false 0x0301 (s.answer rcUnsupported)) := rfl

/-! ### Events -/

section
variable {l n : Nat} (hl : le i 0 1 = l) (h5 : l < 5) (hn : le i 2 1 = n) (hlen : i.length = 6 + 2 * n)
include hl h5 hn hlen

/-- A clear of the right form clears the whole log, or the oldest records that it names in order. -/
theorem gives_clearEventRecords : Gives (.clearEventRecords h p i) s (s.mailbox h p 0x0101 (
    if bit (le i 1 1) 0 = true then
      (s.modHead h (fun y => { y with logs := tins y.logs l { recs := [], overflow := false, lost := 0 } })).answer 0
    else if inOrder (tget EventLog.reset (s.head h).logs l).recs (leList 2 n (i.drop 6)) = false then s.answer rcHandle
    else (s.modHead h (fun y => { y with
      logs := tins y.logs l { recs := (tget EventLog.reset (s.head h).logs l).recs.drop n, overflow := false, lost := 0 } })).answer 0)) := by
  have hform : (decide (i.length < 6) || decide (i.length ≠ 6 + 2 * n)) = false := by simp [hlen]
  simp only [Gives, exec_clearEventRecords, execClearEventRecords, hl, hn, hform, Nat.not_le.2 h5, Bool.false_eq_true, if_false,
    Bool.not_eq_true', done]

end

theorem gives_setEventInterruptPolicy (hlen : i.length = 4 ∨ i.length = 5) (hb : ∀ b, b ∈ i → b.toNat % 4 < 2) :
    Gives (.setEventInterruptPolicy h p i) s
      (s.mailbox h p 0x0103 ((s.modHead h (fun x => { x with policy := fit 5 (i ++ x.policy.drop i.length) })).answer 0)) := by
  have hform : (decide (i.length ≠ 4) && decide (i.length ≠ 5)) = false := by
    rcases hlen with hlen | hlen <;> simp [hlen]
  have hset : i.any (fun b => decide (2 ≤ b.toNat % 4)) = false := by simpa using hb
  simp only [Gives, exec_setEventInterruptPolicy, execSetEventInterruptPolicy, hform, hset, Bool.false_eq_true, if_false, done]

@[simp] theorem length_freeBytes (n : Nat) : (s.freeBytes n).length = n := by
  simp [State.freeBytes]

/-- A command that answers with the payload `l`, of which a field is told. -/
theorem completes_of_payload {c : Instr} {a : CxlAnswer} {l : List Byte} {q : List Byte → Prop} (hx : exec c s = done (s.mailbox h p op a))
    (ha : a = s.drawn.payload l) (hq : q l) : Completes c s (fun t => ∃ l,
      t = drive (s.mailbox h p op { code := 0, payload := l, state := s.drawn }) ∧ q l) := by
  subst ha
  exact ⟨_, hx, l, rfl, hq⟩

theorem completes_getEventRecords {b : Byte} (hb : b.toNat < 5) : Completes (.getEventRecords h p [b]) s (fun t => ∃ l,
    t = drive (s.mailbox h p 0x0100 { code := 0, payload := l, state := s.drawn }) ∧
    le l 20 2 = min 63 ((tget EventLog.reset (s.head h).logs b.toNat).recs.flatMap EventRec.parts).length) := by
  have hl : le [b] 0 1 = b.toNat := by simp [le, leVal]
  refine completes_of_payload (exec_getEventRecords h p [b] s)
    ((if_neg (by simp)).trans (if_neg (by omega))) ?_
  have hlen (c : Bool) : (if c = true then s.freeBytes 16 else zeros 16).length = 16 := by cases c <;> simp
  rw [le_append_left (by simp [hlen]), le_append_left (by simp [hlen]), le_append_leBytes (by simp [hlen]), List.length_take, hl]
  omega

/-! ### The memory device -/

theorem completes_getPoisonList (h16 : i.length = 16) : Completes (.getPoisonList h p i) s (fun t => ∃ l,
    t = drive (s.mailbox h p 0x4300 { code := 0, payload := l, state := s.drawn }) ∧
    le l 10 2 = ((s.head h).poisonList.filter (fun k => s.acceptedAt h (k * 64) && decide (le i 0 8 / 64 * 64 ≤ k * 64) &&
      decide (k * 64 < le i 0 8 / 64 * 64 + le i 8 8 * 64))).length % 2 ^ 16) := by
  refine completes_of_payload (exec_getPoisonList h p i s) (if_neg (not_not.2 h16)) ?_
  rw [le_append_left (by simp), le_append_left (by simp), le_append_leBytes (by simp)]
  rfl

theorem completes_getDynamicCapacityConfiguration (h2 : i.length = 2) : Completes (.getDynamicCapacityConfiguration h p i) s (fun t => ∃ l,
    t = drive (s.mailbox h p 0x4800 { code := 0, payload := l, state := s.drawn }) ∧
    le l 0 1 = ((List.range 8).filter (fun r => (tfind s.cxl.regions r).isSome)).length % 256) := by
  refine completes_of_payload (exec_getDynamicCapacityConfiguration h p i s) (if_neg (not_not.2 h2)) ?_
  rw [le_append_left (by simp), le_append_left (by simp), le_append_left (by simp), le_append_left (by simp)]
  exact le_append_leBytes (a := []) rfl

theorem completes_getDynamicCapacityExtentList (h8 : i.length = 8) (hl : le i 4 4 ≤ (s.mergedExtents (s.head h).accepted).length) :
    Completes (.getDynamicCapacityExtentList h p i) s (fun t => ∃ l,
      t = drive (s.mailbox h p 0x4801 { code := 0, payload := l, state := s.drawn }) ∧
      le l 4 4 = (s.mergedExtents (s.head h).accepted).length % 2 ^ 32) := by
  refine completes_of_payload (exec_getDynamicCapacityExtentList h p i s) ((if_neg (not_not.2 h8)).trans (if_neg (Nat.not_lt.2 hl))) ?_
  rw [le_append_left (by simp), le_append_left (by simp), le_append_left (by simp), le_append_leBytes (by simp)]
  rfl

section
variable (hu : s.headUp h = true) (h64 : le i 0 8 % 64 = 0) (ha : s.acceptedAt h (le i 0 8) = true)
  (hw : s.writeWaits (s.ext ((s.extentAt (le i 0 8)).getD 0)).part (le i 0 8) 64 = false)
include h64 ha hw

theorem gives_injectPoison (h8 : i.length = 8) : Gives (.injectPoison h true i) s (s.mailbox h true 0x4301
    (((s.headStore h (le i 0 8) (s.freeBytes 64) true).notePoison (le i 0 8)).drawn.answer 0)) := by
  simp only [Gives, exec_injectPoison, execInjectPoison, h64, ha, hw, h8, Bool.and_false, Bool.not_true, Bool.false_eq_true, if_false, ne_eq,
    not_true_eq_false, decide_false, Bool.or_self, done]

theorem gives_clearPoison (h72 : i.length = 72) : Gives (.clearPoison h true i) s (s.mailbox h true 0x4302
    ((s.headStore h (le i 0 8) (i.drop 8) false).answer 0)) := by
  simp only [Gives, exec_clearPoison, execClearPoison, h64, ha, hw, h72, Bool.and_false, Bool.not_true, Bool.false_eq_true, if_false, ne_eq,
    not_true_eq_false, decide_false, Bool.or_self, done]

end

/-! ### Dynamic Capacity -/

section
variable (hf : listWellFormed i = true)
include hf

/-- A response that names offered blocks only: an empty list declines everything that is pending (log entry 24). -/
theorem exec_addDynamicCapacityResponse_offered {l : List Nat}
    (hn : ((listedBlocks i).map (fun b => (s.head h).offered.find? (fun n => (s.ext n).dpaBlk == b))).any (·.isNone) = false)
    (hl : l = ((listedBlocks i).map (fun b => (s.head h).offered.find? (fun n => (s.ext n).dpaBlk == b))).filterMap id) :
    exec (.addDynamicCapacityResponse h p i) s = done (if l = [] then
        s.mailbox h p 0x4802 ((s.modHead h (fun x => { x with offered := [] })).answer 0)
      else s.mailbox h p 0x4802 ((s.modHead h (fun x => { x with
        offered := x.offered.filter (fun n => !l.contains n)
        accepting := x.accepting ++ l.filter (fun n => !x.accepting.contains n) })).answer 0)) := by
  subst hl
  simp only [exec_addDynamicCapacityResponse, execAddDynamicCapacityResponse, hf, hn, Bool.not_true, Bool.false_eq_true, if_false,
    List.isEmpty_iff, ← apply_ite (s.mailbox h p 0x4802)]

theorem gives_releaseDynamicCapacity (hr : ∀ b, b ∈ listedBlocks i → s.regionOf (b * 2 ^ 28) ≠ none) :
    Gives (.releaseDynamicCapacity h p i) s (s.mailbox h p 0x4803 ((s.modHead h (fun x => { x with
      releasing := x.releasing ++ (((s.head h).accepted ++ (s.head h).accepting).filter (fun n => (listedBlocks i).contains (s.ext n).dpaBlk)).filter
        (fun n => !x.releasing.contains n) })).answer 0)) := by
  have hin : (listedBlocks i).any (fun b => (s.regionOf (b * 2 ^ 28)).isNone) = false := by simpa using hr
  simp only [Gives, exec_releaseDynamicCapacity, execReleaseDynamicCapacity, hf, hin, Bool.not_true, Bool.false_eq_true, if_false, done]

end

theorem gives_unsupportedCxlCommand (hn : cxlServed p op = false) :
    Gives (.unsupportedCxlCommand h p op) s (s.mailbox h p op (s.answer rcUnsupported)) := by
  simp only [Gives, exec_unsupportedCxlCommand, execUnsupportedCxlCommand, hn, Bool.false_eq_true, if_false, done]

end

/-- Settles O33. The layouts are those that log entry 23 presumes; that a response with an empty list declines everything that is pending is
the model's choice (log entry 24). -/
theorem cxlMailboxCommandsTakeEffect : Obligations.CxlMailboxCommandsTakeEffect := by
  refine ⟨fun _ _ _ _ _ hu => ⟨mailbox_of_serving hu, fun _ => mailbox_of_refusing hu⟩,
    fun s h p i => gives_of_no_payload (exec_identify h p i s), fun s h p i => gives_of_no_payload (exec_backgroundOperationStatus h p i _),
    fun s h p i => gives_of_no_payload (exec_getSupportedLogs h p i s), fun s h p i => gives_of_no_payload (exec_getEventInterruptPolicy h p i _),
    fun s h p i => gives_of_no_payload (exec_getPartitionInfo h p i s), fun s h p i => gives_of_no_payload (exec_identifyMemoryDevice h p i _),
    fun s h p i => gives_of_no_payload (exec_getTimestamp h p i s), fun _ _ _ _ => gives_getLog,
    fun _ _ _ h8 => ⟨gives_setTimestamp h8, gives_setTimestamp_secondary⟩, fun _ _ _ _ => completes_getEventRecords,
    fun s h l n p i hl h5 hn hlen => ?clear,
    fun _ _ _ _ => gives_setEventInterruptPolicy, fun _ _ _ _ => completes_getPoisonList,
    fun _ _ _ _ h8 h64 ha hw => gives_injectPoison h64 ha hw h8, fun _ _ _ _ h72 h64 ha hw => gives_clearPoison h64 ha hw h72,
    fun _ _ _ => ⟨rfl, rfl⟩, fun _ _ _ _ => completes_getDynamicCapacityConfiguration,
    fun _ _ _ _ => completes_getDynamicCapacityExtentList,
    fun _ _ _ _ hf hn _ hl => ⟨gives_of_if (exec_addDynamicCapacityResponse_offered hf hn hl),
      gives_of_if_not (exec_addDynamicCapacityResponse_offered hf hn hl)⟩,
    fun _ _ _ _ => gives_releaseDynamicCapacity, fun _ _ _ _ => gives_unsupportedCxlCommand⟩
  have hg := gives_clearEventRecords (s := s) (h := h) (p := p) hl h5 hn hlen
  exact ⟨fun ha => by rwa [if_pos ha] at hg,
    fun ha ho => by rwa [if_neg (Bool.eq_false_iff.1 ha), if_neg (by simp [ho])] at hg,
    fun ha ho => by rwa [if_neg (Bool.eq_false_iff.1 ha), if_pos ho] at hg⟩

end Sys2Proof.Proofs

namespace Sys2Proof.Proofs
open Sys2Proof.Machine Sys2Proof.Safety

/-! ### Registers through BAR0

Each register command is an access of BAR0 at an offset of its own. -/

section
variable {s : State} {h : Nat}

theorem sizeOk_of_aligned {off size : Nat} (hsz : size = 8 ∨ size = 4) (h8 : off % 8 = 0) (hlt : off + 8 ≤ 2 ^ 20) :
    sizeOk off size = true := by
  rcases hsz with rfl | rfl <;> simp [sizeOk] <;> omega

theorem write8_door {c v size : Nat} (hc : c < 16384) (hv : v < 2 ^ 32) (hsz : size = 8 ∨ size = 4) :
    s.write8 (doorOffset c) size v = s.writeDoor c v := by
  have hl : doorOffset c % 8 = 0 := by unfold doorOffset; omega
  have hm : v % 2 ^ (8 * size) = v := by
    rcases hsz with rfl | rfl
    · exact Nat.mod_eq_of_lt (hv.trans (by decide))
    · exact Nat.mod_eq_of_lt hv
  rw [State.write8, regAt_door c hc, hl, hm]
  simp only [if_true, Nat.mul_zero, Nat.pow_zero, Nat.mul_one]

section
variable {off size : Nat} (hu : s.headUp h = true)
include hu

theorem gives_rcRegisterRead (hs : sizeOk off size = true) (ha : s.headAllowed h (regAt (off / 8 * 8)) = true) :
    Gives (.rcRegisterRead (.head h) off size) s ((s.read8 off size).2.modHead h (fun x => { x with bar0 := (s.read8 off size).1 })) := by
  rw [Gives, exec_rcRegisterRead, execRcRegisterRead, State.readCmd_head s h off size hu hs ha, done]

theorem gives_registerWrite (v : Nat) (hs : sizeOk off size = true) (ha : s.headAllowed h (regAt (off / 8 * 8)) = true) :
    Gives (.registerWrite (.head h) off size v) s (s.write8 off size v) := by
  rw [Gives, exec_registerWrite, execRegisterWrite, State.writeCmd_head s h off size v hu hs ha, done]

section
variable (hr : sizeOk off size = false ∨ s.headAllowed h (regAt (off / 8 * 8)) = false)
include hr

theorem gives_rcRegisterRead_refused :
    Gives (.rcRegisterRead (.head h) off size) s (s.refuseBar.modHead h (fun x => { x with bar0 := 0 })) := by
  have hr' : (!sizeOk off size || !s.headAllowed h (regAt (off / 8 * 8))) = true := by simpa using hr
  simp only [Gives, exec_rcRegisterRead, execRcRegisterRead, State.readCmd, State.accessorUp, hu, State.regRead, hr', Bool.not_true,
    Bool.false_eq_true, if_false, if_true, done]

theorem gives_registerWrite_refused (v : Nat) : Gives (.registerWrite (.head h) off size v) s s.refuseBar := by
  have hr' : (!sizeOk off size || !s.headAllowed h (regAt (off / 8 * 8))) = true := by simpa using hr
  simp only [Gives, exec_registerWrite, execRegisterWrite, State.writeCmd, State.accessorUp, hu, State.regWrite, hr', Bool.not_true,
    Bool.false_eq_true, if_false, if_true, done]

end

theorem gives_selUnit {v : Nat} (hc : bits v 8 8 ≤ 8) : Gives (.selUnit h 8 v) s { s with hearth := { s.hearth with
    selUnit := v % 256, selClass := bits v 8 8, selGen := (s.hearth.selGen + 1) % 2 ^ 16 } } := by
  have hw : s.write8 0x11000 8 v = s.writeSel (v % 2 ^ 64) := by rw [← Nat.mul_one (v % 2 ^ 64)]; rfl
  have hv : v % 2 ^ 64 % 256 = v % 256 := Nat.mod_mod_of_dvd v (by decide)
  rw [Gives, exec_selUnit, execSelUnit, State.writeCmd_head s h _ _ v hu rfl rfl, hw, State.writeSel, bits_mod v 64 8 8 (by decide), hv,
    if_neg (Nat.not_lt.2 hc), done]

/-! ### Doorbells -/

theorem gives_doorbell {c v : Nat} (hc : c < 16384) (ha : s.headAllowed h (.door c) = true) (hf : (s.ctx c).state ≠ .free) (hv : v < 2 ^ 32)
    (hsz : size = 8 ∨ size = 4) : Gives (.doorbell (.head h) c size v) s (s.ring c v) := by
  have hs : sizeOk (doorOffset c) size = true := sizeOk_of_aligned hsz (by unfold doorOffset; omega) (by unfold doorOffset; omega)
  rw [Gives, exec_doorbell, execDoorbell, State.writeCmd_head s h _ _ v hu hs (by rwa [regAt_door c hc]), write8_door hc hv hsz,
    State.writeDoor, if_neg hf, if_neg (not_not.2 (Nat.div_eq_of_lt hv)), Nat.mod_eq_of_lt hv, done]

/-! ### Mailbox pages -/

section
variable {p : Nat} (h1 : 1 ≤ p) (h64 : p < 64) (ha : s.headAllowed h (.page p 0) = true) (hf : (s.part p).state ≠ .free)
include h1 h64 ha hf

/-- A write of MBX_GO with bit 0 set. -/
theorem writeCmd_go {v : Nat} (hv : v = 1 ∨ v = 3) : s.writeCmd (.head h) (pageOffset p) 8 v = s.go p (bit v 1) := by
  have hr : regAt (pageOffset p / 8 * 8) = .page p 0 := regAt_page p 0 h1 h64 (by decide) rfl
  have hs : sizeOk (pageOffset p) 8 = true := sizeOk_of_aligned (.inl rfl) (by unfold pageOffset; omega) (by unfold pageOffset; omega)
  rw [State.writeCmd_head s h _ _ v hu hs (by rwa [hr])]
  refine (State.write8_page s p 0 v h1 h64 (by decide) rfl).trans ?_
  simp only [State.writePage, if_neg hf]
  rcases hv with rfl | rfl <;> rfl

section
variable (hg : (s.page p).state = 0 ∨ (s.page p).state = 3)
include hg

omit hu h1 h64 ha in
/-- A submission on a page that is not busy (R408, R409). -/
theorem go_idle (indirect : Bool) : s.go p indirect =
    if !indirect then s.submit p false (s.page p).inlineMsg
    else (s.modPage p (fun x => { x with
      state := 1, accepted := false, timedOut := false, status := 0, replyLen := 0, message := [], indirect := true
      bufPsa := x.psa, left := if x.timeout = 0 then none else some x.timeout, due := none, fetch := true })).fetchMsg p := by
  rw [State.go, if_neg hf]
  exact if_neg (by rcases hg with hg | hg <;> simp [hg])

theorem gives_mbxSubmit : Gives (.mbxSubmit (.head h) p) s (s.submit p false (s.page p).inlineMsg) := by
  rw [Gives, exec_mbxSubmit, execMbxSubmit, writeCmd_go hu h1 h64 ha hf (.inl rfl), go_idle hf hg]
  rfl

theorem gives_mbxSubmitIndirect : Gives (.mbxSubmitIndirect (.head h) p) s
    ((s.modPage p (fun x => { x with
      state := 1, accepted := false, timedOut := false, status := 0, replyLen := 0, message := [], indirect := true
      bufPsa := x.psa, left := if x.timeout = 0 then none else some x.timeout, due := none, fetch := true })).fetchMsg p) := by
  rw [Gives, exec_mbxSubmitIndirect, execMbxSubmitIndirect, writeCmd_go hu h1 h64 ha hf (.inr rfl), go_idle hf hg]
  rfl

end

omit hu h1 h64 ha in
/-- A submission on a page that is busy counts as a stray (R409). -/
theorem go_busy (hg : (s.page p).state = 1 ∨ (s.page p).state = 2) (indirect : Bool) :
    s.go p indirect = s.modPage p (fun x => { x with stray := satAdd 32 x.stray 1 }) := by
  rw [State.go, if_neg hf, if_pos (by simpa using hg)]

theorem gives_mbxSubmit_busy (hg : (s.page p).state = 1 ∨ (s.page p).state = 2) :
    Gives (.mbxSubmit (.head h) p) s (s.modPage p (fun x => { x with stray := satAdd 32 x.stray 1 })) ∧
    Gives (.mbxSubmitIndirect (.head h) p) s (s.modPage p (fun x => { x with stray := satAdd 32 x.stray 1 })) := by
  constructor
  · rw [Gives, exec_mbxSubmit, execMbxSubmit, writeCmd_go hu h1 h64 ha hf (.inl rfl), go_busy hf hg, done]
  · rw [Gives, exec_mbxSubmitIndirect, execMbxSubmitIndirect, writeCmd_go hu h1 h64 ha hf (.inr rfl), go_busy hf hg, done]

end

end

end

theorem gives_mailboxTimeout {s : State} {p : Nat} (hl : (s.page p).left = some 0) (hg : (s.page p).state = 1 ∨ (s.page p).state = 2) :
    Gives (.mailboxTimeout p) s (s.timeoutPage p) :=
  gives_of_if (exec_mailboxTimeout p s) (by simpa [hl] using hg)

/-! ### The register bridge -/

section
variable {s : State} {port : Nat} {t : Train}

theorem bridgeDrains_of_empty (hb : s.hearth.bridge = []) (n : Nat) : s.bridgeDrains n = s := by
  cases n with
  | zero => rfl
  | succ n => simp only [State.bridgeDrains, hb]

theorem bridgeServes_read (hop : le t.head 0 1 = 0x01) : s.bridgeServes t =
    if s.regStatus t false = stOk then (s.bridgeReads t).2.send (regAnswer t 0x81 stOk (le t.head 4 4) (s.bridgeReads t).1)
    else (s.noteDenied (s.regStatus t false)).send (regAnswer t 0x81 (s.regStatus t false) 0 []) := by
  simp only [State.bridgeServes, hop, OfNat.one_ne_ofNat, if_false, if_true, ite_not]

theorem bridgeServes_write (hop : le t.head 0 1 = 0x02) : s.bridgeServes t =
    if s.regStatus t true = stOk then (s.bridgeWrites t).send (regAnswer t 0x82 stOk (le t.head 4 4) [])
    else (s.noteDenied (s.regStatus t true)).send (regAnswer t 0x82 (s.regStatus t true) 0 []) := by
  simp only [State.bridgeServes, hop, if_true, ite_not]

section
variable (hq : s.isRegReq t = true)
include hq

theorem exec_regRd_read (hop : le t.head 0 1 = 0x01) : exec (.regRd port t) s = done (s.bridgeAdmits port t) := by
  simp [execRegRd, hq, hop]

theorem exec_regWr_write (hop : le t.head 0 1 = 0x02) : exec (.regWr port t) s = done (s.bridgeAdmits port t) := by
  simp [execRegWr, hq, hop]

end

section
variable (ha : s.admits port t.part = true) (hp : (s.part t.part).state = .active) (hb : s.hearth.bridge = [])
include ha hp hb

/-- With an empty store a request is served at once where its reply can be queued, and else kept. -/
theorem bridgeAdmits_of_empty : s.bridgeAdmits port t =
    if (s.takeTrain port t).bridgeCanReply t = true then (s.takeTrain port t).bridgeServes t
    else { s.takeTrain port t with hearth := { s.hearth with bridge := [(port, t)] } } := by
  have hb' : (s.takeTrain port t).hearth.bridge = [] := hb
  simp only [State.bridgeAdmits, ha, hp, bridgeDrains_of_empty hb', State.bridgeTakes, hb', List.isEmpty_nil, Bool.true_and, List.length_nil,
    Nat.ofNat_pos, if_true, List.nil_append, Bool.not_true, ne_eq, not_true_eq_false, decide_false, Bool.or_self, Bool.false_eq_true, if_false]
  rfl

end

end

/-- Settles O27. That a reply other than OK carries LEN 0, and that a request waits until its whole reply has room, are the model's choice
(log entry 30). -/
theorem registersTakeEffect : Obligations.RegistersTakeEffect := by
  refine ⟨fun s h off size hu hs ha => ⟨gives_rcRegisterRead hu hs ha, fun v => gives_registerWrite hu v hs ha⟩,
    fun s h off size hu hr => ⟨gives_rcRegisterRead_refused hu hr, gives_registerWrite_refused hu hr⟩,
    fun _ _ _ hu => gives_selUnit hu,
    fun s h c v hu hc ha hf hv => ⟨gives_doorbell hu hc ha hf hv (.inl rfl), gives_doorbell hu hc ha hf hv (.inr rfl)⟩,
    fun _ _ _ hu => gives_mbxSubmit hu, fun _ _ _ hu => gives_mbxSubmit_busy hu, fun _ _ _ hu => gives_mbxSubmitIndirect hu,
    fun _ _ => gives_mailboxTimeout,
    fun s port t hq ha hp hb hc => ?served, fun s port t hq ha hp hb hc => ?kept⟩
  case served =>
    have hs := (bridgeAdmits_of_empty ha hp hb).trans (if_pos hc)
    refine ⟨fun hop => ?_, fun hop => ?_⟩
    · have hx := (exec_regRd_read (port := port) hq hop).trans (congrArg done (hs.trans (bridgeServes_read hop)))
      exact ⟨gives_of_if hx, gives_of_if_not hx⟩
    · have hx := (exec_regWr_write (port := port) hq hop).trans (congrArg done (hs.trans (bridgeServes_write hop)))
      exact ⟨gives_of_if hx, gives_of_if_not hx⟩
  case kept =>
    have hs := (bridgeAdmits_of_empty ha hp hb).trans (if_neg (Bool.eq_false_iff.1 hc))
    exact ⟨fun hop => (exec_regRd_read hq hop).trans (congrArg done hs), fun hop => (exec_regWr_write hq hop).trans (congrArg done hs)⟩

end Sys2Proof.Proofs

namespace Sys2Proof.Proofs
open Sys2Proof.Machine Sys2Proof.Safety

/-! ### Starter through BAR0

Claims, completions and configurations are accesses of a target page. -/

theorem modSource_congr {s : State} {k : Nat} {f g : Source → Source} (h : f (s.source k) = g (s.source k)) :
    s.modSource k f = s.modSource k g :=
  congrArg (fun t => ({ s with starter := { s.starter with sources := t } } : State)) (tmod_congr h)

section
variable {s : State} {h t : Nat} (ht : t < 256) (hu : s.headUp h = true)
include ht hu

/-- A write of 8 bytes of a target page that the head may reach. -/
theorem writeCmd_target {o : Nat} (ho : o < 64) (h8 : o % 8 = 0) (ha : s.headAllowed h (.target t o) = true) (v : Nat) :
    s.writeCmd (.head h) (targetOffset t + o) 8 v = s.writeTarget t o 0 8 (v % 2 ^ 64) := by
  have hs : sizeOk (targetOffset t + o) 8 = true :=
    sizeOk_of_aligned (.inl rfl) (by unfold targetOffset; omega) (by unfold targetOffset; omega)
  rw [State.writeCmd_head s h _ _ v hu hs (by rwa [regAt_target t o ht ho h8]), State.write8_target s t o v ht ho h8]

/-- A read of CLAIM gives the host what the target claims. -/
theorem readCmd_claim (ha : s.headAllowed h (.target t 0x10) = true) : s.readCmd (.head h) (targetOffset t + 0x10) 8 =
    (s.claim t).2.modHead h (fun x => { x with bar0 := (s.claim t).1 }) := by
  have hr : regAt ((targetOffset t + 0x10) / 8 * 8) = .target t 0x10 := regAt_target t 0x10 ht (by decide) rfl
  have hs : sizeOk (targetOffset t + 0x10) 8 = true :=
    sizeOk_of_aligned (.inl rfl) (by unfold targetOffset; omega) (by unfold targetOffset; omega)
  rw [State.readCmd_head s h _ _ hu hs (by rwa [hr]), State.read8, hr]
  rfl

theorem gives_claim {k : Nat} (ha : s.headAllowed h (.target t 0x10) = true) (hw : s.winner t = some k) : Gives (.claim (.head h) t) s
    (((s.modSource k (fun x => { x with count := 0, active := some t })).modTarget t (fun x => { x with armed := true })).modHead h (fun x => { x with
      bar0 := k + 2 ^ 12 + (s.source k).count * 2 ^ 16 })) := by
  simp only [Gives, exec_claim, execClaim, readCmd_claim ht hu ha, State.claim, hw, done]

theorem gives_claim_none (ha : s.headAllowed h (.target t 0x10) = true) (hw : s.winner t = none) : Gives (.claim (.head h) t) s
    ((s.modTarget t (fun x => { x with armed := true })).modHead h (fun x => { x with bar0 := 0 })) := by
  simp only [Gives, exec_claim, execClaim, readCmd_claim ht hu ha, State.claim, hw, done]

theorem exec_complete_head {v : Nat} (ha : s.headAllowed h (.target t 0x18) = true) : exec (.complete (.head h) t v) s = done (
    if (s.source (v % 4096)).active = some t then s.modSource (v % 4096) (fun x => { x with active := none }) else s.strayComplete t) := by
  have hv : v % 2 ^ 64 % 4096 = v % 4096 := Nat.mod_mod_of_dvd v (by decide)
  rw [exec_complete, execComplete, writeCmd_target ht hu (by decide) rfl ha, ← hv]
  rfl

section
variable (ha : s.headAllowed h (.target t 0x28) = true)
include ha

theorem exec_srcCfg_head (v : Nat) : exec (.srcCfg (.head h) t v) s = done (s.srcCfg t (setBit v 1 false % 2 ^ 64)) := by
  rw [exec_srcCfg, execSrcCfg, writeCmd_target ht hu (by decide) rfl ha]
  rfl

theorem exec_sourceRelease_head : exec (.sourceRelease (.head h) t) s = done (s.srcCfg t 2) := by
  rw [exec_sourceRelease, execSourceRelease, writeCmd_target ht hu (by decide) rfl ha]
  rfl

end

theorem exec_tgtCtrl_head {v : Nat} (ha : s.headAllowed h (.target t 0) = true) (hv : v < 2 ^ 64) :
    exec (.tgtCtrl (.head h) t v) s = done (s.tgtCtrl t v) := by
  have hw : s.writeTarget t 0 0 8 v = s.tgtCtrl t (leVal (leBytes 8 v)) := by
    have hput : putAt (leBytes 8 (s.target t).ctrl) 0 (leBytes 8 v) = leBytes 8 v := by simp [putAt]
    rw [State.writeTarget, Nat.mul_zero, Nat.pow_zero, Nat.div_one, hput]
  rw [exec_tgtCtrl, execTgtCtrl, ← Nat.add_zero (targetOffset t), writeCmd_target ht hu (by decide) rfl ha, Nat.mod_eq_of_lt hv, hw,
    leVal_leBytes, Nat.mod_eq_of_lt (hv.trans_eq (by decide))]

end

section
variable {s : State} {t : Nat}

theorem srcCfg_refused {v : Nat} (hr : s.mayConfigure t (s.target t).srcSel = false ∨
    ∃ u, (s.source (s.target t).srcSel).active = some u ∧ u ≠ t) : s.srcCfg t v = s.strayComplete t := by
  have hr' : (!s.mayConfigure t (s.target t).srcSel || (s.source (s.target t).srcSel).active.any (· != t)) = true := by
    simpa [Option.any_eq_true] using hr
  simp only [State.srcCfg, hr', if_true]

/-- A configuration of a source that the target may configure and that is not ACTIVE at another. -/
theorem srcCfg_allowed {v : Nat} (hm : s.mayConfigure t (s.target t).srcSel = true)
    (hact : ∀ u, (s.source (s.target t).srcSel).active = some u → u = t) : s.srcCfg t v = s.modSource (s.target t).srcSel (fun x => { x with
      enable := bit v 0, priority := bits v 4 4, target := some t, via := t
      owner := if !claimable (s.target t).srcSel then x.owner else if bit v 1 && x.active.isNone then none else (s.target t).ownerKey }) := by
  have hr : (!s.mayConfigure t (s.target t).srcSel || (s.source (s.target t).srcSel).active.any (· != t)) = false := by
    simpa [hm, Option.any_eq_false] using hact
  simp only [State.srcCfg, hr, Bool.false_eq_true, if_false]

theorem srcCfg_keep {v : Nat} (hv : bit v 1 = false) (hm : s.mayConfigure t (s.target t).srcSel = true)
    (hact : ∀ u, (s.source (s.target t).srcSel).active = some u → u = t) : s.srcCfg t v = s.modSource (s.target t).srcSel (fun x => { x with
      enable := bit v 0, priority := bits v 4 4, target := some t, via := t
      owner := if claimable (s.target t).srcSel then (s.target t).ownerKey else x.owner }) := by
  rw [srcCfg_allowed hm hact]
  cases claimable (s.target t).srcSel <;> simp [hv]

theorem srcCfg_release (hm : s.mayConfigure t (s.target t).srcSel = true) (hn : (s.source (s.target t).srcSel).active = none) :
    s.srcCfg t 2 = s.modSource (s.target t).srcSel (fun x => { x with
      enable := false, priority := 0, target := some t, via := t
      owner := if claimable (s.target t).srcSel then none else x.owner }) := by
  rw [srcCfg_allowed hm (by simp [hn])]
  refine modSource_congr ?_
  rw [hn]
  cases claimable (s.target t).srcSel <;> rfl

theorem setBit_false_of_clear {v i : Nat} (hv : bit v i = false) : setBit v i false = v := by simp [setBit, hv]

theorem tgtCtrl_ok {v : Nat} (hok : s.tgtCtrlOk t v = true) : s.tgtCtrl t v = s.modTarget t (fun x => { x with
    threshold := bits v 0 4, enable := bit v 4, idle := bit v 5, delivery := s.ctrlDelivery t v
    modHeats := bits v 8 8, modCount := bits v 16 8, dest := bits v 32 16 }) := by
  rw [State.tgtCtrl, if_pos hok]

theorem tgtCtrl_refused {v : Nat} (hok : s.tgtCtrlOk t v = false) : s.tgtCtrl t v = s := by
  rw [State.tgtCtrl, if_neg (Bool.eq_false_iff.1 hok)]

/-! ### Deliveries -/

theorem gives_delivery {k : Nat} (hw : s.winner t = some k) (hd : s.deliveryDue t = true) : Gives (.delivery t) s
    (match (s.target t).delivery with
     | 0 => if ((s.modTarget t (fun x => x.delivered s.heat.count)).chooseOut (s.eventCell t k).dst (s.eventCell t k).src (s.eventCell t k).tag).isSome
         then (s.modTarget t (fun x => x.delivered s.heat.count)).send (s.eventCell t k)
         else ((s.modTarget t (fun x => x.delivered s.heat.count)).send (s.eventCell t k)).modTarget t (fun x => { x with lost := satAdd 16 x.lost 1 })
     | 1 => (s.modTarget t (fun x => x.delivered s.heat.count)).msix 0 t
     | _ => (s.modTarget t (fun x => x.delivered s.heat.count)).msix 1 t) := by
  rw [Gives, exec_delivery, execDelivery, hw]
  exact congrArg done (if_neg (by simp [hd]))

theorem gives_redeliver {n k : Nat} (ha : (s.target t).armed = false) (hs : (s.target t).since = some n) (hn : 256 ≤ n) (hw : s.winner t = some k) :
    Gives (.redeliver t) s (s.modTarget t (fun y => { y with armed := true, redeliver := satAdd 16 y.redeliver 1 })) :=
  gives_of_if (exec_redeliver t s) (by simp [ha, hs, hn, hw])

end

/-- A write of BAR2 beyond the MSI-X table changes nothing (R450). -/
theorem bar2Write_beyond {s : State} {h w x : Nat} (hw : 1024 ≤ w) : s.bar2Write h w x = s := by
  rw [State.bar2Write, if_pos hw]

/-- Settles O28. That a write with RELEASE also configures the source (log entry 84), and that MSI_X_UNMASK is an access of one word of BAR2
(log entry 82), are the model's choice. -/
theorem starterTakesEffect : Obligations.StarterTakesEffect := by
  refine ⟨fun _ _ _ => rfl, fun _ _ _ _ ht hu => gives_claim ht hu, fun _ _ _ ht hu => gives_claim_none ht hu,
    fun _ _ _ _ ht hu ha => gives_of_if (exec_complete_head ht hu ha), fun _ _ _ _ ht hu ha => gives_of_if_not (exec_complete_head ht hu ha),
    fun s h t v ht hv hb hu ha hm hact => ?configured, fun s h t v ht hu ha hr => ?stray, fun s h t ht hu ha hm hn => ?released,
    fun s h t v ht hv hu ha => ⟨fun hok => ?refused, fun hok => ?set⟩, fun _ _ _ => gives_delivery, fun _ _ _ _ => gives_redeliver,
    fun _ _ _ => rfl, fun s h v x hv hx hp => ?unmasked, fun s h w x hw hp => ?quiet, fun s h w x hw => ?beyond⟩
  case configured =>
    rw [Gives, exec_srcCfg_head ht hu ha, setBit_false_of_clear hb, Nat.mod_eq_of_lt hv, srcCfg_keep hb hm hact, done]
  case stray => rw [Gives, exec_srcCfg_head ht hu ha, srcCfg_refused hr, done]
  case released => rw [Gives, exec_sourceRelease_head ht hu ha, srcCfg_release hm hn, done]
  case refused => rw [Gives, exec_tgtCtrl_head ht hu ha hv, tgtCtrl_refused hok, done]
  case set => rw [Gives, exec_tgtCtrl_head ht hu ha hv, tgtCtrl_ok hok, done]
  case unmasked => exact congrArg done (State.bar2Write_unmask s h v x hv hx hp)
  case quiet => exact congrArg done (State.bar2Write_quiet s h w x hw hp)
  case beyond => exact congrArg done (bar2Write_beyond hw)

end Sys2Proof.Proofs

namespace Sys2Proof.Proofs
open Sys2Proof.Machine Sys2Proof.Safety

/-! ### Heartbeats and the states of a twin member -/

section
variable {s : State}

theorem gives_heartbeat {port : Nat} {cell : Cell} (hm : s.twinMsg port 0x40 cell = true) : Gives (.heartbeat port cell) s
    (((s.takeCells port 0 [cell]).heartbeatMoves (le cell.payload 1 1)).modTwin (fun t => { t with
      heardThisHeat := true, partnerState := le cell.payload 1 1, lastHeard := le cell.payload 4 6 })) := by
  simp only [Gives, exec_heartbeat, execHeartbeat, hm, Bool.not_true, Bool.false_eq_true, if_false, done]

theorem gives_lostHeats_heard (hh : s.twin.heardThisHeat = true) : Gives .lostHeats s s :=
  gives_of_if (exec_lostHeats s) (by simp [hh])

section
variable (h4 : 4 ≤ s.twin.lost) (hh : s.twin.heardThisHeat = false)
include h4 hh

/-- Four heats without a heartbeat: what becomes of the member depends on its state (R506, R509). -/
theorem exec_lostHeats_silent : exec .lostHeats s = done (match s.twin.state with
    | .primary => s.enterSolo
    | .syncing => s.twinTo .stale
    | .standby => if s.twin.batonIn then s.twinTo .stale else s.takeOver
    | _ => s) :=
  congrArg done (if_neg (by simp [h4, hh]))

theorem gives_lostHeats_primary (hs : s.twin.state = .primary) : Gives .lostHeats s s.enterSolo := by
  rw [Gives, exec_lostHeats_silent h4 hh, hs, done]

theorem gives_lostHeats_syncing (hs : s.twin.state = .syncing) : Gives .lostHeats s (s.twinTo .stale) := by
  rw [Gives, exec_lostHeats_silent h4 hh, hs, done]

theorem exec_lostHeats_standby (hs : s.twin.state = .standby) :
    exec .lostHeats s = done (if s.twin.batonIn = true then s.twinTo .stale else s.takeOver) := by
  rw [exec_lostHeats_silent h4 hh, hs]

end

/-! ### Epochs and copies -/

section
variable {port : Nat} {cell : Cell}

theorem gives_epochBegin (hm : s.twinMsg port 0x41 cell = true) (hs : s.twin.state = .standby) (hu : le cell.payload 8 4 ≤ s.undoFree) :
    Gives (.epochBegin port cell) s
      (let t := (s.takeCells port 0 [cell]).modEpoch (le cell.payload 1 1) (fun e => { e with
        number := le cell.payload 4 4, reserved := le cell.payload 8 4, undo := [], frozen := [] })
       if le cell.payload 8 4 = 0 then t.commitEpoch port (le cell.payload 1 1) else t) := by
  simp only [Gives, exec_epochBegin, execEpochBegin, hm, hs, Nat.not_lt.2 hu, Bool.not_true, Bool.false_eq_true, if_false, ne_eq,
    not_true_eq_false, decide_false, Bool.or_self, done]

theorem gives_epochDone (hm : s.twinMsg port 0x42 cell = true) (hc : (s.epoch (le cell.payload 1 1)).copying = true)
    (hn : (s.epoch (le cell.payload 1 1)).number = le cell.payload 4 4) : Gives (.epochDone port cell) s
      (((s.takeCells port 0 [cell]).modEpoch (le cell.payload 1 1) (fun e => { e with
        committed := e.number, copying := false, frozen := [], reserved := 0 })).releaseHeld.resolve) := by
  simp only [Gives, exec_epochDone, execEpochDone, hm, hc, hn, Bool.not_true, Bool.false_eq_true, if_false, ne_eq, not_true_eq_false,
    decide_false, Bool.or_self, done]

end

section
variable {f g : Nat} (hb : (s.background f).twin = some g) (hg : s.twinGoes f g = true)
include hb hg

theorem gives_twinEpochCopyUnitComplete {found : List Finding} (hr : s.restoring g = false) :
    Gives (.twinEpochCopyUnitComplete { forge := f, found := found }) s
      ((((s.foundAll found).modBackground f (fun b => { b with twin := none })).sendSegment g).modTwin (fun t => { t with
        resync := t.resync.erase g
        epochs := tmap t.epochs (fun _ e => if e.copying then { e with frozen := e.frozen.erase g } else e) })).releaseHeld := by
  simp only [Gives, exec_twinEpochCopyUnitComplete, execTwinEpochCopyUnitComplete, hb, hg, hr, Bool.not_true, Bool.or_self, Bool.false_eq_true,
    if_false, done]

theorem gives_undoRestoreUnitComplete (hr : s.restoring g = true) : Gives (.undoRestoreUnitComplete f) s
    (((s.modBackground f (fun b => { b with twin := none })).wakeUnits (s.unitsHit [(65536 * g, 65536)])).modTwin (fun t =>
      { t with restore := t.restore.erase g })).releaseHeld := by
  simp only [Gives, exec_undoRestoreUnitComplete, execUndoRestoreUnitComplete, hb, hg, hr, Bool.not_true, Bool.or_self, Bool.false_eq_true,
    if_false, done]

end

/-! ### Writes and changes of the primary -/

theorem gives_twinMemWr {port : Nat} {t : Train} (hr : s.isReady = true) (ht : (s.egress port).twin = true) (h7 : t.typ = 0x7) (h1 : t.cls = 1)
    (h0 : t.part = 0) (hop : le t.head 0 1 = 0x02) (hs : s.twin.state = .syncing ∨ s.twin.state = .standby)
    (hf : s.rangeFree (s.partAt (le t.head 8 8 % 2 ^ 44)) (le t.head 8 8 % 2 ^ 44) (le t.head 4 4) = true) : Gives (.twinMemWr port t) s
      (((s.takeTrain port t).twinStore port (le t.head 8 8 % 2 ^ 44) (t.data.take (le t.head 4 4)) (bit (le t.head 1 1) 0)).sendOn port
        (memAnswer t.cell0 0x82 0 stOk (le t.head 4 4) [])) := by
  have hform : (!s.isReady || !(s.egress port).twin || decide (t.typ ≠ 0x7) || decide (t.cls ≠ 1) || decide (t.part ≠ 0) ||
      decide (le t.head 0 1 ≠ 0x02)) = false := by simp [hr, ht, h7, h1, h0, hop]
  have hm : (decide (s.twin.state ≠ .syncing) && decide (s.twin.state ≠ .standby)) = false := by rcases hs with hs | hs <;> simp [hs]
  simp only [Gives, exec_twinMemWr, execTwinMemWr, hform, hm, hf, Bool.not_true, Bool.false_eq_true, if_false, done]

end

/-- Settles O6. That TABLE_STREAM carries the change itself is the model's choice (log entry 53). -/
theorem twinEventsTakeEffect : Obligations.TwinEventsTakeEffect := by
  refine ⟨fun _ _ _ hm => gives_heartbeat hm, fun _ h4 hh => gives_lostHeats_primary h4 hh, fun _ h4 hh => gives_lostHeats_syncing h4 hh,
    fun _ h4 hh hs => gives_of_if (exec_lostHeats_standby h4 hh hs),
    fun _ h4 hh hs hb => gives_of_if_not (exec_lostHeats_standby h4 hh hs) (Bool.eq_false_iff.1 hb),
    fun _ => gives_lostHeats_heard, fun s hs h2 => ?takeover, fun s => gives_of_if (exec_resyncComplete s),
    fun _ _ _ => gives_epochBegin, fun _ _ _ => gives_epochDone, fun _ _ _ _ hb hr hg => gives_twinEpochCopyUnitComplete hb hg hr,
    fun _ _ _ hb hr hg => gives_undoRestoreUnitComplete hb hg hr, fun _ _ _ => gives_twinMemWr, fun s c hc hr hs => ?streamed⟩
  case takeover => exact gives_of_if (exec_takeoverEnd s) (by simp [hs, h2])
  case streamed => exact gives_of_if (exec_tableStream c s) (by simpa [hc, hr] using hs)

end Sys2Proof.Proofs

namespace Sys2Proof.Proofs
open Sys2Proof.Machine Sys2Proof.Safety

/-! ### The Hearth cores -/

section
variable {s : State}

/-- While a core serves, a failure makes a planned switch-over an unplanned one, and else starts one (R397). -/
theorem exec_hearthFailureDetected_serving (hc : s.coresServe = true) : exec .hearthFailureDetected s = done (
    if s.hearth.switching = true then { s with hearth := { s.hearth with planned := false } } else s.beginSwitch false) :=
  congrArg done (if_neg (by simp [hc]))

section
variable (hs : s.hearth.switching = true) (h0 : s.hearth.switchLeft = 0)
include hs h0

theorem gives_hearthSwitchComplete (ho : s.otherStands = true) :
    Gives .hearthSwitchComplete s (s.passRole.evalReplace.deviceEvent 0x087).resolve :=
  congrArg done ((if_neg (by simp [hs, h0])).trans (if_pos ho))

theorem gives_hearthLost (ho : s.otherStands = false) (hp : s.hearth.planned = false) :
    Gives .hearthLost s (({ s.setCore s.hearth.active .failed with
      hearth := { (s.setCore s.hearth.active .failed).hearth with switching := false, lost := true } } : State).deviceEvent 0x087) :=
  gives_of_if_not (exec_hearthLost s) (by simp [hs, h0, ho, hp])

end

/-- The self-test of a core that is in WARM-UP decides whether it goes on to SYNCING (R399). -/
theorem exec_hearthWarmUpEnd_warm {c : Nat} {pass : Bool} (hc : c ≤ 1) (hw : s.core c = .warmUp) : exec (.hearthWarmUpEnd c pass) s = done (
    if pass = true then (s.setCore c .syncing).deviceEvent 0x087 else ((s.setCore c .failed).deviceEvent 0x087).resolve) :=
  congrArg done (if_neg (by simp [hc, hw]))

theorem gives_hearthSyncComplete {c : Nat} (hc : c ≤ 1) (hw : s.core c = .syncing) (hl : s.coreless = false) (hn : c ∉ s.hearth.synced) :
    Gives (.hearthSyncComplete c) s { s with hearth := { s.hearth with synced := addSorted c s.hearth.synced } } :=
  gives_of_if_not (exec_hearthSyncComplete c s) (by simp [hc, hw, hl, hn])

theorem gives_standbyFailureDetected (hc : s.coresServe = true) (ho : s.otherStands = true) :
    Gives .standbyFailureDetected s (((s.setCore (1 - s.hearth.active) .failed).evalReplace).deviceEvent 0x087) :=
  gives_of_if_not (exec_standbyFailureDetected s) (by simp [hc, ho])

/-! ### Bindings -/

theorem gives_fmChallengeExpiry {ch : Chan} {n : List Byte} (hn : (s.chan ch).nonce = some (n, 0)) :
    Gives (.fmChallengeExpiry ch) s (s.modChan ch (fun c => { c with nonce := none, bindPart := none })) :=
  gives_of_if (exec_fmChallengeExpiry ch s) (by simp [hn])

theorem gives_i3cBusReset {r : Nat} (hb : s.hearth.binding = some (.sideband r)) :
    Gives .i3cBusReset s { s with hearth := { s.hearth with binding := none } } := by
  simp only [Gives, exec_i3cBusReset, execI3cBusReset, hb, done]

/-! ### The random generator -/

section
variable (hd : s.sec.drbgStopped = false)
include hd

theorem gives_drbgReseed (hr : s.sec.reseedDue = true) :
    Gives .drbgReseed s { s with sec := { s.sec with reseedDue := false, reseeds := s.sec.reseeds + 1 } } :=
  gives_of_if_not (exec_drbgReseed s) (by simp [hr, hd])

theorem gives_drbgHealthFailure (hp : s.pins.pwrok = true) :
    Gives .drbgHealthFailure s (({ s with sec := { s.sec with drbgStopped := true } } : State).deviceEvent 0x082).dropKeying :=
  gives_of_if_not (exec_drbgHealthFailure s) (by simp [hp, hd])

/-- The DRBG is reseeded before it draws the scrub key (R463, R464). -/
theorem gives_scrubKeyReplace (hk : s.sec.scrubKeyDue = true) : Gives .scrubKeyReplace s { s with sec := { s.sec with
    scrubKeyDue := false, scrubKeys := s.sec.scrubKeys + 1, reseeds := s.sec.reseeds + 1, draws := s.sec.draws + 1
    memKeys := tins s.sec.memKeys 64 (fit 64 (Config.drbg s.sec.draws 64)) } } :=
  gives_of_if_not (exec_scrubKeyReplace s) (by simp [hk, hd])

end

end

/-- Settles O29. -/
theorem hearthAndSecurityEventsTakeEffect : Obligations.HearthAndSecurityEventsTakeEffect :=
  ⟨fun _ hc hs => gives_of_if_not (exec_hearthFailureDetected_serving hc) (Bool.eq_false_iff.1 hs),
    fun _ hc hs => gives_of_if (exec_hearthFailureDetected_serving hc) hs,
    fun _ hs h0 => gives_hearthSwitchComplete hs h0, fun _ hs h0 => gives_hearthLost hs h0,
    fun _ _ hc hw => ⟨gives_of_if (exec_hearthWarmUpEnd_warm hc hw) rfl, gives_of_if_not (exec_hearthWarmUpEnd_warm hc hw) Bool.false_ne_true⟩,
    fun _ _ hc hw => gives_hearthSyncComplete hc hw, fun _ hc => gives_standbyFailureDetected hc,
    fun _ _ _ => gives_fmChallengeExpiry, fun _ _ => gives_i3cBusReset,
    fun _ hr hd => gives_drbgReseed hd hr, fun _ hp hd => gives_drbgHealthFailure hd hp, fun _ hk hd => gives_scrubKeyReplace hd hk⟩

end Sys2Proof.Proofs

namespace Sys2Proof.Proofs
open Sys2Proof.Machine Sys2Proof.Safety

/-! ### Readings -/

section
variable {s : State} {mv a w e : Nat}

theorem exec_avsReading_ready (hr : s.isReady = true) : exec (.avsReading mv a w e) s = done (
    if (s.bellows.compare (mv * a / 1000 + w) e).divergence = true ∧ s.bellows.divergence = false then
      (s.modBellows (fun b => { b.compare (mv * a / 1000 + w) e with coreAmps := a, reportedMv := mv })).deviceEvent 0x088
    else s.modBellows (fun b => { b.compare (mv * a / 1000 + w) e with coreAmps := a, reportedMv := mv })) := by
  simp only [exec_avsReading, execAvsReading, hr, Bool.not_true, Bool.false_eq_true, if_false, Bool.and_eq_true, Bool.not_eq_true',
    State.modBellows_bellows]

/-- The sixteenth difference in a row above 12 % of the limit begins DIVERGENCE (R490). -/
theorem compare_begins_divergence {b : Bellows} (r e : Nat) (hb : b.divergence = false) :
    (b.compare r e).divergence = true ↔ 12 * b.limit < 100 * ((r - e) + (e - r)) ∧ 15 ≤ b.overRun := by
  simp only [Bellows.compare, hb, Bool.false_eq_true, if_false, decide_eq_true_eq]
  split <;> omega

/-- The 256th difference in a row within 6 % of the limit ends it (R490). -/
theorem compare_ends_divergence {b : Bellows} (r e : Nat) (hb : b.divergence = true) :
    (b.compare r e).divergence = false ↔ 100 * ((r - e) + (e - r)) ≤ 6 * b.limit ∧ 255 ≤ b.underRun := by
  simp only [Bellows.compare, hb, if_true, decide_eq_false_iff_not]
  split <;> omega

theorem gives_avsReadingMissing (hr : s.isReady = true) (hm : s.bellows.missing = false) (h29 : 29 ≤ s.bellows.readAge) :
    Gives .avsReadingMissing s { s with bellows := { s.bellows with missing := true, missingCount := satAdd 16 s.bellows.missingCount 1 } } :=
  gives_of_if_not (exec_avsReadingMissing s) (by simp [hr, hm, h29])

/-! ### Droop, voltages and holds -/

theorem gives_droopStretchEnd {ns : Nat} (hs : s.bellows.stretched = true) : Gives (.droopStretchEnd ns) s
    ((s.modBellows (fun b => { b with stretched := false, stretchNs := b.stretchNs + ns })).modReason 5 (fun x => x.addNs ns)) :=
  gives_of_if_not (exec_droopStretchEnd ns s) (by simp [hs])

/-- An entry of a table that lists the numbers below `n`. -/
theorem tfind_map_range {α : Type} (f : Nat → α) {n k : Nat} (hk : k < n) : tfind ((List.range n).map (fun i => (i, f i))) k = some (f k) := by
  have h (l : List Nat) (hl : k ∈ l) : tfind (l.map (fun i => (i, f i))) k = some (f k) := by
    induction l with
    | nil => cases hl
    | cons i l ih =>
      rw [List.map_cons, tfind]
      split
      · next hi => rw [hi]
      · next hi => exact ih ((List.mem_cons.1 hl).resolve_left (Ne.symm hi))
  exact h _ (List.mem_range.2 hk)

theorem completes_voltageAdjust {up down : Nat} (hd : s.bellows.adjustDue = true) : Completes (.voltageAdjust up down) s (fun t =>
    (∀ k, k < 6 → t.bellows.mvOf k =
      if bit up k then min 850 (s.bellows.mvOf k + 5) else if bit down k then max 650 (s.bellows.mvOf k - 5) else s.bellows.mvOf k) ∧
    t.bellows.setMv = t.bellows.mvOf (s.bellows.wanted.getD s.bellows.step) ∧
    { t.bellows with stepMv := s.bellows.stepMv, setMv := s.bellows.setMv, adjustDue := true } = s.bellows ∧
    { t with bellows := s.bellows, pins := s.pins } = s) := by
  refine ⟨_, congrArg done (if_neg (by simp [hd])), fun k hk => ?_, rfl, ?_, rfl⟩
  · exact congrArg (Option.getD · 750) (tfind_map_range _ hk)
  · rw [← hd]
    rfl

theorem gives_throttleHoldExpiry : Gives .throttleHoldExpiry s { s with bellows := { s.bellows with reasons := tmap s.bellows.reasons (fun r x =>
    if r < 8 ∧ x.live = true ∧ holdHeats r ≤ x.quiet then { x with live := false, quiet := 0 } else x) } } := by
  simp only [Gives, exec_throttleHoldExpiry, execThrottleHoldExpiry, Bool.and_eq_true, decide_eq_true_eq, and_assoc, done]
  rfl

theorem gives_loadStepSlot {x : HeldChange} {r : List HeldChange} (hh : s.bellows.held = x :: r) : Gives .loadStepSlot s
    ((((s.modBellows (fun b => { b with held := r, enable := setBit b.enable x.anvil x.start })).drawn).modReason 6
      (fun y => y.addNs (Config.freeValue s.free % 2048))).followRoster x.anvil) := by
  simp only [Gives, exec_loadStepSlot, execLoadStepSlot, hh, done]

/-! ### The coolant stop -/

theorem coolantLow_of_booted (h4 : 4 ≤ s.boot.step) (hs : s.coolantStop = false) :
    s.coolantLow = s.modBellows (fun b => { b with coolantNext := true }) := if_pos (by simp [h4, hs])

theorem coolantLow_of_booting (h4 : s.boot.step < 4) : s.coolantLow = s := if_neg (by simp [h4])

theorem gives_thermtrip (hp : s.pins.pwrok = true) :
    Gives .thermtrip s (({ s with pins := { s.pins with tripped := true } } : State).coolantLow) :=
  gives_of_if (exec_thermtrip s) hp

theorem gives_coolantStopCclkStep (hs : s.coolantStop = true) (hf : s.bellows.cclkFalls = true) : Gives .coolantStopCclkStep s
    { s with bellows := { s.bellows with
      step := s.bellows.step + 1, cclkFalls := false, wanted := none, setMv := s.bellows.mvOf (s.bellows.step + 1) } } :=
  gives_of_if (exec_coolantStopCclkStep s) (by simp [hs, hf])

theorem gives_coolantStopSelfRefresh {n : Nat} (hc : s.bellows.coolant = some n) (h7 : 7 ≤ n) : Gives .coolantStopSelfRefresh s
    { s with dram := { s.dram with units := tmap s.dram.units (fun _ u =>
      if u.state = .absent then u else { u with power := .selfRefresh, postponed := 0, refreshing := false, scrubbed := none }) } } :=
  gives_of_if_not (exec_coolantStopSelfRefresh s) (by simp [hc, h7])

end

/-- Settles O30. That a missing reading counts once, after 29 boundaries (log entry 54), and the order of the governor's changes (log entry 62)
are the model's choice. -/
theorem bellowsTakesEffect : Obligations.BellowsTakesEffect := by
  refine ⟨fun s mv a w e hr => ⟨fun hno => ?steady, fun hd hb => gives_of_if (exec_avsReading_ready hr) ⟨hd, hb⟩⟩,
    fun b r e => ⟨rfl, rfl, compare_begins_divergence r e, compare_ends_divergence r e⟩, fun _ hr hm => gives_avsReadingMissing hr hm,
    fun s => gives_of_if (exec_sustainedBlockEnd s), fun s => gives_of_if (exec_droopDetect s), fun _ _ => gives_droopStretchEnd,
    fun _ _ _ => completes_voltageAdjust, fun _ _ => rfl, fun _ => gives_throttleHoldExpiry, fun _ _ _ => gives_loadStepSlot,
    fun s => gives_of_if (exec_pwrBrakeNLow s), fun s h4 hs => ⟨?cooling, fun hp => ?tripped⟩, fun s h4 => ⟨?noted, fun hp => ?latched⟩,
    fun _ hs => gives_coolantStopCclkStep hs, fun s hl => ?idle, fun _ _ hc => gives_coolantStopSelfRefresh hc⟩
  case steady =>
    refine gives_of_if_not (exec_avsReading_ready hr) fun ⟨hd, hb⟩ => ?_
    simp [hd, hb] at hno
  case cooling => exact congrArg done (coolantLow_of_booted (s := { s with pins := { s.pins with coolantOk := false } }) h4 hs)
  case tripped =>
    have h := gives_thermtrip hp
    rwa [coolantLow_of_booted (s := { s with pins := { s.pins with tripped := true } }) h4 hs] at h
  case noted => exact congrArg done (coolantLow_of_booting (s := { s with pins := { s.pins with coolantOk := false } }) h4)
  case latched =>
    have h := gives_thermtrip hp
    rwa [coolantLow_of_booting (s := { s with pins := { s.pins with tripped := true } }) h4] at h
  case idle => exact gives_of_if_not (exec_coolantStopLinkIdle s) (by simp [hl])

end Sys2Proof.Proofs

namespace Sys2Proof.Proofs
open Sys2Proof.Machine Sys2Proof.Safety

/-! ### Power and the reset inputs -/

section
variable {s : State}

theorem gives_pwrokRise {r c : Bool} (hp : s.pins.pwrok = false) : Gives (.pwrokRise r c) s { s with
    pins := { s.pins with pwrok := true, sysRstN := r, coolantOk := c }, boot := { s.boot with step := if r then 1 else 0, cold := true } } :=
  gives_of_if_not (exec_pwrokRise r c s) (by simp [hp])

/-- SYS_RST_N falls: a warm reset after a first READY, and a cold one before it (R536, R540). -/
theorem exec_sysRstNLow_powered (hp : s.pins.pwrok = true) (hr : s.pins.sysRstN = true) : exec .sysRstNLow s = done (
    if s.boot.wasReady = true then s.enterWarm
    else { s.unpowered with
      pins := { s.unpowered.pins with pwrok := true, sysRstN := false, tripped := s.pins.tripped }
      boot := { s.unpowered.boot with batonLow := true } }) :=
  congrArg done (if_neg (by simp [hp, hr]))

theorem gives_sysRstNRise {c : Bool} (hp : s.pins.pwrok = true) (hr : s.pins.sysRstN = false) : Gives (.sysRstNRise c) s { s with
    pins := { s.pins with sysRstN := true, coolantOk := c }, boot := { s.boot with step := if s.boot.flushing then 0 else 1 } } :=
  gives_of_if_not (exec_sysRstNRise c s) (by simp [hp, hr])

theorem gives_warmResetFlushComplete (hf : s.boot.flushing = true) : Gives .warmResetFlushComplete s { s.flushed.restUnits.keepTables with
    starter := Starter.reset
    boot := { s.flushed.restUnits.keepTables.boot with
      flushing := false, step := if s.flushed.restUnits.keepTables.pins.sysRstN then 1 else 0 } } :=
  gives_of_if_not (exec_warmResetFlushComplete s) (by simp [hf])

/-! ### The boot ROM -/

/-- The ROM derives the identity from the secret, and stays in recovery where the record fails its checks (R456, R458, R459). -/
theorem sec_romStarted (k : List Byte) {f : Flash} (hf : f = s.sec.flash.takeStaged (s.boot.cold || s.sec.recovery)) :
    (s.romStarted k).sec = { s.sec with
      romVersion := Config.romVersion, identitySecret := s.pufSecret k, publicKey := identityKey (s.pufSecret k)
      identityHash := sha256 (identityKey (s.pufSecret k))
      identityFailed := identityKey (s.pufSecret k) != fit 32 (Config.certificateKey s.sec.flash.chain)
      flash := f, recovery := !configChecks (f.object 3) 0, reseeds := s.sec.reseeds + 1
      config := if configChecks (f.object 3) 0 then cfgRecordOf (bread (f.object 3) 0 4096) else s.sec.config } := by
  subst hf
  simp only [State.romStarted, State.toRecovery, apply_ite State.sec, Laws.deviceEvent_sec, ite_self]
  cases configChecks ((s.sec.flash.takeStaged (s.boot.cold || s.sec.recovery)).object 3) 0 <;> rfl

theorem boot_romStarted (k : List Byte) : (s.romStarted k).boot = { s.boot with step := 2 } := by
  simp [State.romStarted, State.toRecovery, apply_ite State.boot]

theorem gives_floorRecord {f c : Nat} (h2 : s.boot.step = 2) (hf : s.sec.floorSeen = false) (hr : s.sec.recovery = false) :
    Gives (.floorRecord s.sec.config.sbVendorId 0xF1 f c) s { s with sec := { s.sec with
      fwFloor := f % 2 ^ 32, cfgFloor := c % 2 ^ 32, floorAbsent := false, floorSeen := true } } :=
  gives_of_if_not (exec_floorRecord _ _ f c s) (by simp [h2, hf, hr])

theorem gives_floorWaitExpiry (h2 : s.boot.step = 2) (hf : s.sec.floorSeen = false) (hr : s.sec.recovery = false) :
    Gives .floorWaitExpiry s { s with sec := { s.sec with fwFloor := 0, cfgFloor := 0, floorAbsent := true, floorSeen := true } } :=
  gives_of_if_not (exec_floorWaitExpiry s) (by simp [h2, hf, hr])

section
variable (h2 : s.boot.step = 2) (hf : s.sec.floorSeen = true) (hr : s.sec.recovery = false)
include h2 hf hr

/-- With the floors in, the record and the image decide on the boot (R454–R457). -/
theorem exec_romChecksComplete_floors : exec .romChecksComplete s = done (if s.sec.config.version < s.sec.cfgFloor then s.toRecovery
    else match s.bootImage with
      | none => s.toRecovery
      | some k => s.measured k) :=
  congrArg done (if_neg (by simp [h2, hf, hr]))

theorem gives_romChecksComplete {k : Nat} (hv : s.sec.cfgFloor ≤ s.sec.config.version) (hk : s.bootImage = some k) :
    Gives .romChecksComplete s (s.measured k) := by
  rw [Gives, exec_romChecksComplete_floors h2 hf hr, if_neg (Nat.not_lt.2 hv), hk, done]

theorem gives_romChecksComplete_recovery (hn : s.sec.config.version < s.sec.cfgFloor ∨ s.bootImage = none) :
    Gives .romChecksComplete s s.toRecovery := by
  rw [Gives, exec_romChecksComplete_floors h2 hf hr]
  split
  · rfl
  · next hv => rw [hn.resolve_left hv, done]

end

/-! ### Self-test and training -/

theorem gives_sramSelfTestComplete {a b : Bool} (h3 : s.boot.step = 3) (hh : s.boot.held = false) (hr : s.sec.recovery = false) :
    Gives (.sramSelfTestComplete a b) s (s.coresTested a b).leaveSelfTest :=
  gives_of_if_not (exec_sramSelfTestComplete a b s) (by simp [h3, hh, hr])

/-- Core 0 is the active core after every boot that it passes (log entry 48). -/
theorem hearth_coresTested_core0 (b : Bool) :
    (s.coresTested true b).hearth.active = 0 ∧ (s.coresTested true b).hearth.core0 = .active := by
  simp [State.coresTested, bootCore, apply_ite State.hearth]

theorem hearth_coresTested_core1 :
    (s.coresTested false true).hearth.active = 1 ∧ (s.coresTested false true).hearth.core1 = .active := by
  simp [State.coresTested, bootCore, apply_ite State.hearth]

theorem lost_coresTested_none : (s.coresTested false false).hearth.lost = true := by
  simp [State.coresTested, bootCore]

theorem gives_bootResume (hh : s.boot.held = true) (ht : s.pins.tripped = false) : Gives .bootResume s { s with
    pins := { s.pins with coolantOk := true }, boot := { s.boot with step := 4, held := false } } :=
  congrArg done ((if_pos (by simp [hh, ht])).trans (if_pos (by simp [ht])))

section
variable {h : List StackFound} {d : List BulkFound} (h4 : s.boot.step = 4) (hr : s.sec.recovery = false)
include h4 hr

theorem exec_memoryTrainingComplete_step4 : exec (.memoryTrainingComplete h d) s = done (
    if (s.boot.cold && !s.stacksFound h) = true then s.toRecovery
    else { (if s.boot.cold then s.trainCold h d else s.trainWarm h d).linksStart with
      boot := { (if s.boot.cold then s.trainCold h d else s.trainWarm h d).linksStart.boot with step := 5 } }) :=
  congrArg done (if_neg (by simp [h4, hr]))

theorem gives_memoryTrainingComplete_cold (hc : s.boot.cold = true) (hs : s.stacksFound h = true) :
    Gives (.memoryTrainingComplete h d) s { (s.trainCold h d).linksStart with boot := { (s.trainCold h d).linksStart.boot with step := 5 } } := by
  have hg := gives_of_if_not (exec_memoryTrainingComplete_step4 (h := h) (d := d) h4 hr) (by simp [hs])
  rwa [if_pos hc] at hg

theorem gives_memoryTrainingComplete_recovery (hc : s.boot.cold = true) (hs : s.stacksFound h = false) :
    Gives (.memoryTrainingComplete h d) s s.toRecovery :=
  gives_of_if (exec_memoryTrainingComplete_step4 h4 hr) (by simp [hc, hs])

theorem gives_memoryTrainingComplete_warm (hc : s.boot.cold = false) :
    Gives (.memoryTrainingComplete h d) s { (s.trainWarm h d).linksStart with boot := { (s.trainWarm h d).linksStart.boot with step := 5 } } := by
  have hg := gives_of_if_not (exec_memoryTrainingComplete_step4 (h := h) (d := d) h4 hr) (by simp [hc])
  rwa [if_neg (Bool.eq_false_iff.1 hc)] at hg

end

/-! ### Initialisation and READY -/

theorem gives_memoryInitialisationComplete {a c e : Nat} (h5 : s.boot.step = 5) (hc : s.boot.cold = true) (hr : s.sec.recovery = false) :
    Gives (.memoryInitialisationComplete a c e) s (s.memoryReady a c e) :=
  gives_of_if_not (exec_memoryInitialisationComplete a c e s) (by simp [h5, hc, hr])

theorem gives_heatStart (hr : s.sec.recovery = false) (hb : s.boot.step = 6 ∨ (s.boot.step = 5 ∧ s.boot.cold = false)) :
    Gives .heatStart s (State.abortedSteps { s with
      heat := { s.heat with running := true }, boot := { s.boot with step := 7, wasReady := true, first := true } }) :=
  gives_of_if_not (exec_heatStart s) (by simpa [hr, or_iff_not_imp_left] using hb)

end

/-- Settles O31. That core 0 is active after every boot that it passes, and that a record is checked without a floor, are the model's choice
(log entry 48). -/
theorem bootTakesEffect : Obligations.BootTakesEffect := by
  refine ⟨fun s => gives_of_if (exec_pwrokFall s), fun _ _ _ => gives_pwrokRise,
    fun _ hp hr => ⟨gives_of_if (exec_sysRstNLow_powered hp hr), fun hw => gives_of_if_not (exec_sysRstNLow_powered hp hr) (Bool.eq_false_iff.1 hw)⟩,
    fun _ => rfl, fun _ _ => gives_sysRstNRise, fun _ => gives_warmResetFlushComplete,
    fun s k h1 => gives_of_if_not (exec_romStart k s) (not_not.2 h1), fun s k => ?identity,
    fun _ _ _ h2 hf hr => ⟨gives_floorRecord h2 hf hr, gives_floorWaitExpiry h2 hf hr⟩,
    fun _ h2 hf hr => ⟨fun _ => gives_romChecksComplete h2 hf hr, gives_romChecksComplete_recovery h2 hf hr⟩,
    fun _ _ _ => gives_sramSelfTestComplete, fun _ => hearth_coresTested_core0,
    fun _ => ⟨hearth_coresTested_core1.1, hearth_coresTested_core1.2, lost_coresTested_none⟩, fun _ => gives_bootResume,
    fun _ _ _ h4 hr => ⟨gives_memoryTrainingComplete_cold h4 hr, gives_memoryTrainingComplete_recovery h4 hr,
      gives_memoryTrainingComplete_warm h4 hr⟩,
    fun _ _ _ _ h5 hc hr => ⟨gives_memoryInitialisationComplete h5 hc hr, rfl⟩, fun _ => gives_heatStart⟩
  case identity =>
    rw [boot_romStarted, sec_romStarted k rfl]
    exact ⟨rfl, rfl, rfl, rfl, Bool.not_eq_eq_eq_not⟩

end Sys2Proof.Proofs
